-- ==== Sys2Proof/Word.lean ====
section
/-! DEFINITION. Word types and the sparse map type used all over the model (guide: types).
Addresses, counts and indexes are natural numbers; what the manual treats as bits is a bit vector. -/

namespace Sys2Proof

/-- One byte of a store (R4: multi-byte fields are little-endian). -/
abbrev Byte := BitVec 8
/-- A 32-bit word: an element of a vector register, an instruction word. -/
abbrev W32 := BitVec 32
/-- A 64-bit word: a set-up register, a scalar register, a descriptor word. -/
abbrev W64 := BitVec 64

/-- A sparse map from a natural key to a value: a list of pairs, keys strictly rising, holding no
entry equal to what an unlisted key reads as (that reading is given to each operation). -/
abbrev Sparse (α : Type) := List (Nat × α)

end Sys2Proof

namespace Sys2Proof.Machine

/-- A store with its memory code (R238 to R243): the bytes, and per codeword (keyed by the address of
its first byte) the difference between the check bytes held and the correct ones; an unlisted
codeword is a clean one, an unlisted byte reads as zero. -/
structure Store where
  bytes : Sparse Byte
  chk   : Sparse W32
  deriving DecidableEq, Repr

end Sys2Proof.Machine
end

