-- ==== Sys2Proof/Syntax.lean ====
section
/-! DEFINITION. The commands of the block: operand types, then the one inductive `Instr` with a constructor per row
of the opcode table. What comes from outside the block (host memory, other packages, sensors, images) is an operand. -/

namespace Sys2Proof

/-- The kinds of unit that hold set-up fields and take part in a commit, each with its unit lull (R22, R271, R466). -/
inductive UnitKind where
  | matrix | vector | sequencer | clusterDma | baseDma | update | collective | port | hostPort
  | dispatcher | timeUnit | memCtl | collector | complex
  deriving DecidableEq, Repr

/-- A unit by kind and number (R10): matrix engine 4 × core + engine, cluster-DMA channel 16 × cluster + channel,
dispatcher 0 to 31 by cluster and 32 to 35 by base die. -/
structure UnitId where
  kind : UnitKind
  ix   : Nat
  deriving DecidableEq, Repr

/-- The source fields of a fault message (R446): the unit that detected the fault. -/
structure Src where
  level   : Nat
  die     : Nat
  cluster : Nat
  core    : Nat
  unit    : Nat
  deriving DecidableEq, Repr

/-- A hard fault of a die (R17, R217, R454, R457): a compute die's, or that of a unit that no fence takes out, such as a crossbar, an HBM
controller or an update unit. -/
inductive DieFault where
  | compute (d : Fin 4)
  | base (unit : Src)
  deriving DecidableEq, Repr

/-- A fault of a cluster: a hard one of its store or port (R456), or a corrected error at its port, with the message's argument (R141, R448). -/
inductive ClusterFault where
  | hard (unit : Fin 4) (arg : BitVec 48)
  | corrected (arg : BitVec 48)
  deriving DecidableEq, Repr

/-- What asked for a warm package reset (R479, R507). -/
inductive ResetBy where
  | register | flr | pldm | tamper
  deriving DecidableEq, Repr

/-- The two sides of a lateral link: `lo` is the lower-numbered base die (R492). -/
inductive Side where
  | lo | hi
  deriving DecidableEq, Repr

/-- The execution resources that submission queues feed (R301). -/
inductive Resource where
  | lead | dispatchers | dma (d : Fin 4) | engines
  deriving DecidableEq, Repr

/-- A host write to the MSI-X table, mask bit or address and data, or to the function mask (R302). -/
inductive MaskOp where
  | vector (v : Fin 2048) (masked : Bool)
  | entry (v : Fin 2048) (addr : BitVec 64) (data : BitVec 32)
  | function (masked : Bool)
  deriving DecidableEq, Repr

/-- A DMA channel: of a cluster, of a base die, or a DMA submission queue's chain (R144, R296, R347). -/
inductive ChanId where
  | cluster (k : Fin 32) (ch : Fin 16)
  | base (d : Fin 4) (ch : Fin 16)
  | queue (q : Fin 32768)
  deriving DecidableEq, Repr

/-- What a dispatcher releases or completes: the next instance of a timetable entry, or an accepted one-off entry (R353, R368). -/
inductive Rel where
  | entry (brz : Bool) (i : Nat)
  | one (id : Nat)
  deriving DecidableEq, Repr

/-- A submission entry that its executor starts (R295): queue, cid, quiet flag, the body at 0x08 to 0x3F. -/
structure SubEntry where
  q     : Fin 32768
  cid   : BitVec 16
  quiet : Bool
  body  : List Byte
  deriving DecidableEq, Repr

/-- A submission entry with what host memory holds from the address of its buffer on (R308). -/
structure BufEntry where
  entry : SubEntry
  host  : List Byte
  deriving DecidableEq, Repr

/-- A unit that breeze work holds and must yield (R363): a core, a DMA channel (16 × cluster + channel, from
512 on 16 × base die + channel), a base die's update unit. -/
inductive YieldUnit where
  | core (c : Fin 512)
  | dma (h : Fin 576)
  | update (d : Fin 4)
  deriving DecidableEq, Repr

/-- What another member contributes to a rendezvous (R420, R433, R462): its package, signature, member count, group sequence number,
local error code (0 none), entry time, blocks of its lower chunk, its non-finite flag, its vote request. -/
structure Contrib where
  pkg    : Fin 8192
  sig    : W64
  n      : Nat
  seq    : Fin 65536
  err    : Fin 256
  time   : Nat
  blocks : Nat
  flag   : Bool
  vote   : Bool
  deriving DecidableEq, Repr

/-- A member's data in an operation: element bytes and scale codes. -/
abbrev Part := List Byte × List Byte

/-- Another member's share of a digest vote: its package, its package digest, the packages of its norm group (R225, R331). -/
structure Ballot where
  pkg    : Nat
  digest : List Byte
  unit   : List Nat
  deriving DecidableEq, Repr

/-- The two halves of a close (R327): what the other packages contribute to the reductions before the decision (combined statistics
records, close error, the sums L and H of the others of the norm group); what the replica group contributes to the vote at the end. -/
inductive ClosePart where
  | decide (rest : List Byte) (err : Bool) (lo hi : Nat)
  | finish (votes : List Ballot)
  deriving DecidableEq, Repr

/-- An admission at a close (R332): the packages of the unit; for a newcomer, the source, its step counter, the time zero of the
foreground timetable, and per descriptor (unit, descriptor) the arrays of R215 as copied. -/
structure Admission where
  unit   : List Nat
  src    : Nat
  step   : W64
  t0     : Nat
  copies : List (Nat × Nat × List (List Byte))
  deriving DecidableEq, Repr

/-- What other members send here in a round of PERMUTE: offsets and bytes. -/
abbrev Moves := List (Nat × List Byte)

/-- Where a collective comes from (R415): a timetable instance that is released, with the cause of its lateness, or a queue entry. -/
inductive CollFrom where
  | rel (r : Rel) (cause : Fin 6)
  | queued (op : Fin 256) (e : SubEntry)
  deriving DecidableEq, Repr

/-- What UNFENCE finds (R322, R471, R472): whether the unit's self-test passes, a compute die's repeated capability bitmap, the widths to
which the sides of a lateral module train (0 none, 1 x32, 2 x64). -/
structure UnitTest where
  ok  : Bool
  cap : W64
  lo  : Fin 3
  hi  : Fin 3
  deriving DecidableEq, Repr

/-- How a security operation ends (R509): on its own, by a lead change, by a reset that comes while it runs, before or after a
transfer has burnt the slot's hash. -/
inductive SecEnd where
  | done | leadChange | reset (burnt : Bool)
  deriving DecidableEq, Repr

/-- The IDE_KM messages (R503): a query, keys programmed, the stream started. -/
inductive IdeOp where
  | query | program | go
  deriving DecidableEq, Repr

/-- What a bring-up finds (R25, R455, R468, R469, R487, R497): a fuse mismatch, the capability bitmaps of compute dies 0 to 3 and base
dies 0 to 3, their stepping codes, the pairs whose UCIe-3D interface trained, the complexes, cores, clusters and compute dies that
failed self-test, the milliseconds it took. -/
structure BringUp where
  fuseBad   : Bool
  caps      : List W64
  steps     : List (BitVec 8)
  trained   : List Nat
  complexes : List Nat
  cores     : List Nat
  clusters  : List Nat
  dies      : List Nat
  ms        : Nat
  deriving DecidableEq, Repr

/-- The PLDM sensors (R555). -/
inductive Sensor where
  | voltage | current | power | cap | inlet
  | pair (d : Fin 4)
  | stack (n : Fin 16)
  | faultN | shutdown
  deriving DecidableEq, Repr


/-- The commands of the block: one constructor per row of the opcode table (spec/opcode_table.json), with the
row's operands: what the rule gives the command, and what comes to it from outside the block. -/
inductive Instr where
  /-- REGISTER_WRITE (R278). A host write of `size` bytes, `data`, at BAR0 offset `off`; `session`: the SPDM session of the host port's mailbox that carries it; `host`: what host memory holds where the write makes the device read it (QTB_OP: the doorbell slot; SEC_BUNDLE_CTL: the bundle). -/
  | registerWrite (off : BitVec 16) (size : Nat) (data : W64) (session : Option Nat) (host : List Byte)
  /-- COMMIT_REQUEST (R280). A write of 1 to go in SYS_LULL_COMMIT. -/
  | commitRequest
  /-- UNIT_LULL_PAUSE (R23). Unit `u` reaches its next unit lull. -/
  | unitLullPause (u : UnitId)
  /-- DEVICE_LULL (R23). Every participating unit has paused. -/
  | deviceLull
  /-- QUEUE_ENABLE (R289). QTB_OP 1; `slot` is the doorbell slot as the host's memory holds it. -/
  | queueEnable (slot : W64)
  /-- QUEUE_DISABLE (R289). QTB_OP 2. -/
  | queueDisable
  /-- QUEUE_RESET (R289). QTB_OP 3. -/
  | queueReset
  /-- TLB_INVALIDATE (R253). A write of `w` to MEM_TLB_INV. -/
  | tlbInvalidate (w : W64)
  /-- TLB_INVALIDATION_DONE (R253). The oldest invalidation's accesses have completed. -/
  | tlbInvalidationDone
  /-- SCHEDULE_CHANGE (R360). A write of 1 to go in TIM_SCHED_CTL. -/
  | scheduleChange
  /-- SCHEDULE_CANCEL (R360). A write of 1 to cancel in TIM_SCHED_CTL. -/
  | scheduleCancel
  /-- SCHEDULED_CHANGE_DUE (R360). Unit `u` reaches its first unit lull at or after T. -/
  | scheduledChangeDue (u : UnitId)
  /-- SNAPSHOT (R524). A write of `w` with go to PMC_SNAP_CTL. -/
  | snapshot (w : W64)
  /-- SNAPSHOT_INSTANT (R524). The instant T has come. -/
  | snapshotInstant
  /-- WARM_PACKAGE_RESET (R480). A warm package reset, by what asked for it. -/
  | warmPackageReset (by_ : ResetBy)
  /-- DIE_RESET (R486). DIE_RESET kind 2 with pair `d`. -/
  | dieReset (d : Fin 4)
  /-- PORT_RESET (R484). A reset of a fabric port, or of the host port. -/
  | portReset (p : Option (Fin 16))
  /-- CORE_RESET (R485). DIE_RESET kind 4 with core `core`. -/
  | coreReset (core : Fin 512)
  /-- COLD_RESET (R479). PWR_OK rises after it was low. -/
  | coldReset
  /-- COMMAND_READY (R487). Bring-up of the package, or of a pair, ends; `bu`: what it found. -/
  | commandReady (pair : Option (Fin 4)) (bu : BringUp)
  /-- LATERAL_MODULE_TRAINING (R472). One side of module `m` of link `l` has trained to `width` (0 none, 1 x32, 2 x64). -/
  | lateralModuleTraining (l : Fin 4) (m : Fin 8) (side : Side) (width : Fin 3)
  /-- LATERAL_RETRY_FAILURE (R472). The module's link-level retry has failed for 1 ms; it retrains to these widths. -/
  | lateralRetryFailure (l : Fin 4) (m : Fin 8) (lo hi : Fin 3)
  /-- WIDTH_ATTEMPT (R473). An attempt ends; the widths that the sides which train reach. -/
  | widthAttempt (l : Fin 4) (m : Fin 8) (lo hi : Fin 3)
  /-- REFCLK_LOSS (R476). REFCLK_A, or with `b` REFCLK_B, is lost. -/
  | refclkLoss (b : Bool)
  /-- REFCLK_VALID (R476). REFCLK_A, or with `b` REFCLK_B, is valid. -/
  | refclkValid (b : Bool)
  /-- REFCLK_HOLDOVER (R478). No input is valid. -/
  | refclkHoldover
  /-- HEARTBEAT (R26). 1 ms has passed; `got`: the lead's heartbeat arrived. -/
  | heartbeat (got : Bool)
  /-- LEAD_TAKEOVER (R26). The next complex becomes lead. -/
  | leadTakeover
  /-- SADD (R134). Core `core` issues `w`, the word fetched at its PC, as SADD. -/
  | sadd (core : Fin 512) (w : W64)
  /-- SSUB (R134). Core `core` issues `w`, the word fetched at its PC, as SSUB. -/
  | ssub (core : Fin 512) (w : W64)
  /-- SAND (R134). Core `core` issues `w`, the word fetched at its PC, as SAND. -/
  | sand (core : Fin 512) (w : W64)
  /-- SOR (R134). Core `core` issues `w`, the word fetched at its PC, as SOR. -/
  | sor (core : Fin 512) (w : W64)
  /-- SXOR (R134). Core `core` issues `w`, the word fetched at its PC, as SXOR. -/
  | sxor (core : Fin 512) (w : W64)
  /-- SMUL (R134). Core `core` issues `w`, the word fetched at its PC, as SMUL. -/
  | smul (core : Fin 512) (w : W64)
  /-- SSHL (R134). Core `core` issues `w`, the word fetched at its PC, as SSHL. -/
  | sshl (core : Fin 512) (w : W64)
  /-- SSHR (R134). Core `core` issues `w`, the word fetched at its PC, as SSHR. -/
  | sshr (core : Fin 512) (w : W64)
  /-- SSRA (R134). Core `core` issues `w`, the word fetched at its PC, as SSRA. -/
  | ssra (core : Fin 512) (w : W64)
  /-- SLI (R134). Core `core` issues `w`, the word fetched at its PC, as SLI. -/
  | sli (core : Fin 512) (w : W64)
  /-- SLUI (R134). Core `core` issues `w`, the word fetched at its PC, as SLUI. -/
  | slui (core : Fin 512) (w : W64)
  /-- SLD (R134). Core `core` issues `w`, the word fetched at its PC, as SLD. -/
  | sld (core : Fin 512) (w : W64)
  /-- SST (R134). Core `core` issues `w`, the word fetched at its PC, as SST. -/
  | sst (core : Fin 512) (w : W64)
  /-- BR (R134). Core `core` issues `w`, the word fetched at its PC, as BR. -/
  | br (core : Fin 512) (w : W64)
  /-- BEQ (R134). Core `core` issues `w`, the word fetched at its PC, as BEQ. -/
  | beq (core : Fin 512) (w : W64)
  /-- BNE (R134). Core `core` issues `w`, the word fetched at its PC, as BNE. -/
  | bne (core : Fin 512) (w : W64)
  /-- BLT (R134). Core `core` issues `w`, the word fetched at its PC, as BLT. -/
  | blt (core : Fin 512) (w : W64)
  /-- BLTU (R134). Core `core` issues `w`, the word fetched at its PC, as BLTU. -/
  | bltu (core : Fin 512) (w : W64)
  /-- STIME (R134). Core `core` issues `w`, the word fetched at its PC, as STIME. -/
  | stime (core : Fin 512) (w : W64)
  /-- EVSIG (R139). Core `core` issues `w`, the word fetched at its PC, as EVSIG. -/
  | evsig (core : Fin 512) (w : W64)
  /-- EVWAIT (R139). Core `core` issues `w`, the word fetched at its PC, as EVWAIT. -/
  | evwait (core : Fin 512) (w : W64)
  /-- EVWAIT_RESUME (R139). The counter that core `core` awaits has reached its value. -/
  | evwaitResume (core : Fin 512)
  /-- DMAGO (R139). Core `core` issues `w`, the word fetched at its PC, as DMAGO. -/
  | dmago (core : Fin 512) (w : W64)
  /-- RMARK (R159). Core `core` issues `w`, the word fetched at its PC, as RMARK. -/
  | rmark (core : Fin 512) (w : W64)
  /-- SEGEND (R137). Core `core` issues `w`, the word fetched at its PC, as SEGEND. -/
  | segend (core : Fin 512) (w : W64)
  /-- STFOLD (R174). Core `core` issues `w`, the word fetched at its PC, as STFOLD. -/
  | stfold (core : Fin 512) (w : W64)
  /-- FOLD_APPLY (R174). The memory controller takes the oldest fold request of core `core`. -/
  | foldApply (core : Fin 512)
  /-- PRD (R523). Core `core` issues `w`, the word fetched at its PC, as PRD. -/
  | prd (core : Fin 512) (w : W64)
  /-- MWLD (R76). Core `core` issues the words `w0`, `w1` fetched at its PC as MWLD; `w1` counts where the form has a word 1. -/
  | mwld (core : Fin 512) (w0 w1 : W64)
  /-- MMT (R77). Core `core` issues the words `w0`, `w1` fetched at its PC as MMT; `w1` counts where the form has a word 1. -/
  | mmt (core : Fin 512) (w0 w1 : W64)
  /-- MATRIX_INSTRUCTION_START (R80). The head of the matrix queue starts. -/
  | matrixInstructionStart (core : Fin 512)
  /-- MMT_WRITES_COMPLETE (R80). A tile's writes to `bank` are complete. -/
  | mmtWritesComplete (core : Fin 512) (bank : Fin 2)
  /-- MDRAIN (R91). Core `core` issues the words `w0`, `w1` fetched at its PC as MDRAIN; `w1` counts where the form has a word 1. -/
  | mdrain (core : Fin 512) (w0 w1 : W64)
  /-- MRSV (R95). Core `core` issues the word `w0` fetched at its PC as MRSV. -/
  | mrsv (core : Fin 512) (w0 : W64)
  /-- VECTOR_INSTRUCTION_START (R128). The head of the vector queue starts. -/
  | vectorInstructionStart (core : Fin 512)
  /-- VECTOR_BANK_ESCALATION (R128). The running vector instruction has run for 512 cycles. -/
  | vectorBankEscalation (core : Fin 512)
  /-- VADD (R108). Core `core` issues the words `w0`, `w1` fetched at its PC as VADD; `w1` counts where the form has a word 1. -/
  | vadd (core : Fin 512) (w0 w1 : W64)
  /-- VSUB (R108). Core `core` issues the words `w0`, `w1` fetched at its PC as VSUB; `w1` counts where the form has a word 1. -/
  | vsub (core : Fin 512) (w0 w1 : W64)
  /-- VMUL (R108). Core `core` issues the words `w0`, `w1` fetched at its PC as VMUL; `w1` counts where the form has a word 1. -/
  | vmul (core : Fin 512) (w0 w1 : W64)
  /-- VFMA (R108). Core `core` issues the words `w0`, `w1` fetched at its PC as VFMA; `w1` counts where the form has a word 1. -/
  | vfma (core : Fin 512) (w0 w1 : W64)
  /-- VMAX (R108). Core `core` issues the words `w0`, `w1` fetched at its PC as VMAX; `w1` counts where the form has a word 1. -/
  | vmax (core : Fin 512) (w0 w1 : W64)
  /-- VMIN (R108). Core `core` issues the words `w0`, `w1` fetched at its PC as VMIN; `w1` counts where the form has a word 1. -/
  | vmin (core : Fin 512) (w0 w1 : W64)
  /-- VABS (R108). Core `core` issues the words `w0`, `w1` fetched at its PC as VABS; `w1` counts where the form has a word 1. -/
  | vabs (core : Fin 512) (w0 w1 : W64)
  /-- VNEG (R108). Core `core` issues the words `w0`, `w1` fetched at its PC as VNEG; `w1` counts where the form has a word 1. -/
  | vneg (core : Fin 512) (w0 w1 : W64)
  /-- VAND (R108). Core `core` issues the words `w0`, `w1` fetched at its PC as VAND; `w1` counts where the form has a word 1. -/
  | vand (core : Fin 512) (w0 w1 : W64)
  /-- VOR (R108). Core `core` issues the words `w0`, `w1` fetched at its PC as VOR; `w1` counts where the form has a word 1. -/
  | vor (core : Fin 512) (w0 w1 : W64)
  /-- VXOR (R108). Core `core` issues the words `w0`, `w1` fetched at its PC as VXOR; `w1` counts where the form has a word 1. -/
  | vxor (core : Fin 512) (w0 w1 : W64)
  /-- VSHL (R108). Core `core` issues the words `w0`, `w1` fetched at its PC as VSHL; `w1` counts where the form has a word 1. -/
  | vshl (core : Fin 512) (w0 w1 : W64)
  /-- VSHR (R108). Core `core` issues the words `w0`, `w1` fetched at its PC as VSHR; `w1` counts where the form has a word 1. -/
  | vshr (core : Fin 512) (w0 w1 : W64)
  /-- VCMP (R108). Core `core` issues the words `w0`, `w1` fetched at its PC as VCMP; `w1` counts where the form has a word 1. -/
  | vcmp (core : Fin 512) (w0 w1 : W64)
  /-- VSEL (R108). Core `core` issues the word `w0` fetched at its PC as VSEL. -/
  | vsel (core : Fin 512) (w0 : W64)
  /-- VCVT (R112). Core `core` issues the words `w0`, `w1` fetched at its PC as VCVT; `w1` counts where the form has a word 1. -/
  | vcvt (core : Fin 512) (w0 w1 : W64)
  /-- VSFU (R119). Core `core` issues the words `w0`, `w1` fetched at its PC as VSFU; `w1` counts where the form has a word 1. -/
  | vsfu (core : Fin 512) (w0 w1 : W64)
  /-- VBCAST (R108). Core `core` issues the words `w0`, `w1` fetched at its PC as VBCAST; `w1` counts where the form has a word 1. -/
  | vbcast (core : Fin 512) (w0 w1 : W64)
  /-- VIOTA (R108). Core `core` issues the words `w0`, `w1` fetched at its PC as VIOTA; `w1` counts where the form has a word 1. -/
  | viota (core : Fin 512) (w0 w1 : W64)
  /-- VRNG (R122). Core `core` issues the word `w0` fetched at its PC as VRNG. -/
  | vrng (core : Fin 512) (w0 : W64)
  /-- VRED (R115). Core `core` issues the words `w0`, `w1` fetched at its PC as VRED; `w1` counts where the form has a word 1. -/
  | vred (core : Fin 512) (w0 w1 : W64)
  /-- VPACK (R121). Core `core` issues the words `w0`, `w1` fetched at its PC as VPACK; `w1` counts where the form has a word 1. -/
  | vpack (core : Fin 512) (w0 w1 : W64)
  /-- VUNPACK (R121). Core `core` issues the words `w0`, `w1` fetched at its PC as VUNPACK; `w1` counts where the form has a word 1. -/
  | vunpack (core : Fin 512) (w0 w1 : W64)
  /-- VTBASE (R117). Core `core` issues the word `w0` fetched at its PC as VTBASE. -/
  | vtbase (core : Fin 512) (w0 : W64)
  /-- VLD (R113). Core `core` issues the words `w0`, `w1` fetched at its PC as VLD; `w1` counts where the form has a word 1. -/
  | vld (core : Fin 512) (w0 w1 : W64)
  /-- VST (R113). Core `core` issues the words `w0`, `w1` fetched at its PC as VST; `w1` counts where the form has a word 1. -/
  | vst (core : Fin 512) (w0 w1 : W64)
  /-- VTOPK (R124). Core `core` issues the words `w0`, `w1` fetched at its PC as VTOPK; `w1` counts where the form has a word 1. -/
  | vtopk (core : Fin 512) (w0 w1 : W64)
  /-- VSTAT (R127). Core `core` issues the word `w0` fetched at its PC as VSTAT. -/
  | vstat (core : Fin 512) (w0 : W64)
  /-- PAND (R108). Core `core` issues the word `w0` fetched at its PC as PAND. -/
  | pand (core : Fin 512) (w0 : W64)
  /-- POR (R108). Core `core` issues the word `w0` fetched at its PC as POR. -/
  | por (core : Fin 512) (w0 : W64)
  /-- PXOR (R108). Core `core` issues the word `w0` fetched at its PC as PXOR. -/
  | pxor (core : Fin 512) (w0 : W64)
  /-- VRSV (R131). Core `core` issues the word `w0` fetched at its PC as VRSV. -/
  | vrsv (core : Fin 512) (w0 : W64)
  /-- PREEMPTION_REQUEST (R161). A pre-emption request reaches breeze work on `core`, `lag` arithmetic cycles after the model's present time. -/
  | preemptionRequest (core : Fin 512) (lag : Nat)
  /-- PREEMPT_RESUME (R161). The pre-empted breeze program resumes on `core`. -/
  | preemptResume (core : Fin 512)
  /-- DMA_COPY (R147). Channel `ch` begins or goes on with its descriptor, by up to `n` units of 4 KiB. -/
  | dmaCopy (ch : ChanId) (n : Nat)
  /-- DMA_FILL (R155). Channel `ch` begins or goes on with its descriptor, by up to `n` units of 4 KiB. -/
  | dmaFill (ch : ChanId) (n : Nat)
  /-- DMA_GATHER (R151). Channel `ch` begins or goes on with its descriptor, by up to `n` units of 4 KiB. -/
  | dmaGather (ch : ChanId) (n : Nat)
  /-- DMA_SCATTER (R151). Channel `ch` begins or goes on with its descriptor, by up to `n` units of 4 KiB. -/
  | dmaScatter (ch : ChanId) (n : Nat)
  /-- DMA_ACCUMULATING_WRITE (R152). Channel `ch` begins or goes on with its descriptor, by up to `n` units of 4 KiB. -/
  | dmaAccumulatingWrite (ch : ChanId) (n : Nat)
  /-- DMA_DESCRIPTOR_COMPLETE (R156). The descriptor of channel `ch`, done or in error, is reported. -/
  | dmaDescriptorComplete (ch : ChanId)
  /-- DMA_CHANNEL_RESTART (R156). The pager has resolved (`ok`), or cannot resolve, what halted channel `ch`. -/
  | dmaChannelRestart (ch : ChanId) (ok : Bool)
  /-- BREEZE_CHAIN_PAUSE (R144). The breeze chains of `cluster` reach their 4 KiB boundaries. -/
  | breezeChainPause (cluster : Fin 32)
  /-- BREEZE_CHAIN_RESUME (R144, R363). No foreground chain of `cluster` is ready; 32 to 35 are the base dies' DMA. -/
  | breezeChainResume (cluster : Fin 36)
  /-- CORE_FENCE (R160). A fault of a core, or with `eng` of an engine of it (R160). -/
  | coreFence (core : Fin 512) (eng : Bool) (unit : Fin 5)
  /-- CLUSTER_FENCE (R456). A fault of a cluster's unit (R456). -/
  | clusterFence (cluster : Fin 32) (f : ClusterFault)
  /-- COMPUTE_DIE_FENCE (R457). A hard fault of a compute die, or of a unit of a base die that no fence takes out (R454, R457). -/
  | computeDieFence (f : DieFault)
  /-- STEP_OPEN (R166). A step opens (R166). -/
  | stepOpen
  /-- STEP_CLOSE (R327). One half of a close (R327). -/
  | stepClose (part : ClosePart)
  /-- REPLICA_ADMISSION (R332). A pending unit is admitted at a close (R332). -/
  | replicaAdmission (a : Admission)
  /-- STEP_OVERRUN (R327). A step has stayed open longer than step_to_ms (R327). -/
  | stepOverrun
  /-- NORM_PASS (R208). Up to n turns of a norm pass: a descriptor passed over, or a block (R208). -/
  | normPass (d : Fin 4) (n : Nat)
  /-- LAMB_PASS_A (R202). Up to n turns of a LAMB pass A (R202). -/
  | lambPassA (d : Fin 4) (n : Nat)
  /-- UPDATE_PASS (R211). Up to n turns of an update pass (R211). -/
  | updatePass (d : Fin 4) (n : Nat)
  /-- DIGEST_PASS (R216). Up to n turns of a digest pass (R216). -/
  | digestPass (d : Fin 4) (n : Nat)
  /-- UPDATE_PASS_PAUSE (R213). A running pass reaches the block boundary at which it is to pause (R213). -/
  | updatePassPause (d : Fin 4)
  /-- UPDATE_PASS_RESUME (R213). A paused pass resumes (R213). -/
  | updatePassResume (d : Fin 4)
  /-- TORN_SHARD (R214). A fault or reset strikes a running pass (R214). -/
  | tornShard (d : Fin 4)
  /-- SHARD_REPAIR (R215). A descriptor's arrays, tags and digest arrive from a member (R215). -/
  | shardRepair (d : Fin 4) (desc : Fin 4096) (src : Fin 8192) (arrays : List (List Byte))
  /-- SHARD_RESTORE (R216). The image of a descriptor is written; its digest pass starts and takes up to `n` turns. -/
  | shardRestore (d : Fin 4) (desc : Fin 4096) (n : Nat)
  /-- EXPORT_FORWARD (R218). An export engine forwards to its sink ring (R218). -/
  | exportForward (d : Fin 4)
  /-- SINK_CONSUMER_POLL (R325). An export engine reads its sink ring's consumer count (R325). -/
  | sinkConsumerPoll (d : Fin 4) (cons : W64)
  /-- SCRUB (R244). The codeword at `pa` is scrubbed. -/
  | scrub (pa : BitVec 52)
  /-- PC_DRAIN (R247). The pager drains a pseudo-channel; `dsts`: the pool frames it takes, in the order of the pages that move. -/
  | pcDrain (stack : Fin 16) (pc : Fin 64) (dsts : List Nat)
  /-- DRAIN_STALLED (R248). The drain finds no frame for a page that must move. -/
  | drainStalled (stack : Fin 16) (pc : Fin 64)
  /-- TABLE_WALK (R250). TLB `tlb` (0 to 31 cluster, 32 to 35 base die) misses on `va`. -/
  | tableWalk (tlb : Fin 36) (va : BitVec 52) (wr : Bool)
  /-- PAGE_MOVE (R255). The pager moves the page at `va` to frame `dst`: mv is set and the page invalidated, then (`finish`) copied and its entry rewritten. -/
  | pageMove (va : BitVec 52) (dst : BitVec 52) (finish : Bool)
  /-- PAGER_SWEEP (R256). 100 ms have passed; `moves`: the pages (virtual address) the pager moves and their new frames. -/
  | pagerSweep (moves : List (Nat × Nat))
  /-- HDM_READ (R262). A host CXL.mem read of the 64-byte line at HDM offset `off`; `own`: the host keeps the line. -/
  | hdmRead (off : W64) (own : Bool)
  /-- HDM_WRITE (R262). A host CXL.mem write of a 64-byte line at HDM offset `off`. -/
  | hdmWrite (off : W64) (data : List Byte)
  /-- CXL_WINDOW_COMPLETION (R261). CXL-attached memory answers for `pa` with `data`, or fails. -/
  | cxlWindowCompletion (pa : BitVec 52) (data : List Byte) (ok : Bool)
  /-- DOORBELL_SNOOP (R293). The host's write invalidates the device's copy of doorbell line `line`. -/
  | doorbellSnoop (line : Fin 4096)
  /-- DOORBELL_POLL (R293). The poll interval has passed. -/
  | doorbellPoll
  /-- DOORBELL_LINE_READ (R294). The 64 bytes of doorbell line `line` arrive as the host's memory holds them. -/
  | doorbellLineRead (line : Fin 4096) (data : List Byte)
  /-- SUBMISSION_FETCH (R301). Resource `r` fetches; `data` is what the host's memory holds from the entry on (a ring in device memory is read there); `failed`: the read met an error completion or poison. -/
  | submissionFetch (r : Resource) (data : List Byte) (failed : Bool)
  /-- DMA_QUEUE_CHAIN (R296). The chain at the front of DMA queue `q` starts. -/
  | dmaQueueChain (q : Fin 32768)
  /-- WORK_ENTRY (R368). A dispatcher takes the work-queue entry `e`. -/
  | workEntry (e : SubEntry)
  /-- COMPLETION_POST (R304). The oldest held completion whose queue has room. -/
  | completionPost
  /-- MSIX_AGGREGATION_TIMEOUT (R302). agg_us has passed on outbound queue `q`. -/
  | msixAggregationTimeout (q : Fin 32768)
  /-- EXPORT_QUEUE_WRITE (R300). An export engine writes a record to its export queue (R300). -/
  | exportQueueWrite (d : Fin 4)
  /-- HOST_PORT_ACCESS_TIMEOUT (R484). 1 s has passed since the host port reset. -/
  | hostPortAccessTimeout
  /-- HOST_LINK_UP (R272). The link has trained to `width` lanes at `rate`; `mem`: the host has enabled CXL.mem. -/
  | hostLinkUp (width : Fin 32) (rate : Fin 4) (mem : Bool)
  /-- IDENTIFY (R316). The identification record is written. -/
  | identify (e : SubEntry)
  /-- JOB_OPEN (R318). A job is opened. -/
  | jobOpen (e : SubEntry)
  /-- JOB_CLOSE (R318). The job is closed. -/
  | jobClose (e : SubEntry)
  /-- JOB_LOAD (R317). A job image is loaded; `host`: what host memory holds from img on, when it lies there. -/
  | jobLoad (e : SubEntry) (host : List Byte)
  /-- GROUP_DEFINE (R408). A term is added to a group, or the group deleted. -/
  | groupDefine (e : SubEntry)
  /-- MAP_INSTALL (R413). A group map is installed; `host`: what host memory holds from addr on. -/
  | mapInstall (e : SubEntry) (host : List Byte)
  /-- TIMETABLE_SUBMIT (R349). A timetable is installed; `host`: what host memory holds from addr on. -/
  | timetableSubmit (e : SubEntry) (host : List Byte)
  /-- START (R320). The timetables start. -/
  | start (e : SubEntry)
  /-- STOP (R321). The foreground, the breeze or both stop. -/
  | stop (e : SubEntry)
  /-- FENCE (R322). A unit is taken out of service. -/
  | fence (e : SubEntry)
  /-- UNFENCE (R322). A unit returns to service; `test`: what its self-test, its repeated capability message and its training give. -/
  | unfence (e : SubEntry) (test : UnitTest)
  /-- FAULT_READ (R323). Messages of the log are copied. -/
  | faultRead (e : SubEntry)
  /-- FAULT_CLEAR (R452). Messages whose cause is gone are cleared. -/
  | faultClear (e : SubEntry)
  /-- EXPORT_CONFIG (R325). The sink of update units' exports is set. -/
  | exportConfig (e : SubEntry)
  /-- REPLICA_ADMIT (R332). The package waits for admission. -/
  | replicaAdmit (e : SubEntry)
  /-- REPLICA_EXPEL (R331). A replica unit is expelled; `unit`: the packages of the named package's norm group as it holds them. -/
  | replicaExpel (e : SubEntry) (unit : List Nat)
  /-- PEER_RESTORE (R333). A descriptor is to be restored from a member or an image. -/
  | peerRestore (e : BufEntry)
  /-- CALM_ENTER (R324). The package or a group enters calm. -/
  | calmEnter (e : SubEntry)
  /-- CALM_EXIT (R324). A calm of the host ends. -/
  | calmExit (e : SubEntry)
  /-- PATH_INSTALL (R385). Path entries are installed; `host`: what host memory holds from addr on. -/
  | pathInstall (e : SubEntry) (host : List Byte)
  /-- TIME_CONFIG (R326). The package's role in time transfer is set. -/
  | timeConfig (e : SubEntry)
  /-- POWER_CAP (R361). The host's power cap is set, at once or at a time. -/
  | powerCap (e : SubEntry)
  /-- SCHEDULED_POWER_CAP_DUE (R361). The time of a pending POWER_CAP has come. -/
  | scheduledPowerCapDue
  /-- COUNTER_GRANT (R326). Counter access is granted or revoked. -/
  | counterGrant (e : SubEntry)
  /-- AMEND_LOAD (R337). An amendment bundle is verified, stored or removed; `host`: what host memory holds from addr on. -/
  | amendLoad (e : SubEntry) (host : List Byte)
  /-- SEGMENT_RELEASE (R354). The dispatcher releases `r`, a segment; `cause`: the condition met last after its floor. -/
  | segmentRelease (r : Rel) (cause : Fin 6)
  /-- DMA_CHAIN_ENTRY_RELEASE (R347). The dispatcher releases `r`, a DMA chain; `cause`: the condition met last after its floor. -/
  | dmaChainEntryRelease (r : Rel) (cause : Fin 6)
  /-- UPDATE_PASS_RELEASE (R197). The dispatcher releases `r`, an update pass; `cause`: the condition met last after its floor. -/
  | updatePassRelease (r : Rel) (cause : Fin 6)
  /-- MAP_SWITCH (R367). The dispatcher releases `r`, a map switch; `cause`: the condition met last after its floor. -/
  | mapSwitch (r : Rel) (cause : Fin 6)
  /-- SIGNAL_RELEASE (R347). The dispatcher releases `r`, a signal; `cause`: the condition met last after its floor. -/
  | signalRelease (r : Rel) (cause : Fin 6)
  /-- INSTANCE_COMPLETION (R355). The work of the released instance of `r` has ended. -/
  | instanceCompletion (r : Rel)
  /-- BREEZE_YIELD (R363). The dispatcher requests a yield of `u`, `lag` arithmetic cycles after the model's present time; `ns`: how long the yield takes. -/
  | breezeYield (u : YieldUnit) (lag ns : Nat)
  /-- BUDGET_WAIT (R365). 1 ms has passed while `r` waits for its charge. -/
  | budgetWait (r : Rel)
  /-- TIME_REQUEST_SEND (R341). 1 ms has passed since the last request. -/
  | timeRequestSend
  /-- TIME_REQUEST (R341). A time request arrives on `port`; the reply leaves `ns` nanoseconds later. -/
  | timeRequest (port : Fin 16) (gust : List Byte) (ns : Fin 2001)
  /-- TIME_REPLY (R341). A time reply arrives on `port`. -/
  | timeReply (port : Fin 16) (gust : List Byte)
  /-- TIME_WINDOW (R342). 16 ms have passed since the window began. -/
  | timeWindow
  /-- TIME_EXCHANGE_TIMEOUT (R342). 100 ms have passed without a valid exchange. -/
  | timeExchangeTimeout
  /-- SYNC_IN_EDGE (R343). A rising edge on SYNC_IN. -/
  | syncInEdge
  /-- SYNC_IN_TIMEOUT (R343). 3 s have passed without an edge on SYNC_IN. -/
  | syncInTimeout
  /-- PORT_SERVICE_CHANGE (R375). A fabric port's link and the PBR ID assigned to it are now as given (R375). -/
  | portServiceChange (port : Fin 16) (width : Fin 32) (rate : Fin 4) (up : Bool) (pbr : Option (Fin 4096))
  /-- GUST_WRITE (R391). A request write arrives (R391). -/
  | gustWrite (port : Fin 16) (gust : List Byte)
  /-- GUST_READ (R393). A read request arrives (R393). -/
  | gustRead (port : Fin 16) (gust : List Byte)
  /-- GUST_REPLY_DATA (R393). Reply data arrives (R393). -/
  | gustReplyData (port : Fin 16) (gust : List Byte)
  /-- GUST_COLLECTIVE_DATA (R422). Collective data arrives (R422). -/
  | gustCollectiveData (port : Fin 16) (gust : List Byte)
  /-- GUST_ACK (R392). An ack arrives (R392). -/
  | gustAck (port : Fin 16) (gust : List Byte)
  /-- GUST_ASK (R390). An ask arrives (R390). -/
  | gustAsk (port : Fin 16) (gust : List Byte)
  /-- GUST_GRANT (R390). A grant arrives (R390). -/
  | gustGrant (port : Fin 16) (gust : List Byte)
  /-- GUST_RETURN (R390). A return arrives (R390). -/
  | gustReturn (port : Fin 16) (gust : List Byte)
  /-- GUST_STALE (R399). A stale gust arrives (R399). -/
  | gustStale (port : Fin 16) (gust : List Byte)
  /-- GUST_RACK (R395). A rack arrives (R395). -/
  | gustRack (port : Fin 16) (gust : List Byte)
  /-- GUST_PROBE (R388). A probe arrives (R388). -/
  | gustProbe (port : Fin 16) (gust : List Byte)
  /-- GUST_PROBE_ANSWER (R388). A probe answer arrives (R388). -/
  | gustProbeAnswer (port : Fin 16) (gust : List Byte)
  /-- GUST_RELAY (R394). A gust for another package arrives from the PBR ID of its flits (R394). -/
  | gustRelay (port : Fin 16) (pbr : Fin 4096) (gust : List Byte)
  /-- RELAY_FORWARD_TIMEOUT (R394). The 5 us of gusts staged for relay end (R394). -/
  | relayForwardTimeout
  /-- RELAY_SLOT_TIMEOUT (R395). The 10 us of relay slots end (R395). -/
  | relaySlotTimeout
  /-- RESEND_TIMEOUT (R397). The resend timeout of unacknowledged gusts ends (R397). -/
  | resendTimeout
  /-- READ_REPLY_TIMEOUT (R393). The reply timeout of reads ends (R393). -/
  | readReplyTimeout
  /-- ASK_REPEAT (R390). Asks and returns that wait are due again (R390). -/
  | askRepeat
  /-- LEVEL_IDLE_RETURN (R390). Levels idle for 50 us are due to go back (R390). -/
  | levelIdleReturn
  /-- PROBE_TIMER (R388). The probe interval ends (R388). -/
  | probeTimer
  /-- ACK_SEND (R392). An ack that is due to a source for an eclass is sent (R392). -/
  | ackSend (src : Fin 8192) (eclass : Fin 5)
  /-- BARRIER (R433). A barrier's members have all entered (R433). -/
  | barrier (id : Nat)
  /-- END_OF_STEP_BARRIER (R433). An end-of-step barrier delivers F (R433). -/
  | endOfStepBarrier (id : Nat)
  /-- SCALAR (R434). The members' values of a SCALAR, by rank (R434). -/
  | scalar (id : Nat) (parts : List Part)
  /-- ALLREDUCE (R424). The members' elements by rank, and the order in which integer parts arrive (R424). -/
  | allreduce (id : Nat) (parts : List Part) (order : List Nat)
  /-- HIER_ALLREDUCE (R426). The lower members' blocks of the lower chunk, the upper members' MXINT8 blocks of the sub-chunk, the delivered whole (R426). -/
  | hierAllreduce (id : Nat) (lower upper : List Part) (rest : Part) (order : List Nat)
  /-- REDSCAT (R416). The members' chunks for this rank (R416). -/
  | redscat (id : Nat) (parts : List Part) (order : List Nat)
  /-- ALLGATHER (R430). The members' chunks by rank (R416, R430). -/
  | allgather (id : Nat) (parts : List Part)
  /-- BCAST (R430). The root's chunk (R416, R430). -/
  | bcast (id : Nat) (part : Part)
  /-- GATHER (R416). The members' chunks by rank (R416). -/
  | gather (id : Nat) (parts : List Part)
  /-- ALLTOALL (R416). The members' chunks for this rank (R416). -/
  | alltoall (id : Nat) (parts : List Part)
  /-- PERMUTE (R431). By round, the offsets and bytes that other members send here (R431). -/
  | permute (id : Nat) (rounds : List Moves)
  /-- COPY (R432). A COPY takes the replies that have come and sends further reads (R432). -/
  | copy (id : Nat)
  /-- COLLECTIVE_ENTRY (R420). A collective enters (R420). -/
  | collectiveEntry (f : CollFrom)
  /-- RENDEZVOUS_END (R421). The other members of a collective's groups have contributed (R420, R421). -/
  | rendezvousEnd (id : Nat) (others upper : List Contrib) (cause : Fin 7)
  /-- COLLECTIVE_COMPLETE (R423). A collective completes on the package (R423). -/
  | collectiveComplete (id : Nat)
  /-- COLLECTIVE_ABORT (R438). Another member aborts a collective with a status of class 0x04 (R438). -/
  | collectiveAbort (id : Nat) (status : Fin 256)
  /-- MEMBER_LEAVE (R439). A package leaves its collectives (R439). -/
  | memberLeave (pkg : Fin 8192)
  /-- FAULT_MESSAGE_LOG (R449). The lead's collector logs the oldest message. -/
  | faultMessageLog
  /-- CORRECTED_MERGE_EXPIRY (R449). The 1 ms of corrected messages ends (R449). -/
  | correctedMergeExpiry
  /-- SQUALL (R453). A source's corrected events have reached the bound; `kind` is the kind that did it (R453). -/
  | squall (src : Src) (kind : Fin 256)
  /-- STEP_RETRY (R459). A step retry begins, or, with the rendezvous time of its barrier, ends (R459). -/
  | stepRetry (tb : Option Nat)
  /-- NOTICE_RECEIVE (R460). A notice written by a package reaches the lead; the packages of the lost one's norm group, and whether a replica group loses its last member (R460, R461). -/
  | noticeReceive (sender : Fin 8192) (unit : List Nat) (bare : Bool)
  /-- PACKAGE_LOST (R461). A package is found lost; its norm group, and whether a replica group loses its last member (R461). -/
  | packageLost (pkg : Fin 8192) (unit : List Nat) (bare : Bool)
  /-- RENDEZVOUS_PROBE (R461). A collective has waited more than 1 ms at its rendezvous (R461). -/
  | rendezvousProbe (id : Nat)
  /-- SHADOW_COPY (R456). A fenced cluster's store is copied (R456). -/
  | shadowCopy (cluster : Fin 32)
  /-- OWNERSHIP_TRANSFER (R504). op 1 in SEC_BUNDLE_CTL with the bundle's length; `host`: what host memory holds from its address on; `how` the operation ends. -/
  | ownershipTransfer (len : W32) (host : List Byte) (how : SecEnd)
  /-- DEBUG_UNLOCK (R506). op 2 in SEC_BUNDLE_CTL. -/
  | debugUnlock (len : W32) (host : List Byte) (how : SecEnd)
  /-- DEBUG_RELOCK (R510). op 3 in SEC_BUNDLE_CTL. -/
  | debugRelock (how : SecEnd)
  /-- RENEW_NONCE (R510). op 4 in SEC_BUNDLE_CTL. -/
  | renewNonce (how : SecEnd)
  /-- STORE_CONFIGURATION (R499). op 5 in SEC_BUNDLE_CTL. -/
  | storeConfiguration (len : W32) (host : List Byte) (how : SecEnd)
  /-- GET_VERSION (R501). Mailbox `mb`: a fabric port's, or 16, the host port's. -/
  | getVersion (mb : Fin 17)
  /-- GET_CAPABILITIES (R501). On mailbox `mb`. -/
  | getCapabilities (mb : Fin 17)
  /-- NEGOTIATE_ALGORITHMS (R501). `offer`: bits 0 to 3: the requester offers ECDSA P-521, SHA-512, secp521r1, AES-256-GCM. -/
  | negotiateAlgorithms (mb : Fin 17) (offer : Fin 16)
  /-- GET_DIGESTS (R501). On mailbox `mb`. -/
  | getDigests (mb : Fin 17)
  /-- GET_CERTIFICATE (R501). `len` bytes of the chain of `slot` from `off`. -/
  | getCertificate (mb : Fin 17) (slot : Fin 8) (off len : Nat)
  /-- CHALLENGE (R501). On mailbox `mb`, with the chain of `slot`. -/
  | challenge (mb : Fin 17) (slot : Fin 8)
  /-- GET_MEASUREMENTS (R502). Index 0 asks for the number of blocks, 0xFF for all of them. -/
  | getMeasurements (mb : Fin 17) (index : Fin 256) (sign : Bool)
  /-- KEY_EXCHANGE (R501). On mailbox `mb`. -/
  | keyExchange (mb : Fin 17)
  /-- FINISH (R501). `ok`: the request verifies under the session's keys. -/
  | finish (mb : Fin 17) (session : Nat) (ok : Bool)
  /-- HEARTBEAT_SPDM (R501). In session `session`. -/
  | heartbeatSpdm (mb : Fin 17) (session : Nat)
  /-- KEY_UPDATE (R501). In session `session`. -/
  | keyUpdate (mb : Fin 17) (session : Nat)
  /-- END_SESSION (R501). Of session `session`. -/
  | endSession (mb : Fin 17) (session : Nat)
  /-- SPDM_UNSUPPORTED (R501). On mailbox `mb`. -/
  | spdmUnsupported (mb : Fin 17)
  /-- IDE_KM (R503). An IDE_KM message inside session `session` of mailbox `mb`. -/
  | ideKm (mb : Fin 17) (session : Nat) (op : IdeOp)
  /-- IDE_FAILURE (R503). Fabric port `port`, or 16, the host port: an integrity failure, or else the loss of its keys. -/
  | ideFailure (port : Fin 17) (integrity : Bool)
  /-- TAMPER (R507). An excursion of a clock, or else of a voltage; `stage1`: a bring-up is in stage 1. -/
  | tamper (clock stage1 : Bool)
  /-- SAMPLE (R526). A down-count reaches zero; `pc` is recorded, `skid` instructions after the responsible one. -/
  | sample (sampler : Fin 8) (core : Fin 512) (pc : BitVec 20) (skid : Fin 9)
  /-- POWER_UP (R540). The input has risen through 36.0 V; `ok`: it has reached 40.0 V and every rail is within limits. -/
  | powerUp (ok : Bool)
  /-- PWR_OK_LOW (R535). PWR_OK has been low for 10 µs; `board`: the board pulls it low. -/
  | pwrOkLow (board : Bool)
  /-- POWER_MEASURE (R544). Input voltage in mV and current in mA. -/
  | powerMeasure (mv ma : Nat)
  /-- CAP_ADJUST (R546). 100 µs have passed. -/
  | capAdjust
  /-- RAMP_STEP (R548). `u`: the largest fraction of the interval's cycles in which a core of die `d` issued or fed, in 64ths. -/
  | rampStep (d : Fin 4) (u : Fin 65)
  /-- THERMAL_TICK (R551). 100 µs have passed; the hottest sensors of the compute die and of the base die of pair `d`, in °C. -/
  | thermalTick (d : Fin 4) (cd bd : Int)
  /-- HBM_TEMPERATURE (R552). The stack reports `t` °C. -/
  | hbmTemperature (stack : Fin 16) (t : Int)
  /-- COOLANT_HOT (R550). The inlet is at `t` °C. -/
  | coolantHot (t : Int)
  /-- THERMTRIP (R553). A die reads 125 °C or more, or with `hbm` a stack 115 °C or more. -/
  | thermtrip (hbm : Bool)
  /-- BROWN_STATE_ENTER (R542). The input has been below 39.0 V for 10 µs; its lowest voltage in mV. -/
  | brownStateEnter (mv : Nat)
  /-- BROWN_STATE_EXIT (R542). The input has been at or above 40.0 V for 1 ms. -/
  | brownStateExit
  /-- INPUT_LOSS_SHUTDOWN (R542). The input has been below 36.0 V for 5 µs. -/
  | inputLossShutdown
  /-- INPUT_HIGH (R538). The highest input voltage in mV. -/
  | inputHigh (mv : Nat)
  /-- OVERVOLTAGE_SHUTDOWN (R543). The input has been above 62.0 V for 5 µs. -/
  | overvoltageShutdown
  /-- RAIL_FAULT (R543). A rail has been outside its limits for 50 µs. -/
  | railFault (rail : Fin 256)
  /-- ENTDAA (R554). The I3C controller assigns `addr`. -/
  | entdaa (addr : Fin 128)
  /-- PLDM_SENSOR_READ (R555). A request reads a sensor. -/
  | pldmSensorRead (x : Sensor)
  /-- PLDM_BOARD_CAP (R555). A request sets the board cap. -/
  | pldmBoardCap (w : Nat)
  /-- PLDM_MODULE_RESET (R555). A request sets the module-reset effecter: 1 none, 2 warm package reset. -/
  | pldmModuleReset (kind : Fin 256)
  /-- PLDM_FRU_READ (R554). A request reads the FRU data. -/
  | pldmFruRead
  /-- SHUTDOWN_CAUSE_EVENT (R556). The endpoint comes up. -/
  | shutdownCauseEvent
  /-- ALL_PORTS_OUT_OF_SERVICE (R455). No fabric port has been in service for lost_ms (R455). -/
  | allPortsOutOfService
  /-- REPLICA_ADMIT_TIMEOUT (R332). wait_ms of REPLICA_ADMIT has passed (R332). -/
  | replicaAdmitTimeout
  /-- CALM_ENTER_TIMEOUT (R324). 10 ms of CALM_ENTER have passed (R324). -/
  | calmEnterTimeout
  /-- PLDM_BASE_REQUEST (R554). A PLDM base request. -/
  | pldmBaseRequest
  /-- CXL_CACHE_ENABLE (R484). The host sets or clears CXL.cache for the device. -/
  | cxlCacheEnable (en : Bool)
  /-- MSIX_MASK_CHANGE (R302). A host write to the MSI-X structures. -/
  | msixMaskChange (op : MaskOp)
  deriving DecidableEq, Repr

end Sys2Proof
end

