-- ==== Sys2Proof/Decode.lean ====
section
/-! DEFINITION. The opcode table gives no row bits: no word spells a command (log entry 41). -/

namespace Sys2Proof

/-- The command that the `nbits` bits of `w` spell by the table's bits: none, since no row of the table has any. -/
def decodeTableWord (_nbits _w : Nat) : Option Instr := none

end Sys2Proof
end

