-- ==== Sys2Proof/Machine/RegMap.lean ====
section
/-! DEFINITION. The set-up registers (R7, R277 to R285 and the field maps of the chapters): one row per register or
series of registers, with its named fields; a bit that no field covers is reserved. Below the table, one
name per field. A field whose reset value the spec does not state carries 0 here (log entry 3). -/

namespace Sys2Proof.Machine

/-- The access codes of R7. -/
inductive Access where
  | ro | rw | wo | w1c | staged
  deriving DecidableEq, Repr

/-- A named field of a register: its lowest bit, its width, its access code and its reset value. -/
structure FieldDesc where
  lo     : Nat
  width  : Nat
  access : Access
  reset  : Nat
  deriving DecidableEq, Repr

/-- A register, or a series of `count` registers 8 bytes apart, of the register map (R282, R283). -/
structure RegDesc where
  name   : String
  off    : Nat
  count  : Nat
  fields : List FieldDesc
  deriving DecidableEq, Repr

/-- A field by its place: register offset, lowest bit, width. -/
structure Fld where
  off   : Nat
  lo    : Nat
  width : Nat
  deriving DecidableEq, Repr

/-- The SYS_ registers. -/
def regsSys : List RegDesc := [
  ⟨"SYS_ID", 0x0000, 1, [⟨0, 8, .ro, 0⟩, ⟨8, 8, .ro, 1⟩]⟩,
  ⟨"SYS_STAGE_CTL", 0x0008, 1, [⟨0, 1, .rw, 0⟩]⟩,
  ⟨"SYS_LULL_COMMIT", 0x0010, 1, [⟨0, 1, .wo, 0⟩]⟩,
  ⟨"SYS_LULL_STATUS", 0x0018, 1, [⟨0, 32, .ro, 0⟩, ⟨32, 32, .ro, 0⟩]⟩,
  ⟨"SYS_STEP_STATUS", 0x0040, 1, [⟨0, 1, .ro, 0⟩, ⟨1, 1, .w1c, 0⟩, ⟨2, 1, .ro, 0⟩, ⟨8, 8, .ro, 0⟩, ⟨16, 16, .ro, 0⟩, ⟨32, 32, .ro, 0⟩]⟩,
  ⟨"SYS_STEP_COUNT", 0x0048, 1, [⟨0, 64, .ro, 0⟩]⟩,
  ⟨"SYS_STEP_CTL", 0x0050, 1, [⟨0, 8, .staged, 3⟩, ⟨8, 1, .staged, 0⟩]⟩,
  ⟨"SYS_STAT_BASE", 0x0058, 1, [⟨16, 36, .staged, 0⟩, ⟨63, 1, .staged, 0⟩]⟩,
  ⟨"SYS_PLAN_BASE", 0x0060, 1, [⟨0, 14, .staged, 0⟩, ⟨16, 36, .staged, 0⟩]⟩,
  ⟨"SYS_JOB_STATUS", 0x0068, 1, [⟨0, 4, .ro, 0⟩, ⟨8, 8, .ro, 0⟩, ⟨16, 13, .ro, 0⟩, ⟨32, 32, .ro, 0⟩]⟩,
  ⟨"SYS_SUPV_CTL", 0x0070, 1, [⟨0, 16, .staged, 0⟩]⟩]

/-- The HIF_ registers. -/
def regsHif : List RegDesc := [
  ⟨"HIF_STATUS", 0x1000, 1, [⟨0, 5, .ro, 0⟩, ⟨5, 2, .ro, 0⟩, ⟨7, 1, .ro, 0⟩, ⟨8, 1, .ro, 0⟩, ⟨9, 2, .ro, 0⟩]⟩,
  ⟨"HIF_DB_BASE", 0x1008, 1, [⟨18, 46, .staged, 0⟩]⟩,
  ⟨"HIF_DB_CTL", 0x1010, 1, [⟨0, 1, .staged, 0⟩, ⟨16, 10, .staged, 0xa⟩]⟩,
  ⟨"HIF_PRIO_W", 0x1018, 1, [⟨0, 8, .staged, 1⟩, ⟨8, 8, .staged, 1⟩, ⟨16, 8, .staged, 1⟩, ⟨24, 8, .staged, 1⟩, ⟨32, 8, .staged,
      1⟩, ⟨40, 8, .staged, 1⟩, ⟨48, 8, .staged, 1⟩, ⟨56, 8, .staged, 1⟩]⟩,
  ⟨"HIF_INT", 0x1020, 1, [⟨0, 11, .rw, 0⟩, ⟨11, 1, .rw, 0⟩, ⟨16, 11, .rw, 0⟩, ⟨27, 1, .rw, 0⟩]⟩,
  ⟨"HIF_VIOL", 0x1028, 1, [⟨0, 32, .ro, 0⟩, ⟨32, 16, .ro, 0⟩, ⟨48, 1, .ro, 0⟩]⟩]

/-- The QTB_ registers. -/
def regsQtb : List RegDesc := [
  ⟨"QTB_SEL", 0x2000, 1, [⟨0, 15, .rw, 0⟩]⟩,
  ⟨"QTB_OP", 0x2008, 1, [⟨0, 2, .wo, 0⟩]⟩,
  ⟨"QTB_STATUS", 0x2010, 1, [⟨0, 1, .ro, 0⟩, ⟨1, 1, .w1c, 0⟩, ⟨16, 15, .ro, 0⟩, ⟨31, 1, .ro, 0⟩]⟩,
  ⟨"QTB_CTX", 0x2040, 8, [⟨0, 64, .rw, 0⟩]⟩]

/-- The MEM_ registers. -/
def regsMem : List RegDesc := [
  ⟨"MEM_MAP", 0x3000, 1, [⟨0, 6, .staged, 8⟩]⟩,
  ⟨"MEM_PT_ROOT", 0x3008, 1, [⟨14, 38, .staged, 0⟩, ⟨63, 1, .staged, 0⟩]⟩,
  ⟨"MEM_TLB_INV", 0x3010, 1, [⟨0, 2, .wo, 0⟩, ⟨16, 36, .wo, 0⟩]⟩,
  ⟨"MEM_TLB_DONE", 0x3018, 1, [⟨0, 32, .ro, 0⟩]⟩,
  ⟨"MEM_HEALTH_CTL", 0x3020, 1, [⟨0, 8, .staged, 0x18⟩, ⟨16, 16, .staged, 0x100⟩, ⟨32, 8, .staged, 0x3c⟩]⟩,
  ⟨"MEM_PAGER_CTL", 0x3028, 1, [⟨0, 1, .staged, 0⟩, ⟨1, 1, .ro, 1⟩, ⟨2, 1, .staged, 0⟩, ⟨8, 8, .staged, 4⟩, ⟨16, 8, .staged, 8⟩]⟩,
  ⟨"MEM_PAGER_POOL", 0x3030, 1, [⟨22, 30, .staged, 0⟩]⟩,
  ⟨"MEM_HDM", 0x3038, 1, [⟨0, 10, .staged, 0⟩, ⟨30, 22, .staged, 0⟩]⟩,
  ⟨"MEM_LEDGER_BASE", 0x3040, 1, [⟨16, 36, .staged, 0⟩, ⟨63, 1, .staged, 0⟩]⟩,
  ⟨"MEM_ACC_SAT", 0x3048, 1, [⟨0, 32, .ro, 0⟩, ⟨32, 32, .ro, 0⟩]⟩,
  ⟨"MEM_CXL_WIN", 0x3080, 8, [⟨0, 1, .staged, 0⟩, ⟨1, 1, .staged, 0⟩, ⟨2, 1, .staged, 0⟩, ⟨16, 12, .staged, 0⟩, ⟨32, 19, .staged,
      0⟩]⟩,
  ⟨"MEM_CXL_TGT", 0x30C0, 8, [⟨30, 34, .staged, 0⟩]⟩,
  ⟨"MEM_PC_DRAIN", 0x3100, 16, [⟨0, 64, .ro, 0⟩]⟩,
  ⟨"MEM_PC_FENCED", 0x3180, 16, [⟨0, 64, .ro, 0⟩]⟩]

/-- The TIM_ registers. -/
def regsTim : List RegDesc := [
  ⟨"TIM_NOW", 0x4000, 1, [⟨0, 64, .ro, 0⟩]⟩,
  ⟨"TIM_STATUS", 0x4008, 1, [⟨0, 1, .ro, 0⟩, ⟨1, 1, .ro, 0⟩, ⟨2, 2, .ro, 0⟩, ⟨4, 1, .ro, 0⟩, ⟨16, 13, .ro, 0⟩, ⟨32, 16, .ro, 0⟩,
      ⟨48, 16, .ro, 0⟩]⟩,
  ⟨"TIM_SCHED_T", 0x4010, 1, [⟨0, 64, .rw, 0⟩]⟩,
  ⟨"TIM_SCHED_CTL", 0x4018, 1, [⟨0, 1, .wo, 0⟩, ⟨1, 1, .wo, 0⟩]⟩,
  ⟨"TIM_SCHED_STATUS", 0x4020, 1, [⟨0, 1, .ro, 0⟩, ⟨1, 1, .w1c, 0⟩, ⟨16, 16, .ro, 0⟩, ⟨32, 16, .ro, 0⟩, ⟨48, 16, .ro, 0⟩]⟩,
  ⟨"TIM_TT_STATUS", 0x4028, 1, [⟨0, 1, .ro, 0⟩, ⟨1, 1, .ro, 0⟩, ⟨2, 1, .ro, 0⟩, ⟨32, 32, .ro, 0⟩]⟩,
  ⟨"TIM_REBASE", 0x4030, 1, [⟨0, 64, .ro, 0⟩]⟩,
  ⟨"TIM_LATE_BASE", 0x4038, 1, [⟨16, 36, .staged, 0⟩, ⟨63, 1, .staged, 0⟩]⟩,
  ⟨"TIM_BUDGET_FG", 0x4040, 1, [⟨0, 20, .staged, 0xf8000⟩, ⟨44, 20, .ro, 0⟩]⟩,
  ⟨"TIM_BUDGET_BRZ", 0x4048, 1, [⟨0, 20, .staged, 0⟩, ⟨20, 8, .staged, 0xc0⟩, ⟨28, 9, .staged, 0x160⟩, ⟨44, 20, .ro, 0⟩]⟩,
  ⟨"TIM_BRZ_CTL", 0x4050, 1, [⟨0, 8, .staged, 4⟩, ⟨16, 16, .ro, 0⟩, ⟨32, 16, .ro, 0⟩]⟩]

/-- The FAB_ registers. -/
def regsFab : List RegDesc := [
  ⟨"FAB_CTL", 0x5000, 1, [⟨0, 1, .staged, 0⟩, ⟨1, 1, .staged, 0⟩, ⟨16, 13, .staged, 0⟩, ⟨32, 8, .ro, 1⟩]⟩,
  ⟨"FAB_TIMEOUT", 0x5008, 1, [⟨0, 10, .staged, 0x14⟩, ⟨16, 4, .staged, 4⟩, ⟨32, 16, .staged, 0xa⟩]⟩,
  ⟨"FAB_CREDIT", 0x5010, 1, [⟨0, 7, .staged, 0x10⟩, ⟨8, 7, .staged, 8⟩, ⟨16, 16, .staged, 0x800⟩, ⟨32, 16, .staged, 0x400⟩, ⟨48,
      16, .staged, 0x400⟩]⟩,
  ⟨"FAB_BUF_BASE", 0x5018, 1, [⟨16, 36, .staged, 0⟩]⟩,
  ⟨"FAB_ERR", 0x5020, 1, [⟨0, 32, .ro, 0⟩, ⟨32, 16, .ro, 0⟩, ⟨48, 16, .ro, 0⟩]⟩,
  ⟨"FAB_RESEND", 0x5028, 1, [⟨0, 64, .ro, 0⟩]⟩,
  ⟨"FAB_CALM", 0x5030, 1, [⟨0, 1, .ro, 0⟩, ⟨1, 1, .ro, 0⟩, ⟨2, 1, .ro, 0⟩, ⟨16, 16, .ro, 0⟩]⟩,
  ⟨"FAB_PATH_SEL", 0x5038, 1, [⟨0, 13, .rw, 0⟩]⟩,
  ⟨"FAB_PATH_STAT", 0x5040, 1, [⟨0, 4, .ro, 0⟩, ⟨4, 4, .ro, 0⟩, ⟨8, 4, .ro, 0⟩, ⟨16, 16, .ro, 0⟩]⟩,
  ⟨"FAB_PORT", 0x5080, 16, [⟨0, 5, .ro, 0⟩, ⟨5, 2, .ro, 0⟩, ⟨7, 1, .ro, 0⟩, ⟨8, 1, .ro, 0⟩, ⟨9, 1, .ro, 0⟩, ⟨10, 1, .ro, 0⟩,
      ⟨16, 12, .ro, 0⟩, ⟨32, 6, .ro, 0⟩]⟩]

/-- The COL_ registers. -/
def regsCol : List RegDesc := [
  ⟨"COL_CTL", 0x6000, 1, [⟨0, 7, .staged, 0x20⟩]⟩,
  ⟨"COL_MAP", 0x6008, 1, [⟨0, 2, .ro, 0⟩, ⟨2, 4, .ro, 0⟩]⟩,
  ⟨"COL_STAGE", 0x6010, 1, [⟨0, 12, .staged, 0x40⟩, ⟨16, 36, .staged, 0⟩, ⟨63, 1, .staged, 0⟩]⟩,
  ⟨"COL_GROUP_SEL", 0x6018, 1, [⟨0, 8, .rw, 0⟩]⟩,
  ⟨"COL_GROUP_STAT", 0x6020, 1, [⟨0, 14, .ro, 0⟩, ⟨16, 13, .ro, 0⟩, ⟨32, 16, .ro, 0⟩, ⟨48, 1, .ro, 0⟩, ⟨49, 1, .ro, 0⟩, ⟨50, 1, .ro,
      0⟩, ⟨51, 1, .ro, 0⟩, ⟨52, 3, .ro, 0⟩]⟩,
  ⟨"COL_STATUS", 0x6040, 4, [⟨0, 32, .ro, 0⟩, ⟨32, 16, .ro, 0⟩, ⟨48, 7, .ro, 0⟩]⟩]

/-- The UPD_ registers. -/
def regsUpd : List RegDesc := [
  ⟨"UPD_CTL", 0x7000, 1, [⟨0, 1, .staged, 0⟩, ⟨1, 1, .staged, 0⟩, ⟨2, 10, .staged, 0⟩, ⟨16, 16, .staged, 0xff⟩, ⟨32, 8,
      .staged, 0⟩, ⟨40, 8, .staged, 0⟩, ⟨48, 1, .staged, 0⟩]⟩,
  ⟨"UPD_MAXNORM", 0x7008, 1, [⟨0, 32, .staged, 0x7f800000⟩]⟩,
  ⟨"UPD_NORM_STAT", 0x7010, 1, [⟨0, 32, .ro, 0⟩, ⟨32, 32, .ro, 0x3f800000⟩]⟩,
  ⟨"UPD_NORM_AUX", 0x7018, 1, [⟨0, 8, .ro, 1⟩, ⟨8, 1, .ro, 0⟩, ⟨16, 32, .ro, 0⟩]⟩,
  ⟨"UPD_TABLE_BASE", 0x7040, 4, [⟨16, 36, .staged, 0⟩, ⟨63, 1, .staged, 0⟩]⟩,
  ⟨"UPD_EXP_RING", 0x7060, 4, [⟨0, 16, .staged, 0⟩, ⟨16, 36, .staged, 0⟩, ⟨63, 1, .staged, 0⟩]⟩,
  ⟨"UPD_STATUS", 0x7080, 4, [⟨0, 2, .ro, 0⟩, ⟨2, 1, .w1c, 0⟩, ⟨16, 16, .ro, 0⟩, ⟨32, 32, .ro, 0⟩]⟩,
  ⟨"UPD_DIGEST", 0x70A0, 4, [⟨0, 64, .ro, 0⟩]⟩]

/-- The FLT_ registers. -/
def regsFlt : List RegDesc := [
  ⟨"FLT_CTL", 0x8000, 1, [⟨0, 16, .staged, 0x100⟩, ⟨16, 8, .staged, 0x3c⟩, ⟨24, 8, .staged, 0x14⟩, ⟨32, 4, .staged, 2⟩]⟩,
  ⟨"FLT_STATUS", 0x8008, 1, [⟨0, 1, .ro, 0⟩, ⟨1, 1, .ro, 0⟩, ⟨16, 13, .ro, 0⟩, ⟨32, 16, .ro, 0⟩, ⟨48, 16, .ro, 0⟩]⟩,
  ⟨"FLT_SEQ", 0x8010, 1, [⟨0, 64, .ro, 0⟩]⟩,
  ⟨"FLT_OLDEST", 0x8018, 1, [⟨0, 64, .ro, 0⟩]⟩,
  ⟨"FLT_NOTICE", 0x8020, 1, [⟨16, 36, .staged, 0⟩, ⟨63, 1, .staged, 0⟩]⟩]

/-- The PMC_ registers. -/
def regsPmc : List RegDesc := [
  ⟨"PMC_VIEW", 0x9000, 1, [⟨0, 12, .rw, 0⟩]⟩,
  ⟨"PMC_UVIEW", 0x9008, 1, [⟨0, 12, .rw, 0⟩]⟩,
  ⟨"PMC_SNAP_ADDR", 0x9010, 1, [⟨6, 46, .rw, 0⟩]⟩,
  ⟨"PMC_SNAP_CTL", 0x9018, 1, [⟨0, 1, .wo, 0⟩, ⟨16, 12, .wo, 0⟩, ⟨28, 12, .wo, 0⟩]⟩,
  ⟨"PMC_SNAP_STATUS", 0x9020, 1, [⟨0, 1, .ro, 0⟩, ⟨1, 1, .w1c, 0⟩, ⟨32, 32, .ro, 0⟩]⟩,
  ⟨"PMC_SAMP_RING", 0x9028, 1, [⟨0, 16, .staged, 0⟩, ⟨16, 36, .staged, 0⟩]⟩,
  ⟨"PMC_SAMP_CTL", 0x9030, 1, [⟨0, 1, .staged, 0⟩, ⟨1, 11, .staged, 0⟩, ⟨16, 16, .staged, 1⟩]⟩,
  ⟨"PMC_SAMP_STATUS", 0x9038, 1, [⟨0, 32, .ro, 0⟩, ⟨32, 32, .ro, 0⟩]⟩,
  ⟨"PMC_TRACE_BASE", 0x9040, 1, [⟨0, 16, .staged, 0⟩, ⟨16, 36, .staged, 0⟩]⟩,
  ⟨"PMC_TRACE_CTL", 0x9048, 1, [⟨0, 1, .staged, 0⟩, ⟨1, 1, .staged, 0⟩, ⟨8, 5, .staged, 0x10⟩]⟩,
  ⟨"PMC_SAMPLER", 0x9080, 8, [⟨0, 7, .staged, 0⟩, ⟨7, 1, .staged, 0⟩, ⟨8, 3, .staged, 0⟩, ⟨16, 16, .staged, 0⟩, ⟨32, 16, .staged,
      0⟩, ⟨48, 16, .staged, 0⟩]⟩]

/-- The SEC_ registers. -/
def regsSec : List RegDesc := [
  ⟨"SEC_STATUS", 0xA000, 1, [⟨0, 4, .ro, 0⟩, ⟨4, 7, .ro, 0⟩, ⟨11, 1, .ro, 0⟩, ⟨12, 1, .ro, 0⟩, ⟨13, 1, .ro, 0⟩, ⟨14, 1, .ro, 0⟩,
      ⟨15, 1, .ro, 0⟩, ⟨16, 8, .ro, 0⟩]⟩,
  ⟨"SEC_IDE_STATUS", 0xA008, 1, [⟨0, 16, .ro, 0⟩, ⟨16, 1, .ro, 0⟩]⟩,
  ⟨"SEC_BUNDLE_ADDR", 0xA010, 1, [⟨0, 64, .rw, 0⟩]⟩,
  ⟨"SEC_BUNDLE_CTL", 0xA018, 1, [⟨0, 3, .wo, 0⟩, ⟨16, 32, .wo, 0⟩]⟩,
  ⟨"SEC_BUNDLE_STATUS", 0xA020, 1, [⟨0, 1, .ro, 0⟩, ⟨8, 8, .ro, 0⟩, ⟨16, 16, .ro, 0⟩]⟩,
  ⟨"SEC_DBG_NONCE", 0xA040, 8, [⟨0, 64, .ro, 0⟩]⟩]

/-- The PWR_ registers. -/
def regsPwr : List RegDesc := [
  ⟨"PWR_INPUT", 0xB000, 1, [⟨0, 16, .ro, 0⟩, ⟨16, 16, .ro, 0⟩, ⟨32, 13, .ro, 0⟩]⟩,
  ⟨"PWR_CAP", 0xB008, 1, [⟨0, 12, .ro, 0xd48⟩, ⟨16, 12, .ro, 0xd48⟩, ⟨32, 12, .ro, 0xd48⟩, ⟨44, 1, .ro, 0⟩]⟩,
  ⟨"PWR_RAMP", 0xB010, 1, [⟨0, 8, .staged, 0x14⟩, ⟨8, 4, .staged, 4⟩]⟩,
  ⟨"PWR_STATUS", 0xB018, 1, [⟨0, 1, .ro, 0⟩, ⟨1, 1, .ro, 0⟩, ⟨2, 1, .ro, 0⟩, ⟨3, 1, .ro, 0⟩, ⟨4, 1, .ro, 0⟩, ⟨5, 1, .ro, 0⟩, ⟨16,
      16, .ro, 0⟩, ⟨32, 32, .ro, 0⟩]⟩,
  ⟨"PWR_TEMP", 0xB020, 1, [⟨0, 8, .ro, 0⟩, ⟨8, 8, .ro, 0⟩, ⟨16, 8, .ro, 0⟩, ⟨24, 8, .ro, 0⟩, ⟨32, 2, .ro, 0⟩]⟩,
  ⟨"PWR_LIMIT", 0xB040, 4, [⟨0, 7, .ro, 0x40⟩, ⟨8, 7, .ro, 0x40⟩, ⟨16, 7, .ro, 0x40⟩, ⟨24, 7, .ro, 0x40⟩]⟩]

/-- The DIE_ registers. -/
def regsDie : List RegDesc := [
  ⟨"DIE_MTX_CTL", 0xC000, 1, [⟨0, 1, .staged, 1⟩, ⟨1, 1, .staged, 1⟩]⟩,
  ⟨"DIE_CTX_BASE", 0xC008, 1, [⟨16, 9, .staged, 0x17f⟩]⟩,
  ⟨"DIE_SHADOW_BASE", 0xC010, 1, [⟨16, 36, .staged, 0⟩, ⟨63, 1, .staged, 0⟩]⟩,
  ⟨"DIE_CAP", 0xC018, 1, [⟨0, 64, .ro, 0⟩]⟩,
  ⟨"DIE_STEP", 0xC020, 1, [⟨0, 8, .ro, 0⟩, ⟨8, 8, .ro, 0⟩, ⟨16, 8, .ro, 0⟩, ⟨24, 8, .ro, 0⟩, ⟨32, 8, .ro, 0⟩, ⟨40, 8, .ro, 0⟩,
      ⟨48, 8, .ro, 0⟩, ⟨56, 8, .ro, 0⟩]⟩,
  ⟨"DIE_CLK", 0xC028, 1, [⟨0, 1, .staged, 0⟩, ⟨1, 1, .staged, 0⟩, ⟨4, 1, .ro, 0⟩, ⟨5, 1, .ro, 0⟩, ⟨6, 1, .ro, 0⟩, ⟨7, 1, .ro,
      0⟩, ⟨16, 16, .ro, 0⟩]⟩,
  ⟨"DIE_RESET", 0xC030, 1, [⟨0, 3, .wo, 0⟩, ⟨4, 9, .wo, 0⟩]⟩,
  ⟨"DIE_BOOT", 0xC038, 1, [⟨0, 4, .ro, 0⟩, ⟨4, 1, .ro, 0⟩, ⟨5, 2, .ro, 0⟩, ⟨7, 1, .w1c, 0⟩, ⟨8, 4, .ro, 0⟩, ⟨16, 16, .ro, 0⟩]⟩,
  ⟨"DIE_LAT", 0xC040, 4, [⟨0, 2, .ro, 0⟩, ⟨2, 2, .ro, 0⟩, ⟨4, 1, .ro, 0⟩, ⟨5, 1, .ro, 0⟩, ⟨6, 2, .ro, 0⟩, ⟨8, 2, .ro, 0⟩, ⟨10,
      2, .ro, 0⟩, ⟨12, 1, .ro, 0⟩, ⟨13, 1, .ro, 0⟩, ⟨14, 2, .ro, 0⟩, ⟨16, 2, .ro, 0⟩, ⟨18, 2, .ro, 0⟩,
      ⟨20, 1, .ro, 0⟩, ⟨21, 1, .ro, 0⟩, ⟨22, 2, .ro, 0⟩, ⟨24, 2, .ro, 0⟩, ⟨26, 2, .ro, 0⟩, ⟨28, 1, .ro,
      0⟩, ⟨29, 1, .ro, 0⟩, ⟨30, 2, .ro, 0⟩, ⟨32, 2, .ro, 0⟩, ⟨34, 2, .ro, 0⟩, ⟨36, 1, .ro, 0⟩, ⟨37, 1,
      .ro, 0⟩, ⟨38, 2, .ro, 0⟩, ⟨40, 2, .ro, 0⟩, ⟨42, 2, .ro, 0⟩, ⟨44, 1, .ro, 0⟩, ⟨45, 1, .ro, 0⟩, ⟨46,
      2, .ro, 0⟩, ⟨48, 2, .ro, 0⟩, ⟨50, 2, .ro, 0⟩, ⟨52, 1, .ro, 0⟩, ⟨53, 1, .ro, 0⟩, ⟨54, 2, .ro, 0⟩,
      ⟨56, 2, .ro, 0⟩, ⟨58, 2, .ro, 0⟩, ⟨60, 1, .ro, 0⟩, ⟨61, 1, .ro, 0⟩, ⟨62, 2, .ro, 0⟩]⟩]

/-- The whole register map (R282). -/
def regMap : List RegDesc :=
  regsSys ++ regsHif ++ regsQtb ++ regsMem ++ regsTim ++ regsFab ++ regsCol ++ regsUpd ++ regsFlt ++ regsPmc ++ regsSec ++ regsPwr ++ regsDie

/-- Field `f` of register *n* of its series. -/
def Fld.nth (f : Fld) (n : Nat) : Fld := { f with off := f.off + 8 * n }

/-- SYS_ID.feat_level, bits [7:0] (R284). -/
def sysIdFeatLevel : Fld := ⟨0x0000, 0, 8⟩
/-- SYS_ID.map_ver, bits [15:8] (R284). -/
def sysIdMapVer : Fld := ⟨0x0000, 8, 8⟩
/-- SYS_STAGE_CTL.stg_rd, bits [0:0] (R284). -/
def sysStageCtlStgRd : Fld := ⟨0x0008, 0, 1⟩
/-- SYS_LULL_COMMIT.go, bits [0:0] (R284). -/
def sysLullCommitGo : Fld := ⟨0x0010, 0, 1⟩
/-- SYS_LULL_STATUS.req, bits [31:0] (R284). -/
def sysLullStatusReq : Fld := ⟨0x0018, 0, 32⟩
/-- SYS_LULL_STATUS.done, bits [63:32] (R284). -/
def sysLullStatusDone : Fld := ⟨0x0018, 32, 32⟩
/-- SYS_STEP_STATUS.nf, bits [0:0] (R186). -/
def sysStepStatusNf : Fld := ⟨0x0040, 0, 1⟩
/-- SYS_STEP_STATUS.brz_nf, bits [1:1] (R186). -/
def sysStepStatusBrzNf : Fld := ⟨0x0040, 1, 1⟩
/-- SYS_STEP_STATUS.last_skip, bits [2:2] (R186). -/
def sysStepStatusLastSkip : Fld := ⟨0x0040, 2, 1⟩
/-- SYS_STEP_STATUS.skip_run, bits [15:8] (R186). -/
def sysStepStatusSkipRun : Fld := ⟨0x0040, 8, 8⟩
/-- SYS_STEP_STATUS.skip_count, bits [31:16] (R186). -/
def sysStepStatusSkipCount : Fld := ⟨0x0040, 16, 16⟩
/-- SYS_STEP_STATUS.ordinal, bits [63:32] (R186). -/
def sysStepStatusOrdinal : Fld := ⟨0x0040, 32, 32⟩
/-- SYS_STEP_COUNT.step, bits [63:0] (R187). -/
def sysStepCountStep : Fld := ⟨0x0048, 0, 64⟩
/-- SYS_STEP_CTL.skip_limit, bits [7:0] (R188). -/
def sysStepCtlSkipLimit : Fld := ⟨0x0050, 0, 8⟩
/-- SYS_STEP_CTL.plan_en, bits [8:8] (R188). -/
def sysStepCtlPlanEn : Fld := ⟨0x0050, 8, 1⟩
/-- SYS_STAT_BASE.base, bits [51:16] (R189). -/
def sysStatBaseBase : Fld := ⟨0x0058, 16, 36⟩
/-- SYS_STAT_BASE.en, bits [63:63] (R189). -/
def sysStatBaseEn : Fld := ⟨0x0058, 63, 1⟩
/-- SYS_PLAN_BASE.n_m1, bits [13:0] (R190). -/
def sysPlanBaseNM1 : Fld := ⟨0x0060, 0, 14⟩
/-- SYS_PLAN_BASE.base, bits [51:16] (R190). -/
def sysPlanBaseBase : Fld := ⟨0x0060, 16, 36⟩
/-- SYS_JOB_STATUS.state, bits [3:0] (R327). -/
def sysJobStatusState : Fld := ⟨0x0068, 0, 4⟩
/-- SYS_JOB_STATUS.jf_cause, bits [15:8] (R327). -/
def sysJobStatusJfCause : Fld := ⟨0x0068, 8, 8⟩
/-- SYS_JOB_STATUS.pkg, bits [28:16] (R327). -/
def sysJobStatusPkg : Fld := ⟨0x0068, 16, 13⟩
/-- SYS_JOB_STATUS.job_id, bits [63:32] (R327). -/
def sysJobStatusJobId : Fld := ⟨0x0068, 32, 32⟩
/-- SYS_SUPV_CTL.step_to_ms, bits [15:0] (R327). -/
def sysSupvCtlStepToMs : Fld := ⟨0x0070, 0, 16⟩
/-- HIF_STATUS.width, bits [4:0] (R285). -/
def hifStatusWidth : Fld := ⟨0x1000, 0, 5⟩
/-- HIF_STATUS.rate, bits [6:5] (R285). -/
def hifStatusRate : Fld := ⟨0x1000, 5, 2⟩
/-- HIF_STATUS.cache_en, bits [7:7] (R285). -/
def hifStatusCacheEn : Fld := ⟨0x1000, 7, 1⟩
/-- HIF_STATUS.mem_en, bits [8:8] (R285). -/
def hifStatusMemEn : Fld := ⟨0x1000, 8, 1⟩
/-- HIF_STATUS.lead, bits [10:9] (R285). -/
def hifStatusLead : Fld := ⟨0x1000, 9, 2⟩
/-- HIF_DB_BASE.base, bits [63:18] (R285). -/
def hifDbBaseBase : Fld := ⟨0x1008, 18, 46⟩
/-- HIF_DB_CTL.poll_force, bits [0:0] (R285). -/
def hifDbCtlPollForce : Fld := ⟨0x1010, 0, 1⟩
/-- HIF_DB_CTL.poll_us, bits [25:16] (R285). -/
def hifDbCtlPollUs : Fld := ⟨0x1010, 16, 10⟩
/-- HIF_PRIO_W.w0, bits [7:0] (R285). -/
def hifPrioWW0 : Fld := ⟨0x1018, 0, 8⟩
/-- HIF_PRIO_W.w1, bits [15:8] (R285). -/
def hifPrioWW1 : Fld := ⟨0x1018, 8, 8⟩
/-- HIF_PRIO_W.w2, bits [23:16] (R285). -/
def hifPrioWW2 : Fld := ⟨0x1018, 16, 8⟩
/-- HIF_PRIO_W.w3, bits [31:24] (R285). -/
def hifPrioWW3 : Fld := ⟨0x1018, 24, 8⟩
/-- HIF_PRIO_W.w4, bits [39:32] (R285). -/
def hifPrioWW4 : Fld := ⟨0x1018, 32, 8⟩
/-- HIF_PRIO_W.w5, bits [47:40] (R285). -/
def hifPrioWW5 : Fld := ⟨0x1018, 40, 8⟩
/-- HIF_PRIO_W.w6, bits [55:48] (R285). -/
def hifPrioWW6 : Fld := ⟨0x1018, 48, 8⟩
/-- HIF_PRIO_W.w7, bits [63:56] (R285). -/
def hifPrioWW7 : Fld := ⟨0x1018, 56, 8⟩
/-- HIF_INT.commit_vec, bits [10:0] (R285). -/
def hifIntCommitVec : Fld := ⟨0x1020, 0, 11⟩
/-- HIF_INT.commit_ie, bits [11:11] (R285). -/
def hifIntCommitIe : Fld := ⟨0x1020, 11, 1⟩
/-- HIF_INT.qerr_vec, bits [26:16] (R285). -/
def hifIntQerrVec : Fld := ⟨0x1020, 16, 11⟩
/-- HIF_INT.qerr_ie, bits [27:27] (R285). -/
def hifIntQerrIe : Fld := ⟨0x1020, 27, 1⟩
/-- HIF_VIOL.count, bits [31:0] (R285). -/
def hifViolCount : Fld := ⟨0x1028, 0, 32⟩
/-- HIF_VIOL.last_off, bits [47:32] (R285). -/
def hifViolLastOff : Fld := ⟨0x1028, 32, 16⟩
/-- HIF_VIOL.last_wr, bits [48:48] (R285). -/
def hifViolLastWr : Fld := ⟨0x1028, 48, 1⟩
/-- QTB_SEL.q, bits [14:0] (R291). -/
def qtbSelQ : Fld := ⟨0x2000, 0, 15⟩
/-- QTB_OP.op, bits [1:0] (R291). -/
def qtbOpOp : Fld := ⟨0x2008, 0, 2⟩
/-- QTB_STATUS.busy, bits [0:0] (R291). -/
def qtbStatusBusy : Fld := ⟨0x2010, 0, 1⟩
/-- QTB_STATUS.refused, bits [1:1] (R291). -/
def qtbStatusRefused : Fld := ⟨0x2010, 1, 1⟩
/-- QTB_STATUS.err_q, bits [30:16] (R291). -/
def qtbStatusErrQ : Fld := ⟨0x2010, 16, 15⟩
/-- QTB_STATUS.err_any, bits [31:31] (R291). -/
def qtbStatusErrAny : Fld := ⟨0x2010, 31, 1⟩
/-- MEM_MAP.ilv_gib, bits [5:0] (R263). -/
def memMapIlvGib : Fld := ⟨0x3000, 0, 6⟩
/-- MEM_PT_ROOT.base, bits [51:14] (R264). -/
def memPtRootBase : Fld := ⟨0x3008, 14, 38⟩
/-- MEM_PT_ROOT.en, bits [63:63] (R264). -/
def memPtRootEn : Fld := ⟨0x3008, 63, 1⟩
/-- MEM_TLB_INV.size, bits [1:0] (R265). -/
def memTlbInvSize : Fld := ⟨0x3010, 0, 2⟩
/-- MEM_TLB_INV.va, bits [51:16] (R265). -/
def memTlbInvVa : Fld := ⟨0x3010, 16, 36⟩
/-- MEM_TLB_DONE.done, bits [31:0] (R265). -/
def memTlbDoneDone : Fld := ⟨0x3018, 0, 32⟩
/-- MEM_HEALTH_CTL.scrub_h, bits [7:0] (R266). -/
def memHealthCtlScrubH : Fld := ⟨0x3020, 0, 8⟩
/-- MEM_HEALTH_CTL.pc_cnt, bits [31:16] (R266). -/
def memHealthCtlPcCnt : Fld := ⟨0x3020, 16, 16⟩
/-- MEM_HEALTH_CTL.pc_win_s, bits [39:32] (R266). -/
def memHealthCtlPcWinS : Fld := ⟨0x3020, 32, 8⟩
/-- MEM_PAGER_CTL.en, bits [0:0] (R268). -/
def memPagerCtlEn : Fld := ⟨0x3028, 0, 1⟩
/-- MEM_PAGER_CTL.idle, bits [1:1] (R268). -/
def memPagerCtlIdle : Fld := ⟨0x3028, 1, 1⟩
/-- MEM_PAGER_CTL.spill_en, bits [2:2] (R268). -/
def memPagerCtlSpillEn : Fld := ⟨0x3028, 2, 1⟩
/-- MEM_PAGER_CTL.low_gib, bits [15:8] (R268). -/
def memPagerCtlLowGib : Fld := ⟨0x3028, 8, 8⟩
/-- MEM_PAGER_CTL.high_gib, bits [23:16] (R268). -/
def memPagerCtlHighGib : Fld := ⟨0x3028, 16, 8⟩
/-- MEM_PAGER_POOL.base, bits [51:22] (R268). -/
def memPagerPoolBase : Fld := ⟨0x3030, 22, 30⟩
/-- MEM_HDM.hdm_gib, bits [9:0] (R270). -/
def memHdmHdmGib : Fld := ⟨0x3038, 0, 10⟩
/-- MEM_HDM.hdm_va, bits [51:30] (R270). -/
def memHdmHdmVa : Fld := ⟨0x3038, 30, 22⟩
/-- MEM_LEDGER_BASE.base, bits [51:16] (R164). -/
def memLedgerBaseBase : Fld := ⟨0x3040, 16, 36⟩
/-- MEM_LEDGER_BASE.en, bits [63:63] (R164). -/
def memLedgerBaseEn : Fld := ⟨0x3040, 63, 1⟩
/-- MEM_ACC_SAT.acc_fg, bits [31:0] (R561). -/
def memAccSatAccFg : Fld := ⟨0x3048, 0, 32⟩
/-- MEM_ACC_SAT.acc_brz, bits [63:32] (R561). -/
def memAccSatAccBrz : Fld := ⟨0x3048, 32, 32⟩
/-- MEM_CXL_WIN.en, bits [0:0] (R269). Register *n* of the series stands 8*n* further. -/
def memCxlWinEn : Fld := ⟨0x3080, 0, 1⟩
/-- MEM_CXL_WIN.spill, bits [1:1] (R269). Register *n* of the series stands 8*n* further. -/
def memCxlWinSpill : Fld := ⟨0x3080, 1, 1⟩
/-- MEM_CXL_WIN.via, bits [2:2] (R269). Register *n* of the series stands 8*n* further. -/
def memCxlWinVia : Fld := ⟨0x3080, 2, 1⟩
/-- MEM_CXL_WIN.pbr_id, bits [27:16] (R269). Register *n* of the series stands 8*n* further. -/
def memCxlWinPbrId : Fld := ⟨0x3080, 16, 12⟩
/-- MEM_CXL_WIN.size, bits [50:32] (R269). Register *n* of the series stands 8*n* further. -/
def memCxlWinSize : Fld := ⟨0x3080, 32, 19⟩
/-- MEM_CXL_TGT.tgt, bits [63:30] (R269). Register *n* of the series stands 8*n* further. -/
def memCxlTgtTgt : Fld := ⟨0x30C0, 30, 34⟩
/-- MEM_PC_DRAIN.drain, bits [63:0] (R267). Register *n* of the series stands 8*n* further. -/
def memPcDrainDrain : Fld := ⟨0x3100, 0, 64⟩
/-- MEM_PC_FENCED.fenced, bits [63:0] (R267). Register *n* of the series stands 8*n* further. -/
def memPcFencedFenced : Fld := ⟨0x3180, 0, 64⟩
/-- TIM_NOW.now, bits [63:0] (R371). -/
def timNowNow : Fld := ⟨0x4000, 0, 64⟩
/-- TIM_STATUS.lock, bits [0:0] (R371). -/
def timStatusLock : Fld := ⟨0x4008, 0, 1⟩
/-- TIM_STATUS.holdover, bits [1:1] (R371). -/
def timStatusHoldover : Fld := ⟨0x4008, 1, 1⟩
/-- TIM_STATUS.role, bits [3:2] (R371). -/
def timStatusRole : Fld := ⟨0x4008, 2, 2⟩
/-- TIM_STATUS.sync_seen, bits [4:4] (R371). -/
def timStatusSyncSeen : Fld := ⟨0x4008, 4, 1⟩
/-- TIM_STATUS.mpkg, bits [28:16] (R371). -/
def timStatusMpkg : Fld := ⟨0x4008, 16, 13⟩
/-- TIM_STATUS.offset, bits [47:32] (R371). -/
def timStatusOffset : Fld := ⟨0x4008, 32, 16⟩
/-- TIM_STATUS.rtt, bits [63:48] (R371). -/
def timStatusRtt : Fld := ⟨0x4008, 48, 16⟩
/-- TIM_SCHED_T.t, bits [63:0] (R372). -/
def timSchedTT : Fld := ⟨0x4010, 0, 64⟩
/-- TIM_SCHED_CTL.go, bits [0:0] (R372). -/
def timSchedCtlGo : Fld := ⟨0x4018, 0, 1⟩
/-- TIM_SCHED_CTL.cancel, bits [1:1] (R372). -/
def timSchedCtlCancel : Fld := ⟨0x4018, 1, 1⟩
/-- TIM_SCHED_STATUS.pending, bits [0:0] (R372). -/
def timSchedStatusPending : Fld := ⟨0x4020, 0, 1⟩
/-- TIM_SCHED_STATUS.refused, bits [1:1] (R372). -/
def timSchedStatusRefused : Fld := ⟨0x4020, 1, 1⟩
/-- TIM_SCHED_STATUS.applied, bits [31:16] (R372). -/
def timSchedStatusApplied : Fld := ⟨0x4020, 16, 16⟩
/-- TIM_SCHED_STATUS.expected, bits [47:32] (R372). -/
def timSchedStatusExpected : Fld := ⟨0x4020, 32, 16⟩
/-- TIM_SCHED_STATUS.seq, bits [63:48] (R372). -/
def timSchedStatusSeq : Fld := ⟨0x4020, 48, 16⟩
/-- TIM_TT_STATUS.fg_armed, bits [0:0] (R373). -/
def timTtStatusFgArmed : Fld := ⟨0x4028, 0, 1⟩
/-- TIM_TT_STATUS.brz_armed, bits [1:1] (R373). -/
def timTtStatusBrzArmed : Fld := ⟨0x4028, 1, 1⟩
/-- TIM_TT_STATUS.brz_busy, bits [2:2] (R373). -/
def timTtStatusBrzBusy : Fld := ⟨0x4028, 2, 1⟩
/-- TIM_TT_STATUS.round, bits [63:32] (R373). -/
def timTtStatusRound : Fld := ⟨0x4028, 32, 32⟩
/-- TIM_REBASE.b, bits [63:0] (R373). -/
def timRebaseB : Fld := ⟨0x4030, 0, 64⟩
/-- TIM_LATE_BASE.base, bits [51:16] (R373). -/
def timLateBaseBase : Fld := ⟨0x4038, 16, 36⟩
/-- TIM_LATE_BASE.en, bits [63:63] (R373). -/
def timLateBaseEn : Fld := ⟨0x4038, 63, 1⟩
/-- TIM_BUDGET_FG.hbm_mib, bits [19:0] (R373). -/
def timBudgetFgHbmMib : Fld := ⟨0x4040, 0, 20⟩
/-- TIM_BUDGET_FG.used_mib, bits [63:44] (R373). -/
def timBudgetFgUsedMib : Fld := ⟨0x4040, 44, 20⟩
/-- TIM_BUDGET_BRZ.hbm_mib, bits [19:0] (R373). -/
def timBudgetBrzHbmMib : Fld := ⟨0x4048, 0, 20⟩
/-- TIM_BUDGET_BRZ.ls_page, bits [27:20] (R373). -/
def timBudgetBrzLsPage : Fld := ⟨0x4048, 20, 8⟩
/-- TIM_BUDGET_BRZ.cs_unit, bits [36:28] (R373). -/
def timBudgetBrzCsUnit : Fld := ⟨0x4048, 28, 9⟩
/-- TIM_BUDGET_BRZ.used_mib, bits [63:44] (R373). -/
def timBudgetBrzUsedMib : Fld := ⟨0x4048, 44, 20⟩
/-- TIM_BRZ_CTL.gap_us, bits [7:0] (R373). -/
def timBrzCtlGapUs : Fld := ⟨0x4050, 0, 8⟩
/-- TIM_BRZ_CTL.yields, bits [31:16] (R373). -/
def timBrzCtlYields : Fld := ⟨0x4050, 16, 16⟩
/-- TIM_BRZ_CTL.yield_max, bits [47:32] (R373). -/
def timBrzCtlYieldMax : Fld := ⟨0x4050, 32, 16⟩
/-- FAB_CTL.en, bits [0:0] (R405). -/
def fabCtlEn : Fld := ⟨0x5000, 0, 1⟩
/-- FAB_CTL.mode, bits [1:1] (R405). -/
def fabCtlMode : Fld := ⟨0x5000, 1, 1⟩
/-- FAB_CTL.pkg, bits [28:16] (R405). -/
def fabCtlPkg : Fld := ⟨0x5000, 16, 13⟩
/-- FAB_CTL.inc, bits [39:32] (R405). -/
def fabCtlInc : Fld := ⟨0x5000, 32, 8⟩
/-- FAB_TIMEOUT.to_us, bits [9:0] (R405). -/
def fabTimeoutToUs : Fld := ⟨0x5008, 0, 10⟩
/-- FAB_TIMEOUT.down_cnt, bits [19:16] (R405). -/
def fabTimeoutDownCnt : Fld := ⟨0x5008, 16, 4⟩
/-- FAB_TIMEOUT.probe_ms, bits [47:32] (R405). -/
def fabTimeoutProbeMs : Fld := ⟨0x5008, 32, 16⟩
/-- FAB_CREDIT.req_max, bits [6:0] (R405). -/
def fabCreditReqMax : Fld := ⟨0x5010, 0, 7⟩
/-- FAB_CREDIT.relay_max, bits [14:8] (R405). -/
def fabCreditRelayMax : Fld := ⟨0x5010, 8, 7⟩
/-- FAB_CREDIT.req_slots, bits [31:16] (R405). -/
def fabCreditReqSlots : Fld := ⟨0x5010, 16, 16⟩
/-- FAB_CREDIT.relay_slots, bits [47:32] (R405). -/
def fabCreditRelaySlots : Fld := ⟨0x5010, 32, 16⟩
/-- FAB_CREDIT.reply_slots, bits [63:48] (R405). -/
def fabCreditReplySlots : Fld := ⟨0x5010, 48, 16⟩
/-- FAB_BUF_BASE.base, bits [51:16] (R405). -/
def fabBufBaseBase : Fld := ⟨0x5018, 16, 36⟩
/-- FAB_ERR.crc_bad, bits [31:0] (R405). -/
def fabErrCrcBad : Fld := ⟨0x5020, 0, 32⟩
/-- FAB_ERR.misroute, bits [47:32] (R405). -/
def fabErrMisroute : Fld := ⟨0x5020, 32, 16⟩
/-- FAB_ERR.stale, bits [63:48] (R405). -/
def fabErrStale : Fld := ⟨0x5020, 48, 16⟩
/-- FAB_RESEND.resends, bits [63:0] (R405). -/
def fabResendResends : Fld := ⟨0x5028, 0, 64⟩
/-- FAB_CALM.calm, bits [0:0] (R405). -/
def fabCalmCalm : Fld := ⟨0x5030, 0, 1⟩
/-- FAB_CALM.host, bits [1:1] (R405). -/
def fabCalmHost : Fld := ⟨0x5030, 1, 1⟩
/-- FAB_CALM.fw, bits [2:2] (R405). -/
def fabCalmFw : Fld := ⟨0x5030, 2, 1⟩
/-- FAB_CALM.unacked, bits [31:16] (R405). -/
def fabCalmUnacked : Fld := ⟨0x5030, 16, 16⟩
/-- FAB_PATH_SEL.dst, bits [12:0] (R405). -/
def fabPathSelDst : Fld := ⟨0x5038, 0, 13⟩
/-- FAB_PATH_STAT.valid, bits [3:0] (R405). -/
def fabPathStatValid : Fld := ⟨0x5040, 0, 4⟩
/-- FAB_PATH_STAT.in_svc, bits [7:4] (R405). -/
def fabPathStatInSvc : Fld := ⟨0x5040, 4, 4⟩
/-- FAB_PATH_STAT.alt, bits [11:8] (R405). -/
def fabPathStatAlt : Fld := ⟨0x5040, 8, 4⟩
/-- FAB_PATH_STAT.eddies_down, bits [31:16] (R405). -/
def fabPathStatEddiesDown : Fld := ⟨0x5040, 16, 16⟩
/-- FAB_PORT.width, bits [4:0] (R406). Register *n* of the series stands 8*n* further. -/
def fabPortWidth : Fld := ⟨0x5080, 0, 5⟩
/-- FAB_PORT.rate, bits [6:5] (R406). Register *n* of the series stands 8*n* further. -/
def fabPortRate : Fld := ⟨0x5080, 5, 2⟩
/-- FAB_PORT.up, bits [7:7] (R406). Register *n* of the series stands 8*n* further. -/
def fabPortUp : Fld := ⟨0x5080, 7, 1⟩
/-- FAB_PORT.in_svc, bits [8:8] (R406). Register *n* of the series stands 8*n* further. -/
def fabPortInSvc : Fld := ⟨0x5080, 8, 1⟩
/-- FAB_PORT.fenced, bits [9:9] (R406). Register *n* of the series stands 8*n* further. -/
def fabPortFenced : Fld := ⟨0x5080, 9, 1⟩
/-- FAB_PORT.id_ok, bits [10:10] (R406). Register *n* of the series stands 8*n* further. -/
def fabPortIdOk : Fld := ⟨0x5080, 10, 1⟩
/-- FAB_PORT.pbr_id, bits [27:16] (R406). Register *n* of the series stands 8*n* further. -/
def fabPortPbrId : Fld := ⟨0x5080, 16, 12⟩
/-- FAB_PORT.plane, bits [37:32] (R406). Register *n* of the series stands 8*n* further. -/
def fabPortPlane : Fld := ⟨0x5080, 32, 6⟩
/-- COL_CTL.max_if, bits [6:0] (R443). -/
def colCtlMaxIf : Fld := ⟨0x6000, 0, 7⟩
/-- COL_MAP.slot, bits [1:0] (R443). -/
def colMapSlot : Fld := ⟨0x6008, 0, 2⟩
/-- COL_MAP.loaded, bits [5:2] (R443). -/
def colMapLoaded : Fld := ⟨0x6008, 2, 4⟩
/-- COL_STAGE.size_mib, bits [11:0] (R443). -/
def colStageSizeMib : Fld := ⟨0x6010, 0, 12⟩
/-- COL_STAGE.base, bits [51:16] (R443). -/
def colStageBase : Fld := ⟨0x6010, 16, 36⟩
/-- COL_STAGE.en, bits [63:63] (R443). -/
def colStageEn : Fld := ⟨0x6010, 63, 1⟩
/-- COL_GROUP_SEL.gid, bits [7:0] (R443). -/
def colGroupSelGid : Fld := ⟨0x6018, 0, 8⟩
/-- COL_GROUP_STAT.members, bits [13:0] (R443). -/
def colGroupStatMembers : Fld := ⟨0x6020, 0, 14⟩
/-- COL_GROUP_STAT.rank, bits [28:16] (R443). -/
def colGroupStatRank : Fld := ⟨0x6020, 16, 13⟩
/-- COL_GROUP_STAT.seq, bits [47:32] (R443). -/
def colGroupStatSeq : Fld := ⟨0x6020, 32, 16⟩
/-- COL_GROUP_STAT.defined, bits [48:48] (R443). -/
def colGroupStatDefined : Fld := ⟨0x6020, 48, 1⟩
/-- COL_GROUP_STAT.mapped, bits [49:49] (R443). -/
def colGroupStatMapped : Fld := ⟨0x6020, 49, 1⟩
/-- COL_GROUP_STAT.calm, bits [50:50] (R443). -/
def colGroupStatCalm : Fld := ⟨0x6020, 50, 1⟩
/-- COL_GROUP_STAT.recovering, bits [51:51] (R443). -/
def colGroupStatRecovering : Fld := ⟨0x6020, 51, 1⟩
/-- COL_GROUP_STAT.terms, bits [54:52] (R443). -/
def colGroupStatTerms : Fld := ⟨0x6020, 52, 3⟩
/-- COL_STATUS.sat, bits [31:0] (R443). Register *n* of the series stands 8*n* further. -/
def colStatusSat : Fld := ⟨0x6040, 0, 32⟩
/-- COL_STATUS.mism, bits [47:32] (R443). Register *n* of the series stands 8*n* further. -/
def colStatusMism : Fld := ⟨0x6040, 32, 16⟩
/-- COL_STATUS.inflight, bits [54:48] (R443). Register *n* of the series stands 8*n* further. -/
def colStatusInflight : Fld := ⟨0x6040, 48, 7⟩
/-- UPD_CTL.norm_en, bits [0:0] (R227). -/
def updCtlNormEn : Fld := ⟨0x7000, 0, 1⟩
/-- UPD_CTL.dg_en, bits [1:1] (R227). -/
def updCtlDgEn : Fld := ⟨0x7000, 1, 1⟩
/-- UPD_CTL.dg_d_m1, bits [11:2] (R227). -/
def updCtlDgDM1 : Fld := ⟨0x7000, 2, 10⟩
/-- UPD_CTL.kf_m1, bits [31:16] (R227). -/
def updCtlKfM1 : Fld := ⟨0x7000, 16, 16⟩
/-- UPD_CTL.norm_gid, bits [39:32] (R227). -/
def updCtlNormGid : Fld := ⟨0x7000, 32, 8⟩
/-- UPD_CTL.rep_gid, bits [47:40] (R227). -/
def updCtlRepGid : Fld := ⟨0x7000, 40, 8⟩
/-- UPD_CTL.exp_en, bits [48:48] (R227). -/
def updCtlExpEn : Fld := ⟨0x7000, 48, 1⟩
/-- UPD_MAXNORM.maxn, bits [31:0] (R228). -/
def updMaxnormMaxn : Fld := ⟨0x7008, 0, 32⟩
/-- UPD_NORM_STAT.norm, bits [31:0] (R229). -/
def updNormStatNorm : Fld := ⟨0x7010, 0, 32⟩
/-- UPD_NORM_STAT.clip, bits [63:32] (R229). -/
def updNormStatClip : Fld := ⟨0x7010, 32, 32⟩
/-- UPD_NORM_AUX.ref, bits [7:0] (R229). -/
def updNormAuxRef : Fld := ⟨0x7018, 0, 8⟩
/-- UPD_NORM_AUX.norm_sat, bits [8:8] (R229). -/
def updNormAuxNormSat : Fld := ⟨0x7018, 8, 1⟩
/-- UPD_NORM_AUX.inexact, bits [47:16] (R229). -/
def updNormAuxInexact : Fld := ⟨0x7018, 16, 32⟩
/-- UPD_TABLE_BASE.base, bits [51:16] (R230). Register *n* of the series stands 8*n* further. -/
def updTableBaseBase : Fld := ⟨0x7040, 16, 36⟩
/-- UPD_TABLE_BASE.en, bits [63:63] (R230). Register *n* of the series stands 8*n* further. -/
def updTableBaseEn : Fld := ⟨0x7040, 63, 1⟩
/-- UPD_EXP_RING.size_m1, bits [15:0] (R231). Register *n* of the series stands 8*n* further. -/
def updExpRingSizeM1 : Fld := ⟨0x7060, 0, 16⟩
/-- UPD_EXP_RING.base, bits [51:16] (R231). Register *n* of the series stands 8*n* further. -/
def updExpRingBase : Fld := ⟨0x7060, 16, 36⟩
/-- UPD_EXP_RING.en, bits [63:63] (R231). Register *n* of the series stands 8*n* further. -/
def updExpRingEn : Fld := ⟨0x7060, 63, 1⟩
/-- UPD_STATUS.state, bits [1:0] (R232). Register *n* of the series stands 8*n* further. -/
def updStatusState : Fld := ⟨0x7080, 0, 2⟩
/-- UPD_STATUS.gap, bits [2:2] (R232). Register *n* of the series stands 8*n* further. -/
def updStatusGap : Fld := ⟨0x7080, 2, 1⟩
/-- UPD_STATUS.held, bits [31:16] (R232). Register *n* of the series stands 8*n* further. -/
def updStatusHeld : Fld := ⟨0x7080, 16, 16⟩
/-- UPD_STATUS.dropped, bits [63:32] (R232). Register *n* of the series stands 8*n* further. -/
def updStatusDropped : Fld := ⟨0x7080, 32, 32⟩
/-- UPD_DIGEST.lane, bits [63:0] (R232). Register *n* of the series stands 8*n* further. -/
def updDigestLane : Fld := ⟨0x70A0, 0, 64⟩
/-- FLT_CTL.sq_cnt, bits [15:0] (R466). -/
def fltCtlSqCnt : Fld := ⟨0x8000, 0, 16⟩
/-- FLT_CTL.sq_s, bits [23:16] (R466). -/
def fltCtlSqS : Fld := ⟨0x8000, 16, 8⟩
/-- FLT_CTL.lost_ms, bits [31:24] (R466). -/
def fltCtlLostMs : Fld := ⟨0x8000, 24, 8⟩
/-- FLT_CTL.retry_max, bits [35:32] (R466). -/
def fltCtlRetryMax : Fld := ⟨0x8000, 32, 4⟩
/-- FLT_STATUS.fault_n, bits [0:0] (R466). -/
def fltStatusFaultN : Fld := ⟨0x8008, 0, 1⟩
/-- FLT_STATUS.uncl_ovf, bits [1:1] (R466). -/
def fltStatusUnclOvf : Fld := ⟨0x8008, 1, 1⟩
/-- FLT_STATUS.uncleared, bits [28:16] (R466). -/
def fltStatusUncleared : Fld := ⟨0x8008, 16, 13⟩
/-- FLT_STATUS.squalls, bits [47:32] (R466). -/
def fltStatusSqualls : Fld := ⟨0x8008, 32, 16⟩
/-- FLT_STATUS.retries, bits [63:48] (R466). -/
def fltStatusRetries : Fld := ⟨0x8008, 48, 16⟩
/-- FLT_SEQ.next, bits [63:0] (R466). -/
def fltSeqNext : Fld := ⟨0x8010, 0, 64⟩
/-- FLT_OLDEST.oldest, bits [63:0] (R466). -/
def fltOldestOldest : Fld := ⟨0x8018, 0, 64⟩
/-- FLT_NOTICE.base, bits [51:16] (R466). -/
def fltNoticeBase : Fld := ⟨0x8020, 16, 36⟩
/-- FLT_NOTICE.en, bits [63:63] (R466). -/
def fltNoticeEn : Fld := ⟨0x8020, 63, 1⟩
/-- PMC_VIEW.vfirst, bits [11:0] (R531). -/
def pmcViewVfirst : Fld := ⟨0x9000, 0, 12⟩
/-- PMC_UVIEW.ufirst, bits [11:0] (R531). -/
def pmcUviewUfirst : Fld := ⟨0x9008, 0, 12⟩
/-- PMC_SNAP_ADDR.addr, bits [51:6] (R531). -/
def pmcSnapAddrAddr : Fld := ⟨0x9010, 6, 46⟩
/-- PMC_SNAP_CTL.go, bits [0:0] (R531). -/
def pmcSnapCtlGo : Fld := ⟨0x9018, 0, 1⟩
/-- PMC_SNAP_CTL.first, bits [27:16] (R531). -/
def pmcSnapCtlFirst : Fld := ⟨0x9018, 16, 12⟩
/-- PMC_SNAP_CTL.n_m1, bits [39:28] (R531). -/
def pmcSnapCtlNM1 : Fld := ⟨0x9018, 28, 12⟩
/-- PMC_SNAP_STATUS.busy, bits [0:0] (R531). -/
def pmcSnapStatusBusy : Fld := ⟨0x9020, 0, 1⟩
/-- PMC_SNAP_STATUS.refused, bits [1:1] (R531). -/
def pmcSnapStatusRefused : Fld := ⟨0x9020, 1, 1⟩
/-- PMC_SNAP_STATUS.done, bits [63:32] (R531). -/
def pmcSnapStatusDone : Fld := ⟨0x9020, 32, 32⟩
/-- PMC_SAMP_RING.size_m1, bits [15:0] (R531). -/
def pmcSampRingSizeM1 : Fld := ⟨0x9028, 0, 16⟩
/-- PMC_SAMP_RING.base, bits [51:16] (R531). -/
def pmcSampRingBase : Fld := ⟨0x9028, 16, 36⟩
/-- PMC_SAMP_CTL.int_en, bits [0:0] (R531). -/
def pmcSampCtlIntEn : Fld := ⟨0x9030, 0, 1⟩
/-- PMC_SAMP_CTL.vec, bits [11:1] (R531). -/
def pmcSampCtlVec : Fld := ⟨0x9030, 1, 11⟩
/-- PMC_SAMP_CTL.agg, bits [31:16] (R531). -/
def pmcSampCtlAgg : Fld := ⟨0x9030, 16, 16⟩
/-- PMC_SAMP_STATUS.prod, bits [31:0] (R531). -/
def pmcSampStatusProd : Fld := ⟨0x9038, 0, 32⟩
/-- PMC_SAMP_STATUS.lost, bits [63:32] (R531). -/
def pmcSampStatusLost : Fld := ⟨0x9038, 32, 32⟩
/-- PMC_TRACE_BASE.size_m1, bits [15:0] (R531). -/
def pmcTraceBaseSizeM1 : Fld := ⟨0x9040, 0, 16⟩
/-- PMC_TRACE_BASE.base, bits [51:16] (R531). -/
def pmcTraceBaseBase : Fld := ⟨0x9040, 16, 36⟩
/-- PMC_TRACE_CTL.rel_en, bits [0:0] (R531). -/
def pmcTraceCtlRelEn : Fld := ⟨0x9048, 0, 1⟩
/-- PMC_TRACE_CTL.iss_en, bits [1:1] (R531). -/
def pmcTraceCtlIssEn : Fld := ⟨0x9048, 1, 1⟩
/-- PMC_TRACE_CTL.ishift, bits [12:8] (R531). -/
def pmcTraceCtlIshift : Fld := ⟨0x9048, 8, 5⟩
/-- PMC_SAMPLER.event, bits [6:0] (R531). Register *n* of the series stands 8*n* further. -/
def pmcSamplerEvent : Fld := ⟨0x9080, 0, 7⟩
/-- PMC_SAMPLER.en, bits [7:7] (R531). Register *n* of the series stands 8*n* further. -/
def pmcSamplerEn : Fld := ⟨0x9080, 7, 1⟩
/-- PMC_SAMPLER.kind, bits [10:8] (R531). Register *n* of the series stands 8*n* further. -/
def pmcSamplerKind : Fld := ⟨0x9080, 8, 3⟩
/-- PMC_SAMPLER.cl_mask_lo, bits [31:16] (R531). Register *n* of the series stands 8*n* further. -/
def pmcSamplerClMaskLo : Fld := ⟨0x9080, 16, 16⟩
/-- PMC_SAMPLER.cl_mask_hi, bits [47:32] (R531). Register *n* of the series stands 8*n* further. -/
def pmcSamplerClMaskHi : Fld := ⟨0x9080, 32, 16⟩
/-- PMC_SAMPLER.period, bits [63:48] (R531). Register *n* of the series stands 8*n* further. -/
def pmcSamplerPeriod : Fld := ⟨0x9080, 48, 16⟩
/-- SEC_STATUS.owner, bits [3:0] (R510). -/
def secStatusOwner : Fld := ⟨0xA000, 0, 4⟩
/-- SEC_STATUS.minver, bits [10:4] (R510). -/
def secStatusMinver : Fld := ⟨0xA000, 4, 7⟩
/-- SEC_STATUS.cfg_ok, bits [11:11] (R510). -/
def secStatusCfgOk : Fld := ⟨0xA000, 11, 1⟩
/-- SEC_STATUS.amend, bits [12:12] (R510). -/
def secStatusAmend : Fld := ⟨0xA000, 12, 1⟩
/-- SEC_STATUS.pending, bits [13:13] (R510). -/
def secStatusPending : Fld := ⟨0xA000, 13, 1⟩
/-- SEC_STATUS.dbg, bits [14:14] (R510). -/
def secStatusDbg : Fld := ⟨0xA000, 14, 1⟩
/-- SEC_STATUS.cfg_pending, bits [15:15] (R510). -/
def secStatusCfgPending : Fld := ⟨0xA000, 15, 1⟩
/-- SEC_STATUS.grant, bits [23:16] (R510). -/
def secStatusGrant : Fld := ⟨0xA000, 16, 8⟩
/-- SEC_IDE_STATUS.fab, bits [15:0] (R510). -/
def secIdeStatusFab : Fld := ⟨0xA008, 0, 16⟩
/-- SEC_IDE_STATUS.host, bits [16:16] (R510). -/
def secIdeStatusHost : Fld := ⟨0xA008, 16, 1⟩
/-- SEC_BUNDLE_ADDR.addr, bits [63:0] (R510). -/
def secBundleAddrAddr : Fld := ⟨0xA010, 0, 64⟩
/-- SEC_BUNDLE_CTL.op, bits [2:0] (R510). -/
def secBundleCtlOp : Fld := ⟨0xA018, 0, 3⟩
/-- SEC_BUNDLE_CTL.len, bits [47:16] (R510). -/
def secBundleCtlLen : Fld := ⟨0xA018, 16, 32⟩
/-- SEC_BUNDLE_STATUS.busy, bits [0:0] (R510). -/
def secBundleStatusBusy : Fld := ⟨0xA020, 0, 1⟩
/-- SEC_BUNDLE_STATUS.result, bits [15:8] (R510). -/
def secBundleStatusResult : Fld := ⟨0xA020, 8, 8⟩
/-- SEC_BUNDLE_STATUS.ops, bits [31:16] (R510). -/
def secBundleStatusOps : Fld := ⟨0xA020, 16, 16⟩
/-- SEC_DBG_NONCE.nonce, bits [63:0] (R510). Register *n* of the series stands 8*n* further. -/
def secDbgNonceNonce : Fld := ⟨0xA040, 0, 64⟩
/-- PWR_INPUT.vin, bits [15:0] (R560). -/
def pwrInputVin : Fld := ⟨0xB000, 0, 16⟩
/-- PWR_INPUT.iin, bits [31:16] (R560). -/
def pwrInputIin : Fld := ⟨0xB000, 16, 16⟩
/-- PWR_INPUT.pin, bits [44:32] (R560). -/
def pwrInputPin : Fld := ⟨0xB000, 32, 13⟩
/-- PWR_CAP.cap_w, bits [11:0] (R560). -/
def pwrCapCapW : Fld := ⟨0xB008, 0, 12⟩
/-- PWR_CAP.host_w, bits [27:16] (R560). -/
def pwrCapHostW : Fld := ⟨0xB008, 16, 12⟩
/-- PWR_CAP.board_w, bits [43:32] (R560). -/
def pwrCapBoardW : Fld := ⟨0xB008, 32, 12⟩
/-- PWR_CAP.brown_cap, bits [44:44] (R560). -/
def pwrCapBrownCap : Fld := ⟨0xB008, 44, 1⟩
/-- PWR_RAMP.rstep_us, bits [7:0] (R560). -/
def pwrRampRstepUs : Fld := ⟨0xB010, 0, 8⟩
/-- PWR_RAMP.head, bits [11:8] (R560). -/
def pwrRampHead : Fld := ⟨0xB010, 8, 4⟩
/-- PWR_STATUS.brown, bits [0:0] (R560). -/
def pwrStatusBrown : Fld := ⟨0xB018, 0, 1⟩
/-- PWR_STATUS.high, bits [1:1] (R560). -/
def pwrStatusHigh : Fld := ⟨0xB018, 1, 1⟩
/-- PWR_STATUS.cap_hold, bits [2:2] (R560). -/
def pwrStatusCapHold : Fld := ⟨0xB018, 2, 1⟩
/-- PWR_STATUS.therm, bits [3:3] (R560). -/
def pwrStatusTherm : Fld := ⟨0xB018, 3, 1⟩
/-- PWR_STATUS.hbm_hot, bits [4:4] (R560). -/
def pwrStatusHbmHot : Fld := ⟨0xB018, 4, 1⟩
/-- PWR_STATUS.cool_hot, bits [5:5] (R560). -/
def pwrStatusCoolHot : Fld := ⟨0xB018, 5, 1⟩
/-- PWR_STATUS.browns, bits [31:16] (R560). -/
def pwrStatusBrowns : Fld := ⟨0xB018, 16, 16⟩
/-- PWR_STATUS.hold_ms, bits [63:32] (R560). -/
def pwrStatusHoldMs : Fld := ⟨0xB018, 32, 32⟩
/-- PWR_TEMP.tj_cd, bits [7:0] (R560). -/
def pwrTempTjCd : Fld := ⟨0xB020, 0, 8⟩
/-- PWR_TEMP.tj_bd, bits [15:8] (R560). -/
def pwrTempTjBd : Fld := ⟨0xB020, 8, 8⟩
/-- PWR_TEMP.hbm, bits [23:16] (R560). -/
def pwrTempHbm : Fld := ⟨0xB020, 16, 8⟩
/-- PWR_TEMP.inlet, bits [31:24] (R560). -/
def pwrTempInlet : Fld := ⟨0xB020, 24, 8⟩
/-- PWR_TEMP.pair, bits [33:32] (R560). -/
def pwrTempPair : Fld := ⟨0xB020, 32, 2⟩
/-- PWR_LIMIT.a, bits [6:0] (R560). Register *n* of the series stands 8*n* further. -/
def pwrLimitA : Fld := ⟨0xB040, 0, 7⟩
/-- PWR_LIMIT.fth, bits [14:8] (R560). Register *n* of the series stands 8*n* further. -/
def pwrLimitFth : Fld := ⟨0xB040, 8, 7⟩
/-- PWR_LIMIT.framp, bits [22:16] (R560). Register *n* of the series stands 8*n* further. -/
def pwrLimitFramp : Fld := ⟨0xB040, 16, 7⟩
/-- PWR_LIMIT.fcap, bits [30:24] (R560). Register *n* of the series stands 8*n* further. -/
def pwrLimitFcap : Fld := ⟨0xB040, 24, 7⟩
/-- DIE_MTX_CTL.oc_skip, bits [0:0] (R101). -/
def dieMtxCtlOcSkip : Fld := ⟨0xC000, 0, 1⟩
/-- DIE_MTX_CTL.bm_skip, bits [1:1] (R101). -/
def dieMtxCtlBmSkip : Fld := ⟨0xC000, 1, 1⟩
/-- DIE_CTX_BASE.ctx_base, bits [24:16] (R163). -/
def dieCtxBaseCtxBase : Fld := ⟨0xC008, 16, 9⟩
/-- DIE_SHADOW_BASE.base, bits [51:16] (R467). -/
def dieShadowBaseBase : Fld := ⟨0xC010, 16, 36⟩
/-- DIE_SHADOW_BASE.en, bits [63:63] (R467). -/
def dieShadowBaseEn : Fld := ⟨0xC010, 63, 1⟩
/-- DIE_CAP.cap, bits [63:0] (R490). -/
def dieCapCap : Fld := ⟨0xC018, 0, 64⟩
/-- DIE_STEP.cd_step0, bits [7:0] (R490). -/
def dieStepCdStep0 : Fld := ⟨0xC020, 0, 8⟩
/-- DIE_STEP.cd_step1, bits [15:8] (R490). -/
def dieStepCdStep1 : Fld := ⟨0xC020, 8, 8⟩
/-- DIE_STEP.cd_step2, bits [23:16] (R490). -/
def dieStepCdStep2 : Fld := ⟨0xC020, 16, 8⟩
/-- DIE_STEP.cd_step3, bits [31:24] (R490). -/
def dieStepCdStep3 : Fld := ⟨0xC020, 24, 8⟩
/-- DIE_STEP.bd_step0, bits [39:32] (R490). -/
def dieStepBdStep0 : Fld := ⟨0xC020, 32, 8⟩
/-- DIE_STEP.bd_step1, bits [47:40] (R490). -/
def dieStepBdStep1 : Fld := ⟨0xC020, 40, 8⟩
/-- DIE_STEP.bd_step2, bits [55:48] (R490). -/
def dieStepBdStep2 : Fld := ⟨0xC020, 48, 8⟩
/-- DIE_STEP.bd_step3, bits [63:56] (R490). -/
def dieStepBdStep3 : Fld := ⟨0xC020, 56, 8⟩
/-- DIE_CLK.pref, bits [0:0] (R490). -/
def dieClkPref : Fld := ⟨0xC028, 0, 1⟩
/-- DIE_CLK.revert, bits [1:1] (R490). -/
def dieClkRevert : Fld := ⟨0xC028, 1, 1⟩
/-- DIE_CLK.in_use, bits [4:4] (R490). -/
def dieClkInUse : Fld := ⟨0xC028, 4, 1⟩
/-- DIE_CLK.a_ok, bits [5:5] (R490). -/
def dieClkAOk : Fld := ⟨0xC028, 5, 1⟩
/-- DIE_CLK.b_ok, bits [6:6] (R490). -/
def dieClkBOk : Fld := ⟨0xC028, 6, 1⟩
/-- DIE_CLK.holdover, bits [7:7] (R490). -/
def dieClkHoldover : Fld := ⟨0xC028, 7, 1⟩
/-- DIE_CLK.changes, bits [31:16] (R490). -/
def dieClkChanges : Fld := ⟨0xC028, 16, 16⟩
/-- DIE_RESET.kind, bits [2:0] (R491). -/
def dieResetKind : Fld := ⟨0xC030, 0, 3⟩
/-- DIE_RESET.num, bits [12:4] (R491). -/
def dieResetNum : Fld := ⟨0xC030, 4, 9⟩
/-- DIE_BOOT.stage, bits [3:0] (R491). -/
def dieBootStage : Fld := ⟨0xC038, 0, 4⟩
/-- DIE_BOOT.ready, bits [4:4] (R491). -/
def dieBootReady : Fld := ⟨0xC038, 4, 1⟩
/-- DIE_BOOT.last, bits [6:5] (R491). -/
def dieBootLast : Fld := ⟨0xC038, 5, 2⟩
/-- DIE_BOOT.rst_refused, bits [7:7] (R491). -/
def dieBootRstRefused : Fld := ⟨0xC038, 7, 1⟩
/-- DIE_BOOT.pairs_busy, bits [11:8] (R491). -/
def dieBootPairsBusy : Fld := ⟨0xC038, 8, 4⟩
/-- DIE_BOOT.ready_ms, bits [31:16] (R491). -/
def dieBootReadyMs : Fld := ⟨0xC038, 16, 16⟩
/-- Field of module `m` in DIE_LAT_l (R492): `sub` is the lowest bit within the module's byte. -/
def dieLat (l m sub width : Nat) : Fld := ⟨0xC040 + 8 * l, 8 * m + sub, width⟩

/-- The register, if any, whose offset is `o` (8-byte aligned). -/
def regAt (o : Nat) : Option RegDesc :=
  regMap.find? fun r => decide (r.off ≤ o) && decide (o < r.off + 8 * r.count) && o % 8 == 0

/-- The bits `[lo + width - 1 : lo]` of a word, all one. -/
def bitMask (lo width : Nat) : W64 := BitVec.ofNat 64 ((2 ^ width - 1) * 2 ^ lo)

/-- The bits of a register whose fields have an access code of which `p` holds. -/
def RegDesc.mask (r : RegDesc) (p : Access → Bool) : W64 :=
  r.fields.foldl (fun m f => if p f.access then m ||| bitMask f.lo f.width else m) 0

/-- The bits of a register that no named field covers: reserved. -/
def RegDesc.reserved (r : RegDesc) : W64 := ~~~ (r.mask fun _ => true)

/-- The bits of the word at offset `o` that a named field covers: a register's storage (R278). -/
def fieldBits (o : Nat) : W64 :=
  match regAt o with
  | some r => r.mask fun _ => true
  | none => 0

/-- Whether the register has a field that a write can act on (R278). -/
def RegDesc.writable (r : RegDesc) : Bool := r.fields.any fun f => f.access != .ro

/-- The value after a cold reset of the register at offset `o` (R8). -/
def regReset (o : Nat) : W64 :=
  match regAt o with
  | some r => r.fields.foldl (fun m f => m ||| BitVec.ofNat 64 (f.reset * 2 ^ f.lo)) 0
  | none => 0

end Sys2Proof.Machine
end

