-- ==== Sys2Proof/Machine/State.lean ====
section
/-! DEFINITION. The state of the block: everything the spec gives the module, as plain data, and the queue of
waiting commands. Sets of unit numbers are rising lists of naturals; sparse maps are canonical (Machine/Sparse.lean). -/

namespace Sys2Proof.Machine

/-- The block's commands never stop with a fault: the spec's fault reactions (messages, fences, statuses) are effects
on the state. No constructor: safe, since nothing can be proved to fault. -/
inductive Fault where
  deriving DecidableEq, Repr

/-- Why a command has no next state. -/
inductive Refusal where
  /-- A row of the opcode table whose meaning is not written yet: raised by the dispatch alone. Safe. -/
  | notModelled (mnemonic : String)
  deriving DecidableEq, Repr

/-! ### Registers, commit and scheduled change (R7, R23, R280, R360) -/

/-- Units out of service: cores, clusters and compute dies (R17). Ports, modules and pseudo-channels have their
fence bits in registers (R267, R406, R492). -/
structure Fences where
  cores    : List Nat
  clusters : List Nat
  dies     : List Nat
  deriving DecidableEq, Repr

/-- A commit in progress (R23): the request count it started at, the units paused, the fences when it started, fabric ports among them
(R24), whether the device lull has passed and values wait for the next close (R191, R226), the cores whose matrix stream has stopped for
it. -/
structure Commit where
  req    : BitVec 32
  paused : List UnitId
  fenced : Fences
  lulled : Bool
  ports  : List Nat
  stops  : List Nat
  deriving DecidableEq, Repr

/-- The set captured by SCHEDULE_CHANGE (R360): the time, the values, the bits, the units that have applied it. -/
structure Sched where
  t       : Nat
  vals    : Sparse W64
  bits    : Sparse W64
  applied : List UnitId
  deriving DecidableEq, Repr

/-- The set-up registers: active words, staged words and the bits that hold a staged change, the commit that runs,
whether a further one is requested, the scheduled set, and committed values that wait for the next close (R191, R226). -/
structure RegFile where
  act      : Sparse W64
  stg      : Sparse W64
  stgBits  : Sparse W64
  commit   : Option Commit
  again    : Bool
  sched    : Option Sched
  wait     : Sparse W64
  waitBits : Sparse W64
  deriving DecidableEq, Repr

/-! ### Memory (08) -/

/-- A translation held by a TLB (R252): page base and size, frame, write permission, whether d is already set, the leaf entry it came
from. -/
structure TlbEnt where
  va    : Nat
  size  : Nat
  frame : Nat
  w     : Bool
  d     : Bool
  leaf  : Nat
  deriving DecidableEq, Repr

/-- A page move in progress, also the pager's move record (R255, R483). -/
structure Move where
  va   : Nat
  leaf : Nat
  src  : Nat
  dst  : Nat
  org  : Nat
  deriving DecidableEq, Repr

/-- A host CXL.mem access that waits for a page being moved (R255): its offset, the data of a write, whether the host
keeps the line. -/
structure HdmReq where
  off  : Nat
  data : Option (List Byte)
  own  : Bool
  deriving DecidableEq, Repr

/-- The memory system beside its bytes: TLBs (0 to 31 by cluster, 32 to 35 by base die), invalidations not completed,
the page move in progress, the move record a warm reset left, the times of corrected codewords per pseudo-channel
(64 × stack + pc), codewords scrub has logged, drains that have sent drain-stalled, the HDM snoop filter's lines,
CXL-window lines whose access failed, spill-window frames in use, leaf entries that the pager has split, as they stood, and their
64 KiB entries (in the device-reserved region, R256), host accesses that wait for a move. -/
structure MemUnit where
  tlbs     : Sparse (List TlbEnt)
  invs     : Nat
  move     : Option Move
  moveRec  : Option Move
  pcErr    : Sparse (List Nat)
  scrubLog : List Nat
  stalled  : List Nat
  snoop    : List Nat
  cxlErr   : List Nat
  spilled  : List Nat
  splits   : Sparse W64
  split    : Sparse W64
  hdmWait  : List HdmReq
  deriving DecidableEq, Repr

/-! ### Queues (09) -/

/-- A queue context (R288): words 0 to 3, the device's and the host's count, state, error code, lost messages. -/
structure QCtx where
  w0    : W64
  w1    : W64
  w2    : W64
  w3    : W64
  dev   : W64
  host  : W64
  state : BitVec 2
  err   : BitVec 8
  lost  : BitVec 32
  deriving DecidableEq, Repr

/-- A submission entry fetched and not completed (R289, R303): its queue, its index, its 64 bytes, whether it has
started, and the status with which it completes without running once the entries before it have completed. -/
structure Entry where
  q       : Nat
  x       : Nat
  bytes   : List Byte
  started : Bool
  fail    : Option Nat
  deriving DecidableEq, Repr

/-- A completion held for want of room (R304), without its phase: queue to post to, submission queue, result, cid,
sq_head, status, time. -/
structure Cpl where
  cq     : Nat
  sq     : Nat
  result : W64
  cid    : BitVec 16
  head   : BitVec 32
  status : BitVec 16
  time   : Nat
  deriving DecidableEq, Repr

/-- What an outbound queue has written since its last MSI-X message (R302): how many entries, the oldest one's time. -/
structure Fresh where
  n     : Nat
  since : Nat
  deriving DecidableEq, Repr

/-- What a queue owes while a page of its ring or write-back is being moved, in order (R255, R303): bytes, or an MSI-X vector. -/
inductive Owed where
  | write (q addr : Nat) (bytes : List Byte)
  | message (q vec : Nat)
  deriving DecidableEq, Repr

/-- Where a host read goes: configuration space, or a BAR (R273, R274). -/
inductive HostSpace where
  | config
  | bar0
  | bar2
  | bar4
  deriving DecidableEq, Repr

/-- A read by the host: space, offset and size in bytes (R277, R522). -/
structure HostRead where
  space : HostSpace
  off   : Nat
  size  : Nat
  deriving DecidableEq, Repr

/-- Queues, doorbell cache, MSI-X (the table's addresses and data, mask and pending bits) and the host port's holds; what queues owe while
pages are moved; by DMA queue the producer count at which its next chain was found incomplete (R296); host reads that have arrived,
oldest first (R279). -/
structure QueueUnit where
  ctx     : Sparse QCtx
  run     : List Entry
  fresh   : Sparse Fresh
  held    : List Cpl
  rr      : Sparse Nat
  served  : Sparse Nat
  op      : Option (Nat × Nat)
  lines   : List Nat
  stale   : List Nat
  masked  : List Nat
  fnMask  : Bool
  msixPnd : List Nat
  down    : Option Nat
  owed    : List Owed
  short   : Sparse Nat
  vecAddr : Sparse W64
  vecData : Sparse W32
  reads   : List HostRead
  deriving DecidableEq, Repr

/-! ### Faults (14) -/

/-- A fault message (R445): the system time at detection, kind, class, source, count, arg, the elapsed time at detection (R5, R449). -/
structure Msg where
  time  : Nat
  kind  : Nat
  cls   : Nat
  src   : Src
  count : Nat
  arg   : BitVec 48
  born  : Nat
  deriving DecidableEq, Repr

/-- A record of the log ring (R450): the message, its log sequence number, and whether it has been cleared. -/
structure LogRec where
  msg     : Msg
  seq     : Nat
  cleared : Bool
  deriving DecidableEq, Repr

/-- Corrected events of one source, for the squall bound (R453). -/
structure Squall where
  src   : Src
  time  : Nat
  count : Nat
  kind  : Nat
  deriving DecidableEq, Repr

/-- Fault collection: messages detected and waiting to be logged (oldest first), merge windows open, the log ring,
the uncleared table, corrected events within the squall window, the sources and kinds silenced, the log sequence number up to which a vote or restore has settled suspects (R462), that up to which a discard of the step has done so, whether the open step has met a
failure of R458, whether a notice of it has come, whether a retry is under way (R459). -/
structure FaultUnit where
  msgs    : List Msg
  merge   : List Msg
  log     : List LogRec
  uncl    : List LogRec
  events  : List Squall
  silent  : List (Src × Nat)
  voted   : Nat
  redone  : Nat
  retry   : Bool
  noticed : Bool
  retrying : Bool
  deriving DecidableEq, Repr

/-! ### Counters (17) -/

/-- A snapshot in progress (R524): its instant, first block, number of blocks, and its record once T has come. -/
structure Snap where
  t     : Nat
  first : Nat
  n     : Nat
  data  : List Byte
  deriving DecidableEq, Repr

/-- The counters by number (R511), per sampler and core (512 × sampler + core) the events since its last reload (R526),
samples since the last MSI-X, the snapshot in progress, trace records written, instructions issued per core for the
trace (R528), the counter grant in force (R326), the arithmetic cycle at which all blocks were cleared and by core a later one (R512), the
cycles with a segment released by core (R514), the move-class accesses by core that its move slot has still to take (R519). -/
structure Pmc where
  ctr     : Sparse Nat
  samp    : Sparse Nat
  sampNew : Nat
  snap    : Option Snap
  trace   : Nat
  issued  : Sparse Nat
  grant   : Nat
  zero    : Nat
  zeros   : Sparse Nat
  busy    : Sparse Nat
  moves   : Sparse Nat
  deriving DecidableEq, Repr

/-! ### Cores and clusters (03 to 06) -/

/-- A statistics slot or record (R172). -/
structure Stat where
  pmax : Int
  sat  : Nat
  nfb  : Nat
  nz   : Nat
  uf   : Nat
  deriving DecidableEq, Repr

/-- The timetable entry instance, or one-off entry, that a unit works for (R347, R354, R368): dispatcher, breeze or
foreground, entry, round, the logical core, the domain whose event counters it names, the work words; for a one-off entry
its queue and cid, and then `entry` is its place among those accepted. -/
structure Work where
  disp  : Nat
  brz   : Bool
  entry : Nat
  round : Nat
  lcore : Nat
  dom   : Nat
  w0    : W64
  w1    : W64
  one   : Option (Nat × BitVec 16)
  deriving DecidableEq, Repr

/-- What the sequencer of a core does: nothing released, issuing, waiting in EVWAIT for a counter to reach a value,
stopped at an instruction (R79). -/
inductive Run where
  | idle
  | issuing
  | waiting (ctr : Nat) (v : W32)
  | stopped
  deriving DecidableEq, Repr

/-- A queue entry (R135): the instruction words, the latched scalars in the order the instruction names them, its place in
issue order, its PC, the cycle of its issue. -/
structure QEnt where
  w0  : W64
  w1  : W64
  lat : List W64
  seq : Nat
  pc  : Nat
  cyc : Nat
  deriving DecidableEq, Repr

/-- A chunk of a live row of a running tile: its occupancy bit, whether some enabled engine has it (R83), and for engines 0 to 3 what a
cycle that feeds it is: 0 retired, 1 to 3 wasted by block map, causal predicate or no lane adding, 4 starved-front (R88). -/
structure FeedPlan where
  occ : Bool
  blk : Bool
  eng : List Nat
  deriving DecidableEq, Repr

/-- A row of a running tile: its number, whether it is live, the cycle at its boundary, its chunks, and oc_skip and bm_skip as they were
there (R87, R101). -/
structure RowPlan where
  row    : Nat
  live   : Bool
  start  : Nat
  chunks : List FeedPlan
  oc     : Bool
  bm     : Bool
  deriving DecidableEq, Repr

/-- An MMT, or a part of one, that has started and not completed its writes: its entry, the accumulators and bank records as they stood
before it, the first cycle that can feed, its rows, the banks whose writes are outstanding. -/
structure MmtRun where
  ent   : QEnt
  pre   : Sparse W32
  bank  : Sparse Nat
  first : Nat
  rows  : List RowPlan
  banks : List Nat
  deriving DecidableEq, Repr

/-- The instruction that the vector engine runs: its entry, its first and last cycle, the scalar register it writes, the
bank it drains, whether its bank requests go first (R128), whether it has an active element or writes something (R519), the ranges of the local store that
it writes (R132). -/
structure VecRun where
  ent   : QEnt
  start : Nat
  stop  : Nat
  dst   : Option Nat
  bank  : Option Nat
  first : Bool
  live  : Bool
  puts  : List (Nat × Nat)
  deriving DecidableEq, Repr

/-- A fold request (R174): the slot's values, the record's address, the ledger tag. -/
structure Fold where
  stat : Stat
  addr : Nat
  tag  : W32
  deriving DecidableEq, Repr

/-- What a core keeps of a pre-empted breeze program beside its context slot and reserves (R161): its work, the reserves in
force, its restart facts, the place in issue order and the PC of each queue entry, matrix queue first, the records of R79 and R91, the cycle
at which the writes of R161 end. -/
structure Saved where
  work   : Work
  vrsv   : Option Nat
  vlive  : W32
  mrsv   : Option Nat
  tb     : Nat
  since  : Nat
  accs   : Bool
  order  : List (Nat × Nat)
  wrec   : Sparse Nat
  bank   : Sparse Nat
  safeAt : Nat
  deriving DecidableEq, Repr

/-- A core: sequencer (R134, R135), queues, vector engine (R102), lanes (R71), records of R79 and R91, running units,
statistics slots, folds to apply, the grant as of the segment's start (R523), instructions issued since the latest mark and
to be redone (R521), whether an accumulating write or fold of the segment has started (R154, R175), a started tile whose bank 1 is
not yet free with the row it goes on at (R80), the cycle from which the matrix queue may go on behind a removed tile (R87), by bank the cycle at
which the latest tile's writes to it were complete (R80, R94), by product (`vMakes`) the cycle in which a recent vector instruction has made it (R128),
the check differences of the coded lines of lanes and vector engine (R72, R132), local
store. Keys: vector register n × 2048 + element; lane storage ((engine × 2 + buffer) × 128 + lane) × 256 + byte; accumulator
(engine × 128 + lane) × 128 + index; buffer and bank records engine × 2 + number; coded lines, four each, of buffer
(engine × 2 + buffer) × 128 + lane from 0 and of accumulator bank (engine × 128 + lane) × 2 + bank from 4,096, vector register
lines n × 128 + line from 8,192, predicate lines n × 4 + line from 12,288. -/
structure Core where
  pc     : Nat
  s      : Sparse W64
  run    : Run
  work   : Option Work
  mq     : List QEnt
  vq     : List QEnt
  seq    : Nat
  v      : Sparse W32
  p      : Sparse Bool
  vstat  : W64
  tb     : Nat
  vrsv   : Option Nat
  vlive  : W32
  mrsv   : Option Nat
  wb     : Sparse Byte
  gate   : Sparse Bool
  wrec   : Sparse Nat
  wword  : Sparse (W64 × W64)
  wend   : Sparse Nat
  mwend  : Nat
  acc    : Sparse W32
  bank   : Sparse Nat
  mmts   : List MmtRun
  vrun   : Option VecRun
  vdone  : Sparse Nat
  slots  : Sparse Stat
  folds  : List Fold
  grant  : Nat
  since  : Nat
  redo   : Nat
  accs   : Bool
  saved  : Option Saved
  rest   : Option (QEnt × Nat)
  mfree  : Nat
  bdone  : Sparse Nat
  code   : Sparse W32
  ls     : Store
  deriving DecidableEq, Repr

/-- What a DMA channel does: nothing; a descriptor to begin; moving; halted by a translation (R156); all of the descriptor
done with a status, which the completion is to report. -/
inductive ChanSt where
  | idle
  | ready
  | moving
  | halted
  | finished (status : Nat)
  deriving DecidableEq, Repr

/-- What a chain runs for: a segment on a core that issued DMAGO, a timetable entry, a DMA submission queue. -/
inductive Owner where
  | core (c : Nat)
  | entry
  | queue (q : Nat)
  deriving DecidableEq, Repr

/-- A DMA channel (R144, R145): state; the descriptor's address, its words once begun; breeze chain; the core that self
names; what it runs for; next 4 KiB unit; what was read once (row mask, list base and count); whether it is paused, whether it has yielded its channel (R363), whether
it is halted by a page being moved (R255); blocks
of the drain stream received and not consumed (scale code, element bytes), the cores whose streams have stopped for it, whether it has
ended for that reason, without a message (R160); the bytes of the destination row that the last unit left unfinished, for its occupancy word (R150). -/
structure Chan where
  st     : ChanSt
  addr   : Nat
  q      : List W64
  brz    : Bool
  core   : Option Nat
  owner  : Owner
  work   : Option Work
  pos    : Nat
  mask   : Nat
  lbase  : Nat
  lcount : Nat
  pause  : Bool
  lent   : Bool
  mv     : Bool
  stream : List (Nat × List Byte)
  cut    : List Nat
  hush   : Bool
  tail   : List Byte
  deriving DecidableEq, Repr

/-! ### Timetables and dispatch (11) -/

/-- A released instance (R353): its work, its start, its bytes of R346, how its work has ended, if it has, the quiet flag of a one-off
entry, whether it fails without a message (the FENCED ending of R160), and the cause of what held its release back (R358). -/
structure Inst where
  work  : Work
  start : Nat
  bytes : List Byte
  ended : Option Bool
  quiet : Bool
  hush  : Bool
  cause : Nat
  deriving DecidableEq, Repr

/-- An installed timetable (R345): its entries, its period, the t0 it was armed with, whether it is armed, how many instances
of each entry have completed. -/
structure Timetable where
  ents   : List (List Byte)
  period : Nat
  t0     : Nat
  armed  : Bool
  done   : Sparse Nat
  deriving DecidableEq, Repr

/-- A one-off entry that a dispatcher has accepted and not released (R368): its place among those accepted, its bytes in the
layout of R346, its queue, cid and quiet flag. -/
structure One where
  id    : Nat
  bytes : List Byte
  q     : Nat
  cid   : BitVec 16
  quiet : Bool
  deriving DecidableEq, Repr

/-- A charge held (R365): which budget, how much, and the instance whose completion returns it. -/
structure Charge where
  brz   : Bool
  mib   : Nat
  entry : Nat
  round : Nat
  one   : Option (Nat × BitVec 16)
  deriving DecidableEq, Repr

/-- A candidate that is not released though its floor has passed, as it stood at the latest tick (R353, R358, R365): its entry (for a one-off,
its place), round, breeze or foreground, one-off or not; the causes of R358 whose conditions were not met; since when, in elapsed time,
its charge alone has held it back; whether its budget-wait message is sent. -/
structure Held where
  brz    : Bool
  one    : Bool
  entry  : Nat
  round  : Nat
  causes : List Nat
  since  : Option Nat
  told   : Bool
  deriving DecidableEq, Repr

/-- A segment of a fenced core that a peer is to resume (R160, R521): its work, the fenced core, the instructions to be redone, whether it
had made an accumulating write or a fold (R154, R175). -/
structure Moved where
  work : Work
  core : Nat
  redo : Nat
  accs : Bool
  deriving DecidableEq, Repr

/-- The dispatchers (R353 to R368): both timetables, released instances, the physical core of each logical core
(16 × cluster + lcore) where it differs from its own, the rebases of the arming (round, rel, B), floors kept by instances
eligible at a rebase (entry, round, floor), entries whose instance has failed, the last round that may be released,
one-off entries accepted and the number of the next, charges held, the largest lateness and the latest completion time per table entry
(R355), breeze chains whose channel a foreground chain has taken, candidates held back past their floors, a map switch under way (slot, its work,
the collectives it waits for), segments that wait for a peer core, chains that wait for a taking cluster's channel (R454),
whether the breeze is stopped (R318, R321). -/
structure DispUnit where
  fg      : Timetable
  brz     : Timetable
  insts   : List Inst
  lmap    : Sparse Nat
  rebases : List (Nat × Nat × Nat)
  early   : List (Nat × Nat × Nat)
  failed  : List (Bool × Nat)
  last    : Option Nat
  ones    : List One
  oneNext : Nat
  charges : List Charge
  late    : Sparse Nat
  doneAt  : Sparse Nat
  parked  : Sparse Chan
  waits   : List Held
  mapSw   : Option (Nat × Work × List Nat)
  moved   : List Moved
  movedCh : List (Nat × Chan)
  halt    : Bool
  deriving DecidableEq, Repr

/-! ### Update units (07) -/

/-- A pass on an update unit (R211, R212): the entry instance it runs for, pass kind, last descriptor of the range, descriptor
in progress, next block, *n*, whether the descriptor has begun, the descriptor's digest lanes so far, the LAMB
sums so far, whether it is paused; whether it has taken its first turn, the pass record that it has written, the hyper-parameter sets it has
read, from which its scalars are formed once (R199), the descriptor's lp (R202). `rec_` is the descriptor that its valid pass record names. -/
structure Pass where
  work   : Option Work
  kind   : Nat
  last   : Nat
  desc   : Nat
  blk    : Nat
  n      : W64
  begun  : Bool
  dig    : List W64
  sw     : W32
  sr     : W32
  paused : Bool
  fresh  : Bool
  rec_   : Option Nat
  sets   : List (Nat × List Byte)
  lp     : Nat
  deriving DecidableEq, Repr

/-- Where a unit's export goes (R325): nothing, a host export queue, a ring in another package (package, address, size, bytes
produced, bytes consumed as last read). -/
inductive Sink where
  | none
  | queue (q : Nat)
  | ring (pkg addr size prod cons : Nat)
  deriving DecidableEq, Repr

/-- A restore whose digest pass runs (R216): the descriptor, the tag, the digest it must show, the tags that stood before, the bytes written. -/
structure Restore where
  desc : Nat
  tag  : Nat
  want : List W64
  old  : List Byte
  n    : Nat
  deriving DecidableEq, Repr

/-- An update unit: the pass, *S* of R208 with the elements that left a remainder and whether it saturated in the step, the unit digest of the step, the export ring's counts of bytes written and
forwarded, the tag whose step-begin record is written, block records of that step, a gap in progress (first step, records
dropped), the sink, descriptors restored for START (descriptor, tag), the descriptor torn, the bytes of the record on its way to a
sink ring (0 none), descriptor ranges whose update pass the firmware is still to run (R321, R329), the passes that stand behind the
running one, the next first (R213, R216, R363), what that digest pass is to confirm (R216), the image that PEER_RESTORE has brought, with its descriptor (R333),
and the sink that it takes at its next record boundary (R325). -/
structure Upd where
  run     : Option Pass
  sum     : Nat
  inexact : Nat
  nsat    : Bool
  dig     : List W64
  prod    : Nat
  fwd     : Nat
  tag     : Option Nat
  blocks  : Nat
  gap     : Option (Nat × Nat)
  sink    : Sink
  restored : List (Nat × Nat)
  torn    : Option Nat
  flight  : Nat
  todo    : List (Nat × Nat)
  kept    : List Pass
  restore : Option Restore
  image   : Option (Nat × List Byte)
  sinkNew : Option Sink
  deriving DecidableEq, Repr

/-! ### Collectives (13) -/

/-- An entry of a group map (R412). -/
structure MapEnt where
  gid   : Nat
  alg   : Nat
  ports : Nat
  wbase : Nat
  wn    : Nat
  deriving DecidableEq, Repr

/-- What a collective runs for: a queue entry (queue, cid, quiet), a timetable instance, the firmware. -/
inductive CollOwner where
  | queue (q : Nat) (cid : BitVec 16) (quiet : Bool)
  | work (w : Work)
  | firmware
  deriving DecidableEq, Repr

/-- Where a collective stands: entered and waiting at its rendezvous, exchanging data, its data in place, in recovery after a
mismatch, ended with a status. -/
inductive CollSt where
  | entered
  | exchanging
  | done
  | recovering
  | ended (status : Nat)
  deriving DecidableEq, Repr

/-- A collective in flight (R415, R420): its number, engine, opcode, words q1 to q7, owner, group sequence number, window, when it
entered in system time and in elapsed time, the rendezvous time once known, its local error, its state, F and the vote request it contributed (R433, R462), the gusts
received for it (source, offset, payload), the members of its group and of its upper group in rank order, members that have left,
the bytes requested so far (COPY) or the rounds done (PERMUTE), s8 of its plan entry, the map slot that its engine worked by when it entered
(R367, R421), the ports that its gusts may leave through (R414). -/
structure Coll where
  id    : Nat
  eng   : Nat
  op    : Nat
  q     : List W64
  owner : CollOwner
  seq   : Nat
  win   : Nat
  start : Nat
  since : Nat
  rdv   : Nat
  err   : Nat
  st    : CollSt
  flag  : Bool
  vote  : Bool
  got   : List (Nat × Nat × List Byte)
  mem   : List Nat
  umem  : List Nat
  gone  : List Nat
  pos   : Nat
  s8    : Nat
  slot  : Nat
  ports : Nat
  deriving DecidableEq, Repr

/-- Groups, maps and collectives (R408 to R422): the terms of each group, group sequence numbers, the four map slots, collectives
in flight, the next number, by residual address E_r and the step counter plus 1 at which it last changed (R429), groups held by a
calm (R324), groups in recovery, the step counter plus 1 at which an admitted package's residuals count as zero (R332; 0 none). -/
structure ColUnit where
  groups : Sparse (List (Nat × Nat))
  seqs   : Sparse Nat
  maps   : Sparse (List MapEnt)
  live   : List Coll
  next   : Nat
  resid  : Sparse (Nat × Nat)
  calm   : List Nat
  rec_   : List Nat
  zeroAt : Nat
  deriving DecidableEq, Repr

/-! ### What leaves the block -/

/-- An SPDM response (R501, R502): the named message with what this manual gives it. Signatures and certificates are bytes. -/
inductive Spdm where
  | version
  | capabilities
  | algorithms (chosen : Nat)
  | digests (slot0 : List Byte)
  | certificate (bytes : List Byte) (rest : Nat)
  | challengeAuth (sig : List Byte)
  | measurementCount (n : Nat) (sig : List Byte)
  | measurements (blocks : List (Nat × Bool × List Byte)) (sig : List Byte)
  | keyExchange (session : Nat) (sig : List Byte)
  | finish (session : Nat)
  | heartbeat (session : Nat)
  | keyUpdate (session : Nat)
  | endSession (session : Nat)
  | unsupported
  | error
  | ideKm (session : Nat)
  deriving DecidableEq, Repr

/-- What the carrier controller answers or sends on the sideband (R554 to R556). -/
inductive Sideband where
  | provisionalId (serial : List Byte)
  | value (x : Int)
  | state (x : Nat)
  | unavailable
  | ok
  | invalidData
  | fru (serial : List Byte)
  | base (tid : Nat)
  | event (code time : Nat)
  deriving DecidableEq, Repr

/-- What the block sends out, oldest first. -/
inductive Output where
  /-- A posted write to host memory through CXL.io (R275). -/
  | hostWrite (addr : Nat) (bytes : List Byte)
  /-- An MSI-X message (R302). -/
  | msix (vec : Nat) (addr : W64) (data : W32)
  /-- What a host read returns (R277, R522). -/
  | readData (r : HostRead) (bytes : List Byte)
  /-- A back-invalidate snoop of a line the host holds (R262). -/
  | biSnoop (line : Nat)
  /-- A write to CXL-attached memory: the fabric port and the PBR ID when it goes through the fabric, the target address, the bytes (R261). -/
  | cxlWrite (via : Option (Nat × Nat)) (target : Nat) (bytes : List Byte)
  /-- A read of CXL-attached memory: the fabric port and the PBR ID, the target address, the number of bytes (R261). -/
  | cxlRead (via : Option (Nat × Nat)) (target n : Nat)
  /-- The answer to a host CXL.mem read: the data, and whether it carries CXL poison (R245, R262). -/
  | memData (bytes : List Byte) (poison : Bool)
  /-- A gust on a fabric port to a PBR ID (R381). -/
  | gust (port pbr : Nat) (bytes : List Byte)
  /-- This package's contribution to a rendezvous, along the barrier paths of group `gid` (R420, R433, R462): signature, member count, group
  sequence number, entry time, local error code, blocks of its lower chunk, its non-finite flag, its vote request. -/
  | rendezvous (gid : Nat) (sig : W64) (n seq time err blocks : Nat) (flag vote : Bool)
  /-- An abort of a collective, along its group's barrier paths: group, sequence number, status (R438). -/
  | collAbort (gid seq status : Nat)
  /-- A level on a pin of the module: name and value (R451, R535, R553). -/
  | pin (name : String) (high : Bool)
  /-- An SPDM response on a DOE mailbox (R501). -/
  | spdm (mailbox : Nat) (r : Spdm)
  /-- A message on the management sideband (R554). -/
  | i3c (r : Sideband)
  deriving DecidableEq, Repr

/-! ### Dies, clocks, lead (01, 15) -/

/-- The package: the fences, units with a fault whose fence has not come yet (cores, 512 + clusters, 544 + compute dies), the capability message each die sent last (0 to 3 compute, 4 to 7 base; R469), the pairs
whose UCIe-3D interface trained (R468), complexes that passed self-test (R25), the lead, its missed heartbeats and the system time of the latest
exchange (R26),
clusters whose copy to the shadow has not been made (R456). -/
structure Pkg where
  fences   : Fences
  faulted  : List Nat
  caps     : Sparse W64
  complex  : List Nat
  lead     : Nat
  hbMissed : Nat
  hbAt     : Nat
  shadows  : List Nat
  deriving DecidableEq, Repr

/-- What a command that has started and not completed waits for (R307, R321, R322, R324, R332, R361). -/
inductive Waiting where
  | stop (now : Bool)
  | stopBreeze
  | admits (until_ : Nat)
  | calm (since : Nat) (group : Option Nat)
  | drain (stack pc : Nat)
  | cap (watts t : Nat)
  | restore (d desc src : Nat)
  | close
  | expel
  deriving DecidableEq, Repr

/-- A command that runs: its queue, cid, quiet flag, its class (0 J, 1 F, 2 R), what it waits for; whether the foreground and the breeze
timetable were armed and the breeze stopped before it (R310). -/
structure RunCmd where
  q     : Nat
  cid   : BitVec 16
  quiet : Bool
  cls   : Nat
  what  : Waiting
  fg    : Bool
  brz   : Bool
  halt  : Bool
  deriving DecidableEq, Repr

/-- The close of R166 under way: F and the vote request of the barrier, whether the decision has been made, whether the reduced
close error is 1 (R562), whether START has taken up a close whose passes the firmware runs, and then whether the ordinal is still to
advance (R321, R329). -/
structure Close where
  f       : Bool
  vote    : Bool
  decided : Bool
  err     : Bool
  redo    : Option Bool
  deriving DecidableEq, Repr

/-! ### Fabric transport (12) -/

/-- A gust sent and not acknowledged (R397, R398): destination, eclass, operation, window, sequence number, argument, address,
payload, the path and port of its latest copy, when that was sent, who sent it (a number the sender chose). -/
structure TxGust where
  dst     : Nat
  eclass  : Nat
  op      : Nat
  win     : Nat
  seq     : Nat
  aseq    : Nat
  addr    : Nat
  payload : List Byte
  path    : Nat
  port    : Nat
  time    : Nat
  user    : Nat
  deriving DecidableEq, Repr

/-- A gust staged for relay (R394): its bytes, the upstream package, the stage, when it arrived. -/
structure Relay where
  bytes : List Byte
  up    : Nat
  stage : Nat
  time  : Nat
  deriving DecidableEq, Repr

/-- An ask that waits for its grant (R390): package, window, level wanted, when it was sent last. -/
structure Ask where
  pkg  : Nat
  win  : Nat
  want : Nat
  time : Nat
  deriving DecidableEq, Repr

/-- A level being returned (R390): package, window, level kept, when the return was sent last. -/
structure Ret where
  pkg  : Nat
  win  : Nat
  kept : Nat
  time : Nat
  deriving DecidableEq, Repr

/-- What a receiver keeps of one source and eclass (R398): the cumulative point, the record above it, whether an ack is due, the
window of the latest gust. -/
structure Rx where
  point : Nat
  mask  : Nat
  due   : Bool
  win   : Nat
  deriving DecidableEq, Repr

/-- A read with its reply slot (R393): slot, package read, sequence number once sent, address, length, when its latest copy was
sent, the collective that reads, the offset of its bytes there, its reply. -/
structure Read where
  slot : Nat
  dst  : Nat
  seq  : Option Nat
  addr : Nat
  len  : Nat
  time : Nat
  coll : Nat
  off  : Nat
  data : Option (List Byte)
  deriving DecidableEq, Repr

/-- A relay slot held at an eddy (R395): the eddy, the stage, the gust's source, eclass and sequence number, when it was sent. -/
structure Slot where
  eddy   : Nat
  stage  : Nat
  src    : Nat
  eclass : Nat
  seq    : Nat
  time   : Nat
  deriving DecidableEq, Repr

/-- The transport: path words (4 × destination + path), paths and eddies marked down, consecutive timeouts of each, since when
every path to a destination has been down, the path used last, unacknowledged gusts, next sequence numbers
(8 × destination + eclass), levels held and granted (65,536 × package + window), gusts charged to granted request pools and
relay stages, asks, returns, what is kept of each source, incarnations seen, relays, relay slots held, probe number, probes sent
(number, path, time), reads with their reply slots, when each level became idle, gusts waiting to be sent, packages met with a new
incarnation, since when no port has been in service (R455); by port the PBR ID assigned plus 1 (R375), when the lead sent probes last
(R388), asks received that wait for free slots, in order (R390), the class of the own gust sent last (R396), packages whose new incarnation the
collectives have still to meet (R439), by port with a calm on its relay egress the time plus 1 at which it began (R403), what ports paused for a commit have still to send: port, PBR
ID, bytes (R23). -/
structure FabUnit where
  paths   : Sparse W64
  down    : List Nat
  eddies  : List Nat
  streakP : Sparse Nat
  streakE : Sparse Nat
  dead    : Sparse Nat
  last    : Sparse Nat
  sent    : List TxGust
  next    : Sparse Nat
  levels  : Sparse Nat
  granted : Sparse Nat
  asks    : List Ask
  rets    : List Ret
  rx      : Sparse Rx
  seen    : Sparse Nat
  relays  : List Relay
  slots   : List Slot
  probe   : Nat
  probes  : List (Nat × Nat × Nat)
  reads   : List Read
  idle    : Sparse Nat
  queue   : List TxGust
  reborn  : List Nat
  deaf    : Option Nat
  ids     : Sparse Nat
  probeAt : Nat
  askers  : List Ask
  turn    : Nat
  leave   : List Nat
  fwCalm  : Sparse Nat
  stopped : List (Nat × Nat × List Byte)
  deriving DecidableEq, Repr

/-! ### Time transfer (11) -/

/-- The time unit (R341 to R344): nanoseconds still to be slewed to a SYNC_IN edge, a follower's rate in half nanoseconds per window of 16 ms,
the exchange number, when the last request left, the port used
last, the ports mask, the best exchange of the window (2θ and round trip), when the window began, consecutive good windows, when
the last valid exchange was, whether no window has filtered yet, the last SYNC_IN edge, whether the next edge may step. -/
structure TimeUnit where
  slew   : Int
  rate   : Int
  seq    : Nat
  sent   : Option Nat
  port   : Nat
  ports  : Nat
  best   : Option (Int × Nat)
  winAt  : Nat
  good   : Nat
  valid  : Nat
  first  : Bool
  edge   : Option Nat
  jump   : Bool
  deriving DecidableEq, Repr

/-- The job (R318, R331): its seed, fault policy, initial step counter and level required (R310), member map, expelled set and the packages to be expelled at the end of the
close or at step 4 of a retry, commands that run, whether a step is open and since when, whether its overrun has been
reported, retries of the ordinal, the close under way, F of the last decided close with its round, whether a vote is owed after
the next applied step (R462), the cause with which the job is to be held before the next open, the ordinal from which the planner's window
reaches (R179, R191), the time zero of an admitted package that enters RUNNING at the next open (R332), the packages that the vote of the latest close
expelled (R336), whether an admission copy has begun. -/
structure Job where
  seed     : W64
  policy   : Nat
  step0    : W64
  flReq    : Nat
  members  : Option (List Byte)
  expelled : List Nat
  leaving  : List Nat
  cmds     : List RunCmd
  opened   : Option Nat
  overrun  : Bool
  retries  : Nat
  close    : Option Close
  decided  : Option (Nat × Bool)
  voteOwed : Bool
  hold     : Option Nat
  planFrom : Nat
  joining  : Option Nat
  barred   : List Nat
  copying  : Bool
  deriving DecidableEq, Repr

/-- An owner slot of the fuses (R493, R505): unused, its hash burnt without the valid bit, or both burnt. -/
inductive OSlot where
  | unused
  | burnt (hash : List Byte)
  | valid (hash : List Byte)
  deriving DecidableEq, Repr

/-- An SPDM session (R501): its mailbox (fabric ports 0 to 15, 16 the host port), its number, whether FINISH has completed it. -/
structure Session where
  mailbox : Nat
  id      : Nat
  up      : Bool
  deriving DecidableEq, Repr

/-- The security unit (16): the configuration in force with its payload (R498); the fuses (R493): device secret, serial
number, hash of the vendor root, owner slots, bits of minver burnt; the active owner slot since the latest reset (R504); the configuration store: configuration
bundle, amendment bundle, whether the amendment is to be removed at the next reset (R337); the active amendment bundle, whether a
stored one failed at boot (R338); ports that hold IDE keys (16 the host port), whether the host port is restricted after a failure
(R503); SPDM sessions and the next session's number. -/
structure Sec where
  ideFab   : Nat
  flags    : Nat
  payload  : List Byte
  uds      : List Byte
  serial   : List Byte
  vroot    : List Byte
  slots    : List OSlot
  minver   : Nat
  root     : Option Nat
  cfg      : Option (List Byte)
  amd      : Option (List Byte)
  amdGone  : Bool
  active   : Option (List Byte)
  amdBad   : Bool
  keys     : List Nat
  shut     : Bool
  sessions : List Session
  sessNext : Nat
  deriving DecidableEq, Repr

/-! ### Power, cooling, carrier (18) -/

/-- The cap controller and the sensors (R544, R546, R551, R552): input power of the latest 10 µs samples in mW, newest first, at most
1,000; the latest voltage in mV and current in mA; intervals of 100 µs with cap_hold set that make up no whole millisecond yet; per pair the time plus 1 at which its thermal term last fell; the hottest compute-die and base-die sensors per pair; the
temperature of each stack; the inlet. -/
structure Power where
  samples : List Nat
  vin     : Nat
  iin     : Nat
  held    : Nat
  fallAt  : Sparse Nat
  pairT   : List (Int × Int)
  stackT  : List Int
  inlet   : Int
  deriving DecidableEq, Repr

/-- A recorded shutdown cause (R556): its code, its time in the controller's uptime, whether it has been reported. -/
structure Cause where
  code     : Nat
  time     : Nat
  reported : Bool
  deriving DecidableEq, Repr

/-- The carrier controller (R535, R540, R543, R553 to R556): whether its endpoint runs, whether the power stages are on, whether they
stay off until the input falls below 36.0 V and rises again, whether the module and the board hold PWR_OK low, whether PWR_OK has been
low for 10 µs, THERMTRIP_N low, the shutdown causes oldest first, the dynamic I3C address, a PLDM reset request held until
command-ready (R558). -/
structure Carrier where
  up      : Bool
  stages  : Bool
  latched : Bool
  module  : Bool
  board   : Bool
  fell    : Bool
  trip    : Bool
  causes  : List Cause
  addr    : Option Nat
  reset   : Bool
  deriving DecidableEq, Repr

/-- A base die: its system time and the arithmetic cycles within it (R339). -/
structure Base where
  now : Nat
  sub : Nat
  deriving DecidableEq, Repr

/-! ### The base-die ring (01) -/

/-- A leg of a transfer's way: the base die it leads to, the bytes it carries, whether the die it starts from only passes them on. -/
structure Leg where
  die     : Nat
  bytes   : Nat
  transit : Bool
  deriving DecidableEq, Repr

/-- A transfer that waits at a base die's crossbar (R14): the die; the requester (0 compute die, 1 collective engine, 2 update unit, 3
base-die DMA, 4 fabric ports, 5 host port); for a compute die the cluster within it and the core within the cluster, 16 when no core
asked (R17); the legs it still has to go; whether it is in transit. -/
structure Xfer where
  die     : Nat
  who     : Nat
  cluster : Nat
  core    : Nat
  path    : List Leg
  transit : Bool
  deriving DecidableEq, Repr

/-- The ring: transfers that wait at crossbars, oldest first; by base die the requester served last and the cluster served last; by cluster
the core served last (R14, R17); of a cluster's DMA, the core served last and by core (17 × cluster + core) the channel served last
(R17, R144). -/
structure RingUnit where
  wait     : List Xfer
  last     : Sparse Nat
  lastCl   : Sparse Nat
  lastCore : Sparse Nat
  dmaCore  : Sparse Nat
  dmaChan  : Sparse Nat
  deriving DecidableEq, Repr

/-- The device: everything but the queue of waiting commands. `real` is the time in ns that has elapsed since power came, which no correction of
system time moves (R5); the arithmetic clocks run by it. -/
structure Dev where
  freeCnt : Nat
  real    : Nat
  out     : List Output
  hostOut : List (Option Nat × Output)
  pkg     : Pkg
  regs    : RegFile
  phys    : Store
  mem     : MemUnit
  cores   : Sparse Core
  cs      : Sparse Store
  ev      : Sparse W32
  chans   : Sparse Chan
  bases   : Sparse Base
  que     : QueueUnit
  flt     : FaultUnit
  pmc     : Pmc
  job     : Job
  disp    : DispUnit
  upds    : Sparse Upd
  col     : ColUnit
  fab     : FabUnit
  tim     : TimeUnit
  sec     : Sec
  pwr     : Power
  car     : Carrier
  ring    : RingUnit
  deriving DecidableEq, Repr

/-! ### After a cold reset (R8, R479, R481) -/

/-- No timetable. -/
def Timetable.cold : Timetable := { ents := [], period := 0, t0 := 0, armed := false, done := [] }

/-- No job. -/
def Job.cold : Job :=
  { seed := 0, policy := 0, step0 := 0, flReq := 0, members := none, expelled := [], leaving := [], cmds := [], opened := none,
    overrun := false, retries := 0, close := none, decided := none, voteOwed := false, hold := none, planFrom := 0, joining := none,
    barred := [], copying := false }

/-- The dispatchers. -/
def DispUnit.cold : DispUnit :=
  { fg := Timetable.cold, brz := Timetable.cold, insts := [], lmap := [], rebases := [], early := [], failed := [], last := none,
    ones := [], oneNext := 0, charges := [], late := [], doneAt := [], parked := [], waits := [], mapSw := none, moved := [], movedCh := [],
    halt := false }

/-- The memory system. -/
def MemUnit.cold : MemUnit :=
  { tlbs := [], invs := 0, move := none, moveRec := none, pcErr := [], scrubLog := [], stalled := [], snoop := [], cxlErr := [],
    spilled := [], splits := [], split := [], hdmWait := [] }

/-- The queues. -/
def QueueUnit.cold : QueueUnit :=
  { ctx := [], run := [], fresh := [], held := [], rr := [], served := [], op := none, lines := [], stale := [], masked := [],
    fnMask := false, msixPnd := [], down := none, owed := [], short := [], vecAddr := [], vecData := [], reads := [] }

/-- The fault collectors. -/
def FaultUnit.cold : FaultUnit :=
  { msgs := [], merge := [], log := [], uncl := [], events := [], silent := [], voted := 0, redone := 0, retry := false,
    noticed := false, retrying := false }

/-- The counters. -/
def Pmc.cold : Pmc := { ctr := [], samp := [], sampNew := 0, snap := none, trace := 0, issued := [], grant := 0, zero := 0, zeros := [], busy := [], moves := [] }

/-- The collective engines. -/
def ColUnit.cold : ColUnit :=
  { groups := [], seqs := [], maps := [], live := [], next := 0, resid := [], calm := [], rec_ := [], zeroAt := 0 }

/-- The transport; no port is in service yet. -/
def FabUnit.cold : FabUnit :=
  { paths := [], down := [], eddies := [], streakP := [], streakE := [], dead := [], last := [], sent := [], next := [], levels := [],
    granted := [], asks := [], rets := [], rx := [], seen := [], relays := [], slots := [], probe := 0, probes := [], reads := [],
    idle := [], queue := [], reborn := [], deaf := some 0, ids := [], probeAt := 0, askers := [], turn := 3, leave := [], fwCalm := [],
    stopped := [] }

/-- The time unit. -/
def TimeUnit.cold : TimeUnit :=
  { slew := 0, rate := 0, seq := 0, sent := none, port := 0, ports := 0, best := none, winAt := 0, good := 0, valid := 0, first := true,
    edge := none, jump := false }

/-- The security unit of a device whose fuses hold zeros and whose configuration store is empty (log entry 3). -/
def Sec.cold : Sec :=
  { ideFab := 0, flags := 0, payload := [], uds := List.replicate 32 0, serial := List.replicate 16 0, vroot := List.replicate 64 0,
    slots := List.replicate 8 .unused, minver := 0, root := none, cfg := none, amd := none, amdGone := false, active := none,
    amdBad := false, keys := [], shut := false, sessions := [], sessNext := 0 }

/-- The cap controller and the sensors. -/
def Power.cold : Power :=
  { samples := [], vin := 0, iin := 0, held := 0, fallAt := [], pairT := List.replicate 4 (0, 0), stackT := List.replicate 16 0, inlet := 0 }

/-- The carrier controller of a module that has power and has just released PWR_OK. -/
def Carrier.cold : Carrier :=
  { up := true, stages := true, latched := false, module := false, board := false, fell := false, trip := false, causes := [],
    addr := none, reset := false }

/-- No fence. -/
def Fences.none : Fences := { cores := [], clusters := [], dies := [] }

/-- The package. -/
def Pkg.cold : Pkg :=
  { fences := Fences.none, faulted := [], caps := [], complex := [], lead := 0, hbMissed := 0, hbAt := 0, shadows := [] }

/-- The register file: every register at its Reset value. -/
def RegFile.cold : RegFile :=
  { act := [], stg := [], stgBits := [], commit := none, again := false, sched := none, wait := [], waitBits := [] }

/-- The ring. -/
def RingUnit.cold : RingUnit := { wait := [], last := [], lastCl := [], lastCore := [], dmaCore := [], dmaChan := [] }

/-- The device right after a cold reset: bring-up has not begun to act (stage 0, not ready). -/
def Dev.cold : Dev :=
  { freeCnt := 0, real := 0, out := [], hostOut := [], pkg := Pkg.cold, regs := RegFile.cold, phys := ⟨[], []⟩, mem := MemUnit.cold, cores := [],
    cs := [], ev := [], chans := [], bases := [], que := QueueUnit.cold, flt := FaultUnit.cold, pmc := Pmc.cold, job := Job.cold,
    disp := DispUnit.cold, upds := [], col := ColUnit.cold, fab := FabUnit.cold, tim := TimeUnit.cold, sec := Sec.cold,
    pwr := Power.cold, car := Carrier.cold, ring := RingUnit.cold }

/-- The state of the block: the device and the commands waiting, first in, first out. -/
structure State where
  dev     : Dev
  pending : List Instr
  deriving DecidableEq, Repr

/-- The block right after a cold reset (R8, R479, R481). -/
def State.reset : State := { dev := Dev.cold, pending := [] }

end Sys2Proof.Machine
end

