-- ==== Sys2Proof/Machine/Bits.lean ====
section
/-! DEFINITION. Bit fields, little-endian bytes (R4), sets of unit numbers, and small counters. -/

namespace Sys2Proof.Machine

/-- Bits `[lo + width - 1 : lo]` of a number. -/
def bits (x lo width : Nat) : Nat := x / 2 ^ lo % 2 ^ width

/-- Bits of a 64-bit word, as a number. -/
def fld64 (w : W64) (lo width : Nat) : Nat := bits w.toNat lo width

/-- Bits of a 32-bit word, as a number. -/
def fld32 (w : W32) (lo width : Nat) : Nat := bits w.toNat lo width

/-- Whether bit `i` of a number is one. -/
def bit (x i : Nat) : Bool := x / 2 ^ i % 2 == 1

/-- Bit `b` as a number. -/
def b2n (b : Bool) : Nat := if b then 1 else 0

/-- The number that bytes hold, the first the lowest (R4). -/
def leNat : List Byte → Nat
  | [] => 0
  | b :: bs => b.toNat + 256 * leNat bs

/-- The `n` lowest bytes of a number, the lowest first (R4). -/
def natLe : Nat → Nat → List Byte
  | 0, _ => []
  | n + 1, x => BitVec.ofNat 8 x :: natLe n (x / 256)

/-- The number in the `n` bytes from offset `o`. Bytes past the end read as zero. -/
def leAt (bs : List Byte) (o n : Nat) : Nat := leNat ((bs.drop o).take n)

/-- A value that is signed on `n` bits, as an integer. -/
def signed (n x : Nat) : Int := if x % 2 ^ n < 2 ^ (n - 1) then (x % 2 ^ n : Nat) else (x % 2 ^ n : Nat) - (2 ^ n : Nat)

/-- The low `n` bits of an integer in two's complement. -/
def wrap (n : Nat) (x : Int) : Nat := (x % (2 ^ n : Nat)).toNat

/-- A list of exactly `n` bytes: cut or filled with zeros. -/
def padTo (n : Nat) (bs : List Byte) : List Byte := bs.take n ++ List.replicate (n - bs.length) 0

/-- A count that stops at `top`. -/
def satAdd (top x y : Nat) : Nat := Nat.min top (x + y)

/-- Add a number to a rising list. -/
def setAdd : List Nat → Nat → List Nat
  | [], x => [x]
  | y :: ys, x => if x < y then x :: y :: ys else if x = y then y :: ys else y :: setAdd ys x

/-- Remove a number from a list. -/
def setDel (s : List Nat) (x : Nat) : List Nat := s.filter fun y => y != x

/-- The quotient rounded up. -/
def ceilDiv (a b : Nat) : Nat := (a + b - 1) / b

/-- Replace element `i` of a list. -/
def setNth {α : Type} (l : List α) (i : Nat) (v : α) : List α := l.set i v

/-- Element `i` of a list of words; past the end it is zero. -/
def wordAt {n : Nat} (l : List (BitVec n)) (i : Nat) : BitVec n := l.getD i 0

end Sys2Proof.Machine
end

