-- ==== Sys2Proof/Machine/Gf.lean ====
section
/-! DEFINITION. The memory code (R238 to R242): the field GF(2^8) of 0x11D and the decoder. Both codes are linear, so the
syndromes of a received word are those of its error alone, and the model keeps, per codeword, the difference between the
check bytes held and the correct ones for the data held (c0 in bits [7:0], c3 in bits [31:24]). -/

namespace Sys2Proof.Machine

/-- Multiplication by x in the field of polynomial 0x11D (R238). -/
def gfDouble (a : Nat) : Nat := if a < 128 then 2 * a else Nat.xor (2 * a) 0x11D

/-- The product in the field: shift and add over the bits of `b`, `n` of them. -/
def gfMulBits : Nat → Nat → Nat → Nat
  | 0, _, _ => 0
  | n + 1, a, b => Nat.xor (if b % 2 = 1 then a else 0) (gfMulBits n (gfDouble a) (b / 2))

/-- The product of two field elements. -/
def gfMul (a b : Nat) : Nat := gfMulBits 8 a b

/-- The power α^n of α = 0x02. -/
def gfExp : Nat → Nat
  | 0 => 1
  | n + 1 => gfDouble (gfExp n)

/-- The least `p < n` with `s0` × α^p = `s1`: the logarithm of s1 / s0 (R240), if it is below `n`. -/
def gfRatioLog (n s0 s1 : Nat) : Option Nat := (List.range n).find? fun p => gfMul s0 (gfExp p) == s1

/-- Syndrome S[j] of an error that lies in the four check bytes (R240). -/
def syndrome (dev : W32) (j : Nat) : Nat :=
  Nat.xor (Nat.xor (fld32 dev 0 8) (gfMul (fld32 dev 8 8) (gfExp j)))
    (Nat.xor (gfMul (fld32 dev 16 8) (gfExp (2 * j))) (gfMul (fld32 dev 24 8) (gfExp (3 * j))))

/-- What the decoder finds in a codeword. -/
inductive Ecc where
  | clean
  /-- One symbol is wrong: coefficient `p` of the word, by `e`. -/
  | corrected (p e : Nat)
  | uncorr
  | poisoned
  deriving DecidableEq, Repr

/-- The poison pattern: 0x5A in c1 and in c0 (R242). -/
def poisonDev : W32 := 0x5A5A

/-- The decoder of R240 for a codeword of `n` bytes. -/
def eccDecode (n : Nat) (dev : W32) : Ecc :=
  let s0 := syndrome dev 0; let s1 := syndrome dev 1; let s2 := syndrome dev 2; let s3 := syndrome dev 3
  if s0 = 0 ∧ s1 = 0 ∧ s2 = 0 ∧ s3 = 0 then .clean
  else if dev = poisonDev then .poisoned
  else if s0 ≠ 0 ∧ s1 ≠ 0 ∧ gfMul s1 s1 = gfMul s0 s2 ∧ gfMul s2 s2 = gfMul s1 s3 then
    match gfRatioLog n s0 s1 with
    | some p => .corrected p s0
    | none => .uncorr
  else .uncorr

/-- A codeword of data length `k`: the data byte that an error at coefficient `p` hits, if it hits one (R239). -/
def eccDataPos (k p : Nat) : Option Nat := if 4 ≤ p ∧ p < k + 4 then some (k + 3 - p) else none

end Sys2Proof.Machine
end

