-- ==== Sys2Proof/Machine/Sparse.lean ====
section
/-! DEFINITION. Operations on sparse maps. Every one keeps the canonical form (Laws/Sparse.lean). -/

namespace Sys2Proof.Machine

/-- The value at key `k`; an unlisted key reads as `d k`. -/
def Sparse.get {α : Type} (d : Nat → α) : Sparse α → Nat → α
  | [], k => d k
  | (k', v) :: m, k => if k = k' then v else Sparse.get d m k

/-- Remove the entry of key `k`. -/
def Sparse.erase {α : Type} (m : Sparse α) (k : Nat) : Sparse α := m.filter fun e => e.1 != k

/-- Put an entry before the first of a larger key. -/
def Sparse.insert {α : Type} : Sparse α → Nat → α → Sparse α
  | [], k, v => [(k, v)]
  | e :: m, k, v => if k < e.1 then (k, v) :: e :: m else e :: Sparse.insert m k v

/-- Write `v` at key `k`; writing what an unlisted key reads as removes the entry. -/
def Sparse.set {α : Type} [DecidableEq α] (d : Nat → α) (m : Sparse α) (k : Nat) (v : α) : Sparse α :=
  if v = d k then Sparse.erase m k else Sparse.insert (Sparse.erase m k) k v

/-- Remove every entry whose key lies in `[lo, hi)`: that range reads as unlisted. -/
def Sparse.clear {α : Type} (m : Sparse α) (lo hi : Nat) : Sparse α :=
  m.filter fun e => decide (e.1 < lo) || decide (hi ≤ e.1)

/-- The entries with keys in `[lo, hi)`. -/
def Sparse.range {α : Type} (m : Sparse α) (lo hi : Nat) : Sparse α :=
  m.filter fun e => decide (lo ≤ e.1) && decide (e.1 < hi)

/-- Write a list of entries one after another. -/
def Sparse.setAll {α : Type} [DecidableEq α] (d : Nat → α) (m : Sparse α) : List (Nat × α) → Sparse α
  | [] => m
  | e :: es => Sparse.setAll d (Sparse.set d m e.1 e.2) es

/-- Keys rise strictly from above `lo`, and no entry equals what its key reads as unlisted. -/
def Sparse.wfFrom {α : Type} [DecidableEq α] (d : Nat → α) : Nat → Sparse α → Bool
  | _, [] => true
  | lo, (k, v) :: m => decide (lo ≤ k) && decide (v ≠ d k) && Sparse.wfFrom d (k + 1) m

/-- The canonical form. -/
def Sparse.wf {α : Type} [DecidableEq α] (d : Nat → α) (m : Sparse α) : Bool := Sparse.wfFrom d 0 m

/-- The default reading of a map whose unlisted keys all read as one value. -/
def always {α : Type} (v : α) : Nat → α := fun _ => v

end Sys2Proof.Machine
end

