-- ==== Sys2Proof/Machine/StoreOps.lean ====
section
/-! DEFINITION. Reading and writing a store under its memory code (R239, R243). `k` is the data length of a codeword of the
store: 128 in HBM, 64 in SRAM; codewords are aligned to `k`. -/

namespace Sys2Proof.Machine

/-- The byte held at `a`, uncorrected. -/
def Store.byte (st : Store) (a : Nat) : Byte := Sparse.get (always 0) st.bytes a

/-- Put one byte, leaving the codeword's check difference as it is. -/
def Store.poke (st : Store) (a : Nat) (b : Byte) : Store :=
  { st with bytes := Sparse.set (always 0) st.bytes a b }

/-- The codewords that overlap `[a, a + n)` and are not clean, with what the decoder finds in each. -/
def Store.bad (st : Store) (k a n : Nat) : List (Nat × Ecc) :=
  (st.chk.filter fun e => decide (a < e.1 + k) && decide (e.1 < a + n)).map fun e => (e.1, eccDecode (k + 4) e.2)

/-- Correct, in the data, every codeword of `l` that the decoder corrects. -/
def Store.correct (k : Nat) (st : Store) : List (Nat × Ecc) → Store
  | [] => st
  | (cw, .corrected p e) :: l =>
    match eccDataPos k p with
    | some i => Store.correct k (st.poke (cw + i) (st.byte (cw + i) ^^^ BitVec.ofNat 8 e)) l
    | none => Store.correct k st l
  | _ :: l => Store.correct k st l

/-- The bytes from `a`, raw. -/
def Store.raw (st : Store) : Nat → Nat → List Byte
  | _, 0 => []
  | a, n + 1 => st.byte a :: Store.raw st (a + 1) n

/-- The `n` bytes from `a` as a reader gets them: corrected where the decoder corrects (R240). -/
def Store.read (st : Store) (k a n : Nat) : List Byte :=
  (Store.correct k st (st.bad k a n)).raw a n

/-- Bytes as entries of the sparse map. -/
def cellsAt : Nat → List Byte → List (Nat × Byte)
  | _, [] => []
  | a, b :: bs => (a, b) :: cellsAt (a + 1) bs

/-- The check differences after a write of `[a, a + n)`: a codeword written whole is clean, a corrected one is clean, an
uncorrectable one that the write covers in part carries the poison pattern (R243). -/
def chkAfter (k a n : Nat) (chk : Sparse W32) : List (Nat × Ecc) → Sparse W32
  | [] => chk
  | (cw, e) :: l =>
    let v : W32 := if a ≤ cw ∧ cw + k ≤ a + n then 0 else
      match e with
      | .uncorr | .poisoned => poisonDev
      | _ => 0
    chkAfter k a n (Sparse.set (always 0) chk cw v) l

/-- Write bytes from `a` (R243). -/
def Store.write (st : Store) (k a : Nat) (bs : List Byte) : Store :=
  let bad := st.bad k a bs.length
  let st' := Store.correct k st bad
  { bytes := Sparse.setAll (always 0) st'.bytes (cellsAt a bs), chk := chkAfter k a bs.length st.chk bad }

/-- The codewords that `[a, a + n)` touches, `m` of them at most. -/
def codewords (k a n : Nat) : List Nat :=
  (List.range (ceilDiv (a % k + n) k)).map fun i => (a / k + i) * k

/-- Write bytes from `a` and put the poison pattern on every codeword touched (R242). -/
def Store.writePoison (st : Store) (k a : Nat) (bs : List Byte) : Store :=
  let st' := st.write k a bs
  { st' with chk := Sparse.setAll (always 0) st'.chk ((codewords k a bs.length).map fun c => (c, poisonDev)) }

/-- Zero with valid code in `[lo, hi)` (R481). -/
def Store.zero (st : Store) (lo hi : Nat) : Store :=
  { bytes := Sparse.clear st.bytes lo hi, chk := Sparse.clear st.chk lo hi }

/-- Correct in place the codeword at `cw`, if the decoder corrects it (R141). -/
def Store.mend (st : Store) (k cw : Nat) : Store :=
  match st.bad k cw k with
  | [(_, .corrected p e)] =>
    let st' := Store.correct k st [(cw, .corrected p e)]
    { st' with chk := Sparse.set (always 0) st'.chk cw 0 }
  | _ => st

/-- The part of `[x, x + m)` in `[a, a + n)`, as a start and a length. -/
def clip (a n x m : Nat) : Nat × Nat :=
  let lo := Nat.max a x
  (lo, Nat.min (a + n) (x + m) - lo)

/-- Copy `n` bytes from `src` at `a`, under codewords of `ks` bytes, to `dst` at `b`, under codewords of `kd`: corrected words arrive
clean; a codeword that takes bytes of an uncorrectable one, or of a lost 64-byte line of `lines`, carries the poison pattern (R255, R456). -/
def Store.copyTo (src dst : Store) (ks kd a b n : Nat) (lines : List Nat) : Store :=
  let bad := src.bad ks a n
  let src' := Store.correct ks src bad
  let d := dst.zero b (b + n)
  let lost := ((bad.filter fun e => e.2 == .uncorr || e.2 == .poisoned).map fun e => clip a n e.1 ks) ++ lines.map fun l => clip a n l 64
  { bytes := Sparse.setAll (always 0) d.bytes ((Sparse.range src'.bytes a (a + n)).map fun e => (e.1 - a + b, e.2)),
    chk := Sparse.setAll (always 0) d.chk
      (lost.flatMap fun x => (codewords kd (x.1 - a + b) x.2).map fun c => (c, poisonDev)) }

/-- Flatten the worst of a list of findings. -/
def worst : List (Nat × Ecc) → Ecc
  | [] => .clean
  | (_, e) :: l =>
    match e, worst l with
    | .uncorr, _ => .uncorr
    | _, .uncorr => .uncorr
    | .poisoned, _ => .poisoned
    | _, .poisoned => .poisoned
    | .corrected p x, _ => .corrected p x
    | .clean, w => w

/-- Whether the reader cannot have the data. -/
def Ecc.lost (e : Ecc) : Bool := e == .uncorr || e == .poisoned

end Sys2Proof.Machine
end

