-- ==== Sys2Proof/Machine/Ops.lean ====
section
/-! DEFINITION. The named operations over the state: registers, time, what leaves the block, fault messages. -/

namespace Sys2Proof.Machine

/-- The type of every meaning's answer. -/
abbrev Res := Host.Outcome State Fault Refusal

/-! ### What holds whatever happens -/

/-- The active words without reserved bits, which have no storage (R278). -/
def storedWords (m : Sparse W64) : Sparse W64 := m.map fun e => (e.1, e.2 &&& fieldBits e.1)

/-- An owner slot after an attempt to make it `new`: a used slot stays as it is (R493, R505). -/
def OSlot.after (old new : OSlot) : OSlot := if old = .unused then new else old

/-- The fuses after an attempt to change them: they only burn (R493). -/
def Sec.fuses (old new : Sec) : Sec :=
  { new with uds := old.uds, serial := old.serial, vroot := old.vroot, minver := Nat.max old.minver new.minver,
             slots := old.slots.zipIdx.map fun x => x.1.after (new.slots.getD x.2 .unused) }

/-- A device `new` that follows `old`, with what the silicon itself gives: registers store no reserved bit, fuses only burn. No effect of
a command asks for anything else. -/
def Dev.wired (old new : Dev) : Dev :=
  { new with regs := { new.regs with act := storedWords new.regs.act }, sec := old.sec.fuses new.sec }

/-- A command's effect on the device; the queue of waiting commands is untouched. -/
def State.run (s : State) (f : Dev → Dev) : Res := .next { s with dev := s.dev.wired (f s.dev) }

/-! ### Registers -/

/-- The active word of the register at offset `off`. -/
def Dev.reg (s : Dev) (off : Nat) : W64 := Sparse.get regReset s.regs.act off

/-- Set a register's active word. -/
def Dev.setReg (s : Dev) (off : Nat) (v : W64) : Dev :=
  { s with regs := { s.regs with act := Sparse.set regReset s.regs.act off v } }

/-- The active value of a field. -/
def Dev.fld (s : Dev) (f : Fld) : Nat := fld64 (s.reg f.off) f.lo f.width

/-- Whether a one-bit field is 1. -/
def Dev.on (s : Dev) (f : Fld) : Bool := s.fld f == 1

/-- A word with the field `[lo + width - 1 : lo]` replaced by the low bits of `v`. -/
def putBits (w : W64) (lo width v : Nat) : W64 :=
  (w &&& ~~~ bitMask lo width) ||| BitVec.ofNat 64 (v % 2 ^ width * 2 ^ lo)

/-- Set a field's active value (the device's own change of it). -/
def Dev.setFld (s : Dev) (f : Fld) (v : Nat) : Dev := s.setReg f.off (putBits (s.reg f.off) f.lo f.width v)

/-- Set a one-bit field. -/
def Dev.setBit (s : Dev) (f : Fld) (b : Bool) : Dev := s.setFld f (b2n b)

/-- Add to a counting field, modulo its width. -/
def Dev.addFld (s : Dev) (f : Fld) (n : Nat) : Dev := s.setFld f (s.fld f + n)

/-- Add to a counting field that stops at its largest value. -/
def Dev.satFld (s : Dev) (f : Fld) (n : Nat) : Dev := s.setFld f (satAdd (2 ^ f.width - 1) (s.fld f) n)

/-- A field of which the value 0 is taken as `d`. -/
def Dev.fldOr (s : Dev) (f : Fld) (d : Nat) : Nat := if s.fld f = 0 then d else s.fld f

/-- The word that unit `u` works by: the active one or, once the unit has applied the scheduled set, that of the set (R360). -/
def Dev.regAs (s : Dev) (u : UnitId) (off : Nat) : W64 :=
  match s.regs.sched with
  | some c =>
    let m := if c.applied.contains u then Sparse.get (always 0) c.bits off else 0
    (s.reg off &&& ~~~m) ||| (Sparse.get (always 0) c.vals off &&& m)
  | none => s.reg off

/-- The value of a field that unit `u` works by. -/
def Dev.fldAs (s : Dev) (u : UnitId) (f : Fld) : Nat := fld64 (s.regAs u f.off) f.lo f.width

/-- Whether a one-bit field is 1 for unit `u`. -/
def Dev.onAs (s : Dev) (u : UnitId) (f : Fld) : Bool := s.fldAs u f == 1

/-- A field as unit `u` sees it, of which the value 0 is taken as `d`. -/
def Dev.fldOrAs (s : Dev) (u : UnitId) (f : Fld) (d : Nat) : Nat := if s.fldAs u f = 0 then d else s.fldAs u f

/-- A violation of the register rules at `off` (R278). -/
def Dev.violation (s : Dev) (off : Nat) (wr : Bool) : Dev :=
  ((s.addFld hifViolCount 1).setFld hifViolLastOff off).setBit hifViolLastWr wr

/-- The package's feature level (R2, R470): 2 when fl1 and sfu2 are both in force. -/
def Dev.featLevel (s : Dev) : Nat := if bits (s.fld dieCapCap) 0 2 = 3 then 2 else 1

/-! ### Base dies and time -/

/-- A base die right after reset. -/
def Base.cold : Base := { now := 0, sub := 0 }

/-- Base die `d`. -/
def Dev.base (s : Dev) (d : Nat) : Base := Sparse.get (always Base.cold) s.bases d

/-- Set base die `d`. -/
def Dev.setBase (s : Dev) (d : Nat) (b : Base) : Dev :=
  { s with bases := Sparse.set (always Base.cold) s.bases d b }

/-- System time on base die `d` (R339). -/
def Dev.now (s : Dev) (d : Nat) : Nat := (s.base d).now

/-- System time on the lead's base die. -/
def Dev.leadNow (s : Dev) : Nat := s.now s.pkg.lead

/-- The unit has paused for a commit that has not reached its device lull (R23): it does nothing until it resumes. -/
def Dev.pausedUnit (s : Dev) (u : UnitId) : Bool :=
  match s.regs.commit with
  | some c => !c.lulled && c.paused.contains u
  | none => false

/-! ### What leaves the block -/

/-- Send something out on a path of its own (pins, the fabric, DOE, I3C). -/
def Dev.send (s : Dev) (o : Output) : Dev := { s with out := s.out ++ [o] }

/-- Send through the host port for queue `q`, if it concerns one; after a reset of the port, accesses and messages are
held (R484). -/
def Dev.sendHostFor (s : Dev) (q : Option Nat) (o : Output) : Dev :=
  if s.que.down.isSome then { s with hostOut := s.hostOut ++ [(q, o)] } else s.send o

/-- Send through the host port. -/
def Dev.sendHost (s : Dev) (o : Output) : Dev := s.sendHostFor none o

/-- Send MSI-X vector `v`, or set its pending bit while it is masked (R302). -/
def Dev.msix (s : Dev) (v : Nat) : Dev :=
  if s.que.fnMask || s.que.masked.contains v then { s with que := { s.que with msixPnd := setAdd s.que.msixPnd v } }
  else s.sendHost (.msix v (Sparse.get (always 0) s.que.vecAddr v) (Sparse.get (always 0) s.que.vecData v))

/-! ### Fences -/

/-- Core `c` is out of service: itself, its cluster or its compute die (R17). -/
def Fences.core (f : Fences) (c : Nat) : Bool :=
  f.cores.contains c || f.clusters.contains (c / 16) || f.dies.contains (c / 128)

/-- Cluster `k` is out of service. -/
def Fences.cluster (f : Fences) (k : Nat) : Bool := f.clusters.contains k || f.dies.contains (k / 8)

/-- A unit is out of service (R24, R360). -/
def Dev.unitFenced (s : Dev) (f : Fences) (u : UnitId) : Bool :=
  match u.kind with
  | .matrix => f.core (u.ix / 4)
  | .vector | .sequencer => f.core u.ix
  | .clusterDma => f.cluster (u.ix / 16)
  | .dispatcher => decide (u.ix < 32) && f.cluster u.ix
  | .port => s.on (fabPortFenced.nth u.ix)
  | _ => false

/-- Units fenced during a commit are released from their pause and take no part in it any more (R24). -/
def Dev.leaveCommit (s : Dev) : Dev :=
  match s.regs.commit with
  | none => s
  | some c =>
    let f := s.pkg.fences
    let fenced : Fences := ⟨f.cores.foldl setAdd c.fenced.cores, f.clusters.foldl setAdd c.fenced.clusters, f.dies.foldl setAdd c.fenced.dies⟩
    let ports := (List.range 16).filter fun p => c.ports.contains p || s.on (fabPortFenced.nth p)
    { s with regs := { s.regs with commit := some { c with paused := c.paused.filter (fun u => !s.unitFenced f u), fenced, ports } } }

/-- The unit that a message's source fields name is fenced (R446, R453). -/
def Dev.srcFenced (s : Dev) (r : Src) : Bool :=
  match r.level with
  | 0 | 1 => s.pkg.fences.core (128 * r.die + 16 * r.cluster + r.core)
  | 2 => s.pkg.fences.cluster (8 * r.die + r.cluster)
  | 3 => if r.unit = 0 then s.pkg.fences.dies.contains r.die
         else if r.unit = 3 then s.on (dieLat r.die r.cluster 5 1) else false
  | 4 => if r.unit = 3 then s.on (fabPortFenced.nth r.core) else false
  | _ => false

/-! ### Fault messages -/

/-- A core as a message source: 0 sequencer, 1 local store, 2 vector registers, 3 lane storage (R446). -/
def coreSrc (c unit : Nat) : Src := ⟨1, c / 128, c / 16 % 8, c % 16, unit⟩
/-- A source as a message names it: a cluster's units have no core, though a DMA's requests bear that of their chain (R17). -/
def shownSrc (r : Src) : Src := if r.level = 2 then { r with core := 0 } else r
/-- A cluster as a source: 0 store, 1 DMA, 2 dispatcher, 3 port. -/
def clusterSrc (k unit : Nat) : Src := ⟨2, k / 8, k % 8, 0, unit⟩
/-- A die's unit as a source. -/
def dieSrc (d unit : Nat) : Src := ⟨3, d, 0, 0, unit⟩
/-- A base die's package-level unit as a source. -/
def pkgSrc (d unit : Nat) : Src := ⟨4, d, 0, 0, unit⟩
/-- Fabric port `p` as a source: its base die is `p` mod 4 (R9). -/
def portSrc (p : Nat) : Src := ⟨4, p % 4, 0, p, 3⟩
/-- The firmware services: the lead's base die. -/
def Dev.sysSrc (s : Dev) : Src := ⟨5, s.pkg.lead, 0, 0, 0⟩

/-- The sum of a source's corrected events within the squall window (R453). -/
def Dev.squallSum (s : Dev) (r : Src) : Nat :=
  let t := s.now r.die
  let w := s.fldOrAs ⟨.collector, r.die⟩ fltCtlSqS 1 * 1000000000
  s.flt.events.foldl (fun n e => if e.src = r ∧ t < e.time + w then n + e.count else n) 0

/-- Merge a corrected message into its open window, or open one (R449). -/
def mergeIn (m : Msg) : List Msg → List Msg
  | [] => [m]
  | o :: l => if o.src = m.src ∧ o.kind = m.kind then { o with count := satAdd 2047 o.count m.count } :: l
              else o :: mergeIn m l

/-- Corrected messages whose 1 ms has passed wait to be logged (R449). -/
def Dev.mergeRipe (s : Dev) : Dev :=
  let old (m : Msg) : Bool := decide (m.born + 1000000 ≤ s.real)
  { s with flt := { s.flt with msgs := s.flt.msgs ++ s.flt.merge.filter old, merge := s.flt.merge.filter fun m => !old m } }

/-- A unit detects a fault (R445 to R449): a corrected message joins its merge window and the squall count, any other
waits to be logged after what its source sent before. A fenced unit sends none; a silenced source's corrected messages
of the squalling kind are dropped while the window holds sq_cnt events (R453). -/
def Dev.detectN (s : Dev) (src : Src) (kind cls count arg : Nat) : Dev :=
  if s.srcFenced src then s else
  let src := shownSrc src
  let m : Msg := { time := s.now src.die, kind, cls, src, count, arg := BitVec.ofNat 48 arg, born := s.real }
  if cls = 0 then
    let s := s.mergeRipe
    let s1 := { s with flt := { s.flt with events := s.flt.events ++ [⟨src, m.time, count, kind⟩] } }
    if s.flt.silent.contains (src, kind) ∧ s.fldOrAs ⟨.collector, src.die⟩ fltCtlSqCnt 1 ≤ s.squallSum src then s1
    else { s1 with flt := { s1.flt with silent := s1.flt.silent.filter (· != (src, kind)),
                                        merge := mergeIn m s1.flt.merge } }
  else
    { s with flt := { s.flt with msgs := s.flt.msgs ++ s.flt.merge.filter (·.src = src) ++ [m],
                                 merge := s.flt.merge.filter (·.src ≠ src) } }

/-- One event. -/
def Dev.detect (s : Dev) (src : Src) (kind cls arg : Nat) : Dev := s.detectN src kind cls 1 arg

/-- The 128-bit value of a message (R445). -/
def Msg.encode (m : Msg) : Nat :=
  bits m.time 10 44 + m.kind * 2 ^ 44 + m.cls * 2 ^ 52 + m.src.level * 2 ^ 54 + m.src.die * 2 ^ 57 +
  m.src.cluster * 2 ^ 59 + m.src.core * 2 ^ 62 + m.src.unit * 2 ^ 66 + m.count * 2 ^ 69 + m.arg.toNat * 2 ^ 80

/-! ### Counters (R511 to R515) -/

/-- The value of counter `n`. -/
def Dev.ctr (s : Dev) (n : Nat) : Nat := Sparse.get (always 0) s.pmc.ctr n

/-- The core and the sampler kind (0 core, 1 to 4 matrix engine, 5 vector engine) of a block, if it belongs to a core. -/
def blockCore (b : Nat) : Option (Nat × Nat) :=
  if b < 0xA00 then some (b / 5, b % 5 + 1) else if b < 0xC00 then some (b - 0xA00, 0) else none

/-- The arithmetic cycles since the blocks of core `c` were last cleared. -/
def Dev.cycles (s : Dev) (c : Nat) : Nat := 3 * s.real - Sparse.get (always s.pmc.zero) s.pmc.zeros c

/-- The value of counter `n` as a read gives it (R512, R516). A core's cycles are the time since the clear; of its slots, what no other class
took is starved-front; cycles with no segment released are those without one. -/
def Dev.ctrRead (s : Dev) (n : Nat) : Nat :=
  let other (a b d : Nat) : Nat := s.ctr (n / 128 * 128 + a) + s.ctr (n / 128 * 128 + b) + s.ctr (n / 128 * 128 + d)
  match blockCore (n / 128), n % 128 with
  | some (c, 0), 0 => s.cycles c % 2 ^ 64
  | some (c, 0), 9 => (s.cycles c - other 7 8 10) % 2 ^ 64
  | some (c, 0), 15 => (s.cycles c - Sparse.get (always 0) s.pmc.busy c) % 2 ^ 64
  | some (c, _ + 1), 2 => (s.cycles c - other 0 1 3) % 2 ^ 64
  | _, _ => s.ctr n

/-- Sampler `n` is armed for event `e` of kind `k` on core `c` (R526, R531). -/
def Dev.sampled (s : Dev) (n c k e : Nat) : Bool :=
  let u : UnitId := ⟨.sequencer, c⟩
  s.onAs u (pmcSamplerEn.nth n) && s.fldAs u (pmcSamplerKind.nth n) == k && s.fldAs u (pmcSamplerEvent.nth n) == e &&
  (if c / 16 < 16 then bit (s.fldAs u (pmcSamplerClMaskLo.nth n)) (c / 16)
   else bit (s.fldAs u (pmcSamplerClMaskHi.nth n)) (c / 16 - 16))

/-- The down-counts after `k` events at index `e` of block `b` (R526). -/
def Dev.sampCount (s : Dev) (b e k : Nat) : Sparse Nat :=
  match blockCore b with
  | none => s.pmc.samp
  | some (c, kind) => (List.range 8).foldl (fun m i =>
      if s.sampled i c kind e then Sparse.set (always 0) m (512 * i + c) (Sparse.get (always 0) m (512 * i + c) + k)
      else m) s.pmc.samp

/-- Add `k` events at index `e` of block `b`, modulo 2^64 (R512); armed samplers count them too. -/
def Dev.count (s : Dev) (b e k : Nat) : Dev :=
  if k = 0 then s else
  let n := 128 * b + e
  { s with pmc := { s.pmc with ctr := Sparse.set (always 0) s.pmc.ctr n ((s.ctr n + k) % 2 ^ 64), samp := s.sampCount b e k } }

/-- The engine block of unit `u` of core `c`: 0 to 3 matrix engine, 4 vector engine. -/
def engBlk (c u : Nat) : Nat := 5 * c + u
/-- The core block. -/
def coreBlk (c : Nat) : Nat := 0xA00 + c
/-- The cluster block. -/
def clusterBlk (k : Nat) : Nat := 0xC00 + k
/-- The die block. -/
def dieBlk (d : Nat) : Nat := 0xC20 + d
/-- The package block. -/
def pkgBlk : Nat := 0xC24
/-- The port block; 16 is the host port. -/
def portBlk (p : Nat) : Nat := 0xC25 + p
/-- The system block. -/
def sysBlk : Nat := 0xC36

/-- Draw the next free value. -/
def Dev.fresh (s : Dev) : Nat × Dev := (s.freeCnt, { s with freeCnt := s.freeCnt + 1 })

end Sys2Proof.Machine
end

