-- ==== Sys2Proof/Machine/Gust.lean ====
section
/-! DEFINITION. Gusts (R381 to R384), planes and PBR IDs (R374 to R380), ports in service (R375). -/

namespace Sys2Proof.Machine

/-! ### CRC-64 (R384) -/

/-- One bit of the ECMA-182 division, most significant first. -/
def crcShift (c : Nat) : Nat := if 2 ^ 63 ≤ c then (2 * c) % 2 ^ 64 ^^^ 0x42F0E1EBA9EA3693 else 2 * c

/-- One byte. -/
def crcByte (c : Nat) (b : Byte) : Nat :=
  crcShift (crcShift (crcShift (crcShift (crcShift (crcShift (crcShift (crcShift (c ^^^ b.toNat * 2 ^ 56))))))))

/-- The CRC of bytes. -/
def crc64 (bs : List Byte) : Nat := bs.foldl crcByte 0

/-- The CRC of a gust: the header up to 0x37 with bytes 1 and 3 as zero, then the payload of len bytes. -/
def gustCrc (g : List Byte) : Nat :=
  crc64 (((g.take 0x38).set 1 0).set 3 0 ++ (g.drop 64).take (leAt g 0xE 2))

/-- The gust with its crc field filled in. -/
def withCrc (g : List Byte) : List Byte := g.take 0x38 ++ natLe 8 (gustCrc g) ++ g.drop 64

/-! ### The header (R382) -/

/-- Class now. -/
def gCls (g : List Byte) : Nat := leAt g 1 1 % 8
/-- Operation. -/
def gOp (g : List Byte) : Nat := leAt g 2 1 % 16
/-- Class at the destination. -/
def gEclass (g : List Byte) : Nat := bits (leAt g 2 1) 4 3
/-- Eddy hops of the path. -/
def gNh (g : List Byte) : Nat := leAt g 3 1 % 4
/-- Eddy hops taken. -/
def gHi (g : List Byte) : Nat := bits (leAt g 3 1) 2 2
/-- Source. -/
def gSrc (g : List Byte) : Nat := leAt g 4 2 % 8192
/-- Destination. -/
def gDst (g : List Byte) : Nat := leAt g 6 2 % 8192
/-- Eddy hop `i`, 1 or 2. -/
def gHop (g : List Byte) (i : Nat) : Nat := leAt g (6 + 2 * i) 2
/-- Window. -/
def gWin (g : List Byte) : Nat := leAt g 0xC 2
/-- Payload bytes. -/
def gLen (g : List Byte) : Nat := leAt g 0xE 2
/-- Sequence number or level. -/
def gSeq (g : List Byte) : Nat := leAt g 0x10 4
/-- Acknowledged sequence or argument. -/
def gAseq (g : List Byte) : Nat := leAt g 0x14 4
/-- Address, offset or bitmap. -/
def gAddr (g : List Byte) : Nat := leAt g 0x18 8
/-- Destination incarnation. -/
def gDinc (g : List Byte) : Nat := leAt g 0x20 1
/-- Source incarnation. -/
def gSinc (g : List Byte) : Nat := leAt g 0x21 1
/-- Payload. -/
def gPayload (g : List Byte) : List Byte := (g.drop 64).take (gLen g)

/-- The reserved fields are zero and the codes are in use (R382, R383). -/
def gustForm (g : List Byte) : Bool :=
  leAt g 0 1 == 1 && leAt g 1 1 / 8 == 0 && decide (gCls g ≤ 4) && leAt g 2 1 / 128 == 0 && leAt g 3 1 / 32 == 0 && leAt g 4 2 / 8192 == 0 &&
  leAt g 6 2 / 8192 == 0 && decide (gLen g ≤ 4032) && leNat ((g.drop 0x22).take 22) == 0 && decide (gNh g ≤ 2) && decide (gHi g ≤ gNh g)

/-- The fields from which a gust is built. -/
structure GustHdr where
  cls     : Nat
  op      : Nat
  eclass  : Nat
  nh      : Nat
  resend  : Bool
  src     : Nat
  dst     : Nat
  hop1    : Nat
  hop2    : Nat
  win     : Nat
  seq     : Nat
  aseq    : Nat
  addr    : Nat
  dinc    : Nat
  sinc    : Nat
  payload : List Byte
  deriving DecidableEq, Repr

/-- The bytes of a gust, its CRC last (R382, R384). -/
def GustHdr.bytes (h : GustHdr) : List Byte :=
  withCrc (natLe 1 1 ++ natLe 1 h.cls ++ natLe 1 (h.op + 16 * h.eclass) ++ natLe 1 (h.nh + 16 * b2n h.resend) ++ natLe 2 h.src ++
    natLe 2 h.dst ++ natLe 2 h.hop1 ++ natLe 2 h.hop2 ++ natLe 2 h.win ++ natLe 2 h.payload.length ++ natLe 4 h.seq ++ natLe 4 h.aseq ++
    natLe 8 h.addr ++ natLe 1 h.dinc ++ natLe 1 h.sinc ++ List.replicate 22 0 ++ natLe 8 0 ++ h.payload ++
    List.replicate ((4 - h.payload.length % 4) % 4) 0)

/-! ### Planes (R376 to R380) -/

/-- The plane code of port `port` of package `p` (R380). -/
def planeOf (mode2 : Bool) (p port : Nat) : Nat :=
  if !mode2 then port else
  let h := bits p 12 1
  let g := bits p 11 1
  if port < 12 then 0x10 + 12 * h + port
  else
    let r := port % 2
    if h = 0 then 0x28 + 4 * g + 2 * (if port < 14 then 0 else 1) + r
    else 0x28 + 4 * (if port < 14 then 0 else 1) + 2 * g + r

/-- The PBR ID of package `p` on a plane (R379). -/
def pbrOn (plane p : Nat) : Nat := if plane < 0x28 then p % 4096 else bits p 12 1 * 2048 + p % 2048

/-- The package that a PBR ID names on a plane (R379). -/
def pkgOn (plane id : Nat) : Nat :=
  if plane < 0x10 then id
  else if plane < 0x28 then (plane - 0x10) / 12 * 4096 + id
  else
    let a := bits (plane - 0x28) 2 1
    let b := bits (plane - 0x28) 1 1
    if id < 2048 then a * 2048 + id else 4096 + b * 2048 + id % 2048

/-- The package's own number. -/
def Dev.ownPkg (s : Dev) : Nat := s.fld fabCtlPkg

/-- Two halves. -/
def Dev.halves (s : Dev) : Bool := s.on fabCtlMode

/-- The plane of an own port. -/
def Dev.plane (s : Dev) (port : Nat) : Nat := planeOf s.halves s.ownPkg port

/-- A port is in service as FAB_PORT_n reports (R375). -/
def Dev.portUp (s : Dev) (p : Nat) : Bool := s.on (fabPortInSvc.nth p)

/-- The own incarnation. -/
def Dev.inc (s : Dev) : Nat := s.fld fabCtlInc

/-- Check a gust at a receiving port: its CRC first (R391). -/
def gustCrcOk (g : List Byte) : Bool := decide (64 ≤ g.length) && leAt g 0x38 8 == gustCrc g

end Sys2Proof.Machine
end

