-- ==== Sys2Proof/Machine/ColView.lean ====
section
/-! DEFINITION. Groups and ranks (R408 to R410, R331), the fields of a collective descriptor (R415), and what the COL_ registers report
(R443). -/

namespace Sys2Proof.Machine

/-! ### Groups and the job's packages (R408, R409, R331) -/

/-- The terms of a group: mask and match. -/
def Dev.terms (s : Dev) (g : Nat) : List (Nat × Nat) := Sparse.get (always []) s.col.groups g

/-- A package number matches a term. -/
def termHas (t : Nat × Nat) (p : Nat) : Bool := p &&& t.1 == t.2

/-- A package of the job that is not expelled (R331). -/
def Dev.inJob (s : Dev) (p : Nat) : Bool :=
  (match s.job.members with | some m => bit (m.getD (p / 8) 0).toNat (p % 8) | none => false) && !s.job.expelled.contains p

/-- The members of a group in rank order. Within a term the packed free bits order packages as their numbers do. -/
def Dev.members (s : Dev) (g : Nat) : List Nat :=
  (s.terms g).flatMap fun t => (List.range 8192).filter fun p => termHas t p && s.inJob p

/-- Whether a package is a member. -/
def Dev.isMember (s : Dev) (g p : Nat) : Bool := (s.terms g).any (fun t => termHas t p) && s.inJob p

/-! ### Groups (R408, R409) -/

/-- The entry of a group in the map of slot `slot`. -/
def Dev.mapIn (s : Dev) (slot g : Nat) : Option MapEnt :=
  if !bit (s.fld colMapLoaded) slot then none
  else (Sparse.get (always []) s.col.maps slot).find? fun m => m.gid == g

/-- The entry of a group in the active map. -/
def Dev.mapEnt (s : Dev) (g : Nat) : Option MapEnt := s.mapIn (s.fld colMapSlot) g

/-- The position of a package in a member list. -/
def rankIn (l : List Nat) (p : Nat) : Nat := l.findIdx fun x => x == p

/-! ### The descriptor (R415) -/

/-- Bits of word `i`. -/
def cf (q : List W64) (i lo w : Nat) : Nat := fld64 (wordAt q i) lo w
/-- Operator. -/
def cRed (q : List W64) : Nat := cf q 1 0 3
/-- Data type. -/
def cType (q : List W64) : Nat := cf q 1 3 4
/-- Format delivered. -/
def cDfmt (q : List W64) : Nat := cf q 1 7 4
/-- End-of-step barrier. -/
def cEos (q : List W64) : Bool := cf q 1 11 1 == 1
/-- Hierarchical. -/
def cHier (q : List W64) : Bool := cf q 1 12 1 == 1
/-- Keep a residual. -/
def cRes (q : List W64) : Bool := cf q 1 13 1 == 1
/-- INT64 data. -/
def cI64 (q : List W64) : Bool := cf q 1 14 1 == 1
/-- Group. -/
def cGid (q : List W64) : Nat := cf q 1 24 8
/-- Upper group. -/
def cUgid (q : List W64) : Nat := cf q 1 32 8
/-- Plan index. -/
def cPidx (q : List W64) : Nat := cf q 1 40 14
/-- Count. -/
def cCount (q : List W64) : Nat := cf q 2 0 40
/-- Root. -/
def cRoot (q : List W64) : Nat := cf q 2 40 13
/-- An address word. -/
def cAddr (q : List W64) (i : Nat) : Nat := (wordAt q i).toNat

/-! ### What the registers show -/

/-- The group is calm: no collective of it has started and not completed; a COPY has no group (R401, R432). -/
def Dev.groupCalm (s : Dev) (g : Nat) : Bool := s.col.live.all fun c => c.op == 10 || (cGid c.q != g && !(cHier c.q && cUgid c.q == g))

/-- What the COL_ registers report (R443). -/
def Dev.colShow (s : Dev) : Dev :=
  let g := s.fld colGroupSelGid
  let l := s.members g
  let mine := l.contains s.ownPkg
  let s := (List.range 4).foldl (fun s d => s.setFld (colStatusInflight.nth d) (s.col.live.filter fun c => c.eng == d).length) s
  let s := (s.setFld colGroupStatMembers (if mine then l.length else 0)).setFld colGroupStatRank (if mine then rankIn l s.ownPkg else 0)
  let s := (s.setFld colGroupStatSeq (Sparse.get (always 0) s.col.seqs g)).setBit colGroupStatDefined (!(s.terms g).isEmpty)
  let s := (s.setBit colGroupStatMapped (s.mapEnt g).isSome).setBit colGroupStatCalm (s.groupCalm g)
  (s.setBit colGroupStatRecovering (s.col.rec_.contains g)).setFld colGroupStatTerms (s.terms g).length

end Sys2Proof.Machine
end

