-- ==== Sys2Proof/Config.lean ====
section
/-! DEFINITION. What an implementation fixes and what the spec leaves open: constants without a body, so that no proof can
see their values (log entry 1 names each). -/

namespace Sys2Proof.Config

/-- A fresh free value: applied to the state's counter. -/
opaque freeWord : Nat → BitVec 64

/-- Free bytes: applied to the counter and an index. -/
opaque freeByte : Nat → Nat → BitVec 8

/-- What a format without NaN and infinity (E2M3, E3M2, E2M1) takes for one outside a block conversion (R29, R43 do not
say): by width, whether it is NaN, and the sign. -/
opaque smallNonFinite (width : Nat) (isNan neg : Bool) : Nat

/-- The FP32 result of a special function by feature level, function code and FP32 input, before the bound of R119 is
applied to it. -/
opaque specialFunction (level fn : Nat) (x : BitVec 32) : BitVec 32

/-- Whether the plane of that number holds a PBR ID for CXL-attached memory (R261). -/
opaque planeHolds (plane id : Nat) : Bool

/-- The vendor ID of configuration space (R316). -/
opaque vendorId : BitVec 16

/-- The version of the ROM (R316) and its digest (R502). -/
opaque romVersion : BitVec 32

/-- The SHA-512 digest of the ROM (R500, R502). -/
opaque romDigest : List (BitVec 8)

/-- SHA-512 (R495), 64 bytes. -/
opaque sha512 (bytes : List (BitVec 8)) : List (BitVec 8)

/-- Whether 133 bytes are an uncompressed point on P-521 (R495). -/
opaque onCurve (key : List (BitVec 8)) : Bool

/-- Whether a signature is one of a digest under a key, by ECDSA of FIPS 186-5 (R495). -/
opaque ecdsaVerify (key digest sig : List (BitVec 8)) : Bool

/-- Whether an amendment's payload asks that minver be burnt (R497 names commit_min and gives no place for it). -/
opaque commitMin (payload : List (BitVec 8)) : Bool

/-- The certificate chain of slot 0 for the device secret, the serial number and what the alias key is derived from (R500, R501). -/
opaque certChain (uds serial alias_ : List (BitVec 8)) : List (BitVec 8)

/-- A signature by the alias key (R500): a fresh one each time. -/
opaque aliasSign : Nat → List (BitVec 8)

end Sys2Proof.Config
end

