-- ==== Sys2Proof/Machine/Fp.lean ====
section
/-! DEFINITION. Number formats, exact values, rounding and conversion (R29 to R52). Values are formed exactly and narrowed
once, at the end. -/

namespace Sys2Proof.Machine

/-- An exact value: NaN, an infinity, or (−1)^neg × m × 2^e; a zero keeps its sign. -/
inductive XVal where
  | nan
  | inf (neg : Bool)
  | fin (neg : Bool) (m : Nat) (e : Int)
  deriving DecidableEq, Repr

/-- What the top exponent value encodes (R29). -/
inductive Top where
  | ieee | oneNan | numbers
  deriving DecidableEq, Repr

/-- A floating-point element format: exponent bits, mantissa bits, bias (R29). -/
structure Fmt where
  ew   : Nat
  mw   : Nat
  bias : Nat
  top  : Top
  deriving DecidableEq, Repr

/-- FP32. -/
def fp32 : Fmt := ⟨8, 23, 127, .ieee⟩
/-- BF16. -/
def bf16 : Fmt := ⟨8, 7, 127, .ieee⟩
/-- FP16. -/
def fp16 : Fmt := ⟨5, 10, 15, .ieee⟩
/-- FP8 E4M3. -/
def e4m3 : Fmt := ⟨4, 3, 7, .oneNan⟩
/-- FP8 E5M2. -/
def e5m2 : Fmt := ⟨5, 2, 15, .ieee⟩
/-- FP6 E2M3. -/
def e2m3 : Fmt := ⟨2, 3, 1, .numbers⟩
/-- FP6 E3M2. -/
def e3m2 : Fmt := ⟨3, 2, 3, .numbers⟩
/-- FP4 E2M1. -/
def e2m1 : Fmt := ⟨2, 1, 1, .numbers⟩

/-- The element format of a floating-point format code (R63). -/
def fmtOf (code : Nat) : Fmt :=
  match code with
  | 0x0 | 0x2 => e4m3
  | 0x1 | 0x3 => e5m2
  | 0x4 => bf16
  | 0x5 => fp16
  | 0x6 => e2m3
  | 0x7 => e3m2
  | 0x8 => e2m1
  | _ => fp32

/-- Bits of a format. -/
def Fmt.width (f : Fmt) : Nat := 1 + f.ew + f.mw

/-- The value that bits encode (R29, R30). -/
def Fmt.decode (f : Fmt) (x : Nat) : XVal :=
  let neg := bit x (f.ew + f.mw)
  let e := bits x f.mw f.ew
  let m := bits x 0 f.mw
  let allOnes := 2 ^ f.ew - 1
  if f.top = .ieee ∧ e = allOnes then (if m = 0 then .inf neg else .nan)
  else if f.top = .oneNan ∧ e = allOnes ∧ m = 2 ^ f.mw - 1 then .nan
  else if e = 0 then .fin neg m (1 - (f.bias : Int) - f.mw)
  else .fin neg (2 ^ f.mw + m) ((e : Int) - f.bias - f.mw)

/-- Round the magnitude m × 2^e to a multiple of 2^u, as that multiple, by the mode of R40: 1 toward zero, 2 stochastic with
the 32-bit value `r` (R42), else to nearest even. -/
def roundAt (mode r m : Nat) (e u : Int) : Nat :=
  if u ≤ e then m * 2 ^ (e - u).toNat
  else
    let d := (u - e).toNat
    let k := m / 2 ^ d
    let f := m % 2 ^ d
    if mode = 1 then k
    else if mode = 2 then (if 2 ^ 32 ≤ f * 2 ^ 32 / 2 ^ d + r then k + 1 else k)
    else if 2 ^ d < 2 * f ∨ (2 * f = 2 ^ d ∧ k % 2 = 1) then k + 1 else k

/-- The exponent of the grid of a format at magnitude m × 2^e (m ≠ 0): its last place, not below the subnormals'. -/
def Fmt.grid (f : Fmt) (m : Nat) (e : Int) : Int :=
  max ((Nat.log2 m : Int) + e - f.mw) (1 - (f.bias : Int) - f.mw)

/-- The largest finite magnitude as a multiple of its last place, with that place's exponent. -/
def Fmt.maxMag (f : Fmt) : Nat × Int :=
  match f.top with
  | .ieee => (2 ^ (f.mw + 1) - 1, (2 ^ f.ew : Nat) - 2 - (f.bias : Int) - f.mw)
  | .oneNan => (2 ^ (f.mw + 1) - 2, (2 ^ f.ew : Nat) - 1 - (f.bias : Int) - f.mw)
  | .numbers => (2 ^ (f.mw + 1) - 1, (2 ^ f.ew : Nat) - 1 - (f.bias : Int) - f.mw)

/-- The encoding of the largest finite magnitude. -/
def Fmt.maxBits (f : Fmt) : Nat :=
  match f.top with
  | .ieee => (2 ^ f.ew - 2) * 2 ^ f.mw + (2 ^ f.mw - 1)
  | .oneNan => 2 ^ (f.ew + f.mw) - 2
  | .numbers => 2 ^ (f.ew + f.mw) - 1

/-- The NaN written (R31). -/
def Fmt.nanBits (f : Fmt) : Nat :=
  match f.top with
  | .ieee => (2 ^ f.ew - 1) * 2 ^ f.mw + 2 ^ (f.mw - 1)
  | .oneNan => 2 ^ (f.ew + f.mw) - 1
  | .numbers => Config.smallNonFinite f.width true false

/-- The sign bit in place. -/
def Fmt.signBits (f : Fmt) (neg : Bool) : Nat := b2n neg * 2 ^ (f.ew + f.mw)

/-- The infinity written: E4M3 has none and takes NaN (R43); what E2M3, E3M2 and E2M1 take outside a block conversion is not
stated: a free value. -/
def Fmt.infBits (f : Fmt) (neg : Bool) : Nat :=
  match f.top with
  | .ieee => f.signBits neg + (2 ^ f.ew - 1) * 2 ^ f.mw
  | .oneNan => f.nanBits
  | .numbers => Config.smallNonFinite f.width false neg

/-- The rounded magnitude of a finite value lies above the format's largest finite value (R43). -/
def Fmt.overflows (f : Fmt) (mode r : Nat) (m : Nat) (e : Int) : Bool :=
  if m = 0 then false else
  let u := f.grid m e
  let k := roundAt mode r m e u
  decide (f.maxMag.2 ≤ u ∧ f.maxMag.1 < k * 2 ^ (u - f.maxMag.2).toNat)

/-- Convert an exact value to a format: one rounding, overflow by the sat flag (R40 to R43). -/
def Fmt.encode (f : Fmt) (mode : Nat) (sat : Bool) (r : Nat) (x : XVal) : Nat :=
  match x with
  | .nan => f.nanBits
  | .inf neg => f.infBits neg
  | .fin neg m e =>
    if m = 0 then f.signBits neg
    else if f.overflows mode r m e then
      match f.top with
      | .ieee => if sat ∨ mode = 1 then f.signBits neg + f.maxBits else f.infBits neg
      | .oneNan => if sat then f.signBits neg + f.maxBits else f.nanBits
      | .numbers => f.signBits neg + f.maxBits
    else
      let u := f.grid m e
      let k := roundAt mode r m e u
      let k' := if k = 2 ^ (f.mw + 1) then k / 2 else k
      let u' := if k = 2 ^ (f.mw + 1) then u + 1 else u
      let ef := if k' < 2 ^ f.mw then 0 else (u' + f.mw + f.bias).toNat
      f.signBits neg + ef * 2 ^ f.mw + k' % 2 ^ f.mw

/-! ### Exact arithmetic -/

/-- An integer as an exact value. -/
def XVal.ofInt (z : Int) : XVal := .fin (decide (z < 0)) z.natAbs 0

/-- The value m × 2^e of an integer multiple. -/
def XVal.ofScaled (z : Int) (e : Int) : XVal := .fin (decide (z < 0)) z.natAbs e

/-- The negation. -/
def XVal.neg : XVal → XVal
  | .nan => .nan
  | .inf s => .inf (!s)
  | .fin s m e => .fin (!s) m e

/-- Times a power of two. -/
def XVal.scale (x : XVal) (k : Int) : XVal :=
  match x with
  | .fin s m e => .fin s m (e + k)
  | y => y

/-- Whether it is a zero. -/
def XVal.isZero : XVal → Bool
  | .fin _ m _ => m == 0
  | _ => false

/-- Whether it is finite. -/
def XVal.finite : XVal → Bool
  | .fin _ _ _ => true
  | _ => false

/-- The signed multiple of 2^u of a finite value, u not above its exponent. -/
def signedAt (s : Bool) (m : Nat) (e u : Int) : Int := (if s then -1 else 1) * ((m * 2 ^ (e - u).toNat : Nat) : Int)

/-- The exact sum; a zero sum is −0 only when both terms are negative zeros (R33). -/
def XVal.add (a b : XVal) : XVal :=
  match a, b with
  | .nan, _ | _, .nan => .nan
  | .inf s, .inf t => if s = t then .inf s else .nan
  | .inf s, _ => .inf s
  | _, .inf t => .inf t
  | .fin s m e, .fin t n f =>
    let u := min e f
    let z := signedAt s m e u + signedAt t n f u
    if z = 0 then .fin (s && t && m == 0 && n == 0) 0 u else .fin (decide (z < 0)) z.natAbs u

/-- The exact difference. -/
def XVal.sub (a b : XVal) : XVal := a.add b.neg

/-- The exact product; zero times infinity is NaN. -/
def XVal.mul (a b : XVal) : XVal :=
  match a, b with
  | .nan, _ | _, .nan => .nan
  | .inf s, .inf t => .inf (s != t)
  | .inf s, .fin t n _ => if n = 0 then .nan else .inf (s != t)
  | .fin s m _, .inf t => if m = 0 then .nan else .inf (s != t)
  | .fin s m e, .fin t n f => .fin (s != t) (m * n) (e + f)

/-- Order of exact values that are not NaN, −0 below +0 (R33). -/
def XVal.lt (a b : XVal) : Bool :=
  match a, b with
  | .nan, _ | _, .nan => false
  | .inf s, .inf t => s && !t
  | .inf s, _ => s
  | _, .inf t => !t
  | .fin s m e, .fin t n f =>
    if m = 0 ∧ n = 0 then s && !t
    else
      let u := min e f
      decide (signedAt s m e u < signedAt t n f u)

/-- Equality as numbers: −0 equals +0, NaN equals nothing. -/
def XVal.eqv (a b : XVal) : Bool :=
  match a, b with
  | .nan, _ | _, .nan => false
  | .inf s, .inf t => s == t
  | .fin s m e, .fin t n f =>
    let u := min e f
    decide (signedAt s m e u = signedAt t n f u)
  | _, _ => false

/-- Maximum by R33: NaN when either is. -/
def XVal.max (a b : XVal) : XVal :=
  match a, b with
  | .nan, _ | _, .nan => .nan
  | a, b => if a.lt b then b else a

/-- Minimum by R33. -/
def XVal.min (a b : XVal) : XVal :=
  match a, b with
  | .nan, _ | _, .nan => .nan
  | a, b => if b.lt a then b else a

/-- The integer square root, by bits from 2^n down. -/
def isqrtFrom : Nat → Nat → Nat → Nat
  | 0, _, r => r
  | n + 1, x, r => isqrtFrom n x (if (r + 2 ^ n) * (r + 2 ^ n) ≤ x then r + 2 ^ n else r)

/-- The integer square root. -/
def isqrt (x : Nat) : Nat := isqrtFrom (Nat.log2 x / 2 + 1) x 0

/-- Twice a truncated value, its last bit set when something was cut off: rounds as the exact value does. -/
def sticky (q rem : Nat) : Nat := 2 * q + (if rem = 0 then 0 else 1)

/-- The quotient, to well over the precision any rounding here looks at. -/
def XVal.div (a b : XVal) : XVal :=
  match a, b with
  | .nan, _ | _, .nan => .nan
  | .inf _, .inf _ => .nan
  | .inf s, .fin t _ _ => .inf (s != t)
  | .fin s _ e, .inf t => .fin (s != t) 0 e
  | .fin s m e, .fin t n f =>
    if n = 0 then (if m = 0 then .nan else .inf (s != t))
    else
      let p := 130 + Nat.log2 n
      .fin (s != t) (sticky (m * 2 ^ p / n) (m * 2 ^ p % n)) (e - f - p - 1)

/-- The square root; of a negative number NaN, of −0 −0. -/
def XVal.sqrt (a : XVal) : XVal :=
  match a with
  | .nan => .nan
  | .inf s => if s then .nan else .inf false
  | .fin s m e =>
    if m = 0 then .fin s 0 0
    else if s then .nan
    else
      let odd := (e % 2).toNat
      let x := m * 2 ^ odd * 2 ^ 260
      let q := isqrt x
      .fin false (sticky q (x - q * q)) ((e - odd) / 2 - 131)

/-- Round to FP32 by RNE, as bits. -/
def rne32 (x : XVal) : Nat := fp32.encode 0 false 0 x

/-- FP32 bits as a value. -/
def f32 (x : Nat) : XVal := fp32.decode x

/-! ### Integers (R34) -/

/-- Into `n` bits: saturate to the signed range or wrap, as a signed value. -/
def fitInt (n : Nat) (sat : Bool) (z : Int) : Int :=
  if sat then max (-(2 ^ (n - 1) : Nat)) (min ((2 ^ (n - 1) : Nat) - 1) z)
  else signed n (wrap n z)

/-- Round a finite value to an integer, the sign applied afterwards (R41). -/
def roundInt (mode r : Nat) (s : Bool) (m : Nat) (e : Int) : Int :=
  let k := roundAt mode r m e 0
  if s then -(k : Int) else k

/-- Convert to an `n`-bit integer: rounds, saturates, NaN is 0 (R34). -/
def XVal.toInt (n mode r : Nat) (x : XVal) : Int :=
  match x with
  | .nan => 0
  | .inf s => if s then -(2 ^ (n - 1) : Nat) else (2 ^ (n - 1) : Nat) - 1
  | .fin s m e => fitInt n true (roundInt mode r s m e)

/-! ### Block formats (R35 to R50) -/

/-- Convert one element to BI16 at scale code `s`: the integer and whether it saturated (R46). The value must be finite. -/
def toBi16 (code mode r : Nat) (x : XVal) : Int × Bool :=
  match x with
  | .fin s m e =>
    let q := roundInt mode r s m (e + 127 - code)
    if 32767 < q.natAbs then (if s then (-32767, true) else (32767, true)) else (q, false)
  | _ => (0, false)

/-- A BI16 element as an integer: 0x8000 is taken as −32,767 and counts as a saturation (R39). -/
def bi16Int (x : Nat) : Int × Bool := if x % 65536 = 0x8000 then (-32767, true) else (signed 16 x, false)

/-- The value of a BI16 element at a scale code (R36, R47). -/
def bi16Val (x code : Nat) : XVal := if code = 0xFF then .nan else XVal.ofScaled (bi16Int x).1 ((code : Int) - 127)

/-- emax of block-maximum scaling, by format code (R44). -/
def emaxOf (code : Nat) : Int :=
  match code with
  | 0x2 => 8
  | 0x3 => 15
  | 0x6 => 2
  | 0x7 => 4
  | 0x8 => 2
  | _ => 0

/-- The floor of log2 of a finite non-zero magnitude. -/
def ilog2 (m : Nat) (e : Int) : Int := (Nat.log2 m : Int) + e

/-- The largest floor of log2 over the finite non-zero values; none when there is none. -/
def blockLog : List XVal → Option Int
  | [] => none
  | .fin _ m e :: l =>
    if m = 0 then blockLog l else
    match blockLog l with
    | some y => some (max (ilog2 m e) y)
    | none => some (ilog2 m e)
  | _ :: l => blockLog l

/-- The block-maximum scale code for a format (R44). -/
def blockCode (fmt : Nat) (l : List XVal) : Nat :=
  match blockLog l with
  | none => 0
  | some a => (max 0 (min 0xFE (a - emaxOf fmt + 127))).toNat

/-- Convert one finite element to an MX element format or MXINT8 at scale code `code`; sat is taken as 1 (R44). The bits, and
whether the rounded magnitude was above the range. -/
def toMx (fmt code mode r : Nat) (x : XVal) : Nat × Bool :=
  if fmt = 0xD then
    match x with
    | .fin s m e =>
      let q := roundInt mode r s m (e + 133 - code)
      if 127 < q.natAbs then (wrap 8 (if s then -127 else 127), true) else (wrap 8 q, false)
    | _ => (0, false)
  else
    match x with
    | .fin s m e =>
      let y := e + 127 - code
      ((fmtOf fmt).encode mode true r (.fin s m y), (fmtOf fmt).overflows mode r m y)
    | _ => (0, false)

/-- The value of an MX element at a scale code (R35, R36). -/
def mxVal (fmt x code : Nat) : XVal :=
  if code = 0xFF then .nan
  else if fmt = 0xD then XVal.ofScaled (signed 8 x) ((code : Int) - 133)
  else ((fmtOf fmt).decode x).scale ((code : Int) - 127)

/-- Bits of an element by format code (R29, R36). -/
def elemBits (fmt : Nat) : Nat :=
  match fmt with
  | 0x0 | 0x1 | 0x2 | 0x3 | 0x9 | 0xD => 8
  | 0x4 | 0x5 | 0xC => 16
  | 0x6 | 0x7 => 6
  | 0x8 => 4
  | _ => 32

/-- Whether a format is a block format with a scale region. -/
def isBlock (fmt : Nat) : Bool := fmt == 2 || fmt == 3 || fmt == 6 || fmt == 7 || fmt == 8 || fmt == 0xC || fmt == 0xD

/-- Element `i` of a packed run of elements of a format; elements of 6 and 4 bits pack little-endian (R37). -/
def elemAt (fmt : Nat) (bs : List Byte) (i : Nat) : Nat :=
  let w := elemBits fmt
  let b := i * w
  bits (leAt bs (b / 8) 5) (b % 8) w

/-- Pack elements into bytes, little-endian (R37). -/
def packElems (fmt : Nat) (l : List Nat) : List Byte :=
  let w := elemBits fmt
  let n := l.foldr (fun x acc => x % 2 ^ w + acc * 2 ^ w) 0
  natLe (ceilDiv (l.length * w) 8) n

/-! ### The generator (R51) -/

/-- mix of R51. -/
def mix (z : W64) : W64 :=
  let z := (z ^^^ (z >>> 30)) * 0xBF58476D1CE4E5B9
  let z := (z ^^^ (z >>> 27)) * 0x94D049BB133111EB
  z ^^^ (z >>> 31)

/-- The per-tensor value h (R51). -/
def tensorHash (seed step : W64) (tensor : Nat) : W64 :=
  mix (mix (mix (seed + 0x9E3779B97F4A7C15) ^^^ step) ^^^ BitVec.ofNat 64 (tensor % 2 ^ 32))

/-- The 32-bit random value of an element (R51). -/
def randAt (h : W64) (index : Nat) : Nat := (mix (h ^^^ BitVec.ofNat 64 index)).toNat / 2 ^ 32

end Sys2Proof.Machine
end

