-- ==== Sys2Proof/Machine/Ring.lean ====
section
/-! DEFINITION. The base-die ring and its crossbars (R12 to R15, R17): the path of a transfer, which requester a crossbar serves next, and
what moves at a tick. -/

namespace Sys2Proof.Machine

/-! ### Paths (R12, R15) -/

/-- The link between two neighbours, numbered as in R315: 0–1, 1–3, 3–2, 2–0. -/
def linkOf (a b : Nat) : Nat :=
  match Nat.min a b, Nat.max a b with
  | 0, 1 => 0
  | 1, 3 => 1
  | 2, 3 => 2
  | _, _ => 3

/-- Some module of the link between two neighbours carries; else the link is lost (R15, R475). -/
def Dev.linkUp (s : Dev) (a b : Nat) : Bool := (List.range 8).any fun m => s.on (dieLat (linkOf a b) m 4 1)

/-- Every link of a way from `a` carries. -/
def Dev.wayUp (s : Dev) : Nat → List Nat → Bool
  | _, [] => true
  | a, b :: l => s.linkUp a b && Dev.wayUp s b l

/-- The ways from base die `a` to base die `b`, the one that R12 gives first: neighbours take their direct link, else the other way
round the ring; diagonal traffic takes the lower-numbered intermediate when `key` is 0 and the higher-numbered one when it is 1. -/
def ringWays (a b key : Nat) : List (List Nat) :=
  if a = b then [[]]
  else if a + b = 3 then
    let lo := Nat.min ((a + 1) % 4) (Nat.min ((a + 2) % 4) ((a + 3) % 4))
    let lo := if lo = b then 1 else lo
    let hi := 6 - a - b - lo
    if key % 2 = 0 then [[lo, b], [hi, b]] else [[hi, b], [lo, b]]
  else [[b], [3 - b, 3 - a, b]]

/-- The path of a transfer (R12, R15), if one is left. -/
def Dev.ringPath (s : Dev) (a b key : Nat) : Option (List Nat) := (ringWays a b key).find? (s.wayUp a)

/-! ### Transfers -/

/-- The legs along a path with the bytes each carries; every base die but the first is passed in transit. -/
def legs (n : Nat) : Bool → List Nat → List Leg
  | _, [] => []
  | t, d :: l => ⟨d, n, t⟩ :: legs n true l

/-- A transfer of `n` bytes from base die `a` to base die `b` enters the crossbar of `a` (R14); without a path only that crossbar passes it. -/
def Dev.ringSend (s : Dev) (who cluster core a b key n : Nat) : Dev :=
  let x : Xfer := { die := a, who, cluster, core, path := legs n false ((s.ringPath a b key).getD []), transit := false }
  { s with ring := { s.ring with wait := s.ring.wait ++ [x] } }

/-- A read from base die `a` of `n` bytes at base die `b`: the request goes out, the response returns along the reverse path (R12). -/
def Dev.ringFetch (s : Dev) (who cluster core a b key n : Nat) : Dev :=
  let p := (s.ringPath a b key).getD []
  let back := ((a :: p).reverse).drop 1
  let x : Xfer := { die := a, who, cluster, core, path := legs 0 false p ++ legs n false back, transit := false }
  { s with ring := { s.ring with wait := s.ring.wait ++ [x] } }

/-! ### Arbitration (R14, R17) -/

/-- The first number after `last`, modulo `n`, that asks. -/
def turn (n last : Nat) (asks : Nat → Bool) : Option Nat := ((List.range n).map fun i => (last + 1 + i) % n).find? asks

/-- Which core of a cluster that asks is served, by round robin after the one served last; 16 is the cluster's own work (R17). -/
def Dev.coreTurn (s : Dev) (d : Nat) (l : List Xfer) : Option Xfer :=
  match turn 8 (Sparse.get (always 7) s.ring.lastCl d) fun k => l.any (·.cluster == k) with
  | none => none
  | some k =>
    let l := l.filter (·.cluster == k)
    match turn 17 (Sparse.get (always 16) s.ring.lastCore (8 * d + k)) fun c => l.any (·.core == c) with
    | none => none
    | some c => l.find? (·.core == c)

/-- The transfer that the crossbar of base die `d` passes next: traffic in transit first, then its requesters by round robin with equal
weights (R14), and of the compute die's, its clusters and their cores in the same way (R17). -/
def Dev.grant (s : Dev) (d : Nat) : Option Xfer :=
  let l := s.ring.wait.filter (·.die == d)
  match l.find? (·.transit) with
  | some x => some x
  | none =>
    match turn 6 (Sparse.get (always 5) s.ring.last d) fun w => l.any (·.who == w) with
    | none => none
    | some 0 => s.coreTurn d (l.filter (·.who == 0))
    | some w => l.find? (·.who == w)

/-- Remember whom crossbar `d` has served. -/
def Dev.served (s : Dev) (d : Nat) (x : Xfer) : Dev :=
  if x.transit then s else
  let r := { s.ring with last := Sparse.set (always 5) s.ring.last d x.who }
  if x.who ≠ 0 then { s with ring := r } else
  { s with ring := { r with lastCl := Sparse.set (always 7) r.lastCl d x.cluster,
                            lastCore := Sparse.set (always 16) r.lastCore (8 * d + x.cluster) x.core } }

/-- The crossbar passes a transfer: its next leg is counted on the link it takes, and as transit where the die only passes it on (R515).
A read response that leaves its home die is traffic on the ring already, with transit priority: R14 names no requester for it (DESIGN CHOICE; log
entry 110). -/
def Dev.pass (s : Dev) (d : Nat) (x : Xfer) : Dev :=
  let s := { s with ring := { s.ring with wait := s.ring.wait.erase x } }.served d x
  match x.path with
  | [] => s
  | g :: l =>
    -- the neighbours of a base die are the two that are not its diagonal one; the lower-numbered has index 12
    let s := s.count (dieBlk d) (if g.die < 3 - g.die then 12 else 13) g.bytes
    let s := if g.transit then s.count (dieBlk d) 14 g.bytes else s
    if l = [] then s else { s with ring := { s.ring with wait := s.ring.wait ++ [{ x with die := g.die, path := l, transit := true }] } }

/-- At a tick each crossbar passes one transfer (DESIGN CHOICE, log entry 110). -/
def Dev.ringTick (s : Dev) : Dev :=
  let l := (List.range 4).filterMap fun d => (s.grant d).map fun x => (d, x)
  l.foldl (fun s p => s.pass p.1 p.2) s

end Sys2Proof.Machine
end

