-- ==== Sys2Proof/Machine/Memory.lean ====
section
/-! DEFINITION. Device physical space, the memory code's reactions, translation and access by virtual address (08). -/

namespace Sys2Proof.Machine

/-- 2^30. -/
def gib : Nat := 0x40000000

/-- *I* of R234: values above 62 are taken as 62 (R263). -/
def Dev.ilv (s : Dev) : Nat := Nat.min 62 (s.fld memMapIlvGib)

/-- A window of the device physical space (R234). -/
inductive Window where
  | home (d : Nat)
  | inter
  | pbuf (d : Nat)
  | cxl (n : Nat)
  deriving DecidableEq, Repr

/-- The window and the offset in it of physical address `pa`, if it is backed (R234). -/
def Dev.window (s : Dev) (pa : Nat) : Option (Window × Nat) :=
  if pa < 0x10000000000 then
    let d := pa / 0x4000000000; let o := pa % 0x4000000000
    if o < 4 * (62 - s.ilv) * gib then some (.home d, o) else none
  else if pa < 0x20000000000 then
    let o := pa - 0x10000000000
    if o < 16 * s.ilv * gib then some (.inter, o) else none
  else if pa < 0x20040000000 then
    let d := (pa - 0x20000000000) / 0x10000000; let o := pa % 0x10000000
    if o < 192 * 0x100000 then some (.pbuf d, o) else none
  else if 0x8000000000000 ≤ pa ∧ pa < 0x10000000000000 then
    let n := (pa - 0x8000000000000) / 2 ^ 48; let o := pa % 2 ^ 48
    if s.on (memCxlWinEn.nth n) ∧ o < s.fld (memCxlWinSize.nth n) * gib then some (.cxl n, o) else none
  else none

/-- Whether a window is HBM. -/
def Window.hbm : Window → Bool
  | .home _ | .inter => true
  | _ => false

/-- The stack and the stack-local address of an address in an HBM window (R235, R236). -/
def Dev.stackAddr (s : Dev) (pa : Nat) : Option (Nat × Nat) :=
  match s.window pa with
  | some (.home d, o) => some (4 * d + bits o 12 2, o / 2 ^ 14 * 2 ^ 12 + o % 2 ^ 12)
  | some (.inter, o) => some (bits o 12 4, (62 - s.ilv) * gib + (o / 2 ^ 16 * 2 ^ 12 + o % 2 ^ 12))
  | _ => none

/-- The pseudo-channel of a stack-local address (R237). -/
def pcOf (sa : Nat) : Nat := bits sa 14 6

/-- The address within the pseudo-channel (R237). -/
def pcAddr (sa : Nat) : Nat := sa / 2 ^ 20 * 2 ^ 14 + sa % 2 ^ 14

/-- The stacks that a 64 KiB frame lies on (R235, R236). -/
def Window.stacks : Window → List Nat
  | .home d => [4 * d, 4 * d + 1, 4 * d + 2, 4 * d + 3]
  | .inter => List.range 16
  | _ => []

/-- A 64 KiB frame has backing: it lies in a window and is not retired (R234, R247). -/
def Dev.frameBacked (s : Dev) (pa : Nat) : Bool :=
  match s.window pa with
  | none => false
  | some (w, _) =>
    match s.stackAddr pa with
    | none => true
    | some (_, sa) => w.stacks.all fun st => !bit (s.fld (memPcFencedFenced.nth st)) (pcOf sa)

/-- An address is backed. -/
def Dev.backed (s : Dev) (pa : Nat) : Bool := s.frameBacked pa

/-- Whether the 64 KiB frame of `pa` is in HBM. -/
def Dev.inHbm (s : Dev) (pa : Nat) : Bool :=
  match s.window pa with
  | some (w, _) => w.hbm && s.backed pa
  | none => false

/-- The data length of a codeword at a physical address (R239): 128 bytes in HBM, 64 elsewhere. -/
def cwLen (pa : Nat) : Nat := if pa < 0x20000000000 then 128 else 64

/-- The fabric port that requests of a CXL window take: the lowest-numbered one in service whose plane holds the window's PBR ID (R261). -/
def Dev.cxlPort (s : Dev) (id : Nat) : Option Nat :=
  (List.range 16).find? fun p => s.on (fabPortInSvc.nth p) && Config.planeHolds (s.fld (fabPortPlane.nth p)) id

/-- The base die whose controllers hold the address: home stacks (R9), buffer share; for a CXL window that of the port its requests take, the host
port or a fabric port (R261). -/
def Dev.homeDie (s : Dev) (pa : Nat) : Nat :=
  match s.window pa with
  | some (.home d, _) | some (.pbuf d, _) => d
  | some (.cxl n, _) => if s.on (memCxlWinVia.nth n) then ((s.cxlPort (s.fld (memCxlWinPbrId.nth n))).getD 0) % 4 else 0
  | _ => match s.stackAddr pa with
    | some (st, _) => st / 4
    | none => 0

/-- A pseudo-channel starts to drain (R246). -/
def Dev.startDrain (s : Dev) (st pc : Nat) : Dev :=
  if bit (s.fld (memPcDrainDrain.nth st)) pc ∨ bit (s.fld (memPcFencedFenced.nth st)) pc then s else
  (s.setFld (memPcDrainDrain.nth st) (s.fld (memPcDrainDrain.nth st) + 2 ^ pc)).detect
    ⟨3, st / 4, 0, st, 2⟩ 0x06 0 (pc + 64 * st)

/-- A corrected codeword counts against its pseudo-channel over the sliding window (R246). -/
def Dev.countPc (s : Dev) (st pc : Nat) : Dev :=
  let t := s.now (st / 4)
  let w := s.fldOrAs ⟨.memCtl, st / 4⟩ memHealthCtlPcWinS 1 * 1000000000
  let l := (Sparse.get (always []) s.mem.pcErr (64 * st + pc)).filter (fun x => t < x + w) ++ [t]
  let s := { s with mem := { s.mem with pcErr := Sparse.set (always []) s.mem.pcErr (64 * st + pc) l } }
  if s.fldOrAs ⟨.memCtl, st / 4⟩ memHealthCtlPcCnt 1 ≤ l.length then s.startDrain st pc else s

/-- The reaction to one codeword that a reader found not clean (R141, R245, R246): messages, the pseudo-channel's count, a line of the
package buffer corrected in place. `cls` is the class that the reader gives an uncorrectable word of HBM or a CXL window; one of the package buffer is
suspect for every reader (R141). -/
def Dev.noteWord (s : Dev) (cls : Nat) (cw : Nat) (e : Ecc) : Dev :=
  match s.stackAddr cw with
  | some (st, sa) =>
    let src : Src := ⟨3, st / 4, 0, st, 2⟩
    match e with
    | .clean => s
    | .corrected _ _ => ((s.detect src 0x01 0 (cw / 16)).countPc st (pcOf sa)).count (dieBlk (st / 4)) 8 1
    | .uncorr => (s.detect src 0x05 cls (cw / 16)).startDrain st (pcOf sa)
    | .poisoned => s.detect src 0x05 cls (cw / 16 + 2 ^ 47)
  | none =>
    match s.window cw, e with
    | some (.pbuf d, _), .corrected _ _ => { s with phys := s.phys.mend 64 cw }.detect (dieSrc d 4) 0x01 0 (cw / 16)
    | some (.pbuf d, _), .uncorr | some (.pbuf d, _), .poisoned => s.detect (dieSrc d 4) 0x04 2 (cw / 16)
    | some (.cxl _, _), .uncorr | some (.cxl _, _), .poisoned => s.detect (dieSrc 0 2) 0x05 cls (cw / 16)
    | _, _ => s

/-- The reactions to all codewords of an access. -/
def Dev.noteAll (s : Dev) (cls : Nat) (l : List (Nat × Ecc)) : Dev := l.foldl (fun s e => s.noteWord cls e.1 e.2) s

/-- The codewords of a physical range that are not clean; a CXL line whose access failed reads as uncorrectable (R261). -/
def Dev.physBad (s : Dev) (pa n : Nat) : List (Nat × Ecc) :=
  s.phys.bad (cwLen pa) pa n ++
  ((s.mem.cxlErr.filter fun l => decide (pa < l + 64) && decide (l < pa + n)).map fun l => (l, Ecc.uncorr))

/-- The bytes of a physical range as a reader gets them. -/
def Dev.physRead (s : Dev) (pa n : Nat) : List Byte := s.phys.read (cwLen pa) pa n

/-- The pieces of `[a, a + n)` that lie in one 4 KiB unit each (R235, R236). -/
def unitPieces : Nat → Nat → Nat → List (Nat × Nat)
  | 0, _, _ => []
  | fuel + 1, a, n =>
    if n = 0 then [] else
    let l := Nat.min n (4096 - a % 4096)
    (a, l) :: unitPieces fuel (a + l) (n - l)

/-- Count the bytes of an access: HBM per stack at the die block's indices from `e`, CXL windows at index `ec` (R515). -/
def Dev.countBytes (s : Dev) (e ec pa n : Nat) : Dev :=
  (unitPieces (n / 4096 + 2) pa n).foldl (fun s p =>
    match s.stackAddr p.1, s.window p.1 with
    | some (st, _), _ => s.count (dieBlk (st / 4)) (e + st % 4) p.2
    | none, some (.cxl _, _) => s.count (dieBlk 0) ec p.2
    | _, _ => s) s

/-- Which of the requesters of R14 a unit is; what the firmware moves it moves as the base-die DMA does (R319). -/
def requesterOf (r : Src) : Nat :=
  match r.level, r.unit with
  | 0, _ | 1, _ | 2, _ | 3, 0 => 0
  | 3, 6 => 1
  | 3, 7 => 2
  | 4, 3 => 4
  | 4, 4 => 5
  | _, _ => 3

/-- An access through TLB `t` by a unit crosses its base die's crossbar and the ring in pieces of 4 KiB, on the path that bit 12 of each
address chooses (R12, R14); a compute die's bytes cross its UCIe-3D interface (R515). -/
def Dev.carry (s : Dev) (t : Nat) (src : Src) (wr : Bool) (pa n : Nat) : Dev :=
  let d := if t < 32 then t / 8 else t - 32
  let core := if src.level < 2 ∨ (src.level = 2 ∧ src.unit = 1) then src.core else 16
  let s := if requesterOf src = 0 then s.count (dieBlk d) (if wr then 10 else 11) n else s
  (unitPieces (n / 4096 + 2) pa n).foldl (fun s p =>
    if wr then s.ringSend (requesterOf src) src.cluster core d (s.homeDie p.1) (bits p.1 12 1) p.2
    else s.ringFetch (requesterOf src) src.cluster core d (s.homeDie p.1) (bits p.1 12 1) p.2) s

/-- Snoop back the lines of `[pa, pa + n)` that the host holds, before a write (R262). -/
def Dev.snoopBack (s : Dev) (pa n : Nat) : Dev :=
  let hit := s.mem.snoop.filter fun l => decide (pa < l + 64) && decide (l < pa + n)
  hit.foldl (fun s l => s.sendHost (.biSnoop l)) { s with mem := { s.mem with snoop := s.mem.snoop.filter (!hit.contains ·) } }

/-- Send a request `f` of the CXL window that holds `pa`, with the way and the target address: through the host port, or through the fabric
while a port leads there (R261). -/
def Dev.cxlAsk (s : Dev) (pa : Nat) (f : Option (Nat × Nat) → Nat → Output) : Dev :=
  match s.window pa with
  | some (.cxl n, o) =>
    let tgt := s.fld (memCxlTgtTgt.nth n) * gib + o
    let id := s.fld (memCxlWinPbrId.nth n)
    if !s.on (memCxlWinVia.nth n) then s.sendHost (f none tgt)
    else match s.cxlPort id with
      | some p => s.send (f (some (p, id)) tgt)
      | none => s
  | _ => s

/-- A write to a CXL window leaves the package as well (R261). -/
def Dev.cxlOut (s : Dev) (pa : Nat) (bs : List Byte) : Dev := s.cxlAsk pa fun via tgt => .cxlWrite via tgt bs

/-- The codewords that a write of `[pa, pa + n)` covers in part and that are not clean: it reads and merges them (R140, R243). -/
def Dev.partials (s : Dev) (pa n : Nat) : List (Nat × Ecc) :=
  (s.phys.bad (cwLen pa) pa n).filter fun e => !(decide (pa ≤ e.1) && decide (e.1 + cwLen pa ≤ pa + n))

/-- Before the device writes `[pa, pa + n)`: the words that the write merges with are read, with the reactions of R141, R245 and R246, and
host copies are taken back (R262). `cls` is the class of an uncorrectable word. -/
def Dev.preWrite (s : Dev) (cls pa n : Nat) : Dev := (s.noteAll cls (s.partials pa n)).snoopBack pa n

/-- Write bytes at a physical address for a requester whose uncorrectable words are of class `cls`. -/
def Dev.physWriteC (s : Dev) (cls pa : Nat) (bs : List Byte) : Dev :=
  let d := ((s.preWrite cls pa bs.length).countBytes 4 16 pa bs.length).cxlOut pa bs
  { d with phys := s.phys.write (cwLen pa) pa bs }

/-- Write bytes at a physical address. -/
def Dev.physWrite (s : Dev) (pa : Nat) (bs : List Byte) : Dev := s.physWriteC 2 pa bs

/-- Write bytes at a physical address with the poison pattern (R242). -/
def Dev.physPoison (s : Dev) (pa : Nat) (bs : List Byte) : Dev :=
  let d := ((s.preWrite 2 pa bs.length).countBytes 4 16 pa bs.length).cxlOut pa bs
  { d with phys := s.phys.writePoison (cwLen pa) pa bs }

/-- A write of the device's own to HBM (page tables, pool bitmap). -/
def Dev.ownWrite (s : Dev) (pa : Nat) (bs : List Byte) : Dev :=
  let d := s.preWrite 2 pa bs.length
  { d with phys := s.phys.write 128 pa bs }

/-! ### Translation -/

/-- What a translation gives (R250, R255). -/
inductive Xl where
  | ok (pa : Nat)
  | wait (leaf : Nat)
  | fail
  deriving DecidableEq, Repr

/-- What a table walk finds. -/
inductive Walk where
  | leaf (addr frame size : Nat) (entry : W64)
  | moving (addr : Nat)
  | fail
  | lost (addr : Nat)
  deriving DecidableEq, Repr

/-- One level of the walk: the lowest index bit, the index width, whether a leaf is allowed, whether it must be one, and the
size its next table is aligned to (R249). -/
structure Level where
  lo    : Nat
  width : Nat
  may   : Bool
  must  : Bool
  next  : Nat
  deriving DecidableEq, Repr

/-- The four levels L4 to L1 (R249). -/
def levels : List Level :=
  [⟨41, 11, false, false, 16384⟩, ⟨30, 11, true, false, 4096⟩, ⟨21, 9, true, false, 256⟩, ⟨16, 5, true, true, 1⟩]

/-- Every 64 KiB frame of a page lies inside one window with backing (R250). -/
def Dev.pageBacked (s : Dev) (frame size : Nat) : Bool :=
  (s.window frame).map (·.1) == (s.window (frame + size - 1)).map (·.1) &&
  (List.range (size / 65536)).all fun i => s.frameBacked (frame + 65536 * i)

/-- The key under which the 64 KiB entry `i` of a split leaf at `a` is named; no physical address reaches it (R256). -/
def splitKey (a i : Nat) : Nat := 2 ^ 60 + a * 2 ^ 15 + i

/-- Entry `i` of a split leaf whose entry is `e`: as the pager has changed it, else the leaf's own part (R247). -/
def Dev.splitEntry (s : Dev) (a i : Nat) (e : W64) : W64 :=
  Sparse.get (fun _ => BitVec.ofNat 64 (e.toNat + i * 65536)) s.mem.split (splitKey a i)

/-- The pager has split the leaf at `a`, and the entry still is what it split (R247). -/
def Dev.isSplit (s : Dev) (a : Nat) (e : W64) : Bool := e != 0 && Sparse.get (always 0) s.mem.splits a == e

/-- A leaf entry as found, `size` being its page size: the answer of the walk (R250). -/
def Dev.leafAnswer (s : Dev) (a size : Nat) (e : W64) (wr : Bool) : Walk :=
  let f := fld64 e
  let frame := f 16 36 * 65536
  if (f 0 1 == 0 && f 6 1 == 0) || f 7 1 = 1 || f 8 8 != 0 then .fail
  else if frame % size != 0 || !s.pageBacked frame size || (wr && f 2 1 == 0) then .fail
  else if f 6 1 = 1 then .moving a
  else .leaf a frame size e

/-- The walk from table `tab` over the levels that are left (R249, R250). -/
def Dev.walkFrom (s : Dev) (va : Nat) (wr : Bool) : List Level → Nat → Walk
  | [], _ => .fail
  | lv :: rest, tab =>
    let a := tab + 8 * bits va lv.lo lv.width
    if !s.inHbm a then .fail
    else if (worst (s.physBad a 8)).lost then .lost a
    else
      let e := BitVec.ofNat 64 (leNat (s.physRead a 8))
      let f := fld64 e
      if f 0 1 = 0 ∧ f 6 1 = 0 then .fail
      else if f 7 1 = 1 then .fail
      else if f 1 1 = 1 then
        if !lv.may then .fail
        else if s.isSplit a e then
          let i := va % 2 ^ lv.lo / 65536
          s.leafAnswer (splitKey a i) 65536 (s.splitEntry a i e) wr
        else s.leafAnswer a (2 ^ lv.lo) e wr
      else if lv.must then .fail
      else
        let nxt := f 8 44 * 256
        if nxt % lv.next != 0 then .fail
        else if f 6 1 = 1 then .moving a
        else s.walkFrom va wr rest nxt

/-- The walk of a virtual address (R249, R264). -/
def Dev.walk (s : Dev) (va : Nat) (wr : Bool) : Walk :=
  if s.on memPtRootEn then s.walkFrom va wr levels (s.fld memPtRootBase * 16384) else .fail

/-- The entries held by TLB `t`. -/
def Dev.tlb (s : Dev) (t : Nat) : List TlbEnt := Sparse.get (always []) s.mem.tlbs t

/-- Set the entries held by TLB `t`. -/
def Dev.setTlb (s : Dev) (t : Nat) (l : List TlbEnt) : Dev :=
  { s with mem := { s.mem with tlbs := Sparse.set (always []) s.mem.tlbs t l } }

/-- How many entries TLB `t` holds at most (R252). -/
def tlbCap (t : Nat) : Nat := if t < 32 then 1024 else 4096

/-- Put an entry into a TLB; which entry a full TLB gives up is not stated: a free value (R252). -/
def Dev.tlbFill (s : Dev) (t : Nat) (e : TlbEnt) : Dev :=
  let l := (s.tlb t).filter fun x => x.va != e.va || x.size != e.size
  if l.length < tlbCap t then s.setTlb t (e :: l)
  else
    let (n, s) := s.fresh
    s.setTlb t (e :: l.eraseIdx ((Config.freeWord n).toNat % l.length))

/-- Write a leaf entry: in its table, or among the pager's split entries. -/
def Dev.putLeaf (s : Dev) (addr : Nat) (e : W64) : Dev :=
  if 2 ^ 60 ≤ addr then { s with mem := { s.mem with split := Sparse.set (always 0) s.mem.split addr e } }
  else s.ownWrite addr (natLe 8 e.toNat)

/-- The leaf entry named `addr`, as it stands. -/
def Dev.leafWord (s : Dev) (addr : Nat) : W64 :=
  if 2 ^ 60 ≤ addr then Sparse.get (always 0) s.mem.split addr else BitVec.ofNat 64 (leNat (s.physRead addr 8))

/-- Set the a bit, and the d bit for a write, in the leaf entry (R251). -/
def Dev.markLeaf (s : Dev) (addr : Nat) (e : W64) (wr : Bool) : Dev :=
  let e' := e ||| (if wr then 0x30 else 0x10)
  if e' = e then s else s.putLeaf addr e'

/-- A translation that a TLB answers sets a, and d for a write, where software or a sweep has cleared them in the leaf since (R251); a leaf
that no longer maps the page, or that is being moved, is left alone. -/
def Dev.touchLeaf (s : Dev) (e : TlbEnt) (wr : Bool) : Dev :=
  let w := s.leafWord e.leaf
  if fld64 w 0 1 = 1 ∧ fld64 w 6 1 = 0 ∧ fld64 w 16 36 * 65536 = e.frame ∧ !s.isSplit e.leaf w
  then s.markLeaf e.leaf w wr else s

/-- The table entries a walk reads, the leaf's among them. -/
def Dev.walkAddrs (s : Dev) (va : Nat) : List Level → Nat → List Nat
  | [], _ => []
  | lv :: rest, tab =>
    let a := tab + 8 * bits va lv.lo lv.width
    if !s.inHbm a then []
    else if (worst (s.physBad a 8)).lost then [a]
    else
      let e := leNat (s.physRead a 8)
      if bits e 0 2 = 1 then a :: s.walkAddrs va rest (bits e 8 44 * 256) else [a]

/-- The walk of a TLB miss and what it leaves (R250 to R252): accessed and written bits set, the TLB filled, or the
translation message of class `cls` from `src`. -/
def Dev.walkFill (s : Dev) (t : Nat) (src : Src) (cls va : Nat) (wr : Bool) : Dev × Xl :=
  let s := if t < 32 then s.count (clusterBlk t) 13 1 else s.count (dieBlk (t - 32)) 9 1
  let w := s.walk va wr
  let s := if s.on memPtRootEn then
      s.noteAll 2 ((s.walkAddrs va levels (s.fld memPtRootBase * 16384)).flatMap fun x => s.physBad x 8)
    else s
  match w with
  | .leaf a frame size e =>
    let s := s.markLeaf a e wr
    let base := va / size * size
    ((s.tlbFill t ⟨base, size, frame, fld64 e 2 1 == 1, wr || fld64 e 5 1 == 1, a⟩), .ok (frame + (va - base)))
  | .moving a => (s, .wait a)
  | .fail | .lost _ => (s.detect src 0x08 cls (va / 16), .fail)

/-- Translate a virtual address for an access through TLB `t` (R249 to R252); none succeeds while translation is not enabled (R264). -/
def Dev.xlate (s : Dev) (t : Nat) (src : Src) (cls va : Nat) (wr : Bool) : Dev × Xl :=
  if !s.on memPtRootEn then s.walkFill t src cls va wr else
  match (s.tlb t).find? fun e => decide (e.va ≤ va) && decide (va < e.va + e.size) with
  | some e =>
    if wr && !e.w then (s.detect src 0x08 cls (va / 16), .fail)
    else if wr && !e.d then s.walkFill t src cls va wr
    else (s.touchLeaf e wr, .ok (e.frame + (va - e.va)))
  | none => s.walkFill t src cls va wr

/-- The pieces of `[a, a + n)` that lie in one 64 KiB page each; `fuel` bounds their number. -/
def pagePieces : Nat → Nat → Nat → List (Nat × Nat)
  | 0, _, _ => []
  | fuel + 1, a, n =>
    if n = 0 then [] else
    let l := Nat.min n (65536 - a % 65536)
    (a, l) :: pagePieces fuel (a + l) (n - l)

/-- A translated range: its physical pieces in order, or why there is none. -/
inductive Pieces where
  | ok (l : List (Nat × Nat))
  | wait (leaf : Nat)
  | fail
  deriving DecidableEq, Repr

/-- Translate a list of pieces one after another. -/
def Dev.xlateAll (s : Dev) (t : Nat) (src : Src) (cls : Nat) (wr : Bool) : List (Nat × Nat) → Dev × Pieces
  | [] => (s, .ok [])
  | (va, n) :: l =>
    match s.xlate t src cls va wr with
    | (s, .ok pa) =>
      match Dev.xlateAll s t src cls wr l with
      | (s, .ok ps) => (s, .ok ((pa, n) :: ps))
      | r => r
    | (s, .wait a) => (s, .wait a)
    | (s, .fail) => (s, .fail)

/-- Translate the range `[va, va + n)`. -/
def Dev.xlateRange (s : Dev) (t : Nat) (src : Src) (cls va n : Nat) (wr : Bool) : Dev × Pieces :=
  s.xlateAll t src cls wr (pagePieces (n / 65536 + 2) va n)

/-- What a read by virtual address gives: the bytes and what the memory code found, or a wait, or a failed translation. -/
inductive VRead where
  | data (bs : List Byte) (ecc : Ecc)
  | wait (leaf : Nat)
  | fail
  deriving DecidableEq, Repr

/-- Read `n` bytes at a virtual address through TLB `t`; `cls` is the class of a failed translation, `ucls` that of an
uncorrectable word (R245). -/
def Dev.vRead (s : Dev) (t : Nat) (src : Src) (cls ucls va n : Nat) : Dev × VRead :=
  match s.xlateRange t src cls va n false with
  | (s, .ok ps) =>
    let bad := ps.flatMap fun p => s.physBad p.1 p.2
    let s := ps.foldl (fun s p =>
      ((s.countBytes 0 15 p.1 p.2).carry t src false p.1 p.2).cxlAsk p.1 fun via tgt => .cxlRead via tgt p.2) s
    (s.noteAll ucls bad, .data (ps.flatMap fun p => s.physRead p.1 p.2) (worst bad))
  | (s, .wait a) => (s, .wait a)
  | (s, .fail) => (s, .fail)

/-- Write a list of bytes over physical pieces. -/
def Dev.writePieces (s : Dev) (poison : Bool) : List (Nat × Nat) → List Byte → Dev
  | [], _ => s
  | (pa, n) :: ps, bs =>
    let b := bs.take n
    Dev.writePieces (if poison then s.physPoison pa b else s.physWrite pa b) poison ps (bs.drop n)

/-- What a write by virtual address comes to. -/
inductive VWrite where
  | done
  | wait (leaf : Nat)
  | fail
  deriving DecidableEq, Repr

/-- Write bytes at a virtual address through TLB `t`. -/
def Dev.vWriteP (s : Dev) (poison : Bool) (t : Nat) (src : Src) (cls va : Nat) (bs : List Byte) : Dev × VWrite :=
  match s.xlateRange t src cls va bs.length true with
  | (s, .ok ps) => ((ps.foldl (fun s p => s.carry t src true p.1 p.2) s).writePieces poison ps bs, .done)
  | (s, .wait a) => (s, .wait a)
  | (s, .fail) => (s, .fail)

/-- Write clean bytes at a virtual address. -/
def Dev.vWrite (s : Dev) (t : Nat) (src : Src) (cls va : Nat) (bs : List Byte) : Dev × VWrite :=
  s.vWriteP false t src cls va bs

/-- A page of `[va, va + n)` is being moved, as the present tables say: who needs it waits (R255). -/
def Dev.moving (s : Dev) (va n : Nat) : Bool :=
  (pagePieces (n / 65536 + 2) va n).any fun p => match s.walk p.1 false with | .moving _ => true | _ => false

/-- The TLB of base die `d`, which also serves its collective engine, update unit and export engine (R252). -/
def baseTlb (d : Nat) : Nat := 32 + d

/-- Every page of `[va, va + n)` is mapped to HBM, as the present tables say (R259). -/
def Dev.allHbm (s : Dev) (va n : Nat) : Bool :=
  (pagePieces (n / 65536 + 2) va n).all fun p =>
    match s.walk p.1 false with
    | .leaf _ frame size _ => s.inHbm (frame + (p.1 % size))
    | _ => false

end Sys2Proof.Machine
end

