-- ==== Sys2Proof/Machine/CoreOps.lean ====
section
/-! DEFINITION. Cores and clusters: their state after reset, registers, the local store and the cluster store with their
codes, stopping a segment, event counters, and the prelude of an instruction's issue. -/

namespace Sys2Proof.Machine

/-- An empty store: zeros with valid code (R481, R485). -/
def Store.empty : Store := ⟨[], []⟩

/-- A cleared statistics slot (R172). -/
def Stat.cleared : Stat := ⟨-32768, 0, 0, 0, 0⟩

/-- A core after cold or core reset (R117, R79, R91, R485; log entry 3). -/
def Core.cold : Core :=
  { pc := 0, s := [], run := .idle, work := none, mq := [], vq := [], seq := 0, v := [], p := [], vstat := 0, tb := 0xC0000,
    vrsv := none, vlive := 0, mrsv := none, wb := [], gate := [], wrec := [], wword := [], wend := [], mwend := 0, acc := [],
    bank := [], mmts := [], vrun := none, vdone := [], slots := [], folds := [], grant := 0, since := 0, redo := 0, accs := false,
    saved := none, rest := none, mfree := 0, bdone := [], code := [], ls := Store.empty }

/-- An idle channel. -/
def Chan.idle : Chan :=
  { st := .idle, addr := 0, q := [], brz := false, core := none, owner := .entry, work := none, pos := 0, mask := 0,
    lbase := 0, lcount := 0, pause := false, lent := false, mv := false, stream := [], cut := [], hush := false, tail := [] }

/-- Core `c`. -/
def Dev.core (s : Dev) (c : Nat) : Core := Sparse.get (always Core.cold) s.cores c

/-- Set core `c`. -/
def Dev.setCore (s : Dev) (c : Nat) (k : Core) : Dev :=
  { s with cores := Sparse.set (always Core.cold) s.cores c k }

/-- Change core `c`. -/
def Dev.onCore (s : Dev) (c : Nat) (f : Core → Core) : Dev := s.setCore c (f (s.core c))

/-- Scalar register `x` (R134). -/
def Core.sreg (k : Core) (x : Nat) : W64 := Sparse.get (always 0) k.s x

/-- Write a scalar register. -/
def Core.setS (k : Core) (x : Nat) (v : W64) : Core := { k with s := Sparse.set (always 0) k.s x v }

/-- Channel `h`: 0 to 511 of the clusters (16 × cluster + channel), 512 to 575 of the base dies, 1024 + queue of the DMA
submission queues. -/
def Dev.chan (s : Dev) (h : Nat) : Chan := Sparse.get (always Chan.idle) s.chans h

/-- Set channel `h`. -/
def Dev.setChan (s : Dev) (h : Nat) (k : Chan) : Dev :=
  { s with chans := Sparse.set (always Chan.idle) s.chans h k }

/-- A core cannot run: fenced, or a fault of it, its cluster or die waits for its fence (R17). -/
def Dev.coreDown (s : Dev) (c : Nat) : Bool :=
  s.pkg.fences.core c || s.pkg.faulted.contains c || s.pkg.faulted.contains (512 + c / 16) ||
  s.pkg.faulted.contains (544 + c / 128)

/-- A cluster cannot run. -/
def Dev.clusterDown (s : Dev) (k : Nat) : Bool :=
  s.pkg.fences.cluster k || s.pkg.faulted.contains (512 + k) || s.pkg.faulted.contains (544 + k / 8)

/-- Mark a unit as faulted until its fence comes. -/
def Dev.markFault (s : Dev) (u : Nat) : Dev := { s with pkg := { s.pkg with faulted := setAdd s.pkg.faulted u } }

/-- A core fault (R17, R100, R132, R141): one message, and the core runs no further. When the fault of its cluster or die is pending the
message is the core's own all the same, covered by the larger fence (R18, R464); a fenced core sends none (R453). -/
def Dev.coreFault (s : Dev) (c : Nat) (src : Src) (arg : Nat) : Dev :=
  if s.pkg.fences.core c || s.pkg.faulted.contains c then s else (s.detect src 0x02 1 arg).markFault c

/-- A cluster fault (R141), by the same rules. -/
def Dev.clusterFault (s : Dev) (k unit arg : Nat) : Dev :=
  if s.pkg.fences.cluster k || s.pkg.faulted.contains (512 + k) then s
  else (s.detect (clusterSrc k unit) 0x03 1 arg).markFault (512 + k)

/-! ### The codes of lanes and vector engine (R72, R132) -/

/-- Correct one coded line in place: weight bytes, accumulators, vector elements or predicate bits, as its number says. -/
def Core.mendLine (k : Core) (y : Nat) (e : Ecc) : Core :=
  let k := { k with code := Sparse.set (always 0) k.code y 0 }
  match e with
  | .corrected p v =>
    match eccDataPos 64 p with
    | none => k
    | some i =>
      let flip (m : Sparse W32) (a : Nat) : Sparse W32 :=
        Sparse.set (always 0) m a (Sparse.get (always 0) m a ^^^ BitVec.ofNat 32 (v * 2 ^ (8 * (i % 4))))
      if y < 4096 then
        { k with wb := Sparse.set (always 0) k.wb (64 * y + i) (Sparse.get (always 0) k.wb (64 * y + i) ^^^ BitVec.ofNat 8 v) }
      else if y < 8192 then { k with acc := flip k.acc (16 * (y - 4096) + i / 4) }
      else if y < 12288 then { k with v := flip k.v (16 * (y - 8192) + i / 4) }
      else
        let a := 512 * (y - 12288) + 8 * i
        { k with p := (List.range 8).foldl (fun m j =>
            if bit v j then Sparse.set (always false) m (a + j) !(Sparse.get (always false) m (a + j)) else m) k.p }
  | _ => k

/-- The unit of a core that holds a coded line: matrix engine 0 to 3, or 4 the vector engine. -/
def lineUnit (y : Nat) : Nat := if y < 4096 then y / 1024 else if y < 8192 then (y - 4096) / 1024 else 4

/-- A coded line that core `c` reads or takes a part of: a corrected error is corrected in place and logged, its address free (the spec gives
these lines none); any other is a fault of the engine that holds it. -/
def Dev.lineReact (s : Dev) (c y : Nat) : Dev :=
  let e := eccDecode 68 (Sparse.get (always 0) (s.core c).code y)
  let u := lineUnit y
  match e with
  | .corrected _ _ =>
    let (n, s) := s.fresh
    ((s.onCore c (·.mendLine y e)).detect (coreSrc c (if u = 4 then 2 else 3)) 0x01 0 ((Config.freeWord n).toNat % 2 ^ 48)).count
      (engBlk c u) (if u = 4 then 16 else 37) 1
  | .uncorr | .poisoned => s.coreFault c ⟨0, c / 128, c / 16 % 8, c % 16, u⟩ 0
  | .clean => s

/-- The lines of `which` that are not clean. -/
def Core.badLines (k : Core) (which : Nat → Bool) : List Nat := (k.code.filter fun e => which e.1).map (·.1)

/-- Before core `c` uses the coded lines of `which`; false when one cannot be read. -/
def Dev.lineCheck (s : Dev) (c : Nat) (which : Nat → Bool) : Dev × Bool :=
  let bad := (s.core c).badLines which
  let lost := bad.any fun y => match eccDecode 68 (Sparse.get (always 0) (s.core c).code y) with
    | .uncorr | .poisoned => true
    | _ => false
  (bad.foldl (fun s y => s.lineReact c y) s, !lost)

/-- Lines written whole are clean. -/
def Core.cleanLines (k : Core) (which : Nat → Bool) : Core := { k with code := k.code.filter fun e => !which e.1 }

/-! ### Time in arithmetic cycles -/

/-- The arithmetic cycle of a core's base die: three per nanosecond (R131: 5,400 cycles are 1.8 µs), and the cycles within
one. -/
def Dev.cycle (s : Dev) (c : Nat) : Nat := 3 * s.real + (s.base (c / 128)).sub

/-! ### Rows of a running tile (R87) -/

/-- The chunks of a row that are fed (R87, R101). -/
def RowPlan.fed (r : RowPlan) : List FeedPlan := r.chunks.filter fun c => (c.occ || !r.oc) && (c.blk || !r.bm)

/-- The cycle behind the last feed of a row. -/
def RowPlan.stop (r : RowPlan) : Nat := r.start + r.fed.length

/-- The cycle of the last of some rows' feeds; the one before `first` where nothing is fed. -/
def lastFeed (first : Nat) (l : List RowPlan) : Nat := l.foldl (fun n r => Nat.max n (r.stop - 1)) (first - 1)

/-- The cycle of the last feed of a tile. -/
def MmtRun.last (m : MmtRun) : Nat := lastFeed m.first m.rows

/-- The bank of row `r` of a tile (R71). -/
def MmtRun.bankOf (m : MmtRun) (r : Nat) : Nat := if fld64 m.ent.w0 48 1 = 1 then 1 else r / 64

/-- The cycle of the last feed into bank `b`. -/
def MmtRun.bankLast (m : MmtRun) (b : Nat) : Nat := lastFeed m.first (m.rows.filter fun r => m.bankOf r.row == b)

/-- The row at whose boundary a tile can stop at cycle `t` or later (R96); 128 when its last row is being fed. -/
def MmtRun.boundary (m : MmtRun) (t : Nat) : Nat := ((m.rows.find? fun r => decide (t ≤ r.start)).map (·.row)).getD 128

/-- A cycle that no run reaches: where the rows behind a paused boundary stand until the pause ends. -/
def farCycle : Nat := 2 ^ 64

/-- The tile that core `c` feeds from at cycle `t`. -/
def Core.feedingAt (k : Core) (t : Nat) : Option MmtRun := k.mmts.find? fun r => decide (t ≤ r.last)

/-- The tile that core `c` feeds from. -/
def Dev.feeding (s : Dev) (c : Nat) : Option MmtRun := (s.core c).feedingAt (s.cycle c)

/-! ### The local store (R140) -/

/-- 1 MiB. -/
def lsSize : Nat := 0x100000

/-- Where a local-store byte lies when the four lines of each word (R140) are laid one after another. -/
def swz (a : Nat) : Nat := a / 1024 * 1024 + a / 16 % 16 * 64 + a / 256 % 4 * 16 + a % 16

/-- The address of the first line of the word at `w` in that order. -/
def unswz (w : Nat) : Nat := w / 1024 * 1024 + w / 64 % 16 * 16

/-- Byte `a` of the local store. -/
def Core.lsByte (k : Core) (a : Nat) : Byte := k.ls.byte (swz a)

/-- `n` bytes from `a`. -/
def Core.lsBytes (k : Core) (a n : Nat) : List Byte := (List.range n).map fun i => k.lsByte (a + i)

/-- The little-endian number in `n` bytes at `a`. -/
def Core.lsNat (k : Core) (a n : Nat) : Nat := leNat (k.lsBytes a n)

/-- The word at `w` has a line that meets `[a, a + n)`. -/
def wordMeets (w a n : Nat) : Bool :=
  let l := unswz w
  (List.range 4).any fun i => decide (a < l + 256 * i + 16) && decide (l + 256 * i < a + n)

/-- The reaction to words of core `c`'s local store that a reader found not clean (R141): corrected in place with a corrected
message, or a core fault. -/
def Dev.lsReact (s : Dev) (c : Nat) : List (Nat × Ecc) → Dev × Bool
  | [] => (s, true)
  | (w, e) :: l =>
    match e with
    | .corrected _ _ =>
      let s := s.onCore c fun k => { k with ls := k.ls.mend 64 w }
      Dev.lsReact ((s.detect (coreSrc c 1) 0x01 0 (unswz w / 16)).count (coreBlk c) 21 1) c l
    | .uncorr | .poisoned => (s.coreFault c (coreSrc c 1) (unswz w / 16), false)
    | .clean => Dev.lsReact s c l

/-- Before core `c` reads ranges (address, length) of its local store: correct what is correctable; false when a word cannot
be read. -/
def Dev.lsCheck (s : Dev) (c : Nat) (ranges : List (Nat × Nat)) : Dev × Bool :=
  s.lsReact c (((s.core c).ls.chk.filter fun e => ranges.any fun r => wordMeets e.1 r.1 r.2).map
    fun e => (e.1, eccDecode 68 e.2))

/-- The bad words of a store that a scattered write touches and does not cover whole (R140). -/
def Store.merged (st : Store) (k : Nat) (cells : List (Nat × Byte)) : List (Nat × Ecc) :=
  (st.chk.filter fun e =>
    let n := ((cells.map (·.1)).filter fun a => decide (e.1 ≤ a) && decide (a < e.1 + k)).eraseDups.length
    decide (0 < n) && decide (n < k)).map fun e => (e.1, eccDecode (k + 4) e.2)

/-- A scattered write of bytes at distinct addresses: words written whole are clean, corrected ones are clean, a merge into
an uncorrectable word leaves the poison pattern (R140, R242). -/
def Store.writeCells (st : Store) (k : Nat) (cells : List (Nat × Byte)) : Store :=
  let bad := st.merged k cells
  let st' := Store.correct k st bad
  let chk := st.chk.foldl (fun m e =>
    if cells.any fun x => decide (e.1 ≤ x.1) && decide (x.1 < e.1 + k) then
      Sparse.set (always 0) m e.1
        (if bad.any fun b => b.1 == e.1 && (b.2 == .uncorr || b.2 == .poisoned) then poisonDev else 0)
    else m) st.chk
  { bytes := Sparse.setAll (always 0) st'.bytes cells, chk }

/-- Core `c`'s local store takes a write of bytes at distinct addresses (R140, R141). -/
def Dev.lsWrite (s : Dev) (c : Nat) (cells : List (Nat × Byte)) : Dev :=
  let cells := cells.map fun x => (swz x.1, x.2)
  let bad := (s.core c).ls.merged 64 cells
  let s := s.onCore c fun k => { k with ls := k.ls.writeCells 64 cells }
  bad.foldl (fun s e =>
    match e.2 with
    | .corrected _ _ => (s.detect (coreSrc c 1) 0x01 0 (unswz e.1 / 16)).count (coreBlk c) 21 1
    | .uncorr | .poisoned => s.coreFault c (coreSrc c 1) (unswz e.1 / 16)
    | .clean => s) s

/-! ### The cluster store (R140, R141) -/

/-- 24 MiB. -/
def csSize : Nat := 0x1800000

/-- The store of cluster `k`. -/
def Dev.cstore (s : Dev) (k : Nat) : Store := Sparse.get (always Store.empty) s.cs k

/-- Set it. -/
def Dev.setCs (s : Dev) (k : Nat) (st : Store) : Dev := { s with cs := Sparse.set (always Store.empty) s.cs k st }

/-- The address of byte `a` of shadow `k` (R456). -/
def Dev.shadowAddr (s : Dev) (k a : Nat) : Nat := s.fldAs ⟨.dispatcher, k⟩ dieShadowBaseBase * 65536 + csSize * k + a

/-- The store of a fenced cluster is still to be copied to its shadow; until then it is read itself (R160, R456). -/
def Dev.copyDue (s : Dev) (k : Nat) : Bool := s.pkg.shadows.contains k

/-- Accesses to cluster `k`'s store go to its shadow: the cluster is fenced and shadows are in use (R456). -/
def Dev.shadowed (s : Dev) (k : Nat) : Bool := s.pkg.fences.cluster k && s.onAs ⟨.dispatcher, k⟩ dieShadowBaseEn && !s.copyDue k

/-- Read `n` bytes of cluster `k`'s own store: none when a line cannot be read (a cluster fault). -/
def Dev.csReadOwn (s : Dev) (k a n : Nat) : Dev × Option (List Byte) :=
  let bad := (s.cstore k).bad 64 a n
  let bs := (s.cstore k).read 64 a n
  let s := bad.foldl (fun s e =>
    match e.2 with
    | .corrected _ _ => ((s.setCs k ((s.cstore k).mend 64 e.1)).detect (clusterSrc k 0) 0x01 0 (e.1 / 16)).count
        (clusterBlk k) 14 1
    | .uncorr | .poisoned => s.clusterFault k 0 (e.1 / 16)
    | .clean => s) s
  (s, if (worst bad).lost then none else some bs)

/-- Read `n` bytes of the store of domain `k`: its own, or the shadow of a fenced cluster; a fenced cluster without a shadow
cannot be read (R456). -/
def Dev.csRead (s : Dev) (k a n : Nat) : Dev × Option (List Byte) :=
  if s.shadowed k then
    match s.vRead (baseTlb (k / 8)) (dieSrc (k / 8) 5) 0 2 (s.shadowAddr k a) n with
    | (s, .data bs e) => (s, if e.lost then none else some bs)
    | (s, _) => (s, none)
  else if s.pkg.fences.cluster k && !s.copyDue k then (s, none)
  else s.csReadOwn k a n

/-- Write bytes to the store of domain `k`, or to the shadow of a fenced cluster (R456). -/
def Dev.csWrite (s : Dev) (k : Nat) (cells : List (Nat × Byte)) : Dev :=
  if s.shadowed k then
    cells.foldl (fun s c => (s.vWrite (baseTlb (k / 8)) (dieSrc (k / 8) 5) 0 (s.shadowAddr k c.1) [c.2]).1) s
  else if s.pkg.fences.cluster k && !s.copyDue k then s else
  let bad := (s.cstore k).merged 64 cells
  let s := s.setCs k ((s.cstore k).writeCells 64 cells)
  bad.foldl (fun s e =>
    match e.2 with
    | .corrected _ _ => (s.detect (clusterSrc k 0) 0x01 0 (e.1 / 16)).count (clusterBlk k) 14 1
    | .uncorr | .poisoned => s.clusterFault k 0 (e.1 / 16)
    | .clean => s) s

/-! ### Event counters (R138, R139) -/

/-- Counter `n` of domain `dom` (a cluster 0 to 31, or base-die dispatcher 32 to 35). -/
def Dev.evGet (s : Dev) (dom n : Nat) : W32 := Sparse.get (always 0) s.ev (256 * dom + n)

/-- Set it. -/
def Dev.evSet (s : Dev) (dom n : Nat) (v : W32) : Dev :=
  { s with ev := Sparse.set (always 0) s.ev (256 * dom + n) v }

/-- An arrival: plus one modulo 2^32. -/
def Dev.arrive (s : Dev) (dom n : Nat) : Dev := s.evSet dom n (s.evGet dom n + 1)

/-- The counter has reached `v` (R138). -/
def reaches (ctr v : W32) : Bool := !(ctr - v).msb

/-- The event-counter domain a core's work names. -/
def Dev.dom (s : Dev) (c : Nat) : Nat := match (s.core c).work with | some w => w.dom | none => c / 16

/-! ### Segments -/

/-- Core `c` runs breeze work. -/
def Dev.isBrz (s : Dev) (c : Nat) : Bool := match (s.core c).work with | some w => w.brz | none => false

/-- A non-finite block was written on behalf of foreground or breeze work (R45). -/
def Dev.nonFinite (s : Dev) (brz : Bool) : Dev :=
  if brz then s.setBit sysStepStatusBrzNf true else s.setBit sysStepStatusNf true

/-- The dispatcher of a timetable entry as a message source (R446). -/
def dispSrc (disp : Nat) : Src := if disp < 32 then clusterSrc disp 2 else pkgSrc (disp - 32) 5

/-- The arg of an entry's messages (R448). -/
def Work.arg (w : Work) : Nat := w.entry + 2 ^ 16 * b2n w.brz + 2 ^ 17 * w.round

/-- The work of an instance has ended, well or in failure; its completion follows (R355). -/
def Dev.endWork (s : Dev) (w : Option Work) (ok : Bool) : Dev :=
  match w with
  | some w => { s with disp := { s.disp with
      insts := s.disp.insts.map fun i => if i.work = w ∧ i.ended = none then { i with ended := some ok } else i } }
  | none => s

/-- The work of an instance has failed without a message of its own: the FENCED ending of R160 (R156). -/
def Dev.hushWork (s : Dev) (w : Option Work) : Dev :=
  match w with
  | some w => { s with disp := { s.disp with
      insts := s.disp.insts.map fun i => if i.work = w ∧ i.ended = none then { i with ended := some false, hush := true } else i } }
  | none => s

/-- Foreground work has met a failure that leads to a step retry (R458). -/
def Dev.noteRetry (s : Dev) (brz : Bool) : Dev := if brz then s else { s with flt := { s.flt with retry := true } }

/-- Stop the running segment of core `c` (R79): what has started completes, queue entries not started are discarded. -/
def Dev.stopSegment (s : Dev) (c : Nat) : Dev :=
  let w := (s.core c).work
  (s.onCore c fun k => { k with run := .stopped, mq := [], vq := [] }).endWork w false

/-- Stop the segment that has the work `w` wherever it stands: running on a core, saved by a pre-emption, or on its way to a peer (R156). -/
def Dev.stopWork (s : Dev) (w : Work) : Dev :=
  let s := s.cores.foldl (fun s (e : Nat × Core) =>
    if e.2.work = some w ∧ e.2.run ≠ .idle then s.stopSegment e.1
    else if (e.2.saved.map fun v => v.work) = some w then (s.onCore e.1 fun k => { k with saved := none }).endWork (some w) false
    else s) s
  if s.disp.moved.any fun m => m.work == w then
    { s with disp := { s.disp with moved := s.disp.moved.filter fun m => m.work != w } }.endWork (some w) false
  else s

/-- An accumulating write of a chain that the segment of the work `w` started has been applied: noted where that segment stands (R154). -/
def Dev.markAcc (s : Dev) (w : Work) : Dev :=
  let s := s.cores.foldl (fun s (e : Nat × Core) =>
    if e.2.work = some w ∧ e.2.run ≠ .idle then s.onCore e.1 fun k => { k with accs := true }
    else if (e.2.saved.map fun v => v.work) = some w then s.onCore e.1 fun k => { k with saved := k.saved.map fun v => { v with accs := true } }
    else s) s
  { s with disp := { s.disp with moved := s.disp.moved.map fun m => if m.work = w then { m with accs := true } else m } }

/-- An illegal instruction at `pc` (R79, R136): the message carries the PC itself. -/
def Dev.illegal (s : Dev) (c : Nat) : Dev := (s.detect (coreSrc c 0) 0x10 2 (s.core c).pc).stopSegment c

/-- Core `c` makes `n` move-class accesses of up to 256 bytes each, one slot-cycle of its move slot each from the next tick on (R73, R519): kept
for core `c` at `c`, and at 512 + `c` those that are wasted, because the instructions behind them are redone (R521). -/
def Dev.moves (s : Dev) (c n : Nat) : Dev :=
  if n = 0 then s else
  let key := if (s.core c).redo = 0 then c else 512 + c
  { s with pmc := { s.pmc with moves := Sparse.set (always 0) s.pmc.moves key (Sparse.get (always 0) s.pmc.moves key + n) } }

/-- 16-byte lines of instructions that begin in `[pc, pc + n)` (R135). -/
def fetchLines (pc n : Nat) : Nat := ceilDiv (pc + n) 16 - ceilDiv pc 16

/-- Go on behind an instruction of `n` bytes; the last 8 bytes of the store end the segment (R136). -/
def Dev.advance (s : Dev) (c n : Nat) : Dev :=
  let pc := (s.core c).pc
  if lsSize ≤ pc + n then s.illegal c else (s.onCore c fun k => { k with pc := pc + n }).moves c (fetchLines pc n)

/-- A branch to `target` (R136). -/
def Dev.branchTo (s : Dev) (c : Nat) (target : Int) : Dev :=
  if target < 0 ∨ (lsSize : Int) ≤ target ∨ target % 8 ≠ 0 then s.illegal c
  else ((s.onCore c fun k => { k with pc := target.toNat }).count (coreBlk c) 11 1).moves c 1

/-! ### Issue (R135) -/

/-- The opcodes that the tables of R76, R77, R90, R95, R108, R134, R159, R174 and R523 define. -/
def opDefined (op : Nat) : Bool :=
  (decide (1 ≤ op) && decide (op ≤ 0x0B)) || op == 0x10 || op == 0x11 || (decide (0x18 ≤ op) && decide (op ≤ 0x1C)) ||
  op == 0x20 || (decide (0x30 ≤ op) && decide (op ≤ 0x36)) || (decide (0x40 ≤ op) && decide (op ≤ 0x43)) ||
  (decide (0x50 ≤ op) && decide (op ≤ 0x6F))

/-- An instruction whose opcode has a word 1 (R76, R77, R90, R106). -/
def isWide (w0 : W64) : Bool :=
  let op := fld64 w0 0 8
  op == 0x40 || op == 0x41 || op == 0x42 || op == 0x65 || op == 0x66 || op == 0x68 || op == 0x69 || op == 0x6A ||
  (decide (0x50 ≤ op) && decide (op ≤ 0x6F) && fld64 w0 57 1 == 1)

/-- Bytes of an instruction. -/
def instrLen (w0 : W64) : Nat := if isWide w0 then 16 else 8

/-- The scalar register that a VRED or VSTAT entry writes (R114, R127). -/
def QEnt.dst (e : QEnt) : Option Nat :=
  let op := fld64 e.w0 0 8
  if op = 0x64 ∨ op = 0x6B then some (fld64 e.w0 8 5) else none

/-- The vector engine is running at the present cycle. -/
def Dev.vecBusy (s : Dev) (c : Nat) : Bool :=
  match (s.core c).vrun with
  | some r => decide (s.cycle c < r.stop)
  | none => false

/-- A VRED or VSTAT that writes scalar register `x` is queued or running (R135). -/
def Dev.pendingS (s : Dev) (c x : Nat) : Bool :=
  ((s.core c).vq.any fun e => e.dst == some x) ||
  (s.vecBusy c && (match (s.core c).vrun with | some r => r.dst == some x | none => false))

/-- Core `c` issues its next instruction. -/
def Dev.issuing (s : Dev) (c : Nat) : Bool :=
  (s.core c).run == .issuing && !s.coreDown c && !s.pausedUnit ⟨.sequencer, c⟩

/-- Write an issue record into the trace ring (R528); defined over memory below the counters' chapter. -/
def traceDue (ishift n : Nat) : Bool := n % 2 ^ ishift == 0

/-- A 32-byte trace record of unit `u` is written at the ring's next place, overwriting the oldest (R528). -/
def Dev.traceWrite (s : Dev) (u : UnitId) (bs : List Byte) : Dev :=
  let base := s.fldAs u pmcTraceBaseBase * 65536
  let size := (s.fldAs u pmcTraceBaseSizeM1 + 1) * 65536
  let s' := (s.vWrite (baseTlb 0) (pkgSrc 0 0) 0 (base + 32 * s.pmc.trace % size) (padTo 32 bs)).1
  { s' with pmc := { s'.pmc with trace := s.pmc.trace + 1 } }

/-- Debug grant bit 1 is in force (R506, R528). -/
def Dev.traceGrant (s : Dev) : Bool := s.on secStatusDbg && bit (s.fld secStatusGrant) 1

/-- Count an issued instruction of class `k` (0 scalar, 1 matrix, 2 vector) (R514, R521, R528). -/
def Dev.countIssue (s : Dev) (c k : Nat) : Dev :=
  let s := (s.count (coreBlk c) 3 1).count (coreBlk c) (4 + k) 1
  let s := s.onCore c fun x => { x with since := x.since + 1, redo := x.redo - 1 }
  if s.traceGrant && s.onAs ⟨.sequencer, c⟩ pmcTraceCtlIssEn then
    let n := Sparse.get (always 0) s.pmc.issued c + 1
    let s := { s with pmc := { s.pmc with issued := Sparse.set (always 0) s.pmc.issued c n } }
    if traceDue (s.fldAs ⟨.sequencer, c⟩ pmcTraceCtlIshift) n then
      s.traceWrite ⟨.sequencer, c⟩ (natLe 2 2 ++ natLe 2 c ++ natLe 4 (s.core c).pc ++ natLe 8 (s.now (c / 128)))
    else s
  else s

/-- The prelude of every instruction: core `c` issues the fetched words `w0`, `w1`, which the row's opcode `op` must match; a
word of another row issues nothing here, an undefined opcode or an illegal form stops the segment (R136), and so does an
uncorrectable fetch with a core fault. -/
def Dev.issue (s : Dev) (c op : Nat) (w0 : W64) (legal : Dev → Bool) (body : Dev → Dev) : Dev :=
  if !s.issuing c then s
  else if fld64 w0 0 8 ≠ op ∧ opDefined (fld64 w0 0 8) then s
  else
    match s.lsCheck c [((s.core c).pc, instrLen w0)] with
    | (s, false) => s
    | (s, true) =>
      if fld64 w0 0 8 ≠ op ∨ lsSize < (s.core c).pc + instrLen w0 ∨ !legal s then s.illegal c else body s

end Sys2Proof.Machine
end

