-- ==== Sys2Proof/Machine/Queue.lean ====
section
/-! DEFINITION. Queue contexts, ring writes, completions and interrupts (R286 to R305): what the queue commands share. -/

namespace Sys2Proof.Machine

/-- A queue context after cold reset: every field 0 (R288). -/
def QCtx.cold : QCtx := ⟨0, 0, 0, 0, 0, 0, 0, 0, 0⟩

/-- The context of queue `q`. -/
def Dev.qctx (s : Dev) (q : Nat) : QCtx := Sparse.get (always QCtx.cold) s.que.ctx q

/-- QTB_STATUS shows the lowest-numbered queue in the error state (R284). -/
def Dev.qErrShow (s : Dev) : Dev :=
  match s.que.ctx.find? fun e => e.2.state == 2 with
  | some e => (s.setBit qtbStatusErrAny true).setFld qtbStatusErrQ e.1
  | none => (s.setBit qtbStatusErrAny false).setFld qtbStatusErrQ 0

/-- Set the context of queue `q`. -/
def Dev.setQ (s : Dev) (q : Nat) (c : QCtx) : Dev :=
  let was := (s.qctx q).state
  let s := { s with que := { s.que with ctx := Sparse.set (always QCtx.cold) s.que.ctx q c } }
  if was = 2 ∨ c.state = 2 then s.qErrShow else s

/-- Fields of context word 0 (R288). -/
def QCtx.kind (c : QCtx) : Nat := fld64 c.w0 0 4
/-- Whether the ring lies at device virtual addresses. -/
def QCtx.loc (c : QCtx) : Bool := fld64 c.w0 4 1 == 1
/-- log2 of the entry count. -/
def QCtx.lsz (c : QCtx) : Nat := fld64 c.w0 5 5
/-- Priority class. -/
def QCtx.prio (c : QCtx) : Nat := fld64 c.w0 10 3
/-- Base die whose DMA runs the queue. -/
def QCtx.die (c : QCtx) : Nat := fld64 c.w0 13 2
/-- Completion queue. -/
def QCtx.cq (c : QCtx) : Nat := fld64 c.w0 15 15
/-- Write the device count back. -/
def QCtx.wbEn (c : QCtx) : Bool := fld64 c.w0 30 1 == 1
/-- Signal MSI-X. -/
def QCtx.intEn (c : QCtx) : Bool := fld64 c.w0 31 1 == 1
/-- MSI-X vector. -/
def QCtx.vec (c : QCtx) : Nat := fld64 c.w0 32 11
/-- Fault classes copied. -/
def QCtx.clsMask (c : QCtx) : Nat := fld64 c.w0 48 4
/-- Entries per interrupt; 0 is taken as 1. -/
def QCtx.aggCnt (c : QCtx) : Nat := Nat.max 1 (fld64 c.w3 0 16)
/-- Interrupt delay in microseconds; 0 is no limit. -/
def QCtx.aggUs (c : QCtx) : Nat := fld64 c.w3 16 16
/-- Entries the ring holds. -/
def QCtx.size (c : QCtx) : Nat := 2 ^ c.lsz
/-- Kinds 0 to 3 are submission queues (R286). -/
def QCtx.isSub (c : QCtx) : Bool := c.kind < 4
/-- Enabled, not stopping for an error. -/
def QCtx.live (c : QCtx) : Bool := c.state == 1 && c.err == 0
/-- Bytes of one entry (R286). -/
def QCtx.entryLen (c : QCtx) : Nat := if c.kind = 5 ∨ c.kind = 6 then 32 else 64
/-- Entries written or published and not consumed. -/
def QCtx.used (c : QCtx) : Nat := if c.isSub then c.host.toNat - c.dev.toNat else c.dev.toNat - c.host.toNat
/-- Room left in an outbound ring (R287). -/
def QCtx.room (c : QCtx) : Nat := c.size - c.used
/-- Where entry `x` lies (R287). -/
def QCtx.slot (c : QCtx) (x : Nat) : Nat := c.w1.toNat + c.entryLen * (x % c.size)
/-- The phase bit of entry `x` (R297). -/
def QCtx.phase (c : QCtx) (x : Nat) : Nat := (x / c.size + 1) % 2

/-- Whether an entry of queue `q` has been fetched and has not completed. -/
def Dev.qBusy (s : Dev) (q : Nat) : Bool := s.que.run.any fun e => e.q == q

/-- Signal a queue that entered the error state (R290). -/
def Dev.qErrSignal (s : Dev) : Dev := if s.on hifIntQerrIe then s.msix (s.fld hifIntQerrVec) else s

/-- The queue that something owed belongs to. -/
def Owed.q : Owed → Nat
  | .write q _ _ => q
  | .message q _ => q

/-- Queue `q` owes something. -/
def Dev.owes (s : Dev) (q : Nat) : Bool := s.que.owed.any fun o => o.q == q

/-- Queue something that is owed. -/
def Dev.owe (s : Dev) (o : Owed) : Dev := { s with que := { s.que with owed := s.que.owed ++ [o] } }

/-- A queue enters the error state once what runs of it has completed (R290, R305). -/
def Dev.qError (s : Dev) (q : Nat) (code : Nat) : Dev :=
  let c := s.qctx q
  if c.state ≠ 1 then s
  else if s.qBusy q then s.setQ q { c with err := BitVec.ofNat 8 code }
  else (s.setQ q { c with err := BitVec.ofNat 8 code, state := 2 }).qErrSignal

/-- Write bytes of a ring or its write-back, in host memory or at a device virtual address (R288); a failed write puts the
queue in error (R290). One whose page is being moved is owed, and so is what follows it (R255, R303). -/
def Dev.qWrite (s : Dev) (q : Nat) (addr : Nat) (bs : List Byte) : Dev :=
  if s.owes q then s.owe (.write q addr bs)
  else if (s.qctx q).loc then
    match s.vWrite (baseTlb 0) (pkgSrc 0 4) 0 addr bs with
    | (s, .done) => s
    | (s, .wait _) => s.owe (.write q addr bs)
    | (s, .fail) => s.qError q 3
  else s.sendHostFor (some q) (.hostWrite addr bs)

/-- Send the MSI-X message of queue `q` behind what the queue owes (R303). -/
def Dev.qMessage (s : Dev) (q v : Nat) : Dev := if s.owes q then s.owe (.message q v) else s.msix v

/-- Write the device count back when wb_en is set (R288). -/
def Dev.qWriteBack (s : Dev) (q : Nat) : Dev :=
  let c := s.qctx q
  if c.wbEn then s.qWrite q c.w2.toNat (natLe 8 c.dev.toNat) else s

/-- Set the device count and write it back. -/
def Dev.setDevCount (s : Dev) (q : Nat) (n : Nat) : Dev :=
  (s.setQ q { s.qctx q with dev := BitVec.ofNat 64 n }).qWriteBack q

/-- What an outbound queue has written since its last message. -/
def Dev.freshOf (s : Dev) (q : Nat) : Fresh := Sparse.get (always ⟨0, 0⟩) s.que.fresh q

/-- Set it. -/
def Dev.setFresh (s : Dev) (q : Nat) (f : Fresh) : Dev :=
  { s with que := { s.que with fresh := Sparse.set (always ⟨0, 0⟩) s.que.fresh q f } }

/-- Entries were written to an outbound queue: signal when agg_cnt of them stand (R302). -/
def Dev.qSignal (s : Dev) (q n : Nat) : Dev :=
  let c := s.qctx q
  if !c.intEn then s else
  let f := s.freshOf q
  let m := f.n + n
  if c.aggCnt ≤ m then (s.setFresh q ⟨0, 0⟩).qMessage q c.vec
  else s.setFresh q ⟨m, if f.n = 0 then s.now 0 else f.since⟩

/-- Append slots to an outbound queue that has room for them: entries, then the write-back, then the message (R303). -/
def Dev.qAppend (s : Dev) (q : Nat) (slots : List (List Byte)) : Dev :=
  let c := s.qctx q
  let x := c.dev.toNat
  let s := (slots.zipIdx).foldl (fun s e => s.qWrite q (c.slot (x + e.2)) e.1) s
  (s.setDevCount q (x + slots.length)).qSignal q slots.length

/-- The 32 bytes of a completion as entry `x` of its queue (R297). -/
def Cpl.encode (m : Cpl) (phase : Nat) : List Byte :=
  natLe 8 m.result.toNat ++ natLe 2 m.cid.toNat ++ natLe 2 m.sq ++ natLe 4 m.head.toNat ++ natLe 2 m.status.toNat ++
  natLe 2 phase ++ natLe 4 0 ++ natLe 8 m.time

/-- The completion queue has room. -/
def Dev.hasRoom (s : Dev) (cq : Nat) : Bool := (s.qctx cq).live && decide (0 < (s.qctx cq).room)

/-- Write a completion as the next entry of its queue. -/
def Dev.putCpl (s : Dev) (m : Cpl) : Dev := s.qAppend m.cq [m.encode ((s.qctx m.cq).phase (s.qctx m.cq).dev.toNat)]

/-- Write a completion, or hold it while its queue lacks room or holds an earlier one back (R304). -/
def Dev.post (s : Dev) (m : Cpl) : Dev :=
  if s.hasRoom m.cq && !(s.que.held.any fun h => h.cq == m.cq) then s.putCpl m
  else { s with que := { s.que with held := s.que.held ++ [m] } }

/-- Clear words 4 to 6 of a context: both counts, state, error code, lost (R289). -/
def QCtx.afterReset (c : QCtx) : QCtx := { c with dev := 0, host := 0, state := 0, err := 0, lost := 0 }

/-- What waits for queue `q` to have nothing running and nothing owed ends: a disable, a reset, an error (R289, R290). A queue leaves
the error state only through reset; a reset drops the held completions of the queue (R304). -/
def Dev.qSettle (s : Dev) (q : Nat) : Dev :=
  if s.qBusy q || s.owes q then s else
  let c := s.qctx q
  let stopped (s : Dev) : Dev := if c.state = 1 ∧ c.err ≠ 0 then (s.setQ q { c with state := 2 }).qErrSignal else s
  match s.que.op with
  | some (q', k) =>
    if q' = q then
      let s := { s with que := { s.que with op := none } }.setBit qtbStatusBusy false
      if k = 3 then
        { s with que := { s.que with held := s.que.held.filter fun m => m.sq != q && m.cq != q } }.setQ q c.afterReset
      else if c.state = 2 ∨ c.err ≠ 0 then stopped s
      else s.setQ q { c with state := 0 }
    else stopped s
  | none => stopped s

/-- Pay what queues owe, in order; a page that is still being moved keeps its queue waiting (R255, R303). -/
def Dev.payOwed (s : Dev) : Dev :=
  let l := s.que.owed
  let s := l.foldl (fun s o => match o with
    | .write q a bs => s.qWrite q a bs
    | .message q v => s.qMessage q v) { s with que := { s.que with owed := [] } }
  (l.map Owed.q).eraseDups.foldl (fun s q => s.qSettle q) s

/-- The first fetched entry of queue `q` leaves the list. -/
def dropEntry (q : Nat) : List Entry → List Entry
  | [] => []
  | e :: l => if e.q = q then l else e :: dropEntry q l

/-- The first `n` of them. -/
def dropEntries (q : Nat) : Nat → List Entry → List Entry
  | 0, l => l
  | n + 1, l => dropEntries q n (dropEntry q l)

/-- The cid in an entry's header (R295). -/
def Entry.cid (e : Entry) : BitVec 16 := BitVec.ofNat 16 (leAt e.bytes 2 2)

/-- An entry, or a chain of `n` entries, of submission queue `q` completes (R297): the consumer count passes it, and the completion is
posted unless the entry is quiet and succeeded. -/
def Dev.completeOne (s : Dev) (q : Nat) (cid : BitVec 16) (quiet : Bool) (status : Nat) (result : W64) (n : Nat) : Dev :=
  let c := s.qctx q
  let s := s.setDevCount q (c.dev.toNat + n)
  let s := { s with que := { s.que with run := dropEntries q n s.que.run } }
  if quiet ∧ status = 0 then s else
    s.post { cq := c.cq, sq := q, result, cid, head := BitVec.ofNat 32 (c.dev.toNat + n),
             status := BitVec.ofNat 16 status, time := s.leadNow }

/-- The entries at the front of queue `q` that do not run complete with their status, in ring order (R295, R303); `n` bounds them. -/
def Dev.drainBad (s : Dev) (q : Nat) : Nat → Dev
  | 0 => s
  | n + 1 =>
    match s.que.run.find? fun e => e.q == q with
    | some e =>
      match e.fail with
      | some st => (s.completeOne q e.cid false st 0 1).drainBad q n
      | none => s
    | none => s

/-- An entry, or a chain of `n` entries, of submission queue `q` completes (R297, R303); the entries after it that do not run complete
with it, and what waits for the queue to drain goes on. -/
def Dev.complete (s : Dev) (q : Nat) (cid : BitVec 16) (quiet : Bool) (status : Nat) (result : W64) (n : Nat := 1) : Dev :=
  ((s.completeOne q cid quiet status result n).drainBad q s.que.run.length).qSettle q

/-- The first entry of queue `q` that has not started. -/
def Dev.nextOf (s : Dev) (q : Nat) : Option Entry := s.que.run.find? fun e => e.q == q && !e.started

/-- The first entry of queue `q` that has not started starts. -/
def startEntry (q : Nat) : List Entry → List Entry
  | [] => []
  | e :: l => if e.q = q ∧ !e.started then { e with started := true } :: l else e :: startEntry q l

/-- The 64 bytes of a submission entry of opcode `op`: its header, without reserved bits, and its body (R295). -/
def entryBytes (op : Nat) (e : SubEntry) : List Byte :=
  natLe 1 op ++ natLe 1 (b2n e.quiet) ++ natLe 2 e.cid.toNat ++ natLe 4 0 ++ padTo 56 e.body

/-- The entry that `e` spells with opcode `op` has been fetched from its queue, of kind `kind`, and is the next there to start. -/
def Dev.fetched (s : Dev) (kind op : Nat) (e : SubEntry) : Bool :=
  (s.qctx e.q).kind == kind && !(s.que.held.any fun h => h.sq == e.q) && (match s.nextOf e.q with | some x => x.bytes == entryBytes op e | none => false)

/-- The next entry of queue `q` starts. -/
def Dev.startNext (s : Dev) (q : Nat) : Dev := { s with que := { s.que with run := startEntry q s.que.run } }

/-- A line of the doorbell area holds a slot of an enabled queue (R293). -/
def Dev.lineHeld (s : Dev) (l : Nat) : Bool :=
  (Sparse.range s.que.ctx (8 * l) (8 * l + 8)).any fun e => e.2.state == 1

/-- The doorbell lines that hold a slot of an enabled queue. -/
def Dev.heldLines (s : Dev) : List Nat :=
  s.que.ctx.foldl (fun l e => if e.2.state == 1 then setAdd l (e.1 / 8) else l) []

/-- The device caches doorbell lines rather than polls (R293). -/
def Dev.caching (s : Dev) : Bool := s.on hifStatusCacheEn && !s.on hifDbCtlPollForce

/-- A host count as read from the doorbell slot reaches queue `q` (R287, R290, R294). -/
def Dev.takeSlot (s : Dev) (q : Nat) (v : W64) : Dev :=
  let c := s.qctx q
  if !c.live then s
  else if v.toNat < c.host.toNat then s.qError q 2
  else if c.isSub then
    if c.dev.toNat + c.size < v.toNat then s.qError q 1 else s.setQ q { c with host := v }
  else if c.dev.toNat < v.toNat then s.qError q 1 else s.setQ q { c with host := v }

end Sys2Proof.Machine
end

