-- ==== Sys2Proof/Machine/FabOps.lean ====
section
/-! DEFINITION. Paths (R385 to R388), levels (R389, R390), sending and resending (R387, R397), what the transport keeps of received
gusts (R398, R399), relaying (R394), calm (R401): what the fabric commands share. -/

namespace Sys2Proof.Machine

/-! ### Path words (R385) -/

/-- Path `i` of destination `dst`. -/
def Dev.pathWord (s : Dev) (dst i : Nat) : W64 := Sparse.get (always 0) s.fab.paths (4 * dst + i)
/-- Egress port. -/
def pwPort (w : W64) : Nat := fld64 w 0 4
/-- PBR ID of the first eddy, or of the destination. -/
def pwPbr (w : W64) : Nat := fld64 w 4 12
/-- Eddy hops. -/
def pwNh (w : W64) : Nat := fld64 w 16 2
/-- Valid. -/
def pwV (w : W64) : Bool := fld64 w 18 1 == 1
/-- Alternate. -/
def pwAlt (w : W64) : Bool := fld64 w 19 1 == 1
/-- Eddy hop 1 or 2. -/
def pwHop (w : W64) (i : Nat) : Nat := fld64 w (16 + 16 * i) 16

/-- The eddy packages on a path, in order. -/
def Dev.pathEddies (s : Dev) (w : W64) : List Nat :=
  let e1 := pkgOn (s.plane (pwPort w)) (pwPbr w)
  let e2 := pkgOn (planeOf s.halves e1 (pwHop w 1 % 16)) (pwHop w 1 / 16)
  [e1, e2].take (pwNh w)

/-- A path is in service (R387). -/
def Dev.pathUp (s : Dev) (dst i : Nat) : Bool :=
  let w := s.pathWord dst i
  pwV w && !s.fab.down.contains (4 * dst + i) && s.portUp (pwPort w) && !(s.pathEddies w).any s.fab.eddies.contains

/-- Primaries before alternates, each in the order given (R387). -/
def Dev.primaryFirst (s : Dev) (dst : Nat) (l : List Nat) : Option Nat :=
  match l.find? fun i => !pwAlt (s.pathWord dst i) with
  | some i => some i
  | none => l.head?

/-- The path that the next gust to `dst` takes (R387), among those that leave through `ports` where one is in service (R414). -/
def Dev.nextPath (s : Dev) (dst ports : Nat) : Option Nat :=
  let l := Sparse.get (always 3) s.fab.last dst
  let up := ([l + 1, l + 2, l + 3, l + 4].map fun i => i % 4).filter (s.pathUp dst)
  let mine := up.filter fun i => bit ports (pwPort (s.pathWord dst i))
  s.primaryFirst dst (if mine.isEmpty then up else mine)

/-- The path of a control gust (R387). -/
def Dev.controlPath (s : Dev) (dst : Nat) : Option Nat := s.primaryFirst dst ([0, 1, 2, 3].filter (s.pathUp dst))

/-! ### What leaves a port -/

/-- A gust leaves through a port; its payload bytes and itself are counted (R515). A port paused for a commit sends it once it resumes (R23). -/
def Dev.putGust (s : Dev) (port pbr : Nat) (bytes : List Byte) : Dev :=
  if s.pausedUnit ⟨.port, port⟩ then { s with fab := { s.fab with stopped := s.fab.stopped ++ [(port, pbr, bytes)] } }
  else ((s.send (.gust port pbr bytes)).count (portBlk port) 0 (gLen bytes)).count (portBlk port) 2 1

/-- What paused ports have kept leaves. -/
def Dev.putStopped (s : Dev) : Dev :=
  let l := s.fab.stopped
  l.foldl (fun s (x : Nat × Nat × List Byte) => s.putGust x.1 x.2.1 x.2.2) { s with fab := { s.fab with stopped := [] } }

/-- The incarnation last seen of a package. -/
def Dev.seenOf (s : Dev) (pkg : Nat) : Nat := Sparse.get (always 0) s.fab.seen pkg

/-- Send a control gust along a path (R383, R387); ask and probe expect no incarnation (R382). -/
def Dev.controlOn (s : Dev) (w : W64) (dst op eclass win seq aseq addr : Nat) : Dev :=
  let h : GustHdr := { cls := if pwNh w = 0 then 1 else 2, op, eclass, nh := pwNh w, resend := false, src := s.ownPkg, dst,
                       hop1 := pwHop w 1, hop2 := pwHop w 2, win, seq, aseq, addr,
                       dinc := if op = 2 ∨ op = 7 then 0 else s.seenOf dst, sinc := s.inc, payload := [] }
  s.putGust (pwPort w) (pwPbr w) h.bytes

/-- Send a control gust on the first path in service, if there is one. -/
def Dev.control (s : Dev) (dst op eclass win seq aseq addr : Nat) : Dev :=
  match s.controlPath dst with
  | some i => s.controlOn (s.pathWord dst i) dst op eclass win seq aseq addr
  | none => s

/-- A stale gust answers a gust with another incarnation of this package than its own; it goes to the incarnation that sent it (R391, R399). -/
def Dev.staleTo (s : Dev) (g : List Byte) : Dev :=
  match s.controlPath (gSrc g) with
  | none => s.satFld fabErrStale 1
  | some i =>
    let w := s.pathWord (gSrc g) i
    let h : GustHdr := { cls := if pwNh w = 0 then 1 else 2, op := 5, eclass := 1, nh := pwNh w, resend := false, src := s.ownPkg, dst := gSrc g,
                         hop1 := pwHop w 1, hop2 := pwHop w 2, win := 0, seq := 0, aseq := 0, addr := 0, dinc := gSinc g, sinc := s.inc,
                         payload := [] }
    (s.satFld fabErrStale 1).putGust (pwPort w) (pwPbr w) h.bytes

/-! ### Levels (R389, R390) -/

/-- Relay stage A. -/
def stageA : Nat := 0xFFFE
/-- Relay stage B. -/
def stageB : Nat := 0xFFFF
/-- The key of a package and a window. -/
def lvKey (pkg win : Nat) : Nat := 65536 * pkg + win
/-- A level held at a package. -/
def Dev.level (s : Dev) (pkg win : Nat) : Nat := Sparse.get (always 0) s.fab.levels (lvKey pkg win)
/-- A level granted to a package. -/
def Dev.grantedTo (s : Dev) (pkg win : Nat) : Nat := Sparse.get (always 0) s.fab.granted (lvKey pkg win)
/-- Set a level held. -/
def Dev.setLevel (s : Dev) (pkg win n : Nat) : Dev :=
  { s with fab := { s.fab with levels := Sparse.set (always 0) s.fab.levels (lvKey pkg win) n } }
/-- Set a level granted. -/
def Dev.setGranted (s : Dev) (pkg win n : Nat) : Dev :=
  { s with fab := { s.fab with granted := Sparse.set (always 0) s.fab.granted (lvKey pkg win) n } }
/-- A limit of FAB_CREDIT: 0 is taken as 1, values above 64 as 64 (R405). -/
def Dev.levelMax (s : Dev) (f : Fld) : Nat := Nat.min 64 (s.fldOr f 1)

/-- Gusts of a package's window that are not acknowledged. -/
def Dev.inWindow (s : Dev) (pkg win : Nat) : Nat := (s.fab.sent.filter fun g => g.dst == pkg && g.win == win && g.eclass != 1).length
/-- Relay slots in use at an eddy. -/
def Dev.slotsAt (s : Dev) (pkg win : Nat) : Nat := (s.fab.slots.filter fun x => x.eddy == pkg && x.stage == win).length

/-- A relay stage or a request pool, whose levels are asked for and granted from free slots (R390). -/
def poolWin (win : Nat) : Bool := win == 0 || win == stageA || win == stageB

/-- The window at a package was used just now: its idle time runs anew (R390). -/
def Dev.usedNow (s : Dev) (pkg win : Nat) : Dev :=
  { s with fab := { s.fab with idle := Sparse.set (always 0) s.fab.idle (lvKey pkg win) s.real } }

/-- Ask for a level, the largest there can be, unless an ask already waits (R390); for that of a collective window too, should the grant of
its posting be lost (log entry 126). -/
def Dev.ask (s : Dev) (pkg win : Nat) : Dev :=
  if 0 < s.level pkg win ∨ s.fab.asks.any (fun a => a.pkg == pkg && a.win == win) then s
  else { s with fab := { s.fab with asks := s.fab.asks ++ [Ask.mk pkg win 64 (s.real)] } }.control pkg 2 1 win 64 0 0

/-- A level comes from a package by grant or ack (R390): it answers an ask, or a return once it is at or below what is kept. -/
def Dev.levelComes (s : Dev) (pkg win n : Nat) : Dev :=
  match s.fab.rets.find? fun r => r.pkg == pkg && r.win == win with
  | some r => if n ≤ r.kept then { s with fab := { s.fab with rets := s.fab.rets.filter fun x => x != r } } else s
  | none =>
    if n = 0 then s else
    let s := if s.level pkg win < n then s.setLevel pkg win n else s
    { s with fab := { s.fab with asks := s.fab.asks.filter fun a => !(a.pkg == pkg && a.win == win) } }.usedNow pkg win

/-- Slots of a pool that no level takes. -/
def Dev.freeSlots (s : Dev) (win : Nat) : Nat :=
  let total := if win = 0 then s.fld fabCreditReqSlots else s.fld fabCreditRelaySlots
  total - s.fab.granted.foldl (fun n e => if e.1 % 65536 = win then n + e.2 else n) 0

/-- The level after an ask for `want`: from free slots, never above the limit, never lowered (R390). -/
def Dev.grantFor (s : Dev) (pkg win want : Nat) : Nat :=
  let cur := s.grantedTo pkg win
  let top := s.levelMax (if win = 0 then fabCreditReqMax else fabCreditRelayMax)
  Nat.max cur (Nat.min (Nat.min want top) (cur + s.freeSlots win))

/-- Answer the asks that wait, in their order: those of a pool wait on behind one that its free slots cannot serve (R390). A collective window
has the level of its posting. -/
def Dev.serveAsks (s : Dev) : Dev :=
  (s.fab.askers.foldl (fun (acc : Dev × List Nat) a =>
    let (s, stuck) := acc
    let keep (s : Dev) : Dev := { s with fab := { s.fab with askers := s.fab.askers ++ [a] } }
    if stuck.contains a.win then (keep s, stuck) else
    let n := if poolWin a.win then s.grantFor a.pkg a.win a.want else s.grantedTo a.pkg a.win
    if n = 0 then (keep s, stuck ++ [a.win]) else ((s.setGranted a.pkg a.win n).control a.pkg 3 1 a.win n 0 0, stuck))
    ({ s with fab := { s.fab with askers := [] } }, [])).1

/-! ### Staging (R389, R391, R394) -/

/-- Put bytes into slot `n` of the area at FAB_BUF_BASE, of base die ⌊n/16⌋ mod 4 (R389). -/
def Dev.intoSlot (s : Dev) (port n : Nat) (bs : List Byte) : Dev :=
  match s.vWrite (baseTlb (n / 16 % 4)) (portSrc port) 0 (s.fldAs ⟨.port, port⟩ fabBufBaseBase * 65536 + 4096 * n) bs with
  | (t, .done) => t
  | _ => s

/-- Put a gust into a slot of a pool: 0 the request pool, stage A or stage B. Which of its slots takes it the spec does not say: a free value
(log entry 56). -/
def Dev.intoPool (s : Dev) (port win : Nat) (bs : List Byte) : Dev :=
  let (first, n) := if win = 0 then (0, s.fld fabCreditReqSlots)
    else if win = stageA then (s.fld fabCreditReqSlots, s.fld fabCreditRelaySlots)
    else (s.fld fabCreditReqSlots + s.fld fabCreditRelaySlots, s.fld fabCreditRelaySlots)
  if n = 0 then s else
  let (k, s) := s.fresh
  s.intoSlot port (first + (Config.freeWord k).toNat % n) bs

/-- The reply slot `k` in that area. -/
def Dev.replySlot (s : Dev) (k : Nat) : Nat := s.fld fabCreditReqSlots + 2 * s.fld fabCreditRelaySlots + k

/-! ### Sending (R387, R397) -/

/-- The window at the first eddy of a path, and the eddy, if there is one (R394). -/
def Dev.relayOf (s : Dev) (w : W64) : Option (Nat × Nat) :=
  match s.pathEddies w with
  | e :: _ => some (e, if pwNh w = 1 then stageB else stageA)
  | [] => none

/-- The relay level at the first eddy lets one more gust through. -/
def Dev.relayFree (s : Dev) (w : W64) : Bool :=
  match s.relayOf w with
  | some (e, win) => decide (s.slotsAt e win < s.level e win)
  | none => true

/-- The user number of collective `id`'s own gusts; 2 to 5 are the export units, 8 the reads of a COPY. -/
def collUser (id : Nat) : Nat := 16 + id

/-- The requester and the base die from which a gust of this package comes to its port: a collective engine (1), an update unit (2). Reply
data leaves from the port's own die. -/
def Dev.gustHome (s : Dev) (g : TxGust) : Option (Nat × Nat) :=
  let eng (p : Coll → Bool) : Option (Nat × Nat) := (s.col.live.find? p).map fun c => (1, c.eng)
  if g.user = 8 then
    match s.fab.reads.find? fun r => r.dst == g.dst && r.slot == g.win with
    | some r => eng fun c => c.id == r.coll
    | none => none
  else if 16 ≤ g.user then eng fun c => collUser c.id == g.user
  else if 2 ≤ g.user ∧ g.user ≤ 5 then some (2, g.user - 2)
  else none

/-- A gust's way over the ring to the base die of its port, by bit 0 of its sequence number where it is diagonal (R12). -/
def Dev.toPort (s : Dev) (g : TxGust) (port : Nat) : Dev :=
  match s.gustHome g with
  | some (who, d) => s.ringSend who 0 16 d (port % 4) (g.seq % 2) g.payload.length
  | none => s

/-- Put a copy of a gust on path `i`: the copy, the relay slot it takes, the path used last. -/
def Dev.emit (s : Dev) (g : TxGust) (i : Nat) (resend : Bool) : Dev :=
  let w := s.pathWord g.dst i
  let h : GustHdr := { cls := if pwNh w = 0 then g.eclass else 2, op := g.op, eclass := g.eclass, nh := pwNh w, resend, src := s.ownPkg,
                       dst := g.dst, hop1 := pwHop w 1, hop2 := pwHop w 2, win := g.win, seq := g.seq, aseq := g.aseq, addr := g.addr,
                       dinc := s.seenOf g.dst, sinc := s.inc, payload := g.payload }
  let s := (s.toPort g (pwPort w)).putGust (pwPort w) (pwPbr w) h.bytes
  let s := match s.relayOf w with
    | some (e, win) => s.usedNow e win
    | none => s
  let slots := match s.relayOf w with
    | some (e, win) => s.fab.slots ++ [⟨e, win, s.ownPkg, g.eclass, g.seq, s.real⟩]
    | none => s.fab.slots
  { s with fab := { s.fab with slots, sent := s.fab.sent ++ [{ g with path := i, port := pwPort w, time := s.real }],
                               last := Sparse.set (always 3) s.fab.last g.dst i } }

/-- A calm is in force on the package (R401). The firmware's calm of R403 holds a relay egress alone. -/
def Dev.calmHeld (s : Dev) : Bool := s.on fabCalmHost

/-- Gusts to a destination and eclass that are not acknowledged. -/
def Dev.unacked (s : Dev) (dst eclass : Nat) : Nat := (s.fab.sent.filter fun g => g.dst == dst && g.eclass == eclass).length

/-- The ports mask of the collective that a gust of window `win` belongs to (R414). -/
def Dev.winPorts (s : Dev) (eclass win : Nat) : Nat :=
  if eclass ≠ 3 then 0xFFFF else
  match s.col.live.find? fun c => c.win == win && c.op != 10 with
  | some c => if c.ports = 0 then 0xFFFF else c.ports
  | none => 0xFFFF

/-- Give a read the sequence number of its gust. -/
def Dev.stampRead (s : Dev) (g : TxGust) : Dev :=
  if g.eclass = 0 ∧ g.op = 1 then
    { s with fab := { s.fab with reads := s.fab.reads.map fun r =>
        if r.dst = g.dst ∧ r.slot = g.win then { r with seq := some g.seq, time := s.real } else r } }
  else s

/-- Try to send a gust for the first time: it needs a level, fewer than 64 gusts not acknowledged, a path in service and, past an
eddy, a relay level; reply data needs the path alone. Otherwise it goes on waiting, as it does while the port is paused for a commit (R23). A read takes no window of its own number: its
win is the reply slot, its level that of the request pool. -/
def Dev.trySend (s : Dev) (g : TxGust) : Dev :=
  let keep (s : Dev) : Dev := { s with fab := { s.fab with queue := s.fab.queue ++ [g] } }
  let lv := if g.eclass = 0 then 0 else g.win
  let used := if g.eclass = 0 then s.unacked g.dst 0 else s.inWindow g.dst g.win
  if !s.on fabCtlEn || (g.eclass != 1 && s.calmHeld) then keep s
  else if g.eclass ≠ 1 ∧ (s.level g.dst lv ≤ used ∨ 64 ≤ s.unacked g.dst g.eclass) then keep (s.ask g.dst lv)
  else
    match s.nextPath g.dst (s.winPorts g.eclass g.win) with
    | none => keep s
    | some i =>
      let w := s.pathWord g.dst i
      if s.pausedUnit ⟨.port, pwPort w⟩ then keep s
      else if !s.relayFree w then
        match s.relayOf w with
        | some (e, win) => keep (s.ask e win)
        | none => keep s
      else if g.eclass = 1 then s.emit g i false
      else
        let k := 8 * g.dst + g.eclass
        let g := { g with seq := Sparse.get (always 0) s.fab.next k }
        let s := { s with fab := { s.fab with next := Sparse.set (always 0) s.fab.next k ((g.seq + 1) % 2 ^ 32) } }
        (s.stampRead g).emit g i false

/-- Resend a gust that stands in no list: on the next path in service, or waiting where there is none (R397). -/
def Dev.resend (s : Dev) (g : TxGust) : Dev :=
  let wait (s : Dev) : Dev := { s with fab := { s.fab with sent := s.fab.sent ++ [{ g with port := 16, time := s.real }] } }
  match s.nextPath g.dst (s.winPorts g.eclass g.win) with
  | none => wait s
  | some i =>
    let w := s.pathWord g.dst i
    if s.pausedUnit ⟨.port, pwPort w⟩ then wait s
    else if s.relayFree w then ((s.emit g i true).addFld fabResendResends 1).count (portBlk (pwPort w)) 4 1
    else match s.relayOf w with
      | some (e, win) => wait (s.ask e win)
      | none => wait s

/-- Resend every gust for which `p` holds. -/
def Dev.resendAll (s : Dev) (p : TxGust → Bool) : Dev :=
  let l := s.fab.sent.filter p
  l.foldl Dev.resend { s with fab := { s.fab with sent := s.fab.sent.filter fun g => !p g } }

/-! ### Relaying (R394) -/

/-- A control gust on its way over eddies (R383). An ack or a rack names in eclass the class it acknowledges; an ack of requests bears the
codes of a read and is taken for one (log entry 58). -/
def relayedControl (g : List Byte) : Bool :=
  (gEclass g == 1 && gOp g != 0) || (gOp g == 1 && gEclass g == 3) || (gOp g == 6 && gEclass g != 1)

/-- Forward a staged gust if it can leave now; its rack goes to the upstream. A lost egress port drops it. A control gust needs no level and
takes no slot (R383). -/
def Dev.forward (s : Dev) (r : Relay) : Dev :=
  let hop := gHop r.bytes (gHi r.bytes)
  let port := hop % 16
  let next := pkgOn (s.plane port) (hop / 16)
  let last := gHi r.bytes == gNh r.bytes
  let ctl := relayedControl r.bytes
  if !s.portUp port then s.satFld fabErrMisroute 1
  else if s.pausedUnit ⟨.port, port⟩ then { s with fab := { s.fab with relays := s.fab.relays ++ [r] } }
  else if !ctl && !last && decide (s.level next stageB ≤ s.slotsAt next stageB) then
    { s with fab := { s.fab with relays := s.fab.relays ++ [r] } }.ask next stageB
  else
    let cls := if !last then 2 else if ctl then 1 else gEclass r.bytes
    let g := withCrc (r.bytes.set 1 (BitVec.ofNat 8 cls))
    let s := (s.putGust port (hop / 16) g).count (portBlk port) 6 1
    if ctl then s else
    let s := if last then s else
      { s with fab := { s.fab with slots := s.fab.slots ++ [Slot.mk next stageB (gSrc g) (gEclass g) (gSeq g) s.real] } }.usedNow next stageB
    s.control r.up 6 (gEclass g) 0 0 (gSeq g) (gSrc g)

/-! ### Calm, marks and what the registers show -/

/-- No gust of the package is unacknowledged, no relay slot is held, and every level of a request pool or relay stage is zero
(R401). Reply data is not acknowledged (R393). -/
def Dev.quietFabric (s : Dev) : Bool :=
  s.fab.sent.all (fun g => g.eclass == 1) && s.fab.slots.isEmpty &&
  s.fab.levels.all fun e => !(e.1 % 65536 == 0 || e.1 % 65536 == stageA || e.1 % 65536 == stageB)

/-- The destinations with an installed path. -/
def Dev.dests (s : Dev) : List Nat := (s.fab.paths.map fun e => e.1 / 4).eraseDups

/-- Destinations left with no path in service raise the no-path fault, once until a path is back (R335). -/
def Dev.noteDead (s : Dev) : Dev :=
  s.dests.foldl (fun s d =>
    let up := [0, 1, 2, 3].any (s.pathUp d)
    let was := Sparse.get (always 0) s.fab.dead d
    let dead := Sparse.set (always 0) s.fab.dead d (if up then 0 else s.real + 1)
    if up ∧ was ≠ 0 then { s with fab := { s.fab with dead } }
    else if !up ∧ was = 0 then { s with fab := { s.fab with dead } }.detect s.sysSrc 0x33 2 d
    else s) s

/-- Since when no fabric port has been in service (R455). -/
def Dev.noteDeaf (s : Dev) : Dev :=
  if (List.range 16).any s.portUp then { s with fab := { s.fab with deaf := none } }
  else if s.fab.deaf.isSome then s else { s with fab := { s.fab with deaf := some s.real } }

/-- What FAB_CALM, FAB_PATH_STAT and FAB_PORT_n report (R405, R406). -/
def Dev.fabShow (s : Dev) : Dev :=
  let d := s.fld fabPathSelDst
  let four (p : Nat → Bool) : Nat := b2n (p 0) + 2 * b2n (p 1) + 4 * b2n (p 2) + 8 * b2n (p 3)
  let s := (s.setBit fabCalmCalm (s.calmHeld && s.quietFabric)).setFld fabCalmUnacked
    (Nat.min 65535 (s.fab.sent.filter fun g => g.eclass != 1).length)
  (((s.setFld fabPathStatValid (four fun i => pwV (s.pathWord d i))).setFld fabPathStatInSvc (four (s.pathUp d))).setFld
    fabPathStatAlt (four fun i => pwAlt (s.pathWord d i))).setFld fabPathStatEddiesDown s.fab.eddies.length

/-- A package calm that a CALM_ENTER waits for is reached (R324). -/
def Dev.calmReached (s : Dev) : Dev :=
  if !s.on fabCalmCalm then s else
  let (now, rest) := (s.job.cmds.filter fun c => match c.what with | .calm _ none => true | _ => false,
                      s.job.cmds.filter fun c => match c.what with | .calm _ none => false | _ => true)
  now.foldl (fun s c => s.complete c.q c.cid c.quiet 0 (BitVec.ofNat 64 s.leadNow)) { s with job := { s.job with cmds := rest } }

/-- One of each list in turn: request, reply data and collective gusts (R396). -/
def rotate3 : Nat → List TxGust → List TxGust → List TxGust → List TxGust
  | 0, a, b, c => a ++ b ++ c
  | n + 1, a, b, c => a.take 1 ++ b.take 1 ++ c.take 1 ++ rotate3 n (a.drop 1) (b.drop 1) (c.drop 1)

/-- Gusts of the package in the order in which they may leave: the classes in turn, beginning after the one sent last (R396). -/
def Dev.rotated (s : Dev) (l : List TxGust) : List TxGust :=
  let of (c : Nat) : List TxGust := l.filter fun g => g.eclass == c
  match s.fab.turn with
  | 0 => rotate3 l.length (of 1) (of 3) (of 0)
  | 1 => rotate3 l.length (of 3) (of 0) (of 1)
  | _ => rotate3 l.length (of 0) (of 1) (of 3)

/-- Send an own gust that waits: again where it has been sent before. -/
def Dev.sendOwn (s : Dev) (g : TxGust) : Dev :=
  let n := s.out.length
  let t := if g.port = 17 then s.resend { g with port := 16 } else s.trySend g
  if n < t.out.length then { t with fab := { t.fab with turn := g.eclass } } else t

/-- What waits is tried again, in the order of R396: what ports have kept while they were paused; relayed gusts, then gusts of the package, resends among them; then marks, registers
and calm follow. -/
def Dev.pump (s : Dev) : Dev :=
  let s := s.putStopped
  let r := s.fab.relays
  let s := r.foldl Dev.forward { s with fab := { s.fab with relays := [] } }
  let again := (s.fab.sent.filter fun g => g.port == 16).map fun g => { g with port := 17 }
  let q := s.rotated (again ++ s.fab.queue)
  let s := q.foldl Dev.sendOwn { s with fab := { s.fab with queue := [], sent := s.fab.sent.filter fun g => g.port != 16 } }
  (s.noteDead.noteDeaf.fabShow).calmReached

/-- Hand a gust to the transport. -/
def Dev.toFabric (s : Dev) (dst eclass op win aseq addr : Nat) (payload : List Byte) (user : Nat) : Dev :=
  let g : TxGust := { dst, eclass, op, win, seq := 0, aseq, addr, payload, path := 4, port := 16, time := 0, user }
  { s with fab := { s.fab with queue := s.fab.queue ++ [g] } }

/-- Count one more timeout, or none, of a path and its eddies; down_cnt in a row mark down (R388). An eddy marked down loses the
levels it granted. -/
def Dev.streak (s : Dev) (dst i : Nat) : Dev :=
  let top := s.fldOr fabTimeoutDownCnt 1
  let k := 4 * dst + i
  let n := Sparse.get (always 0) s.fab.streakP k + 1
  let s := { s with fab := { s.fab with streakP := Sparse.set (always 0) s.fab.streakP k n,
                                        down := if top ≤ n then setAdd s.fab.down k else s.fab.down } }
  (s.pathEddies (s.pathWord dst i)).foldl (fun s e =>
    let m := Sparse.get (always 0) s.fab.streakE e + 1
    let s := { s with fab := { s.fab with streakE := Sparse.set (always 0) s.fab.streakE e m } }
    if m < top ∨ s.fab.eddies.contains e then s
    else
      let s := { s with fab := { s.fab with eddies := setAdd s.fab.eddies e } }
      ((s.setLevel e stageA 0).setLevel e stageB 0).detect s.sysSrc 0x32 0 e) s

/-- A copy got through: the path and its eddies start their count again. -/
def Dev.clearStreak (s : Dev) (dst i : Nat) : Dev :=
  { s with fab := { s.fab with
      streakP := Sparse.set (always 0) s.fab.streakP (4 * dst + i) 0,
      streakE := (s.pathEddies (s.pathWord dst i)).foldl (fun m e => Sparse.set (always 0) m e 0) s.fab.streakE } }

/-- Whether the owner requires IDE on a fabric port (R498). -/
def Dev.ideRequired (s : Dev) (p : Nat) : Bool := bit s.sec.ideFab p

/-- A port's IDE keys and stream and the SPDM sessions of its mailbox end (R503); 16 is the host port. -/
def Dev.dropMailbox (s : Dev) (p : Nat) : Dev :=
  let sec := { s.sec with keys := setDel s.sec.keys p, sessions := s.sec.sessions.filter fun x => x.mailbox != p }
  let s := { s with sec }
  if p = 16 then s.setBit secIdeStatusHost false else s.setFld secIdeStatusFab (s.fld secIdeStatusFab % 2 ^ 16 &&& (2 ^ 16 - 1 - 2 ^ p))

/-- Gusts staged for relay wait for port `p`. -/
def Dev.egressOf (s : Dev) (p : Nat) : Bool := s.fab.relays.any fun r => gHop r.bytes (gHi r.bytes) % 16 == p

/-- FAB_CALM.fw follows the relay egresses that the firmware holds (R403, R405). -/
def Dev.fwShow (s : Dev) : Dev := s.setBit fabCalmFw (!s.fab.fwCalm.isEmpty)

/-- At a tick: the firmware's work of R335 on a lost relay egress ends with its bound of 100 µs, and with it the calm (log entry 127). -/
def Dev.fwCalmEnd (s : Dev) : Dev :=
  if s.fab.fwCalm.isEmpty then s else
  { s with fab := { s.fab with fwCalm := s.fab.fwCalm.filter fun (e : Nat × Nat) => decide (s.real < e.2 - 1 + 100000) } }.fwShow

/-- A port enters or leaves service by R375: a port that returns marks its paths up, and one that leaves has the gusts whose latest copy
left through it resent at once (R388, R397); with gusts staged for it to relay, the firmware holds a calm on that egress (R403). -/
def Dev.portSettle (s : Dev) (p : Nat) : Dev :=
  let was := s.portUp p
  let up := s.on (fabPortUp.nth p) && s.on (fabPortIdOk.nth p) && !s.on (fabPortFenced.nth p) &&
            (!s.ideRequired p || bit (s.fld secIdeStatusFab) p)
  let s := s.setBit (fabPortInSvc.nth p) up
  if was = up then s
  else if up then
    let mine (k : Nat) : Bool := pwPort (s.pathWord (k / 4) (k % 4)) == p
    { s with fab := { s.fab with down := s.fab.down.filter fun k => !mine k,
                                 streakP := s.fab.streakP.filter fun e => !mine e.1 } }.pump
  else
    let s := if s.egressOf p then { s with fab := { s.fab with fwCalm := Sparse.set (always 0) s.fab.fwCalm p (s.real + 1) } }.fwShow else s
    (s.resendAll fun g => g.port == p).pump

/-- Judge a port by the package number and the mode in force: its plane, and whether the PBR ID that it has been given is the one of R379
(R375, R380). -/
def Dev.judgePort (s : Dev) (p : Nat) : Dev :=
  let ok := Sparse.get (always 0) s.fab.ids p == pbrOn (s.plane p) s.ownPkg + 1
  (s.setFld (fabPortPlane.nth p) (s.plane p)).setBit (fabPortIdOk.nth p) ok

/-! ### What is kept of received gusts (R398, R399) -/

/-- The record of a source and eclass. -/
def Dev.rxOf (s : Dev) (src eclass : Nat) : Rx := Sparse.get (always ⟨0, 0, false, 0⟩) s.fab.rx (8 * src + eclass)
/-- Set it. -/
def Dev.setRx (s : Dev) (src eclass : Nat) (r : Rx) : Dev :=
  { s with fab := { s.fab with rx := Sparse.set (always ⟨0, 0, false, 0⟩) s.fab.rx (8 * src + eclass) r } }

/-- A duplicate by R398. -/
def Rx.dup (r : Rx) (seq : Nat) : Bool := decide (seq < r.point) || bit r.mask (seq - r.point)

/-- Move the point over what has been received without a gap; at most `n` places. -/
def Rx.slide : Nat → Rx → Rx
  | 0, r => r
  | n + 1, r => if bit r.mask 0 then Rx.slide n { r with point := r.point + 1, mask := r.mask / 2 } else r

/-- Record a sequence number. A source has at most 64 gusts unacknowledged, so what lies 64 below it is settled. -/
def Rx.note (r : Rx) (seq win : Nat) : Rx :=
  let p := Nat.max r.point (seq - 63)
  let m := r.mask / 2 ^ (p - r.point)
  Rx.slide 64 { point := p, mask := if bit m (seq - p) then m else m + 2 ^ (seq - p), due := true, win }

/-- A source is met with a new incarnation: its duplicate record starts again and what was granted to it before is free (R391, R403). -/
def Dev.newSource (s : Dev) (src sinc : Nat) : Dev :=
  let old := s.seenOf src
  if old = sinc then s else
  { s with fab := { s.fab with
      seen := Sparse.set (always 0) s.fab.seen src sinc,
      rx := s.fab.rx.filter fun e => e.1 / 8 != src,
      granted := s.fab.granted.filter fun e => e.1 / 65536 != src,
      askers := s.fab.askers.filter fun a => a.pkg != src,
      reborn := if old = 0 then s.fab.reborn else setAdd s.fab.reborn src,
      leave := if old = 0 then s.fab.leave else setAdd s.fab.leave src } }.serveAsks

/-- The reads of a package end without a reply and free their slots. -/
def Dev.dropReads (s : Dev) (pkg : Nat) : Dev :=
  { s with fab := { s.fab with reads := s.fab.reads.filter fun r => r.dst != pkg || r.data.isSome } }

/-- The effect of R399 for package `d`: its unacknowledged gusts are abandoned and reported lost to their users (an export, whose unit sends
again; the collectives with that member, which it leaves), every level held from it is zero. -/
def Dev.forget (s : Dev) (d : Nat) : Dev :=
  let users := (s.fab.sent.filter fun g => g.dst == d).map fun g => g.user
  let s := { s with upds := s.upds.map fun (e : Nat × Upd) => if users.contains (2 + e.1) then (e.1, { e.2 with flight := 0 }) else e }
  { s with fab := { s.fab with
      sent := s.fab.sent.filter fun g => g.dst != d,
      levels := s.fab.levels.filter fun e => e.1 / 65536 != d,
      rets := s.fab.rets.filter fun r => r.pkg != d,
      asks := s.fab.asks.filter fun a => a.pkg != d,
      slots := s.fab.slots.filter fun x => x.eddy != d,
      leave := setAdd s.fab.leave d } }.dropReads d

/-- A control gust with another incarnation than the one last seen has the effect of R399 first (R391). -/
def Dev.controlSource (s : Dev) (src sinc : Nat) : Dev :=
  if s.seenOf src = sinc ∨ s.seenOf src = 0 then s.newSource src sinc else (s.newSource src sinc).forget src

end Sys2Proof.Machine
end

