-- ==== Sys2Proof/Machine/Scalar.lean ====
section
/-! DEFINITION. The scalar and control instructions of the sequencer (R134 to R139, R159, R174, R523) and the folds they start.
Every meaning takes the core and the word its sequencer fetched at its PC. -/

namespace Sys2Proof.Machine

/-! ### Fields and forms (R134) -/

/-- s destination. -/
def sdOf (w : W64) : Nat := fld64 w 8 5
/-- First source. -/
def saOf (w : W64) : Nat := fld64 w 13 5
/-- Second source. -/
def sbOf (w : W64) : Nat := fld64 w 18 5
/-- im. -/
def imOf (w : W64) : Bool := fld64 w 23 1 == 1
/-- imm, sign-extended to 64 bits. -/
def immOf (w : W64) : W64 := (w.extractLsb' 24 40).signExtend 64
/-- The low `n` bits of imm. -/
def immLow (w : W64) (n : Nat) : Nat := fld64 w 24 n

/-- Only the bits of `mask` may be set. -/
def onlyBits (w mask : W64) : Bool := w &&& ~~~mask == 0

/-- The bits of the opcode, im and the named fields of a scalar word; `n` low bits of imm are read. -/
def scalarMask (sd sa sb im : Bool) (n : Nat) : W64 :=
  BitVec.ofNat 64 (0xFF + (if sd then 0x1F00 else 0) + (if sa then 0x3E000 else 0) + (if sb then 0x7C0000 else 0) +
    (if im then 0x800000 else 0) + (2 ^ n - 1) * 2 ^ 24)

/-- A register instruction with an immediate form: im = 1 reads `n` bits of imm in place of s[sb]. -/
def legalAlu (w : W64) (n : Nat) : Bool :=
  if imOf w then onlyBits w (scalarMask true true false true n) else onlyBits w (scalarMask true true true false 0)

/-- The second operand. -/
def opB (k : Core) (w : W64) : W64 := if imOf w then immOf w else k.sreg (sbOf w)

/-- Registers read or written must not await a VRED or VSTAT (R135). -/
def Dev.regsFree (s : Dev) (c : Nat) (l : List Nat) : Bool := l.all fun x => !s.pendingS c x

/-- The registers of a register instruction. -/
def aluRegs (w : W64) : List Nat := [sdOf w, saOf w] ++ if imOf w then [] else [sbOf w]

/-- A scalar operation s[sd] ← f (s[sa], operand) that reads `n` bits of an immediate. -/
def aluEffect (c op n : Nat) (f : W64 → W64 → W64) (w : W64) (s : Dev) : Dev :=
  s.issue c op w (fun _ => legalAlu w n) fun s =>
    if !s.regsFree c (aluRegs w) then s else
    (s.onCore c fun k => k.setS (sdOf w) (f (k.sreg (saOf w)) (opB k w))).countIssue c 0 |>.advance c 8

/-- SADD (R134). -/
def execSadd (core : Fin 512) (w : W64) (s : State) : Res := s.run (aluEffect core 0x01 40 (· + ·) w)
/-- SSUB (R134). -/
def execSsub (core : Fin 512) (w : W64) (s : State) : Res := s.run (aluEffect core 0x02 40 (· - ·) w)
/-- SAND (R134). -/
def execSand (core : Fin 512) (w : W64) (s : State) : Res := s.run (aluEffect core 0x03 40 (· &&& ·) w)
/-- SOR (R134). -/
def execSor (core : Fin 512) (w : W64) (s : State) : Res := s.run (aluEffect core 0x04 40 (· ||| ·) w)
/-- SXOR (R134). -/
def execSxor (core : Fin 512) (w : W64) (s : State) : Res := s.run (aluEffect core 0x05 40 (· ^^^ ·) w)
/-- SMUL (R134). -/
def execSmul (core : Fin 512) (w : W64) (s : State) : Res := s.run (aluEffect core 0x06 40 (· * ·) w)
/-- SSHL (R134): by bits [5:0]. -/
def execSshl (core : Fin 512) (w : W64) (s : State) : Res :=
  s.run (aluEffect core 0x07 6 (fun a b => a <<< (b.toNat % 64)) w)
/-- SSHR (R134). -/
def execSshr (core : Fin 512) (w : W64) (s : State) : Res :=
  s.run (aluEffect core 0x08 6 (fun a b => a >>> (b.toNat % 64)) w)
/-- SSRA (R134). -/
def execSsra (core : Fin 512) (w : W64) (s : State) : Res :=
  s.run (aluEffect core 0x09 6 (fun a b => a.sshiftRight (b.toNat % 64)) w)

/-- SLI and SLUI: s[sd] from its old value and imm, of which `n` bits are read; im must be 1. -/
def immEffect (c op n : Nat) (f : W64 → W64) (w : W64) (s : Dev) : Dev :=
  s.issue c op w (fun _ => imOf w && onlyBits w (scalarMask true false false true n)) fun s =>
    if !s.regsFree c [sdOf w] then s else
    (s.onCore c fun k => k.setS (sdOf w) (f (k.sreg (sdOf w)))).countIssue c 0 |>.advance c 8

/-- SLI (R134): imm, sign-extended. -/
def execSli (core : Fin 512) (w : W64) (s : State) : Res := s.run (immEffect core 0x0A 40 (fun _ => immOf w) w)
/-- SLUI (R134): bits [63:40] from imm[23:0], the others kept. -/
def execSlui (core : Fin 512) (w : W64) (s : State) : Res :=
  s.run (immEffect core 0x0B 24 (fun old => putBits old 40 24 (immLow w 24)) w)

/-! ### Local-store access (R134, R136) -/

/-- The address of SLD and SST: s[sa] + imm modulo 2^64. -/
def lsAddr (k : Core) (w : W64) : Nat := (k.sreg (saOf w) + immOf w).toNat

/-- An address that SLD and SST accept. -/
def lsAddrOk (a : Nat) : Bool := a % 8 == 0 && decide (a < lsSize)

/-- SLD (R134). -/
def sldEffect (c : Nat) (w : W64) (s : Dev) : Dev :=
  s.issue c 0x10 w (fun _ => imOf w && onlyBits w (scalarMask true true false true 40)) fun s =>
    if !s.regsFree c [sdOf w, saOf w] then s else
    let a := lsAddr (s.core c) w
    if !lsAddrOk a then s.illegal c else
    match s.lsCheck c [(a, 8)] with
    | (s, false) => s
    | (s, true) => ((s.moves c 1).onCore c fun k => k.setS (sdOf w) (BitVec.ofNat 64 (k.lsNat a 8))).countIssue c 0 |>.advance c 8

/-- SST (R134): im must be 0, since the operation reads s[sb] and imm. -/
def sstEffect (c : Nat) (w : W64) (s : Dev) : Dev :=
  s.issue c 0x11 w (fun _ => !imOf w && onlyBits w (scalarMask false true true false 40)) fun s =>
    if !s.regsFree c [saOf w, sbOf w] then s else
    let k := s.core c
    let a := lsAddr k w
    if !lsAddrOk a then s.illegal c else
    ((s.lsWrite c (cellsAt a (natLe 8 (k.sreg (sbOf w)).toNat))).moves c 1).countIssue c 0 |>.advance c 8

/-- SLD (R134). -/
def execSld (core : Fin 512) (w : W64) (s : State) : Res := s.run (sldEffect core w)
/-- SST (R134). -/
def execSst (core : Fin 512) (w : W64) (s : State) : Res := s.run (sstEffect core w)

/-! ### Branches (R134, R136) -/

/-- PC + imm, exactly. -/
def branchTarget (k : Core) (w : W64) : Int := k.pc + (immOf w).toInt

/-- A conditional branch: im must be 0. -/
def branchEffect (c op : Nat) (cond : W64 → W64 → Bool) (w : W64) (s : Dev) : Dev :=
  s.issue c op w (fun _ => !imOf w && onlyBits w (scalarMask false true true false 40)) fun s =>
    if !s.regsFree c [saOf w, sbOf w] then s else
    let k := s.core c
    let s' := s.countIssue c 0
    if cond (k.sreg (saOf w)) (k.sreg (sbOf w)) then s'.branchTo c (branchTarget k w) else s'.advance c 8

/-- BR (R134): im must be 1. -/
def brEffect (c : Nat) (w : W64) (s : Dev) : Dev :=
  s.issue c 0x18 w (fun _ => imOf w && onlyBits w (scalarMask false false false true 40)) fun s =>
    (s.countIssue c 0).branchTo c (branchTarget (s.core c) w)

/-- BR (R134). -/
def execBr (core : Fin 512) (w : W64) (s : State) : Res := s.run (brEffect core w)
/-- BEQ (R134). -/
def execBeq (core : Fin 512) (w : W64) (s : State) : Res := s.run (branchEffect core 0x19 (· == ·) w)
/-- BNE (R134). -/
def execBne (core : Fin 512) (w : W64) (s : State) : Res := s.run (branchEffect core 0x1A (· != ·) w)
/-- BLT (R134): signed. -/
def execBlt (core : Fin 512) (w : W64) (s : State) : Res := s.run (branchEffect core 0x1B BitVec.slt w)
/-- BLTU (R134): unsigned. -/
def execBltu (core : Fin 512) (w : W64) (s : State) : Res := s.run (branchEffect core 0x1C BitVec.ult w)

/-- STIME (R134, R339): the count of the core's own base die. -/
def stimeEffect (c : Nat) (w : W64) (s : Dev) : Dev :=
  s.issue c 0x20 w (fun _ => onlyBits w (scalarMask true false false false 0)) fun s =>
    if !s.regsFree c [sdOf w] then s else
    (s.onCore c fun k => k.setS (sdOf w) (BitVec.ofNat 64 (s.now (c / 128)))).countIssue c 0 |>.advance c 8

/-- STIME (R134). -/
def execStime (core : Fin 512) (w : W64) (s : State) : Res := s.run (stimeEffect core w)

/-! ### Events (R138, R139) -/

/-- A vector-queue entry that writes the local store. -/
def QEnt.stores (e : QEnt) : Bool :=
  let op := fld64 e.w0 0 8
  op == 0x69 || op == 0x65 || op == 0x6A || (op == 0x41 && fld64 e.w0 34 1 == 0) ||
  (op != 0x41 && op != 0x64 && fld64 e.w0 57 1 == 1)

/-- Every earlier local-store write of the core is complete (R139). -/
def Dev.storesDone (s : Dev) (c : Nat) : Bool :=
  (s.core c).vq.all (!·.stores) &&
  !(s.vecBusy c && (match (s.core c).vrun with | some r => r.ent.stores | none => false))

/-- Every earlier fold has been applied or skipped (R174). -/
def Dev.foldsDone (s : Dev) (c : Nat) : Bool := (s.core c).folds.isEmpty

/-- EVSIG (R139). -/
def evsigEffect (c : Nat) (w : W64) (s : Dev) : Dev :=
  s.issue c 0x30 w (fun _ => imOf w && onlyBits w (scalarMask false false false true 8)) fun s =>
    if !s.storesDone c || !s.foldsDone c then s else
    (s.arrive (s.dom c) (immLow w 8)).countIssue c 0 |>.advance c 8

/-- EVWAIT (R139): pass when the counter has reached s[sa], else wait behind the instruction. -/
def evwaitEffect (c : Nat) (w : W64) (s : Dev) : Dev :=
  s.issue c 0x31 w (fun _ => imOf w && onlyBits w (scalarMask false true false true 8)) fun s =>
    if !s.regsFree c [saOf w] then s else
    let v : W32 := ((s.core c).sreg (saOf w)).setWidth 32
    let s := s.countIssue c 0
    if reaches (s.evGet (s.dom c) (immLow w 8)) v then s.advance c 8
    else s.onCore c fun k => { k with pc := k.pc + 8, run := .waiting (immLow w 8) v }

/-- The awaited counter has reached its value: issue resumes; behind the last 8 bytes the segment stops (R136, R139). -/
def evwaitResumeEffect (c : Nat) (s : Dev) : Dev :=
  if s.coreDown c then s else
  match (s.core c).run with
  | .waiting n v =>
    if reaches (s.evGet (s.dom c) n) v then
      let s := s.onCore c fun k => { k with run := .issuing }
      if (s.core c).pc < lsSize then s
      else (s.onCore c fun k => { k with pc := k.pc - 8 }).illegal c
    else s
  | _ => s

/-- EVSIG (R139). -/
def execEvsig (core : Fin 512) (w : W64) (s : State) : Res := s.run (evsigEffect core w)
/-- EVWAIT (R139). -/
def execEvwait (core : Fin 512) (w : W64) (s : State) : Res := s.run (evwaitEffect core w)
/-- EVWAIT_RESUME (R139). -/
def execEvwaitResume (core : Fin 512) (s : State) : Res := s.run (evwaitResumeEffect core)

/-- A descriptor that a drain stream feeds has not the blocks of its next unit, and its stream has not stopped (R144, R152, R160). -/
def Chan.starved (c : Chan) : Bool :=
  let f (i lo w : Nat) : Nat := fld64 (wordAt c.q i) lo w
  let rest := (f 3 0 16 + 1) * ((f 3 16 16 + 1) / 64) - 64 * c.pos
  let core := if f 0 36 1 = 1 then c.core.map (· % 16) else some (f 0 8 4)
  c.st == .moving && f 0 0 4 == 3 && f 0 4 2 == 3 && decide (c.stream.length < Nat.min 64 rest) && !c.cut.any fun x => some (x % 16) == core

/-- A channel that is ready to move data. -/
def Chan.wants (c : Chan) : Bool := c.st == .ready || (c.st == .moving && !c.starved)

/-- The channels of cluster `k`. -/
def Dev.chansOf (s : Dev) (k : Nat) : List (Nat × Chan) := Sparse.range s.chans (16 * k) (16 * k + 16)

/-- A foreground chain of the cluster is ready. -/
def Dev.fgReady (s : Dev) (k : Nat) : Bool := (s.chansOf k).any fun e => e.2.wants && !e.2.brz

/-- Start a chain on a channel at a descriptor address (R139, R144); a breeze chain starts paused while a foreground chain of its cluster is
ready. -/
def Dev.startChain (s : Dev) (h addr : Nat) (brz : Bool) (core : Option Nat) (owner : Owner) (work : Option Work) : Dev :=
  s.setChan h { Chan.idle with st := .ready, addr, brz, core, owner, work, stream := (s.chan h).stream,
                               pause := brz && decide (h < 512) && s.fgReady (h / 16) }

/-- DMAGO (R139): it waits for the core's earlier writes and for the channel. -/
def dmagoEffect (c : Nat) (w : W64) (s : Dev) : Dev :=
  s.issue c 0x32 w (fun _ => imOf w && onlyBits w (scalarMask false true false true 4)) fun s =>
    let h := 16 * (c / 16) + immLow w 4
    if !s.regsFree c [saOf w] || !s.storesDone c || (s.chan h).st != .idle then s else
    (s.startChain h ((s.core c).sreg (saOf w)).toNat (s.isBrz c) (some c) (.core c) (s.core c).work).countIssue c 0
      |>.advance c 8

/-- DMAGO (R139). -/
def execDmago (core : Fin 512) (w : W64) (s : State) : Res := s.run (dmagoEffect core w)

/-! ### Restart marks and the end of a segment (R137, R159, R162) -/

/-- The context slot of core `c` in its cluster store; values of ctx_base above 0x17F are taken as 0x17F (R162, R163). -/
def Dev.ctxSlot (s : Dev) (c : Nat) : Nat := Nat.min 0x17F (s.fldAs ⟨.clusterDma, 16 * (c / 16)⟩ dieCtxBaseCtxBase) * 65536 + 4096 * (c % 16)

/-- Both queues are empty and everything issued is complete. -/
def Dev.quiet (s : Dev) (c : Nat) : Bool :=
  let k := s.core c
  k.mq.isEmpty && k.vq.isEmpty && !s.vecBusy c && k.mmts.isEmpty && k.rest.isNone && decide (k.mwend ≤ s.cycle c) && s.foldsDone c

/-- s0 to s31 as 256 bytes. -/
def Core.sBytes (k : Core) : List Byte := (List.range 32).flatMap fun x => natLe 8 (k.sreg x).toNat

/-- RMARK (R159): the restart record with the PC behind the mark, the ordinal plus one, valid, and s0 to s31. -/
def rmarkEffect (c : Nat) (w : W64) (s : Dev) : Dev :=
  s.issue c 0x33 w (fun _ => onlyBits w 0xFF) fun s =>
    if !s.quiet c then s else
    let a := s.ctxSlot c
    match s.csRead (c / 16) (a + 8) 4 with
    | (s, none) => s
    | (s, some o) =>
      let k := s.core c
      let s := s.csWrite (c / 16) (cellsAt a (natLe 8 (k.pc + 8) ++ natLe 4 (leNat o + 1) ++ [1]))
      let s := (s.csWrite (c / 16) (cellsAt (a + 0x40) k.sBytes)).countIssue c 0
      let s := (s.onCore c fun k => { k with since := 0 }).count (coreBlk c) 17 1
      s.advance c 8

/-- Both queues are empty, and every local-store write and fold of the segment is complete; started tiles and loads may still run (R135, R137, R174). -/
def Dev.segDone (s : Dev) (c : Nat) : Bool :=
  let k := s.core c
  k.mq.isEmpty && k.vq.isEmpty && k.rest.isNone && s.storesDone c && s.foldsDone c

/-- SEGEND (R137): the segment ends and is reported to the dispatcher, also at the last 8 bytes of the local store, behind which no instruction of it is to
come (DESIGN CHOICE beside R136; log entry 129). -/
def segendEffect (c : Nat) (w : W64) (s : Dev) : Dev :=
  s.issue c 0x34 w (fun _ => onlyBits w 0xFF) fun s =>
    if !s.segDone c then s else
    let wk := (s.core c).work
    let s := s.countIssue c 0
    (s.onCore c fun k => { k with run := .idle, work := none }).endWork wk true

/-- RMARK (R159). -/
def execRmark (core : Fin 512) (w : W64) (s : State) : Res := s.run (rmarkEffect core w)
/-- SEGEND (R137). -/
def execSegend (core : Fin 512) (w : W64) (s : State) : Res := s.run (segendEffect core w)

/-! ### Statistics folds (R172 to R175) and the apply ledger (R153) -/

/-- Statistics slot `i`. -/
def Core.slot (k : Core) (i : Nat) : Stat := Sparse.get (always Stat.cleared) k.slots i

/-- Set it. -/
def Core.setSlot (k : Core) (i : Nat) (v : Stat) : Core :=
  { k with slots := Sparse.set (always Stat.cleared) k.slots i v }

/-- An earlier MDRAIN with st_en has not converted its last value (R174). -/
def Dev.statsBusy (s : Dev) (c : Nat) : Bool :=
  let st (e : QEnt) : Bool := fld64 e.w0 0 8 == 0x41 && fld64 e.w0 39 1 == 1
  (s.core c).vq.any st || (s.vecBusy c && (match (s.core c).vrun with | some r => st r.ent | none => false))

/-- The page of `va` translates to a frame outside HBM, by the tables as they stand. -/
def Dev.mappedOutside (s : Dev) (va : Nat) : Bool :=
  match s.walk va true with
  | .leaf _ frame size _ => !s.inHbm (frame + va % size)
  | _ => false

/-- STFOLD (R174): in one action the slot is copied into a fold request and cleared. -/
def stfoldEffect (c : Nat) (w : W64) (s : Dev) : Dev :=
  s.issue c 0x35 w (fun _ => imOf w && onlyBits w (scalarMask false true false true 19) && !s.isBrz c) fun s =>
    if !s.regsFree c [saOf w] || s.statsBusy c then s else
    let k := s.core c
    let va := (k.sreg (saOf w)).toNat
    let slot := fld64 w 40 3
    if va % 32 ≠ 0 ∨ 2 ^ 52 ≤ va ∨ s.mappedOutside va then s.illegal c else
    let f : Fold := ⟨k.slot slot, va, BitVec.ofNat 32 (0x80000000 + fld64 w 24 16)⟩
    let s := s.onCore c fun k => { k.setSlot slot Stat.cleared with folds := k.folds ++ [f], accs := true }
    ((s.countIssue c 0).count (coreBlk c) 20 1).advance c 8

/-- A record's 32 bytes (R172). -/
def Stat.encode (t : Stat) : List Byte :=
  natLe 2 (wrap 16 t.pmax) ++ natLe 2 0 ++ natLe 4 t.sat ++ natLe 4 t.nfb ++ natLe 4 0 ++ natLe 8 t.nz ++ natLe 8 t.uf

/-- The fields of a record. -/
def Stat.decode (bs : List Byte) : Stat :=
  ⟨signed 16 (leAt bs 0 2), leAt bs 4 4, leAt bs 8 4, leAt bs 0x10 8, leAt bs 0x18 8⟩

/-- A fold: the maximum and the saturating sums (R172). -/
def Stat.fold (a b : Stat) : Stat :=
  ⟨max a.pmax b.pmax, satAdd (2 ^ 32 - 1) a.sat b.sat, satAdd (2 ^ 32 - 1) a.nfb b.nfb, satAdd (2 ^ 64 - 1) a.nz b.nz,
   satAdd (2 ^ 64 - 1) a.uf b.uf⟩

/-- What the ledger says of unit `u` with a tag (R153): apply it, skip it, the entry cannot be read,
its page cannot be reached, because it is being moved or for a fault. -/
inductive Ledger where
  | apply | skip | lost
  | wait (mv : Bool)
  deriving DecidableEq, Repr

/-- The address of a tag's ledger entry. -/
def Dev.ledgerAddr (s : Dev) (tag : W32) : Nat := s.fld memLedgerBaseBase * 65536 + 16 * (tag.toNat % 65536)

/-- The job's step counter (R166). -/
def Dev.step (s : Dev) : W64 := s.reg sysStepCountStep.off

/-- Ask the ledger (R153), whose page must also take the entry that is to be written; with it disabled every unit is applied (R154). -/
def Dev.ledgerAsk (s : Dev) (t : Nat) (tag : W32) (u : Nat) : Dev × Ledger :=
  if !s.on memLedgerBaseEn then (s, .apply) else
  match s.xlateRange t (tlbSrcOf t) 2 (s.ledgerAddr tag) 16 true with
  | (s, .wait _) => (s, .wait true)
  | (s, .fail) => (s, .wait false)
  | (s, .ok _) =>
  match s.vRead t (tlbSrcOf t) 2 2 (s.ledgerAddr tag) 16 with
  | (s, .data bs e) =>
    if e.lost then (s, .lost)
    else if leAt bs 0 4 = s.step.toNat % 2 ^ 32 ∧ leAt bs 4 4 = tag.toNat ∧ u < leAt bs 8 4 then (s, .skip)
    else (s, .apply)
  | (s, _) => (s, .wait false)
where
  /-- The translating unit as a source. -/
  tlbSrcOf (t : Nat) : Src := if t < 32 then clusterSrc t 1 else dieSrc (t - 32) 5

/-- Write the ledger entry of a tag with a count of units (R153). -/
def Dev.ledgerPut (s : Dev) (t : Nat) (tag : W32) (n : Nat) : Dev :=
  if !s.on memLedgerBaseEn then s else
  (s.vWrite t (Dev.ledgerAsk.tlbSrcOf t) 2 (s.ledgerAddr tag)
    (natLe 4 (s.step.toNat % 2 ^ 32) ++ natLe 4 tag.toNat ++ natLe 4 n ++ natLe 4 0)).1

/-- Take the oldest fold request off core `c`. -/
def Dev.dropFold (s : Dev) (c : Nat) : Dev := s.onCore c fun k => { k with folds := k.folds.drop 1 }

/-- The memory controller applies the oldest fold of core `c` as one ledger unit (R153, R174, R175): it waits while the page
is to be resolved; a record outside HBM or an unreadable ledger entry stops the segment. A fold whose record cannot be read is dropped, without a ledger
entry, and the segment goes on (DESIGN CHOICE; log entry 129). -/
def foldApplyEffect (c : Nat) (s : Dev) : Dev :=
  let t := c / 16
  match (s.core c).folds with
  | [] => s
  | f :: _ =>
    if s.mappedOutside f.addr then ((s.dropFold c).illegal c) else
    match s.walk f.addr true with
    | .leaf _ _ _ _ =>
      match s.ledgerAsk t f.tag 0 with
      | (s, .wait _) => s
      | (s, .lost) => ((s.dropFold c).noteRetry false).stopSegment c
      | (s, .skip) => (s.dropFold c).count (clusterBlk t) 6 1
      | (s, .apply) =>
        match s.vRead t (clusterSrc t 1) 2 2 f.addr 32 with
        | (s, .data bs e) =>
          let s := s.dropFold c
          if e.lost then s
          else ((s.vWrite t (clusterSrc t 1) 2 f.addr ((Stat.decode bs).fold f.stat).encode).1).ledgerPut t f.tag 1
        | (s, _) => s
    | _ => s

/-- STFOLD (R174). -/
def execStfold (core : Fin 512) (w : W64) (s : State) : Res := s.run (stfoldEffect core w)
/-- FOLD_APPLY (R174). -/
def execFoldApply (core : Fin 512) (s : State) : Res := s.run (foldApplyEffect core)

/-! ### Counters (R523) -/

/-- Counter `n` as PRD may read it under a segment's grant: engine, core and cluster blocks with bit 0 of the grant, others only
under a debug grant with bit 0 (R522, R523). -/
def Dev.prdRead (s : Dev) (grant n : Nat) : W64 :=
  let b := n / 128
  if b < 0xC20 then (if bit grant 0 then BitVec.ofNat 64 (s.ctrRead n) else 0)
  else if 0xC36 < b then 0
  else if s.on secStatusDbg && bit (s.fld secStatusGrant) 0 then BitVec.ofNat 64 (s.ctrRead n) else 0

/-- PRD (R523). -/
def prdEffect (c : Nat) (w : W64) (s : Dev) : Dev :=
  s.issue c 0x36 w (fun _ => imOf w && onlyBits w (scalarMask true true false true 40)) fun s =>
    if !s.regsFree c [sdOf w, saOf w] then s else
    let s := s.countIssue c 0
    (s.onCore c fun k =>
      k.setS (sdOf w) (s.prdRead k.grant ((k.sreg (saOf w) + immOf w).toNat % 2 ^ 19))).advance c 8

/-- PRD (R523). -/
def execPrd (core : Fin 512) (w : W64) (s : State) : Res := s.run (prdEffect core w)

end Sys2Proof.Machine
end

