-- ==== Sys2Proof/Machine/Sfu.lean ====
section
/-! DEFINITION. The special functions of the vector engine (R119, R120). The manual bounds the error of a result and leaves
the result open within the bound: the free value `Config.specialFunction` is taken wherever it keeps the bound, the
correctly rounded result otherwise. Exact values are evaluated in fixed point with `fxP` fraction bits. -/

namespace Sys2Proof.Machine

/-- Fraction bits of the fixed-point evaluation. -/
def fxP : Nat := 320

/-- One, in fixed point. -/
def fxOne : Nat := 2 ^ fxP

/-- Σ t^(2i+1) / (2i+1) from term `i` on, `n` terms, `p` holding t^(2i+1) and `t2` t²; `alt` alternates the signs. -/
def oddSeries (alt : Bool) (t2 : Nat) : Nat → Nat → Nat → Int
  | 0, _, _ => 0
  | n + 1, i, p =>
    let term : Int := (p / (2 * i + 1) : Nat)
    (if alt ∧ i % 2 = 1 then -term else term) + oddSeries alt t2 n (i + 1) (p * t2 / fxOne)

/-- ln 2 in fixed point: 2 atanh(1/3). -/
def fxLn2 : Nat := (2 * oddSeries false (fxOne / 9) 110 0 (fxOne / 3)).toNat

/-- The arc tangent of 1/k in fixed point. -/
def fxAtanInv (k : Nat) : Int := oddSeries true (fxOne / (k * k)) 160 0 (fxOne / k)

/-- π in fixed point (Machin's formula). -/
def fxPi : Nat := (4 * (4 * fxAtanInv 5 - fxAtanInv 239)).toNat

/-- √(2/π) in fixed point. -/
def fxSqrt2Pi : Nat := isqrt (2 * fxOne * fxOne * fxOne / fxPi)

/-- Σ r^i / i!, from the term `t` of index `i` on, `n` terms. -/
def expSeries (r : Nat) : Nat → Nat → Nat → Nat
  | 0, _, _ => 0
  | n + 1, i, t => t + expSeries r n (i + 1) (t * r / fxOne / (i + 1))

/-- e^x for x ≥ 0 in fixed point. -/
def expPos (x : Nat) : XVal := .fin false (expSeries (x % fxLn2) 90 0 fxOne) ((x / fxLn2 : Nat) - (fxP : Int))

/-- A finite magnitude in fixed point, cut at 2^11, beyond which no function changes within FP32. -/
def fxMag (m : Nat) (e : Int) : Nat :=
  if (11 : Int) ≤ ilog2 m e then 2 ^ 11 * fxOne
  else if 0 ≤ e + fxP then m * 2 ^ (e + fxP).toNat else m / 2 ^ (-(e + fxP)).toNat

/-- One, as an exact value with spare digits for a division. -/
def xOne : XVal := .fin false (2 ^ 256) (-256)

/-- e^(−|x|) of a finite value. -/
def expNegAbs (m : Nat) (e : Int) : XVal := xOne.div (expPos (fxMag m e))

/-- e^x of a finite value. -/
def expX (neg : Bool) (m : Nat) (e : Int) : XVal := if neg then expNegAbs m e else expPos (fxMag m e)

/-- 1/(1 + e^(−x)) of a finite value. -/
def sigmoidX (neg : Bool) (m : Nat) (e : Int) : XVal :=
  let a := expNegAbs m e
  let d := xOne.add a
  if neg then (a.mul xOne).div d else xOne.div d

/-- ln x of m × 2^e, m ≠ 0: the mantissa brought to [2/3, 4/3). -/
def logX (m : Nat) (e : Int) : XVal :=
  let l := Nat.log2 m
  let up := decide (2 ^ (l + 2) ≤ 3 * m)
  let k : Int := (l : Int) + e + (if up then 1 else 0)
  let den := if up then 2 ^ (l + 1) else 2 ^ l
  let neg := decide (m < den)
  let num := if neg then den - m else m - den
  let t := num * fxOne / (m + den)
  let s := 2 * oddSeries false (t * t / fxOne) 80 0 t
  XVal.ofScaled ((if neg then -s else s) + k * fxLn2) (-(fxP : Int))

/-- tanh x of a finite value. -/
def tanhX (neg : Bool) (m : Nat) (e : Int) : XVal :=
  let a := expNegAbs m (e + 1)
  let r := ((xOne.sub a).mul xOne).div (xOne.add a)
  if neg then r.neg else r

/-- GELU of a finite value: x times the sigmoid of 2√(2/π)(x + 0.044715 x³). -/
def geluX (neg : Bool) (m : Nat) (e : Int) : XVal :=
  let x := XVal.fin neg m e
  let c := XVal.fin false (44715 * fxOne / 1000000) (-(fxP : Int))
  let z := (XVal.fin false fxSqrt2Pi (1 - (fxP : Int))).mul (x.add (c.mul (x.mul (x.mul x))))
  match z with
  | .fin zs zm ze => x.mul (sigmoidX zs zm ze)
  | y => y

/-- The exact function of a finite input, to well over FP32 precision. -/
def sfuExact (fn : Nat) (neg : Bool) (m : Nat) (e : Int) : XVal :=
  match fn with
  | 0 => expX neg m e
  | 1 => if neg then .nan else logX m e
  | 2 => if neg then .nan else (xOne.div (.fin false m e)).sqrt
  | 3 => xOne.div (.fin neg m e)
  | 4 => tanhX neg m e
  | 5 => sigmoidX neg m e
  | _ => geluX neg m e

/-- The special values of R119: NaN and infinities as inputs, and zeros where the table gives a value; exp and sigmoid of a zero are
bounded alone. -/
def sfuSpecial (fn : Nat) (x : XVal) : Option XVal :=
  match x with
  | .nan => some .nan
  | .inf s =>
    match fn with
    | 0 => some (if s then .fin false 0 0 else .inf false)
    | 1 => some (if s then .nan else .inf false)
    | 2 => some (if s then .nan else .fin false 0 0)
    | 3 => some (.fin s 0 0)
    | 4 => some (.fin s 1 0)
    | 5 => some (if s then .fin false 0 0 else .fin false 1 0)
    | _ => some (if s then .fin true 0 0 else .inf false)
  | .fin s m _ =>
    if m ≠ 0 then none else
    match fn with
    | 0 | 5 => none
    | 1 => some (.inf true)
    | 2 | 3 => some (.inf s)
    | _ => some (.fin s 0 0)

/-- The bound in ulp (R119). -/
def sfuUlp (level fn : Nat) : Nat :=
  let b := if fn < 3 then 2 else if fn = 3 then 1 else 4
  if level = 2 then b / 2 else b

/-- |a − b| ≤ k × 2^u, for finite values. -/
def within (a b : XVal) (k : Nat) (u : Int) : Bool :=
  match a.sub b with
  | .fin _ m e => !(XVal.lt (.fin false k u) (.fin false m e))
  | _ => false

/-- An FP32 result keeps the bound against the exact value (R119). -/
def sfuKeeps (level fn : Nat) (exact : XVal) (r : Nat) : Bool :=
  match exact with
  | .fin _ m e =>
    if ilog2 m e < -126 then within (f32 r) exact 1 (-149)
    else if fp32.overflows 0 0 m e then false
    else within (f32 r) exact (sfuUlp level fn) (fp32.grid m e)
  | _ => false

/-- The FP32 result of function `fn` at a feature level (R119): recip at level 2 is correctly rounded. -/
def sfu (level fn : Nat) (x : Nat) : Nat :=
  match sfuSpecial fn (f32 x) with
  | some v => rne32 v
  | none =>
    match f32 x with
    | .fin s m e =>
      let v := sfuExact fn s m e
      let r := (Config.specialFunction level fn (BitVec.ofNat 32 x)).toNat
      if (fn = 3 ∧ level = 2) ∨ !sfuKeeps level fn v r then rne32 v else r
    | _ => rne32 .nan

end Sys2Proof.Machine
end

