-- ==== Sys2Proof/Machine/VecOps.lean ====
section
/-! DEFINITION. What the vector instructions share: fields, legality, active elements, operands, element arithmetic,
conversion, the vector queue and the cost table (R102 to R133). -/

namespace Sys2Proof.Machine

/-! ### Fields (R106, R107) -/

/-- Opcode. -/
def vop (w : W64) : Nat := fld64 w 0 8
/-- vd. -/
def vdOf (w : W64) : Nat := fld64 w 8 5
/-- va. -/
def vaOf (w : W64) : Nat := fld64 w 13 5
/-- vb. -/
def vbOf (w : W64) : Nat := fld64 w 18 5
/-- vc. -/
def vcOf (w : W64) : Nat := fld64 w 23 5
/-- Governing predicate. -/
def pgOf (w : W64) : Nat := fld64 w 28 4
/-- Invert it. -/
def pnegOf (w : W64) : Bool := fld64 w 32 1 == 1
/-- Source type. -/
def tyOf (w : W64) : Nat := fld64 w 33 4
/-- Rounding mode. -/
def rndOf (w : W64) : Nat := fld64 w 37 2
/-- Saturation. -/
def satOf (w : W64) : Bool := fld64 w 39 1 == 1
/-- Scalar operand register. -/
def scOf (w : W64) : Nat := fld64 w 51 5
/-- Scalar second source. -/
def bscOf (w : W64) : Bool := fld64 w 56 1 == 1
/-- Tile-buffer form. -/
def tbOf (w : W64) : Bool := fld64 w 57 1 == 1
/-- Element count. -/
def vcount (w0 w1 : W64) : Nat := if tbOf w0 then fld64 w1 8 14 + 1 else fld64 w0 40 11 + 1
/-- Mask address of the tile-buffer form. -/
def maskAddr (w1 : W64) : Nat := fld64 w1 23 20

/-- Floating-point vector types. -/
def isFloat (ty : Nat) : Bool := ty == 0xA || ty == 0x4 || ty == 0x5
/-- Integer vector types. -/
def isInt (ty : Nat) : Bool := ty == 0xB || ty == 0x9
/-- Any type of R103. -/
def isVty (ty : Nat) : Bool := isFloat ty || isInt ty || ty == 0x0 || ty == 0x1 || ty == 0xC
/-- The container bits of a type (R103). -/
def tyBits (ty : Nat) : Nat := if ty = 0xC then 24 else elemBits ty

/-! ### Legality (R106, R133) -/

/-- The bits an opcode uses of word 0, beside the opcode. -/
def vmask (op : Nat) : W64 :=
  let vd := 0x1F00; let va := 0x3E000; let vb := 0x7C0000; let vc := 0xF800000
  let pg := 0x1F0000000; let ty := 0x1E00000000; let rs := 0xE000000000; let cnt := 0x7FF0000000000
  let sc := 0xF8000000000000; let bsc := 0x100000000000000; let tb := 0x200000000000000
  BitVec.ofNat 64 (0xFF +
    (match op with
    | 0x50 | 0x51 | 0x52 => vd + va + vb + pg + ty + rs + cnt + sc + bsc + tb
    | 0x53 => vd + va + vb + vc + pg + ty + rs + cnt + sc + bsc + tb
    | 0x54 | 0x55 | 0x58 | 0x59 | 0x5A | 0x5B | 0x5C => vd + va + vb + pg + ty + cnt + sc + bsc + tb
    | 0x56 | 0x57 => vd + va + pg + ty + 0x8000000000 + cnt + tb
    | 0x5D => 0x700 + va + vb + 0x3800000 + pg + ty + cnt + sc + bsc + tb
    | 0x5E => vd + va + vb + 0x3800000 + pg + ty + cnt + sc + bsc
    | 0x5F => vd + va + 0x3C0000 + pg + ty + rs + cnt + sc + tb
    | 0x60 => vd + va + 0x1C0000 + pg + ty + rs + cnt + sc + tb
    | 0x61 | 0x62 => vd + pg + ty + cnt + sc + tb
    | 0x63 => vd + pg + ty + cnt + sc
    | 0x64 => vd + va + 0x3800000 + pg + ty + cnt + tb
    | 0x65 => 0xE000 + 0xF0000000 + cnt
    | 0x66 => 0x700 + 0xF0000000 + cnt
    | 0x67 | 0x6F => sc
    | 0x68 => vd + pg + ty + rs + cnt + sc
    | 0x69 => va + pg + ty + rs + cnt + sc
    | 0x6A => va + pg + ty + cnt + sc
    | 0x6B => vd + 0x800000
    | 0x6C | 0x6D | 0x6E => 0x700 + 0xE000 + 0x1C0000 + pg + cnt
    | _ => 0))

/-- The source type is one the opcode takes (R108, R116, R123). -/
def vtyOk (op ty : Nat) : Bool :=
  match op with
  | 0x50 | 0x51 => isFloat ty || isInt ty || ty == 0xC
  | 0x52 => isFloat ty || isInt ty
  | 0x53 | 0x54 | 0x55 | 0x56 | 0x57 | 0x5D | 0x64 => isFloat ty || isInt ty
  | 0x58 | 0x59 | 0x5A | 0x5B | 0x5C => isInt ty
  | 0x5E | 0x61 => isFloat ty || isInt ty || ty == 0xC
  | 0x5F | 0x68 | 0x69 => isVty ty
  | 0x60 => isFloat ty
  | 0x62 | 0x63 => ty == 0xB
  | 0x6A => ty == 0xA || ty == 0x4
  | _ => true

/-- Tile-buffer form is allowed (R118). -/
def tbAllowed (op : Nat) : Bool :=
  (decide (0x50 ≤ op) && decide (op ≤ 0x5D)) || op == 0x5F || op == 0x60 || op == 0x61 || op == 0x62 || op == 0x64

/-- The opcodes with a rounding mode. -/
def vrounds (op : Nat) : Bool :=
  (decide (0x50 ≤ op) && decide (op ≤ 0x53)) || op == 0x5F || op == 0x60 || op == 0x68 || op == 0x69

/-- The instruction draws random values: SR on a conversion, or on floating-point arithmetic (R112). -/
def vdraws (w : W64) : Bool :=
  let op := vop w
  vrounds op && rndOf w == 2 && (decide (0x5F ≤ op) || isFloat (tyOf w))

/-- The destination of the instruction is a conversion into BI16 (R112, R113). -/
def intoBi16 (w0 w1 : W64) : Bool :=
  (vop w0 == 0x5F && fld64 w0 18 4 == 0xC) || (vop w0 == 0x68 && tyOf w0 == 0xC && fld64 w1 32 4 != 0xC) ||
  (vop w0 == 0x69 && tyOf w0 != 0xC && fld64 w1 32 4 == 0xC)

/-- How many scalar registers from sc on an instruction reads (R106, R112, R122, R131). A VRSV with sc = 31 would read s[32], which does not
exist: it is refused like the others (DESIGN CHOICE, log entry 114). -/
def scRegs (w0 w1 : W64) : Nat :=
  let op := vop w0
  if vdraws w0 then 3
  else if op = 0x63 ∨ op = 0x6F then 2
  else if op = 0x61 ∨ op = 0x62 ∨ op = 0x67 ∨ op = 0x6A ∨ intoBi16 w0 w1 then 1
  else if vmask op &&& 0x100000000000000 ≠ 0 ∧ bscOf w0 then 1 else 0

/-- Word 1 of the tile-buffer form: reserved bits and tiles the opcode does not use (R107). -/
def tbWordOk (op : Nat) (w1 : W64) : Bool :=
  let a := if op = 0x61 ∨ op = 0x62 then 0 else 0x3
  let b := if (decide (0x50 ≤ op) && decide (op ≤ 0x55)) || (decide (0x58 ≤ op) && decide (op ≤ 0x5D)) then 0xC else 0
  let c := if op = 0x53 then 0x30 else 0
  let d := if op = 0x5D ∨ op = 0x64 then 0 else 0xC0
  onlyBits w1 (BitVec.ofNat 64 (a + b + c + d + 0x7FFFFFFFF00))

/-- BI16 operands keep R111: pg = 8, bsc = 0, whole blocks; VLD and VST where the register operand is BI16. -/
def bi16Ok (w0 w1 : W64) : Bool :=
  let op := vop w0
  if (op = 0x50 ∨ op = 0x51 ∨ op = 0x5E ∨ op = 0x5F ∨ op = 0x61 ∨ op = 0x68 ∨ op = 0x69) ∧ (tyOf w0 = 0xC ∨ (op = 0x5F ∧ fld64 w0 18 4 = 0xC)) then
    pgOf w0 == 8 && !bscOf w0 && vcount w0 w1 % 32 == 0
  else true

/-- What R133 asks of word 0, of the type, of rounding, of sc and of the tile-buffer form. -/
def vecLegal (op : Nat) (w0 w1 : W64) : Bool :=
  onlyBits w0 (vmask op) && vtyOk op (tyOf w0) &&
  (vmask op &&& 0xF0000000 == 0 || decide (pgOf w0 ≤ 8)) &&
  !(vrounds op && rndOf w0 == 3) &&
  decide (scOf w0 + scRegs w0 w1 ≤ 32) && bi16Ok w0 w1 &&
  (!tbOf w0 || (tbAllowed op && pgOf w0 == 8 && tbWordOk op w1 && !(op == 0x5D && fld64 w1 22 1 == 1) &&
    decide (maskAddr w1 + (if op = 0x5D ∨ fld64 w1 22 1 = 1 then ceilDiv (vcount w0 w1) 8 else 0) ≤ lsSize)))

/-! ### Active elements and operands (R103 to R110, R118) -/

/-- Bit `e` of a packed mask (R121). -/
def Core.maskBit (k : Core) (addr e : Nat) : Bool := bit (k.lsByte (addr + e / 8)).toNat (e % 8)

/-- Predicate bit. -/
def Core.pbit (k : Core) (n e : Nat) : Bool := Sparse.get (always false) k.p (n * 2048 + e)

/-- Element `e` of an instruction is active (R109, R118); VSEL and the predicate operations ignore pg (R110). pneg does not invert the packed
mask of the tile-buffer form (DESIGN CHOICE, log entry 114). -/
def Core.active (k : Core) (w0 w1 : W64) (e : Nat) : Bool :=
  let op := vop w0
  if tbOf w0 then (fld64 w1 22 1 == 0 || k.maskBit (maskAddr w1) e)
  else if op = 0x5E ∨ op = 0x6C ∨ op = 0x6D ∨ op = 0x6E then true
  else if pgOf w0 = 8 then true
  else k.pbit (pgOf w0) e != pnegOf w0

/-- The active elements, rising. -/
def Core.actives (k : Core) (w0 w1 : W64) : List Nat := (List.range (vcount w0 w1)).filter (k.active w0 w1)

/-- Element `e` of vector register `n`. -/
def Core.velem (k : Core) (n e : Nat) : Nat := (Sparse.get (always (0 : W32)) k.v (n * 2048 + e)).toNat

/-- Element `e` of tile buffer `t` (R118). -/
def Core.telem (k : Core) (t e : Nat) : Nat := k.lsNat (k.tb + 65536 * t + 4 * e) 4

/-- Source container `e`: slot 0 is a, 1 is b, 2 is c. -/
def Core.vsrc (k : Core) (x : QEnt) (slot e : Nat) : Nat :=
  if slot = 1 ∧ bscOf x.w0 then (wordAt x.lat 0).toNat % 2 ^ 32
  else if tbOf x.w0 then k.telem (fld64 x.w1 (2 * slot) 2) e
  else k.velem (fld64 x.w0 (13 + 5 * slot) 5) e

/-- Write containers of type `ty` to the destination of `x` (R103, R109). -/
def Dev.vdst (s : Dev) (c : Nat) (x : QEnt) (ty : Nat) (res : List (Nat × Nat)) : Dev :=
  let m := 2 ^ tyBits ty
  if tbOf x.w0 then
    s.lsWrite c (res.flatMap fun r => cellsAt ((s.core c).tb + 65536 * fld64 x.w1 6 2 + 4 * r.1) (natLe 4 (r.2 % m)))
  else s.onCore c fun k =>
    let cells := res.map fun r => (vdOf x.w0 * 2048 + r.1, BitVec.ofNat 32 (r.2 % m))
    { k with v := Sparse.setAll (always 0) k.v cells }

/-- Set predicate bits. -/
def Dev.pdst (s : Dev) (c n : Nat) (res : List (Nat × Bool)) : Dev :=
  s.onCore c fun k => { k with p := Sparse.setAll (always false) k.p (res.map fun r => (n * 2048 + r.1, r.2)) }

/-- Write bits `l` (element, value) of a packed mask at `addr`; the other bits of the bytes keep their values (R121). -/
def Dev.maskWrite (s : Dev) (c addr n : Nat) (f : Nat → Bool) : Dev :=
  let k := s.core c
  s.lsWrite c ((List.range (ceilDiv n 8)).map fun i =>
    (addr + i, BitVec.ofNat 8 ((List.range 8).foldl (fun v j =>
      v + 2 ^ j * b2n (if 8 * i + j < n then f (8 * i + j) else k.maskBit addr (8 * i + j))) 0)))

/-- The source slots that an opcode reads in tile-buffer form. -/
def tbSlots (w0 : W64) : List Nat :=
  let op := vop w0
  let l := if op = 0x61 ∨ op = 0x62 then [] else
    if op = 0x53 then [0, 1, 2] else
    if (decide (0x50 ≤ op) && decide (op ≤ 0x55)) || (decide (0x58 ≤ op) && decide (op ≤ 0x5D)) then [0, 1] else [0]
  l.filter fun i => !(i == 1 && bscOf w0)

/-- The local-store ranges that the tile-buffer form reads: its tiles and its mask. -/
def tbRanges (k : Core) (x : QEnt) : List (Nat × Nat) :=
  if !tbOf x.w0 then [] else
  let n := vcount x.w0 x.w1
  let m := if fld64 x.w1 22 1 = 1 then [(maskAddr x.w1, ceilDiv n 8)] else []
  m ++ (tbSlots x.w0).map fun i => (k.tb + 65536 * fld64 x.w1 (2 * i) 2, 4 * n)

/-! ### Vector status (R127) -/

/-- Saturations and non-finite blocks of an instruction on the vector engine (R127, R181). -/
def Dev.vnote (s : Dev) (c sats nfs : Nat) : Dev :=
  let s := s.onCore c fun k =>
    let v := putBits k.vstat 32 32 (satAdd (2 ^ 32 - 1) (fld64 k.vstat 32 32) sats)
    { k with vstat := if nfs = 0 then v else putBits v 1 1 1 }
  let s := if nfs = 0 then s else s.nonFinite (s.isBrz c)
  (s.count (engBlk c 4) 12 sats).count (engBlk c 4) 13 nfs

/-- Saturations of an instruction that R127 does not list count in the counter of R513 alone (log entry 100). -/
def Dev.vsat (s : Dev) (c sats : Nat) : Dev := s.count (engBlk c 4) 12 sats

/-- A BI16 element as the device writes it: never 0x8000 (R39). -/
def bi16Clean (x : Nat) : Nat := if x % 65536 = 0x8000 then x + 1 else x

/-- Set a sticky bit of the status word. -/
def Dev.vstick (s : Dev) (c i : Nat) : Dev := s.onCore c fun k => { k with vstat := putBits k.vstat i 1 1 }

/-! ### Random values (R51, R112) -/

/-- The job's per-tensor value (R51, R52). -/
def Dev.tensor (s : Dev) (id : W64) : W64 := tensorHash s.job.seed s.step (id.toNat % 2 ^ 32)

/-- The random value of element `e` under SR: tensor id s[sc+1], index s[sc+2] + e. -/
def Dev.vrand (s : Dev) (x : QEnt) : Nat → Nat :=
  if vdraws x.w0 then
    let h := s.tensor (wordAt x.lat 1)
    let base := wordAt x.lat 2
    fun e => randAt h (base + BitVec.ofNat 64 e).toNat
  else fun _ => 0

/-! ### Element arithmetic (R30 to R34, R108, R111) -/

/-- A container as a value of type `ty`, BI16 apart. -/
def tyVal (ty x : Nat) : XVal :=
  if isInt ty then XVal.ofInt (signed (elemBits ty) x) else (fmtOf ty).decode (x % 2 ^ elemBits ty)

/-- The exact result of an arithmetic opcode on values. -/
def xOp (op : Nat) (a b c : XVal) : XVal :=
  match op with
  | 0x50 => a.add b
  | 0x51 => a.sub b
  | 0x52 => a.mul b
  | 0x53 => (a.mul b).add c
  | 0x54 => a.max b
  | _ => a.min b

/-- The exact result on integers. -/
def iOp (op : Nat) (a b c : Int) : Int :=
  match op with
  | 0x50 => a + b
  | 0x51 => a - b
  | 0x52 => a * b
  | 0x53 => a * b + c
  | 0x54 => max a b
  | _ => min a b

/-- VADD to VMIN on one element. -/
def arithElem (op ty rnd : Nat) (sat : Bool) (r a b c : Nat) : Nat :=
  let n := elemBits ty
  if isInt ty then wrap n (fitInt n sat (iOp op (signed n a) (signed n b) (signed n c)))
  else (fmtOf ty).encode rnd sat r (xOp op (tyVal ty a) (tyVal ty b) (tyVal ty c))

/-- VABS and VNEG on one element. -/
def signElem (op ty : Nat) (sat : Bool) (a : Nat) : Nat :=
  let n := elemBits ty
  if isInt ty then
    let z := signed n a
    wrap n (fitInt n sat (if op = 0x56 then z.natAbs else -z))
  else
    let f := fmtOf ty
    if f.decode (a % 2 ^ n) = .nan then f.nanBits
    else
      let low := a % 2 ^ (n - 1)
      if op = 0x56 then low else low + f.signBits (!bit a (n - 1))

/-- VAND, VOR, VXOR, VSHL and VSHR on one element. -/
def bitElem (op ty a b : Nat) : Nat :=
  let n := elemBits ty
  match op with
  | 0x58 => Nat.land a b % 2 ^ n
  | 0x59 => Nat.lor a b % 2 ^ n
  | 0x5A => Nat.xor a b % 2 ^ n
  | 0x5B => a * 2 ^ (b % 32) % 2 ^ n
  | _ => wrap n (signed n a / (2 ^ (b % 32) : Nat))

/-- VCMP's condition (R108). -/
def cmpElem (cond ty a b : Nat) : Bool :=
  let n := elemBits ty
  if isInt ty then
    let x := signed n a; let y := signed n b
    match cond with
    | 0 => x == y
    | 1 => x != y
    | 2 => decide (x < y)
    | 3 => decide (x ≤ y)
    | 4 => decide (y < x)
    | 5 => decide (y ≤ x)
    | 6 => decide (a % 2 ^ n < b % 2 ^ n)
    | _ => false
  else
    let x := tyVal ty a; let y := tyVal ty b
    if x = .nan ∨ y = .nan then cond == 1 || cond == 7
    else
      let lt (x y : XVal) : Bool := x.lt y && !x.eqv y
      match cond with
      | 0 => x.eqv y
      | 1 => !x.eqv y
      | 2 => lt x y
      | 3 => lt x y || x.eqv y
      | 4 => lt y x
      | 5 => lt y x || x.eqv y
      | _ => false

/-! ### Conversion (R34, R43 to R47, R112) -/

/-- Convert one value from type `src` to type `dst`, BI16 apart: integers to FP32 or BF16 round to nearest even (R34). -/
def convElem (src dst rnd : Nat) (sat : Bool) (r : Nat) (x : XVal) : Nat :=
  if isInt dst then wrap (elemBits dst) (x.toInt (elemBits dst) rnd r)
  else
    let m := if isInt src ∧ (dst = 0xA ∨ dst = 0x4) then 0 else rnd
    -- BI16 into FP32 is exact, or ±Infinity above the range (R47)
    if src = 0xC ∧ dst = 0xA then rne32 x else (fmtOf dst).encode m sat r x

/-- Convert the elements of one block into BI16 at a planned code (R45, R46): containers, saturations, whether the block is
non-finite. -/
def toBi16Block (code rnd : Nat) (xs : List (Nat × XVal)) (r : Nat → Nat) : List (Nat × Nat) × Nat × Bool :=
  if code = 0xFF ∨ !(xs.all fun x => x.2.finite) then (xs.map fun x => (x.1, 0xFF0000), 0, true)
  else
    let q := xs.map fun x => (x.1, toBi16 code rnd (r x.1) x.2)
    (q.map fun y => (y.1, wrap 16 y.2.1 + code * 65536), (q.filter fun y => y.2.2).length, false)

/-- The elements of block `b`. -/
def inBlock {α : Type} (b : Nat) (xs : List (Nat × α)) : List (Nat × α) := xs.filter fun x => x.1 / 32 == b

/-- The blocks that hold an element of the list. -/
def blocksOf {α : Type} (xs : List (Nat × α)) : List Nat := xs.foldl (fun l x => setAdd l (x.1 / 32)) []

/-- Convert a list of elements into BI16, block by block: containers, saturations, non-finite blocks. -/
def toBi16All (code rnd : Nat) (xs : List (Nat × XVal)) (r : Nat → Nat) : List (Nat × Nat) × Nat × Nat :=
  (blocksOf xs).foldl (fun acc b =>
    let (l, n, f) := toBi16Block code rnd (inBlock b xs) r
    (acc.1 ++ l, acc.2.1 + n, acc.2.2 + b2n f)) ([], 0, 0)

/-- Convert elements given as values from type `src` to containers of type `dst`. -/
def convAll (src dst rnd : Nat) (sat : Bool) (code : Nat) (xs : List (Nat × XVal)) (r : Nat → Nat) :
    List (Nat × Nat) × Nat × Nat :=
  if dst = 0xC then toBi16All code rnd xs r
  else (xs.map fun x => (x.1, convElem src dst rnd sat (r x.1) x.2), 0, 0)

/-! ### The coded lines of an instruction (R132) and what depends on what (R128) -/

/-- The vector registers that an instruction reads. -/
def vReads (w0 : W64) : List Nat :=
  let op := vop w0
  let ab := if bscOf w0 then [vaOf w0] else [vaOf w0, vbOf w0]
  if tbOf w0 then []
  else if op = 0x53 then ab ++ [vcOf w0]
  else if op = 0x56 ∨ op = 0x57 ∨ op = 0x5F ∨ op = 0x60 ∨ op = 0x64 ∨ op = 0x69 ∨ op = 0x6A then [vaOf w0]
  else if 0x50 ≤ op ∧ op ≤ 0x5E then ab
  else []

/-- The predicate registers that an instruction reads. -/
def pReads (w0 : W64) : List Nat :=
  let op := vop w0
  if op = 0x6C ∨ op = 0x6D ∨ op = 0x6E then [fld64 w0 13 3, fld64 w0 18 3]
  else if op = 0x65 then [fld64 w0 13 3]
  else if op = 0x5E then [fld64 w0 23 3]
  else if 0x65 ≤ op ∧ op ≠ 0x68 ∧ op ≠ 0x69 ∧ op ≠ 0x6A then []
  else if pgOf w0 < 8 then [pgOf w0] else []

/-- Whether an opcode writes vector register vd. -/
def writesVd (op : Nat) : Bool := (decide (0x50 ≤ op) && decide (op ≤ 0x63) && op != 0x5D) || op == 0x68
/-- Whether an opcode writes predicate register pd. -/
def writesPd (op : Nat) : Bool := op == 0x5D || op == 0x66 || op == 0x6C || op == 0x6D || op == 0x6E

/-- Coded line `y` holds elements that the instruction reads, or is written in part (R132). -/
def vLine (w0 w1 : W64) (y : Nat) : Bool :=
  let n := vcount w0 w1
  let r := (y - 8192) / 128; let l := y % 128
  let p := (y - 12288) / 4; let q := y % 4
  if y < 8192 then false
  else if y < 12288 then
    decide (16 * l < n) && ((vReads w0).contains r ||
      (writesVd (vop w0) && !tbOf w0 && vdOf w0 == r && !(pgOf w0 == 8 && decide (16 * l + 16 ≤ n))))
  else
    decide (512 * q < n) && ((pReads w0).contains p ||
      (writesPd (vop w0) && !tbOf w0 && fld64 w0 8 3 == p && !(pgOf w0 == 8 && decide (512 * q + 512 ≤ n))))

/-- Coded line `y` is written whole. -/
def vFull (w0 w1 : W64) (y : Nat) : Bool :=
  let n := vcount w0 w1
  pgOf w0 == 8 && !tbOf w0 &&
  if y < 12288 then decide (8192 ≤ y) && writesVd (vop w0) && vdOf w0 == (y - 8192) / 128 && decide (16 * (y % 128) + 16 ≤ n)
  else writesPd (vop w0) && fld64 w0 8 3 == (y - 12288) / 4 && decide (512 * (y % 4) + 512 ≤ n)

/-- The coded lines of an instruction's operands can be read; lines it writes whole are clean behind it. -/
def Dev.vCheck (s : Dev) (c : Nat) (w0 w1 : W64) : Dev × Bool :=
  match s.lineCheck c (vLine w0 w1) with
  | (s, true) => (s.onCore c (·.cleanLines (vFull w0 w1)), true)
  | r => r

/-! ### The vector queue (R128, R135) -/

/-- The scalars a vector instruction reads as it issues: from sc on. -/
def vlatch (k : Core) (w0 w1 : W64) : List W64 := (List.range (scRegs w0 w1)).map fun i => k.sreg (scOf w0 + i)

/-- The numbers of those registers. -/
def vregs (w0 w1 : W64) : List Nat := (List.range (scRegs w0 w1)).map fun i => scOf w0 + i

/-- Cycles of a vector instruction (R128), VLD and VST apart. -/
def vcost (w0 w1 : W64) : Nat :=
  let op := vop w0
  let n := vcount w0 w1
  let g := ceilDiv n 128
  let wide := tyOf w0 == 0xA || tyOf w0 == 0xB || (op == 0x5F && (fld64 w0 18 4 == 0xA || fld64 w0 18 4 == 0xB)) ||
    op == 0x62 || op == 0x63
  let base :=
    if op = 0x60 then (if fld64 w0 18 3 < 4 then g else 2 * g)
    else if op = 0x64 then g + 8
    else if op = 0x6A then 8 * g + 2 * (n / (fld64 w1 32 8 + 1))
    else if 0x65 ≤ op then 1
    else if wide then g else ceilDiv n 256
  if tbOf w0 then 2 * base else base

/-- Cycles of a VLD or VST that touches the given byte addresses: one for each set of lines in distinct banks. -/
def memCost (lines : List Nat) : Nat :=
  (List.range 16).foldl (fun m b => Nat.max m (lines.filter fun l => l % 16 == b).length) 1

/-- An instruction that its vector engine cannot run is stopped at (R133): the segment stops there. -/
def Dev.illegalAt (s : Dev) (c pc : Nat) : Dev := (s.detect (coreSrc c 0) 0x10 2 pc).stopSegment c

/-- An instruction has an active element, or is one of those without elements, which write something (R519). -/
def vecActs (k : Core) (x : QEnt) : Bool :=
  let op := vop x.w0
  if op = 0x68 ∨ op = 0x69 ∨ op = 0x6A then (k.actives x.w0 0) != []
  else decide (0x65 ≤ op) || k.actives x.w0 x.w1 != []

/-- A vector instruction enters its queue (R135), of 8 entries. -/
def Dev.vpush (s : Dev) (c : Nat) (w0 w1 : W64) (lat : List W64) : Dev :=
  s.onCore c fun k => { k with vq := k.vq ++ [⟨w0, w1, lat, k.seq, k.pc, s.cycle c⟩], seq := k.seq + 1 }

/-- Count active and inactive elements, and tile-buffer instructions (R513). -/
def Dev.vtally (s : Dev) (c : Nat) (x : QEnt) (act : List Nat) : Dev :=
  let s := (s.count (engBlk c 4) 5 act.length).count (engBlk c 4) 6 (vcount x.w0 x.w1 - act.length)
  s.count (engBlk c 4) 9 (b2n (tbOf x.w0))

/-! ### Memory operands of VLD, VST and VTOPK (R113, R123) -/

/-- The memory type. -/
def mtOf (w1 : W64) : Nat := fld64 w1 32 4
/-- Bytes of an element in memory. -/
def mtBytes (mt : Nat) : Nat := elemBits mt / 8
/-- The address of element `e`. -/
def memAddr (w1 : W64) (e : Nat) : Nat := fld64 w1 0 20 + e * fld64 w1 20 12 * mtBytes (mtOf w1)
/-- The address of block `b`'s scale code. -/
def memScl (w1 : W64) (b : Nat) : Nat := 16 * fld64 w1 36 16 + b

/-- The ranges an access touches: active elements, and the codes of their blocks for BI16. -/
def memRanges (w1 : W64) (act : List Nat) : List (Nat × Nat) :=
  (act.map fun e => (memAddr w1 e, mtBytes (mtOf w1))) ++
  (if mtOf w1 = 0xC then (act.foldl (fun l e => setAdd l (e / 32)) []).map fun b => (memScl w1 b, 1) else [])

/-- Experts per token. -/
def topE (w1 : W64) : Nat := fld64 w1 32 8 + 1
/-- Choices per token. -/
def topK (w1 : W64) : Nat := fld64 w1 40 3 + 1
/-- Selection records. -/
def topSel (w1 : W64) : Nat := 16 * fld64 w1 0 16
/-- Routing table. -/
def topRt (w1 : W64) : Nat := 16 * fld64 w1 16 16

/-! ### An instruction that a core fault interrupts (R132) -/

/-- The `i`-th number of `n` bytes of free value `k`. -/
def freeNat (k i n : Nat) : Nat := leNat ((List.range n).map fun j => Config.freeByte k (n * i + j))

/-- The ranges of the local store that a vector instruction may write. -/
def vPlaces (k : Core) (x : QEnt) : List (Nat × Nat) :=
  let op := vop x.w0
  let n := vcount x.w0 x.w1
  match op with
  | 0x65 => [(fld64 x.w1 0 20, ceilDiv (vcount x.w0 0) 8)]
  | 0x69 => memRanges x.w1 (k.actives x.w0 0)
  | 0x6A =>
    let toks := vcount x.w0 0 / topE x.w1
    let entries (e : Nat) : List (Nat × Nat) :=
      let rt := topRt x.w1 + 16 * e
      let cnt := k.lsNat (rt + 8) 2
      (List.range (Nat.min toks (k.lsNat (rt + 4) 2 - cnt))).map fun i => ((k.lsNat rt 4 + 8 * (cnt + i)) % lsSize, 8)
    [(topSel x.w1, 64 * toks), (topRt x.w1, 16 * topE x.w1)] ++ (List.range (topE x.w1)).flatMap entries
  | 0x64 | 0x41 => []
  | 0x5D => if tbOf x.w0 then [(maskAddr x.w1, ceilDiv n 8)] else []
  | _ => if tbOf x.w0 then (k.actives x.w0 x.w1).map fun e => (k.tb + 65536 * fld64 x.w1 6 2 + 4 * e, 4) else []

/-- The destination registers of an interrupted instruction, and what it writes in the local store, are undefined: free values (R132). -/
def Dev.vUndefAt (s : Dev) (c : Nat) (x : QEnt) (puts : List (Nat × Nat)) : Dev :=
  let (n, s) := s.fresh
  let op := vop x.w0
  let l := ((puts.flatMap fun r => (List.range r.2).map fun i => (r.1 + i) % lsSize)).eraseDups
  let cells := l.zipIdx.map fun p => (swz p.1, Config.freeByte n p.2)
  s.onCore c fun k =>
    let k := if cells.isEmpty then k else { k with ls := k.ls.writeCells 64 cells }
    if op = 0x64 ∨ op = 0x6B then k.setS (vdOf x.w0) (BitVec.ofNat 64 (freeNat n 0 8))
    else if writesPd op && !tbOf x.w0 then
      { k with p := Sparse.setAll (always false) k.p ((List.range 2048).map fun e =>
          (fld64 x.w0 8 3 * 2048 + e, (Config.freeByte n e).getLsbD 0)) }
    else if writesVd op && !tbOf x.w0 then
      { k with v := Sparse.setAll (always 0) k.v ((List.range 2048).map fun e =>
          (vdOf x.w0 * 2048 + e, BitVec.ofNat 32 (freeNat n e 4))) }
    else k

/-- The same of an instruction that has not begun to write. -/
def Dev.vUndef (s : Dev) (c : Nat) (x : QEnt) : Dev := s.vUndefAt c x (vPlaces (s.core c) x)

/-! ### Producers (R128) -/

/-- The numbers of the 16-byte lines of some ranges, as products and operands: from 4,096. -/
def lineKeys (l : List (Nat × Nat)) : List Nat :=
  l.foldl (fun ks r => (List.range (ceilDiv (r.1 % 16 + r.2) 16)).foldl (fun ks i => setAdd ks (4096 + r.1 / 16 + i)) ks) []

/-- What an instruction makes, and what it uses, as numbers: vector registers, predicates from 32, tile buffers from 64, scalar registers from 96, lines of
the local store (masks, loads and stores, routing tables) from 4,096. An MDRAIN is none of them. -/
def vMakes (k : Core) (x : QEnt) : List Nat :=
  let op := vop x.w0
  if op = 0x41 then [] else
  (if op = 0x64 ∨ op = 0x6B then [96 + vdOf x.w0] else []) ++
  (if tbOf x.w0 then (if op = 0x5D then lineKeys (vPlaces k x) else if op = 0x64 then [] else [64 + fld64 x.w1 6 2])
   else (if writesVd op then [vdOf x.w0] else []) ++ (if writesPd op then [32 + fld64 x.w0 8 3] else []) ++
     (if op = 0x65 ∨ op = 0x69 ∨ op = 0x6A then lineKeys (vPlaces k x) else []))

/-- See `vMakes`. -/
def vUses (k : Core) (x : QEnt) : List Nat :=
  let op := vop x.w0
  if op = 0x41 then [] else
  (vregs x.w0 x.w1).map (96 + ·) ++
  (if tbOf x.w0 then ((tbSlots x.w0).map fun i => 64 + fld64 x.w1 (2 * i) 2) ++
     (if fld64 x.w1 22 1 = 1 then lineKeys [(maskAddr x.w1, ceilDiv (vcount x.w0 x.w1) 8)] else [])
   else vReads x.w0 ++ (pReads x.w0).map (32 + ·) ++
     (if op = 0x66 then lineKeys [(fld64 x.w1 0 20, ceilDiv (vcount x.w0 0) 8)]
      else if op = 0x68 then lineKeys (memRanges x.w1 (k.actives x.w0 0))
      else if op = 0x6A then lineKeys [(topRt x.w1, 16 * topE x.w1)] else []))

/-- A vector instruction waits for its producers: 6 cycles from the last group of each (R128). -/
def Dev.vecHeld (s : Dev) (c : Nat) (x : QEnt) : Bool :=
  let k := s.core c
  let late := (k.vdone.filter fun d => decide (s.cycle c < d.2 + 6)).map (·.1)
  !late.isEmpty && late.any (vUses k x).contains

/-- The vector engine takes the head of its queue, which begins in `wait` cycles, and runs `body` on it; the engine is busy for its cost (R128,
R130). -/
def Dev.vstart (s : Dev) (c wait cost : Nat) (bank : Option Nat) (acts : Core → QEnt → Bool) (body : QEnt → Dev → Dev) : Dev :=
  match (s.core c).vq with
  | [] => s
  | x :: q =>
    let t := s.cycle c + wait
    let s := s.onCore c fun k =>
      { k with vq := q, vrun := some ⟨x, t, t + cost, x.dst, bank, false, acts k x, vPlaces k x⟩,
               vdone := Sparse.setAll (always 0) (k.vdone.filter fun d => decide (s.cycle c < d.2 + 6)) ((vMakes k x).map fun n => (n, t + cost)) }
    body x (s.count (engBlk c 4) 4 1)

/-- The issue of a vector instruction: legal forms enter the queue with their scalars latched and, on an idle engine with an
empty queue, start at once. `fit` is what R133 asks of the values of its registers, judged once they are ready (R135). -/
def vecIssue (c op : Nat) (w0 w1 : W64) (legal fit : Dev → Bool) (cost : Dev → Nat) (body : QEnt → Dev → Dev) (s : Dev) : Dev :=
  s.issue c op w0 (fun s => vecLegal op w0 w1 && legal s) fun s =>
    let k := s.core c
    let x : QEnt := ⟨w0, w1, [], 0, 0, 0⟩
    if !s.regsFree c (vregs w0 w1 ++ x.dst.toList) || decide (8 ≤ k.vq.length) then s
    else if !fit s then s.illegal c else
    let s := (s.countIssue c 2).vpush c w0 w1 (vlatch k w0 w1)
    let s := if k.vq.isEmpty && !s.vecBusy c && !s.vecHeld c x then s.vstart c 0 (cost s) none vecActs body else s
    s.advance c (instrLen w0)

/-- Run a body over the active elements once the tile-buffer operands can be read. -/
def vecBody (c : Nat) (f : Core → List Nat → QEnt → Dev → Dev) (x : QEnt) (s : Dev) : Dev :=
  match s.lsCheck c (tbRanges (s.core c) x) with
  | (s, false) => s.vUndef c x
  | (s, true) =>
    match s.vCheck c x.w0 x.w1 with
    | (s, false) => s.vUndef c x
    | (s, true) =>
    let k := s.core c
    let act := k.actives x.w0 x.w1
    f k act x (s.vtally c x act)

end Sys2Proof.Machine
end

