-- ==== Sys2Proof/Machine/Vector.lean ====
section
/-! DEFINITION. The vector instructions (R108 to R127, R131). -/

namespace Sys2Proof.Machine

/-- No check beside R133's. -/
def vAny (_ : Dev) : Bool := true

/-- The cost of R128 as a function of the device. -/
def vCostOf (w0 w1 : W64) (_ : Dev) : Nat := vcost w0 w1

/-! ### Element-wise arithmetic -/

/-- A block sum (R48): of the active elements `act` of block `b` the containers and the saturations, and whether the block is non-finite; a
block with no active element is not formed. VSUB reads and negates b first, so an active 0x8000 of b counts even where the sum is
non-finite; no other one counts then (DEDUCED, log entry 100; R39, R111). -/
def bi16Sum (k : Core) (x : QEnt) (sub : Bool) (act : List Nat) (b : Nat) : List (Nat × Nat) × Nat × Nat :=
  let src (slot e : Nat) : Nat := k.vsrc x slot e
  let ca := bits (src 0 (32 * b)) 16 8
  let cb := bits (src 1 (32 * b)) 16 8
  let es := act.filter fun e => e / 32 == b
  if es.isEmpty then ([], 0, 0)
  else if ca = 0xFF ∨ cb = 0xFF ∨ ca ≠ cb then
    (es.map fun e => (e, 0xFF0000), if sub then (es.filter fun e => (bi16Int (src 1 e)).2).length else 0, 1)
  else
    es.foldl (fun acc e =>
      let (p, m1) := bi16Int (src 0 e)
      let (q, m2) := bi16Int (src 1 e)
      let z := if sub then p - q else p + q
      let past := decide (32767 < z.natAbs)
      let z' : Int := if past then (if z < 0 then -32767 else 32767) else z
      (acc.1 ++ [(e, wrap 16 z' + ca * 65536)], acc.2.1 + b2n m1 + b2n m2 + b2n past, acc.2.2)) ([], 0, 0)

/-- VADD to VMIN (R108, R111). -/
def arithBody (c : Nat) : QEnt → Dev → Dev :=
  vecBody c fun k act x s =>
    let op := vop x.w0
    let ty := tyOf x.w0
    if ty = 0xC then
      let r := (List.range (vcount x.w0 x.w1 / 32)).map (bi16Sum k x (op == 0x51) act)
      let s := s.vdst c x ty (r.flatMap fun y => y.1)
      s.vnote c (r.foldl (fun n y => n + y.2.1) 0) (r.foldl (fun n y => n + y.2.2) 0)
    else
      let rand := s.vrand x
      s.vdst c x ty (act.map fun e =>
        (e, arithElem op ty (rndOf x.w0) (satOf x.w0) (rand e) (k.vsrc x 0 e) (k.vsrc x 1 e)
          (if op = 0x53 then k.vsrc x 2 e else 0)))

/-- VABS and VNEG. -/
def signBody (c : Nat) : QEnt → Dev → Dev :=
  vecBody c fun k act x s =>
    s.vdst c x (tyOf x.w0) (act.map fun e => (e, signElem (vop x.w0) (tyOf x.w0) (satOf x.w0) (k.vsrc x 0 e)))

/-- VAND to VSHR. -/
def bitBody (c : Nat) : QEnt → Dev → Dev :=
  vecBody c fun k act x s =>
    s.vdst c x (tyOf x.w0) (act.map fun e => (e, bitElem (vop x.w0) (tyOf x.w0) (k.vsrc x 0 e) (k.vsrc x 1 e)))

/-- VCMP: into a predicate, or in tile-buffer form into a packed mask (R118). -/
def cmpBody (c : Nat) : QEnt → Dev → Dev :=
  vecBody c fun k act x s =>
    let f (e : Nat) : Bool := cmpElem (fld64 x.w0 23 3) (tyOf x.w0) (k.vsrc x 0 e) (k.vsrc x 1 e)
    if tbOf x.w0 then s.maskWrite c (maskAddr x.w1) (vcount x.w0 x.w1) f
    else s.pdst c (fld64 x.w0 8 3) (act.map fun e => (e, f e))

/-- The elements of a list that hold 0x8000 in BI16, which counts as a saturation where it is read (R39). -/
def bi16Marks (xs : List Nat) : Nat := (xs.filter fun v => v % 65536 == 0x8000).length

/-- VSEL. A BI16 element comes with the code of its block (R104), and 0x8000 as −32,767 (R39). -/
def selBody (c : Nat) : QEnt → Dev → Dev :=
  vecBody c fun k act x s =>
    let slot (e : Nat) : Nat := if k.pbit (fld64 x.w0 23 3) e then 0 else 1
    let src (e : Nat) : Nat := k.vsrc x (slot e) e
    if tyOf x.w0 = 0xC then
      let code (e : Nat) : Nat := bits (k.vsrc x (slot e) (e / 32 * 32)) 16 8
      (s.vdst c x 0xC (act.map fun e => (e, bi16Clean (src e % 65536) + code e * 65536))).vsat c (bi16Marks (act.map src))
    else s.vdst c x (tyOf x.w0) (act.map fun e => (e, src e))

/-- The value of source element `e` of type `ty`: a BI16 element takes its block's code (R104). -/
def srcVal (k : Core) (x : QEnt) (e : Nat) : XVal :=
  let ty := tyOf x.w0
  if ty = 0xC then bi16Val (k.vsrc x 0 e) (bits (k.vsrc x 0 (e / 32 * 32)) 16 8) else tyVal ty (k.vsrc x 0 e)

/-- VCVT (R112). -/
def cvtBody (c : Nat) : QEnt → Dev → Dev :=
  vecBody c fun k act x s =>
    let dst := fld64 x.w0 18 4
    let code := (wordAt x.lat 0).toNat % 256
    let marks := if tyOf x.w0 = 0xC then bi16Marks (act.map (k.vsrc x 0)) else 0
    let (res, sats, nfs) := convAll (tyOf x.w0) dst (rndOf x.w0) (satOf x.w0) code (act.map fun e => (e, srcVal k x e)) (s.vrand x)
    (s.vdst c x dst res).vnote c (sats + marks) nfs

/-- VSFU (R119): evaluated in FP32, then rounded once to ty. -/
def sfuBody (c : Nat) : QEnt → Dev → Dev :=
  vecBody c fun k act x s =>
    let ty := tyOf x.w0
    let rand := s.vrand x
    let lvl := s.featLevel
    let f (e : Nat) : Nat :=
      let y := sfu lvl (fld64 x.w0 18 3) (rne32 (tyVal ty (k.vsrc x 0 e)))
      if ty = 0xA then y else (fmtOf ty).encode (rndOf x.w0) (satOf x.w0) (rand e) (f32 y)
    (s.vdst c x ty (act.map fun e => (e, f e))).count (engBlk c 4) 8 act.length

/-- VBCAST; a BI16 element 0x8000 is written as −32,767 (R39). -/
def bcastBody (c : Nat) : QEnt → Dev → Dev :=
  vecBody c fun _ act x s =>
    let v := (wordAt x.lat 0).toNat % 2 ^ 32
    if tyOf x.w0 = 0xC then (s.vdst c x 0xC (act.map fun e => (e, bi16Clean v))).vsat c (bi16Marks (act.map fun _ => v))
    else s.vdst c x (tyOf x.w0) (act.map fun e => (e, v))

/-- VIOTA. -/
def iotaBody (c : Nat) : QEnt → Dev → Dev :=
  vecBody c fun _ act x s => s.vdst c x 0xB (act.map fun e => (e, ((wordAt x.lat 0).toNat + e) % 2 ^ 32))

/-- VRNG (R122). -/
def rngBody (c : Nat) : QEnt → Dev → Dev :=
  vecBody c fun _ act x s =>
    let h := s.tensor (wordAt x.lat 0)
    s.vdst c x 0xB (act.map fun e => (e, randAt h (wordAt x.lat 1 + BitVec.ofNat 64 e).toNat))

/-! ### Reduction (R114 to R116) -/

/-- A node of the reduction tree: absent or a value. -/
def joinNode {α : Type} (f : α → α → α) : Option α → Option α → Option α
  | none, y => y
  | x, none => x
  | some x, some y => some (f x y)

/-- One level: adjacent nodes joined. -/
def joinLevel {α : Type} (f : α → α → α) : List (Option α) → List (Option α)
  | x :: y :: l => joinNode f x y :: joinLevel f l
  | l => l

/-- `n` levels. -/
def joinLevels {α : Type} (f : α → α → α) : Nat → List (Option α) → List (Option α)
  | 0, l => l
  | n + 1, l => joinLevels f n (joinLevel f l)

/-- The fixed order of R115: each lane over its groups, then seven levels over the lanes. -/
def reduceFixed {α : Type} (f : α → α → α) (act : List Nat) (v : Nat → α) : Option α :=
  let lanes := (List.range 128).map fun l =>
    (act.filter fun e => e % 128 == l).foldl (fun n e => joinNode f n (some (v e))) none
  ((joinLevels f 7 lanes).headD none)

/-- ARGMAX and ARGMIN: the better of two elements (index, container); the lower index on a tie (R115). -/
def argBest (ty : Nat) (mx : Bool) (a b : Nat × Nat) : Nat × Nat :=
  let beats (p q : Nat) : Bool :=
    if isInt ty then
      let x := signed (elemBits ty) p; let y := signed (elemBits ty) q
      if mx then decide (y < x) else decide (x < y)
    else
      let x := tyVal ty p; let y := tyVal ty q
      if x = .nan then y != .nan else if y = .nan then false else if mx then y.lt x else x.lt y
  if beats a.2 b.2 then a else if beats b.2 a.2 then b else if a.1 ≤ b.1 then a else b

/-- The identity written when no element is active (R116). -/
def redIdentity (op ty : Nat) : Nat :=
  let n := elemBits ty
  let ext (mx : Bool) : Nat :=
    if isInt ty then (if mx then 2 ^ (n - 1) else 2 ^ (n - 1) - 1) else (fmtOf ty).infBits mx
  match op with
  | 0 => 0
  | 1 => if isInt ty then 1 else 0x3F800000
  | 2 => ext true
  | 3 => ext false
  | 4 => 0xFFFFFFFF + 2 ^ 32 * ext true
  | 5 => 0xFFFFFFFF + 2 ^ 32 * ext false
  | 6 => 0xFFFFFFFF
  | _ => 0

/-- The reduction of the active elements, none when there is none; the bits of a container that the type does not use are
ignored (R103). The value half of ARGMAX and ARGMIN is the element's own container, a NaN as it stands (DESIGN CHOICE; log entry 105). -/
def redValue (op ty : Nat) (act : List Nat) (src : Nat → Nat) : Option Nat :=
  let n := elemBits ty
  let v (e : Nat) : Nat := src e % 2 ^ n
  match op with
  | 0 => if isInt ty then (reduceFixed (· + ·) act fun e => signed n (v e)).map (wrap 64)
         else reduceFixed (fun a b => rne32 ((f32 a).add (f32 b))) act fun e => rne32 (tyVal ty (v e))
  | 1 => if isInt ty then (reduceFixed (fun a b => ((wrap 64 (a * b) : Nat) : Int)) act fun e => signed n (v e)).map (wrap 64)
         else reduceFixed (fun a b => rne32 ((f32 a).mul (f32 b))) act fun e => rne32 (tyVal ty (v e))
  | 2 | 3 =>
    if isInt ty then (reduceFixed (fun a b => if op = 2 then max a b else min a b) act fun e => signed n (v e)).map (wrap n)
    else (reduceFixed (fun (a b : XVal) => if op = 2 then a.max b else a.min b) act fun e => tyVal ty (v e)).map
      ((fmtOf ty).encode 0 false 0)
  | 4 | 5 => (reduceFixed (argBest ty (op == 4)) act fun e => (e, v e)).map fun r => r.1 + 2 ^ 32 * r.2
  | 6 => reduceFixed Nat.land act v
  | _ => reduceFixed Nat.lor act v

/-- VRED. -/
def redBody (c : Nat) : QEnt → Dev → Dev :=
  vecBody c fun k act x s =>
    let op := fld64 x.w0 23 3
    let r := redValue op (tyOf x.w0) act (k.vsrc x 0)
    let v := r.getD (redIdentity op (tyOf x.w0))
    (s.onCore c fun k => { k.setS (vdOf x.w0) (BitVec.ofNat 64 v) with vstat := putBits k.vstat 0 1 (b2n r.isNone) }).count
      (engBlk c 4) 7 (b2n r.isNone)

/-- AND and OR take integer types alone (R116). -/
def redLegal (w0 : W64) (_ : Dev) : Bool := decide (fld64 w0 23 3 < 6) || isInt (tyOf w0)

/-! ### Packed masks and predicates (R121, R108) -/

/-- VPACK. -/
def packBody (c : Nat) : QEnt → Dev → Dev :=
  vecBody c fun k _ x s => s.maskWrite c (fld64 x.w1 0 20) (vcount x.w0 0) fun e => k.pbit (fld64 x.w0 13 3) e

/-- VUNPACK. -/
def unpackBody (c : Nat) (x : QEnt) (s : Dev) : Dev :=
  let a := fld64 x.w1 0 20
  let n := vcount x.w0 0
  match s.lsCheck c [(a, ceilDiv n 8)] with
  | (s, false) => s.vUndef c x
  | (s, true) =>
    match s.vCheck c x.w0 0 with
    | (s, false) => s.vUndef c x
    | (s, true) =>
    let k := s.core c
    s.pdst c (fld64 x.w0 8 3) ((List.range n).map fun e => (e, k.maskBit a e))

/-- VPACK and VUNPACK: pg is 8, word 1 has an address alone, the mask fits (R121, R133). -/
def packLegal (w0 w1 : W64) (_ : Dev) : Bool :=
  pgOf w0 == 8 && onlyBits w1 0xFFFFF && decide (fld64 w1 0 20 + ceilDiv (vcount w0 0) 8 ≤ lsSize)

/-- PAND, POR and PXOR. -/
def predBody (c : Nat) (f : Bool → Bool → Bool) : QEnt → Dev → Dev :=
  vecBody c fun k act x s =>
    s.pdst c (fld64 x.w0 8 3) (act.map fun e => (e, f (k.pbit (fld64 x.w0 13 3) e) (k.pbit (fld64 x.w0 18 3) e)))

/-! ### Loads and stores (R113) -/

/-- The form of a VLD or VST (R107, R113). scl_addr is a field the opcode uses, whatever mt is (R106; log entry 114). -/
def memLegal (w0 w1 : W64) (_ : Dev) : Bool :=
  isVty (mtOf w1) && fld64 w1 52 12 == 0 &&
  (mtOf w1 != 0xC || (fld64 w1 20 12 == 1 && vcount w0 0 % 32 == 0)) && (tyOf w0 != 0xC || vcount w0 0 % 32 == 0)

/-- Cycles: by lines in banks, both lines of an element that straddles two, or by bytes at stride 1 (R128). -/
def memCycles (w0 w1 : W64) (act : List Nat) : Nat :=
  if fld64 w1 20 12 = 1 then ceilDiv (vcount w0 0 * mtBytes (mtOf w1)) 256
  else memCost (act.foldl (fun l e =>
    let a := memAddr w1 e
    setAdd (setAdd l (a / 16)) ((a + mtBytes (mtOf w1) - 1) / 16)) [])

/-- An access whose active elements run past the end of the local store stops the segment (R133). -/
def memGuard (c : Nat) (x : QEnt) (reads : Bool) (f : Core → List Nat → Dev → Dev) (s : Dev) : Dev :=
  let act := (s.core c).actives x.w0 0
  let rs := memRanges x.w1 act
  if rs.any fun r => decide (lsSize < r.1 + r.2) then s.illegalAt c x.pc else
  match s.lsCheck c (if reads then rs else []) with
  | (s, false) => s.vUndef c x
  | (s, true) =>
    match s.vCheck c x.w0 0 with
    | (s, false) => s.vUndef c x
    | (s, true) => f (s.core c) act (s.vtally c x act)

/-- VLD. Its saturations are none of R127's list; a conversion of it into BI16 that is non-finite is (R127; log entry 100). -/
def vldBody (c : Nat) (x : QEnt) : Dev → Dev :=
  memGuard c x true fun k act s =>
    let mt := mtOf x.w1
    let ty := tyOf x.w0
    let held (e : Nat) : Nat := k.lsNat (memAddr x.w1 e) (mtBytes mt)
    let raw (e : Nat) : Nat := if mt = 0xC then wrap 16 (bi16Int (held e)).1 else held e
    let code (e : Nat) : Nat := k.lsNat (memScl x.w1 (e / 32)) 1
    let marks := if mt = 0xC then bi16Marks (act.map held) else 0
    if mt = ty then (s.vdst c x ty (act.map fun e => (e, raw e + if ty = 0xC then code e * 65536 else 0))).vsat c marks
    else
      let val (e : Nat) : XVal := if mt = 0xC then bi16Val (raw e) (code e) else tyVal mt (raw e)
      let (res, sats, nfs) := convAll mt ty (rndOf x.w0) (satOf x.w0) ((wordAt x.lat 0).toNat % 256)
        (act.map fun e => (e, val e)) (s.vrand x)
      ((s.vdst c x ty res).vsat c (sats + marks)).vnote c 0 nfs

/-- VST. Of a BI16 store all elements are written before all scale codes: R113 can also mean block by block (DESIGN CHOICE; log entry 129). -/
def vstBody (c : Nat) (x : QEnt) : Dev → Dev :=
  memGuard c x false fun k act s =>
    let mt := mtOf x.w1
    let ty := tyOf x.w0
    let src (e : Nat) : Nat := k.velem (vaOf x.w0) e
    let code (e : Nat) : Nat := bits (src (e / 32 * 32)) 16 8
    let val (e : Nat) : XVal := if ty = 0xC then bi16Val (src e) (code e) else tyVal ty (src e)
    let marks := if ty = 0xC then bi16Marks (act.map src) else 0
    let (res, sats, nfs) :=
      if mt = ty then (act.map fun e => (e, if ty = 0xC then wrap 16 (bi16Int (src e)).1 + code e * 65536 else src e), 0,
        if ty = 0xC then ((act.foldl (fun l e => setAdd l (e / 32)) []).filter fun b => code (32 * b) == 0xFF).length else 0)
      else convAll ty mt (rndOf x.w0) (satOf x.w0) ((wordAt x.lat 0).toNat % 256) (act.map fun e => (e, val e)) (s.vrand x)
    let data := res.flatMap fun r => cellsAt (memAddr x.w1 r.1) (natLe (mtBytes mt) r.2)
    let last (b : Nat) : Nat := ((inBlock b res).getLastD (0, 0)).2
    let codes := if mt = 0xC then (blocksOf res).map fun b => (memScl x.w1 b, BitVec.ofNat 8 (last b / 65536)) else []
    let s := if fld64 x.w1 20 12 = 0 then data.foldl (fun s cell => s.lsWrite c [cell]) s else s.lsWrite c data
    let s := if codes.isEmpty then s else s.lsWrite c codes
    s.vnote c (sats + marks) nfs

/-- The cost of a VLD or VST as it stands. -/
def memCostOf (c : Nat) (w0 w1 : W64) (s : Dev) : Nat := memCycles w0 w1 ((s.core c).actives w0 0)

/-! ### Expert routing (R123 to R126) -/

/-- R123: E from 8, k at most E, whole tokens, both areas in the store and apart. -/
def topkLegal (w0 w1 : W64) (_ : Dev) : Bool :=
  let n := vcount w0 0
  let t := n / topE w1
  fld64 w1 43 21 == 0 && decide (8 ≤ topE w1) && decide (topK w1 ≤ topE w1) && n % topE w1 == 0 &&
  decide (topSel w1 + 64 * t ≤ lsSize) && decide (topRt w1 + 16 * topE w1 ≤ lsSize) &&
  (decide (topSel w1 + 64 * t ≤ topRt w1) || decide (topRt w1 + 16 * topE w1 ≤ topSel w1))

/-- The best of the experts left, by R33, the lower id on a tie. -/
def topBest (v : Nat → XVal) : List Nat → Option Nat
  | [] => none
  | x :: l =>
    match topBest v l with
    | none => some x
    | some y => if (v x).lt (v y) then some y else some x

/-- The experts chosen for a token, in rank order. -/
def topChoose (v : Nat → XVal) : Nat → List Nat → List Nat
  | 0, _ => []
  | n + 1, l =>
    match topBest v l with
    | none => []
    | some x => x :: topChoose v n (l.filter (· != x))

/-- An address of the local store: 20 bits. Gather lists are not checked (R126; log entry 22). -/
def lsWrap (a : Nat) (bs : List Byte) : List (Nat × Byte) :=
  (cellsAt a bs).map fun x => (x.1 % lsSize, x.2)

/-- One valid rank (R124, R126): the gather entry and the count, or dropped; then the selection entry (its place in the order is a DESIGN
CHOICE, log entry 114). -/
def topRank (c : Nat) (x : QEnt) (row : W64) (t j e : Nat) (logit : Nat) (s : Dev) : Dev :=
  let k := s.core c
  let rt := topRt x.w1 + 16 * e
  let cnt := k.lsNat (rt + 8) 2
  let full := !decide (cnt < k.lsNat (rt + 4) 2)
  let s := if full then
      ((s.lsWrite c (cellsAt (rt + 10) (natLe 2 (satAdd 0xFFFF (k.lsNat (rt + 10) 2) 1)))).vstick c 3).count (engBlk c 4) 14 1
    else
      (s.lsWrite c (lsWrap (k.lsNat rt 4 + 8 * cnt) (natLe 8 ((row + BitVec.ofNat 64 t).toNat % 2 ^ 32 + j * 2 ^ 32)))).lsWrite c
        (cellsAt (rt + 8) (natLe 2 (cnt + 1)))
  s.lsWrite c (cellsAt (topSel x.w1 + 64 * t + 8 * j) (natLe 8 (logit + e * 2 ^ 32 + 2 ^ 40 + b2n full * 2 ^ 41)))

/-- VTOPK on one token. A NaN logit sets route_nan where its expert is eligible, and entries k to 7 of the record are written as zeros (DESIGN
CHOICES, log entry 114). -/
def topToken (c : Nat) (x : QEnt) (k0 : Core) (t : Nat) (s : Dev) : Dev :=
  let ne := topE x.w1
  let v (e : Nat) : XVal := tyVal (tyOf x.w0) (k0.velem (vaOf x.w0) (ne * t + e))
  let el := (List.range ne).filter fun e => k0.active x.w0 0 (ne * t + e)
  let s := if el.any fun e => v e == .nan then s.vstick c 2 else s
  let ch := topChoose v (topK x.w1) (el.filter fun e => v e != .nan)
  let s := ch.zipIdx.foldl (fun s p => topRank c x (wordAt x.lat 0) t p.2 p.1 (rne32 (v p.1)) s) s
  s.lsWrite c (cellsAt (topSel x.w1 + 64 * t + 8 * ch.length) (List.replicate (64 - 8 * ch.length) 0))

/-- VTOPK (R124). -/
def topkBody (c : Nat) (x : QEnt) (s : Dev) : Dev :=
  match s.lsCheck c [(topRt x.w1, 16 * topE x.w1)] with
  | (s, false) => s.vUndef c x
  | (s, true) =>
    match s.vCheck c x.w0 0 with
    | (s, false) => s.vUndef c x
    | (s, true) =>
    let k := s.core c
    (List.range (vcount x.w0 0 / topE x.w1)).foldl (fun s t => topToken c x k t s)
      (s.vtally c x (k.actives x.w0 0))

/-! ### Set-up and status (R117, R127, R131) -/

/-- VTBASE. -/
def tbaseBody (c : Nat) (x : QEnt) (s : Dev) : Dev := s.onCore c fun k => { k with tb := (wordAt x.lat 0).toNat }

/-- The base is a multiple of 65,536 that leaves room for four buffers. -/
def tbaseLegal (c : Nat) (w0 : W64) (s : Dev) : Bool :=
  let b := ((s.core c).sreg (scOf w0)).toNat
  b % 65536 == 0 && decide (b + 262144 ≤ lsSize)

/-- VRSV: base and live mask, or no reserve with bit 63 of the base. -/
def rsvBody (c : Nat) (x : QEnt) (s : Dev) : Dev :=
  let b := wordAt x.lat 0
  s.onCore c fun k => { k with vrsv := if b.msb then none else some b.toNat, vlive := (wordAt x.lat 1).setWidth 32 }

/-- The reserve is aligned and fits (R131). -/
def rsvLegal (c : Nat) (w0 : W64) (s : Dev) : Bool :=
  let b := (s.core c).sreg (scOf w0)
  b.msb || (b.toNat % 4096 == 0 && decide (b.toNat + 266240 ≤ lsSize))

/-- VSTAT: the status word as it stands; with the clear bit its sticky fields are then cleared. -/
def statBody (c : Nat) (x : QEnt) (s : Dev) : Dev :=
  s.onCore c fun k => { k.setS (vdOf x.w0) k.vstat with vstat := if fld64 x.w0 23 1 = 1 then k.vstat &&& 1 else k.vstat }

/-! ### The rows -/

/-- VADD (R108). -/
def execVadd (core : Fin 512) (w0 w1 : W64) (s : State) : Res := s.run (vecIssue core 0x50 w0 w1 vAny vAny (vCostOf w0 w1) (arithBody core))
/-- VSUB (R108). -/
def execVsub (core : Fin 512) (w0 w1 : W64) (s : State) : Res := s.run (vecIssue core 0x51 w0 w1 vAny vAny (vCostOf w0 w1) (arithBody core))
/-- VMUL (R108). -/
def execVmul (core : Fin 512) (w0 w1 : W64) (s : State) : Res := s.run (vecIssue core 0x52 w0 w1 vAny vAny (vCostOf w0 w1) (arithBody core))
/-- VFMA (R108). -/
def execVfma (core : Fin 512) (w0 w1 : W64) (s : State) : Res := s.run (vecIssue core 0x53 w0 w1 vAny vAny (vCostOf w0 w1) (arithBody core))
/-- VMAX (R108). -/
def execVmax (core : Fin 512) (w0 w1 : W64) (s : State) : Res := s.run (vecIssue core 0x54 w0 w1 vAny vAny (vCostOf w0 w1) (arithBody core))
/-- VMIN (R108). -/
def execVmin (core : Fin 512) (w0 w1 : W64) (s : State) : Res := s.run (vecIssue core 0x55 w0 w1 vAny vAny (vCostOf w0 w1) (arithBody core))
/-- VABS (R108). -/
def execVabs (core : Fin 512) (w0 w1 : W64) (s : State) : Res := s.run (vecIssue core 0x56 w0 w1 vAny vAny (vCostOf w0 w1) (signBody core))
/-- VNEG (R108). -/
def execVneg (core : Fin 512) (w0 w1 : W64) (s : State) : Res := s.run (vecIssue core 0x57 w0 w1 vAny vAny (vCostOf w0 w1) (signBody core))
/-- VAND (R108). -/
def execVand (core : Fin 512) (w0 w1 : W64) (s : State) : Res := s.run (vecIssue core 0x58 w0 w1 vAny vAny (vCostOf w0 w1) (bitBody core))
/-- VOR (R108). -/
def execVor (core : Fin 512) (w0 w1 : W64) (s : State) : Res := s.run (vecIssue core 0x59 w0 w1 vAny vAny (vCostOf w0 w1) (bitBody core))
/-- VXOR (R108). -/
def execVxor (core : Fin 512) (w0 w1 : W64) (s : State) : Res := s.run (vecIssue core 0x5A w0 w1 vAny vAny (vCostOf w0 w1) (bitBody core))
/-- VSHL (R108). -/
def execVshl (core : Fin 512) (w0 w1 : W64) (s : State) : Res := s.run (vecIssue core 0x5B w0 w1 vAny vAny (vCostOf w0 w1) (bitBody core))
/-- VSHR (R108). -/
def execVshr (core : Fin 512) (w0 w1 : W64) (s : State) : Res := s.run (vecIssue core 0x5C w0 w1 vAny vAny (vCostOf w0 w1) (bitBody core))
/-- ULT takes integer types alone (R108). -/
def cmpLegal (w0 : W64) (_ : Dev) : Bool := fld64 w0 23 3 != 6 || isInt (tyOf w0)

/-- VCMP (R108). -/
def execVcmp (core : Fin 512) (w0 w1 : W64) (s : State) : Res :=
  s.run (vecIssue core 0x5D w0 w1 (cmpLegal w0) vAny (vCostOf w0 w1) (cmpBody core))
/-- VSEL (R108). -/
def execVsel (core : Fin 512) (w0 : W64) (s : State) : Res := s.run (vecIssue core 0x5E w0 0 vAny vAny (vCostOf w0 0) (selBody core))
/-- VCVT (R112): the destination type is one of R103. -/
def execVcvt (core : Fin 512) (w0 w1 : W64) (s : State) : Res :=
  s.run (vecIssue core 0x5F w0 w1 (fun _ => isVty (fld64 w0 18 4)) vAny (vCostOf w0 w1) (cvtBody core))
/-- VSFU (R119): function 7 is reserved. -/
def execVsfu (core : Fin 512) (w0 w1 : W64) (s : State) : Res :=
  s.run (vecIssue core 0x60 w0 w1 (fun _ => fld64 w0 18 3 != 7) vAny (vCostOf w0 w1) (sfuBody core))
/-- VBCAST (R108). -/
def execVbcast (core : Fin 512) (w0 w1 : W64) (s : State) : Res := s.run (vecIssue core 0x61 w0 w1 vAny vAny (vCostOf w0 w1) (bcastBody core))
/-- VIOTA (R108). -/
def execViota (core : Fin 512) (w0 w1 : W64) (s : State) : Res := s.run (vecIssue core 0x62 w0 w1 vAny vAny (vCostOf w0 w1) (iotaBody core))
/-- VRNG (R122). -/
def execVrng (core : Fin 512) (w0 : W64) (s : State) : Res := s.run (vecIssue core 0x63 w0 0 vAny vAny (vCostOf w0 0) (rngBody core))
/-- VRED (R115). -/
def execVred (core : Fin 512) (w0 w1 : W64) (s : State) : Res :=
  s.run (vecIssue core 0x64 w0 w1 (redLegal w0) vAny (vCostOf w0 w1) (redBody core))
/-- VPACK (R121). -/
def execVpack (core : Fin 512) (w0 w1 : W64) (s : State) : Res :=
  s.run (vecIssue core 0x65 w0 w1 (packLegal w0 w1) vAny (vCostOf w0 w1) (packBody core))
/-- VUNPACK (R121). -/
def execVunpack (core : Fin 512) (w0 w1 : W64) (s : State) : Res :=
  s.run (vecIssue core 0x66 w0 w1 (packLegal w0 w1) vAny (vCostOf w0 w1) (unpackBody core))
/-- VTBASE (R117). -/
def execVtbase (core : Fin 512) (w0 : W64) (s : State) : Res :=
  s.run (vecIssue core 0x67 w0 0 vAny (tbaseLegal core w0) (vCostOf w0 0) (tbaseBody core))
/-- VLD (R113). -/
def execVld (core : Fin 512) (w0 w1 : W64) (s : State) : Res :=
  s.run (vecIssue core 0x68 w0 w1 (memLegal w0 w1) vAny (memCostOf core w0 w1) (vldBody core))
/-- VST (R113). -/
def execVst (core : Fin 512) (w0 w1 : W64) (s : State) : Res :=
  s.run (vecIssue core 0x69 w0 w1 (memLegal w0 w1) vAny (memCostOf core w0 w1) (vstBody core))
/-- VTOPK (R124). -/
def execVtopk (core : Fin 512) (w0 w1 : W64) (s : State) : Res :=
  s.run (vecIssue core 0x6A w0 w1 (topkLegal w0 w1) vAny (vCostOf w0 w1) (topkBody core))
/-- VSTAT (R127). -/
def execVstat (core : Fin 512) (w0 : W64) (s : State) : Res := s.run (vecIssue core 0x6B w0 0 vAny vAny (vCostOf w0 0) (statBody core))
/-- PAND (R108). -/
def execPand (core : Fin 512) (w0 : W64) (s : State) : Res := s.run (vecIssue core 0x6C w0 0 vAny vAny (vCostOf w0 0) (predBody core and))
/-- POR (R108). -/
def execPor (core : Fin 512) (w0 : W64) (s : State) : Res := s.run (vecIssue core 0x6D w0 0 vAny vAny (vCostOf w0 0) (predBody core or))
/-- PXOR (R108). -/
def execPxor (core : Fin 512) (w0 : W64) (s : State) : Res := s.run (vecIssue core 0x6E w0 0 vAny vAny (vCostOf w0 0) (predBody core xor))
/-- VRSV (R131). -/
def execVrsv (core : Fin 512) (w0 : W64) (s : State) : Res :=
  s.run (vecIssue core 0x6F w0 0 vAny (rsvLegal core w0) (vCostOf w0 0) (rsvBody core))

end Sys2Proof.Machine
end

