-- ==== Sys2Proof/Machine/MatOps.lean ====
section
/-! DEFINITION. The matrix engines: operand classes, the skewed layout, weight loads, the tile, the drain (R62 to R101). -/

namespace Sys2Proof.Machine

/-! ### Formats (R63 to R65) -/

/-- The operand class of a format: 0 F8, 1 H16, 2 F4, 3 I8; 4 is none. -/
def mclass (fmt : Nat) : Nat :=
  match fmt with
  | 0 | 1 | 2 | 3 => 0
  | 4 | 5 => 1
  | 6 | 7 | 8 => 2
  | 9 => 3
  | _ => 4

/-- MX formats. -/
def isMx (fmt : Nat) : Bool := fmt == 2 || fmt == 3 || fmt == 6 || fmt == 7 || fmt == 8

/-- A format that 2:4 mode takes. -/
def sp24Ok (fmt : Nat) : Bool := fmt == 0 || fmt == 1 || fmt == 4 || fmt == 5 || fmt == 9

/-- Chunk depth. -/
def chunkDepth (cls : Nat) (sp : Bool) : Nat :=
  let d := match cls with
    | 1 => 8
    | 2 => 32
    | _ => 16
  if sp then 2 * d else d

/-- Largest number of chunks by weight format (R64). -/
def chunkMax (fmt : Nat) (sp : Bool) : Nat :=
  if sp then 8 else
  match fmt with
  | 2 | 3 => 14
  | 6 | 7 => 10
  | 8 => 15
  | _ => 16

/-- Bytes of one chunk of an operand. -/
def chunkBytes (fmt : Nat) (sp : Bool) : Nat := if sp then 32 else if fmt = 6 ∨ fmt = 7 then 24 else 16

/-- Bytes of a whole element: 1 or 2 (column orientation). -/
def colBytes (fmt : Nat) : Nat := if mclass fmt = 1 then 2 else 1

/-- Where byte `ch` of stored row `r` of a skewed tile at `b` lies (R74). A chunk of MXFP6 activations that runs past byte 255 goes on at
byte 0 of the same row (DESIGN CHOICE, log entry 113). -/
def skewAddr (b r ch : Nat) : Nat :=
  b + 256 * r + 16 * ((ch / 16 + (b / 256 + r) % 16) % 16) + ch % 16

/-- Bytes `[ch, ch + n)` of a stored row. -/
def Core.skewBytes (k : Core) (b r ch n : Nat) : List Byte := (List.range n).map fun i => k.lsByte (skewAddr b r (ch + i))

/-- The pieces of 8 bytes or less that bytes `[ch, ch + n)` of a stored row lie in: what a reader of them reads. -/
def skewPieces (b r ch n : Nat) : List (Nat × Nat) :=
  (List.range (ceilDiv n 8)).map fun i => (skewAddr b r (ch + 8 * i), Nat.min 8 (n - 8 * i))

/-- Coded line `y` belongs to the weight buffer with number `key` = 2e + buf (R72). -/
def bufLine (y key : Nat) : Bool := decide (y < 4096) && y / 512 == key

/-- Coded line `y` belongs to bank `b` of engine `e`. -/
def accLine (y e b : Nat) : Bool :=
  decide (4096 ≤ y) && decide (y < 8192) && (y - 4096) / 1024 == e && (y - 4096) / 4 % 2 == b

/-! ### MWLD (R76) -/

/-- Fields of MWLD. -/
structure Mwld where
  eng  : Nat
  buf  : Nat
  base : Nat
  fmt  : Nat
  col  : Bool
  wcol : Nat
  kc   : Nat
  sp   : Bool
  gate : Option Nat
  ws   : Nat
  ix   : Nat
  deriving DecidableEq, Repr

/-- The fields of the words. -/
def mwldOf (w0 w1 : W64) : Mwld :=
  { eng := fld64 w0 8 2, buf := fld64 w0 10 1, base := 256 * fld64 w0 11 12, fmt := fld64 w0 23 4, col := fld64 w0 27 1 == 1,
    wcol := fld64 w0 28 4, kc := fld64 w0 32 4 + 1, sp := fld64 w0 36 1 == 1,
    gate := if fld64 w0 37 1 = 1 then some (16 * fld64 w0 38 16) else none, ws := 16 * fld64 w1 0 16, ix := 16 * fld64 w1 16 16 }

/-- Reduction depth. -/
def Mwld.depth (m : Mwld) : Nat := m.kc * chunkDepth (mclass m.fmt) m.sp

/-- Element bytes a lane takes. -/
def Mwld.bytes (m : Mwld) : Nat := if m.sp then 16 * m.kc else m.kc * chunkBytes m.fmt false

/-- The key of a buffer. -/
def Mwld.key (m : Mwld) : Nat := 2 * m.eng + m.buf

/-- What R79 asks of MWLD. -/
def mwldLegal (w0 w1 : W64) : Bool :=
  let m := mwldOf w0 w1
  fld64 w0 54 10 == 0 && fld64 w1 32 32 == 0 && decide (mclass m.fmt < 4) && decide (m.kc ≤ chunkMax m.fmt m.sp) &&
  (!isMx m.fmt || m.depth % 32 == 0) && (!m.sp || (sp24Ok m.fmt && !m.col)) && (m.col || m.wcol == 0) &&
  !(m.col && isMx m.fmt) && (!m.col || decide (16 * m.wcol + 128 * colBytes m.fmt ≤ 256)) &&
  decide (m.base + 256 * (if m.col then m.depth else 128) ≤ lsSize) &&
  (match m.gate with | some g => decide (g + 16 ≤ lsSize) | none => true) &&
  (!isMx m.fmt || decide (m.ws + 16 * 128 ≤ lsSize)) && (!m.sp || decide (m.ix + 64 * 128 ≤ lsSize))

/-- The local-store ranges MWLD reads: of each lane its elements, scale codes and index row; the gate mask (R100). -/
def Mwld.ranges (m : Mwld) : List (Nat × Nat) :=
  (if m.col then (List.range m.depth).flatMap fun r => skewPieces m.base r (16 * m.wcol) (128 * colBytes m.fmt)
   else (List.range 128).flatMap fun i => skewPieces m.base i 0 m.bytes) ++
  (match m.gate with | some g => [(g, 16)] | none => []) ++
  (if isMx m.fmt then (List.range 128).map fun i => (m.ws + 16 * i, m.depth / 32) else []) ++
  (if m.sp then [(m.ix, 8192)] else [])

/-- What lane `i`'s buffer holds after the load: elements, then scale codes or indices (R71, R76, R89). -/
def Mwld.lane (m : Mwld) (k : Core) (i : Nat) : List Byte :=
  let els := if m.col then
      (List.range m.depth).flatMap fun r => k.skewBytes m.base r (16 * m.wcol + i * colBytes m.fmt) (colBytes m.fmt)
    else k.skewBytes m.base i 0 m.bytes
  els ++ (if isMx m.fmt then k.lsBytes (m.ws + 16 * i) (m.depth / 32) else []) ++
  (if m.sp then k.lsBytes (m.ix + 64 * i) (4 * m.kc) else [])

/-- Cycles: 128 bytes per cycle over 128 lanes. Of scale codes and indices only the bytes that a lane takes are counted, a code per block and 4
index bytes per chunk; the spec does not say how many cycles they take (DESIGN CHOICE, log entry 124). -/
def Mwld.cycles (m : Mwld) : Nat :=
  m.bytes + (if isMx m.fmt then m.depth / 32 else 0) + (if m.sp then 4 * m.kc else 0)

/-- Load one weight buffer; lines of the lanes that it fills in part are merged, those it fills whole are clean (R72). -/
def mwldBody (c : Nat) (w0 w1 : W64) (s : Dev) : Dev :=
  let m := mwldOf w0 w1
  match (s.moves c m.cycles).lsCheck c m.ranges with
  | (s, false) => s
  | (s, true) =>
    let line (y : Nat) : Bool := bufLine y m.key && decide (64 * (y % 4) < m.cycles)
    let s := s.onCore c fun k => k.cleanLines fun y => line y && decide (64 * (y % 4) + 64 ≤ m.cycles)
    match s.lineCheck c line with
    | (s, false) => s
    | (s, true) =>
    let t := Nat.max (Nat.max (s.cycle c) (s.core c).mfree) (s.core c).mwend + m.cycles
    let s := s.onCore c fun k =>
      let cells := (List.range 128).flatMap fun i => cellsAt ((m.key * 128 + i) * 256) (m.lane k i)
      let gates := (List.range 128).map fun i =>
        (m.key * 128 + i, match m.gate with | some g => bit (k.lsByte (g + i / 8)).toNat (i % 8) | none => true)
      { k with wb := Sparse.setAll (always 0) k.wb cells, gate := Sparse.setAll (always false) k.gate gates,
               wword := Sparse.set (always (0, 0)) k.wword m.key (w0, w1),
               wend := Sparse.set (always 0) k.wend m.key t, mwend := t }
    s.count (engBlk c m.eng) 8 m.cycles

/-! ### MMT (R77 to R88) -/

/-- Fields of MMT. -/
structure Mmt where
  eng  : Nat
  base : Nat
  af   : Nat
  wf   : Nat
  rows : Nat
  kc   : Nat
  col  : Bool
  coff : Nat
  half : Nat
  init : Bool
  wbuf : Nat
  sp   : Bool
  rm   : Option Nat
  oc   : Option Nat
  bm   : Bool
  lg   : Bool
  tp   : Nat
  sc   : Nat
  deriving DecidableEq, Repr

/-- The fields of the words. -/
def mmtOf (w0 w1 : W64) : Mmt :=
  { eng := fld64 w0 8 4, base := 256 * fld64 w0 12 12, af := fld64 w0 24 4, wf := fld64 w0 28 4, rows := fld64 w0 32 7 + 1,
    kc := fld64 w0 39 4 + 1, col := fld64 w0 43 1 == 1, coff := fld64 w0 44 4, half := fld64 w0 48 1, init := fld64 w0 49 1 == 1,
    wbuf := fld64 w0 50 1, sp := fld64 w0 51 1 == 1, rm := if fld64 w0 52 1 = 1 then some (16 * fld64 w1 0 16) else none,
    oc := if fld64 w0 53 1 = 1 then some (16 * fld64 w1 16 16) else none, bm := fld64 w0 54 1 == 1, lg := fld64 w0 55 1 == 1,
    tp := fld64 w0 56 2, sc := 16 * fld64 w1 32 16 }

/-- The scalar registers an MMT names, in order: bm_reg, tp_ra, tp_rb (R78). -/
def mmtRegs (w1 : W64) : List Nat := [fld64 w1 48 5, fld64 w1 53 5, fld64 w1 58 5]

/-- Chunk depth. -/
def Mmt.d (m : Mmt) : Nat := chunkDepth (mclass m.wf) m.sp

/-- Engine `e` takes part. -/
def Mmt.on (m : Mmt) (e : Nat) : Bool := bit m.eng e

/-- The banks whose rows the tile covers. -/
def Mmt.banks (m : Mmt) : List Nat := if m.half = 1 then [1] else if m.rows ≤ 64 then [0] else [0, 1]

/-- The record of the last MWLD issued into a buffer: 2 × format + sp24 (R79). -/
def Core.wrecOf (k : Core) (key : Nat) : Nat := Sparse.get (always 0) k.wrec key

/-- What R79 asks of MMT. The end-of-store check counts all M rows, scale rows and map words, whatever the row mask says (DESIGN CHOICE, log
entry 113). -/
def mmtLegal (k : Core) (w0 w1 : W64) : Bool :=
  let m := mmtOf w0 w1
  fld64 w0 58 6 == 0 && fld64 w1 63 1 == 0 && m.eng != 0 && m.tp != 3 &&
  decide (mclass m.wf < 4) && mclass m.af == mclass m.wf && decide (m.kc ≤ chunkMax m.wf m.sp) &&
  (!(isMx m.wf || isMx m.af) || m.kc * m.d % 32 == 0) && (!m.sp || (sp24Ok m.wf && sp24Ok m.af && !m.col)) &&
  !(m.half == 1 && decide (64 < m.rows)) && (m.col || m.coff == 0) && !(m.col && isMx m.af) &&
  (!m.col || decide (16 * m.coff + m.rows * colBytes m.af ≤ 256)) &&
  ((List.range 4).all fun e => !m.on e || k.wrecOf (2 * e + m.wbuf) == 2 * m.wf + b2n m.sp) &&
  decide (m.base + 256 * (if m.col then m.kc * m.d else m.rows) ≤ lsSize) &&
  (match m.rm with | some a => decide (a + 16 ≤ lsSize) | none => true) &&
  (match m.oc with | some a => decide (a + 2 * m.rows ≤ lsSize) | none => true) &&
  (!isMx m.af || decide (m.sc + 16 * m.rows ≤ lsSize))

/-- The value of a signed 64-bit word. -/
def sval (w : W64) : Int := w.toInt

/-- The tile predicate removes the tile (R84). `lat` is the latched block map, s[tp_ra], s[tp_rb]. -/
def Mmt.removed (m : Mmt) (lat : List W64) : Bool :=
  if m.tp = 1 then wordAt lat 1 == 0
  else if m.tp = 2 then decide (sval (wordAt lat 1) + m.rows - 1 < sval (wordAt lat 2)) else false

/-- The causal predicate idles engine `e` (R84). -/
def Mmt.idle (m : Mmt) (lat : List W64) (e : Nat) : Bool :=
  m.tp == 2 && decide (sval (wordAt lat 1) + m.rows - 1 < sval (wordAt lat 2) + 128 * e)

/-- Engine `e`'s block bit for chunk `j` (R83). -/
def Mmt.block (m : Mmt) (lat : List W64) (e j : Nat) : Bool := !m.bm || bit (wordAt lat 0).toNat (16 * e + j)

/-- Some enabled engine has chunk `j` present (R83). -/
def Mmt.someBlock (m : Mmt) (lat : List W64) (j : Nat) : Bool := (List.range 4).any fun e => m.on e && m.block lat e j

/-- Row `r` is live (R81). -/
def Mmt.live (m : Mmt) (k : Core) (r : Nat) : Bool :=
  match m.rm with | some a => k.maskBit a r | none => true

/-- The stored row of row `r` (R78). -/
def Mmt.stored (m : Mmt) (k : Core) (r : Nat) : Nat :=
  if m.rm.isSome ∧ !m.col then ((List.range r).filter (m.live k)).length else r

/-- Chunk `j` of fed row `f` is occupied (R82). -/
def Mmt.occ (m : Mmt) (k : Core) (f j : Nat) : Bool :=
  match m.oc with | some a => bit (k.lsNat (a + 2 * f) 2) j | none => true

/-- Element bytes of activation chunk `j` of row `r`, stored as row `f`. -/
def Mmt.chunk (m : Mmt) (k : Core) (r f j : Nat) : List Byte :=
  if m.col then (List.range m.d).flatMap fun i =>
    k.skewBytes m.base (j * m.d + i) (16 * m.coff + r * colBytes m.af) (colBytes m.af)
  else k.skewBytes m.base f (j * chunkBytes m.af m.sp) (chunkBytes m.af m.sp)

/-- The scale code of the activation block of chunk `j` (R78); plain operands have factor 1 (R65). -/
def Mmt.acode (m : Mmt) (k : Core) (f j : Nat) : Nat := if isMx m.af then k.lsNat (m.sc + 16 * f + j * m.d / 32) 1 else 127

/-- A lane's buffer bytes. -/
def Core.laneBytes (k : Core) (key lane : Nat) : List Byte :=
  (List.range 256).map fun i => Sparse.get (always 0) k.wb ((key * 128 + lane) * 256 + i)

/-- The weights a lane pairs with a chunk: (activation element, weight bits); by slot in 2:4 mode (R89). `wk` is the number of
chunks its MWLD loaded. -/
def Mmt.pairs (m : Mmt) (wk : Nat) (buf : List Byte) (j : Nat) : List (Nat × Nat) :=
  if m.sp then
    let ix := leAt buf (16 * wk + 4 * j) 4
    (List.range (m.d / 2)).map fun q => (4 * (q / 2) + bits ix (2 * q) 2, elemAt m.wf buf (j * (m.d / 2) + q))
  else (List.range m.d).map fun i => (i, elemAt m.wf buf (j * m.d + i))

/-- The scale code of the weight block of chunk `j`. -/
def Mmt.wcode (m : Mmt) (wk : Nat) (buf : List Byte) (j : Nat) : Nat :=
  if isMx m.wf then leAt buf (wk * chunkBytes m.wf false + j * m.d / 32) 1 else 127

/-- The exact sum of products, zero signs by R68. -/
def xsum (l : List XVal) : XVal := l.foldl XVal.add (.fin true 0 0)

/-- The accumulator after one chunk (R66 to R69): `as` are the activation element bits. -/
def Mmt.addChunk (m : Mmt) (acc : Nat) (as : List Nat) (ca cw : Nat) (ps : List (Nat × Nat)) : Nat :=
  if m.wf = 9 then
    wrap 32 (signed 32 acc + (ps.map fun p => signed 8 (as.getD p.1 0) * signed 8 p.2).foldl (· + ·) 0)
  else
    let s := xsum (ps.map fun p => ((fmtOf m.af).decode (as.getD p.1 0)).mul ((fmtOf m.wf).decode p.2))
    let t := if ca = 0xFF ∨ cw = 0xFF then XVal.nan else s.scale ((ca : Int) - 127 + (cw - 127))
    rne32 ((f32 acc).add (f32 (rne32 t)))

/-- Every element of the chunk is zero and its code is not 0xFF: no add (R66). -/
def Mmt.zeroChunk (m : Mmt) (as : List Nat) (ca : Nat) : Bool :=
  ca != 0xFF && as.all fun a => if m.af = 9 then a == 0 else ((fmtOf m.af).decode a).isZero

/-- An accumulator. -/
def Core.accOf (k : Core) (e lane a : Nat) : Nat := (Sparse.get (always (0 : W32)) k.acc ((e * 128 + lane) * 128 + a)).toNat

/-- A lane's gate bit. -/
def Core.gateOf (k : Core) (key lane : Nat) : Bool := Sparse.get (always false) k.gate (key * 128 + lane)

/-- Lane (e, i) over the fed chunks of one row. -/
def Mmt.laneRow (m : Mmt) (lat : List W64) (k : Core) (fed : List (Nat × List Nat × Nat)) (e i acc : Nat) : Nat :=
  let key := 2 * e + m.wbuf
  if m.lg && !k.gateOf key i then acc else
  let wk := fld64 (Sparse.get (always ((0 : W64), (0 : W64))) k.wword key).1 32 4 + 1
  let buf := k.laneBytes key i
  fed.foldl (fun acc c =>
    if !m.block lat e c.1 || m.zeroChunk c.2.1 c.2.2 then acc
    else m.addChunk acc c.2.1 c.2.2 (m.wcode wk buf c.1) (m.pairs wk buf c.1)) acc

/-- The chunks of row `r` that are fed: chunk number, element bits, scale code (R87). -/
def Mmt.fedRow (m : Mmt) (lat : List W64) (k : Core) (r : Nat) : List (Nat × List Nat × Nat) :=
  let f := m.stored k r
  ((List.range m.kc).filter fun j => m.occ k f j && m.someBlock lat j).map fun j =>
    let bs := m.chunk k r f j
    (j, (List.range m.d).map (elemAt m.af bs), m.acode k f j)

/-- The live rows from `from_` on. -/
def Mmt.liveRows (m : Mmt) (k : Core) (from_ : Nat) : List Nat :=
  (List.range m.rows).filter fun r => decide (from_ ≤ r) && m.live k r

/-- The engines that run: enabled and not idled by the causal predicate. -/
def Mmt.engines (m : Mmt) (lat : List W64) : List Nat := (List.range 4).filter fun e => m.on e && !m.idle lat e

/-- The accumulators after rows `rows` (in order) of the tile. -/
def Mmt.addRows (m : Mmt) (lat : List W64) (k : Core) (rows : List Nat) : Sparse W32 :=
  rows.foldl (fun acc r =>
    let fed := m.fedRow lat k r
    let a := 64 * m.half + r
    Sparse.setAll (always 0) acc ((m.engines lat).flatMap fun e => (List.range 128).map fun i =>
      ((e * 128 + i) * 128 + a, BitVec.ofNat 32 (m.laneRow lat k fed e i (k.accOf e i a))))) k.acc

/-- Accumulator `x` is one of rows `[lo, hi)` of the tile in an enabled engine. -/
def Mmt.owns (m : Mmt) (lo hi x : Nat) : Bool :=
  m.on (x / 16384) && decide (64 * m.half + lo ≤ x % 128) && decide (x % 128 < 64 * m.half + Nat.min hi m.rows)

/-- Coded line `y` holds an accumulator of rows `[lo, hi)` of the tile; only such accumulators. -/
def Mmt.ownsPart (m : Mmt) (lo hi y : Nat) : Bool :=
  decide (4096 ≤ y) && decide (y < 8192) && (List.range 16).any fun i => m.owns lo hi (16 * (y - 4096) + i)

/-- Coded line `y` holds accumulators of rows `[lo, hi)` of the tile alone. -/
def Mmt.ownsWhole (m : Mmt) (lo hi y : Nat) : Bool :=
  decide (4096 ≤ y) && decide (y < 8192) && (List.range 16).all fun i => m.owns lo hi (16 * (y - 4096) + i)

/-- The init of R77 for rows `[lo, hi)`: their accumulators of every enabled engine at zero, and the lines they fill clean. -/
def Mmt.clear (m : Mmt) (lo hi : Nat) (k : Core) : Core :=
  if !m.init then k else
  { k.cleanLines (m.ownsWhole lo hi) with acc := k.acc.filter fun x => !m.owns lo hi x.1 }

/-- The coded lines a tile reads: the buffer of each engine that runs, and the accumulators of rows `[lo, hi)`; an init writes lines whole, and
reads those that it clears in part, of engines that the causal predicate idles too (R72). -/
def Mmt.lines (m : Mmt) (lat : List W64) (lo hi : Nat) (init : Bool) (y : Nat) : Bool :=
  ((m.engines lat).any fun e => bufLine y (2 * e + m.wbuf)) ||
  (m.ownsPart lo hi y && (init || (m.engines lat).contains ((y - 4096) / 1024)) && !(init && m.ownsWhole lo hi y))

/-! ### Rows in time (R75, R87) -/

/-- The column stage of a tile as its rows are fed: the strip that is being fed from, the cycle at which the strip behind it is filled, the cycle
behind the last feed. -/
structure Stage where
  cur  : Option Nat
  full : Nat
  stop : Nat
  deriving DecidableEq, Repr

/-- Rows of a strip, and the squares that fill it; a tile in row orientation needs no fill (R75). -/
def Mmt.strip (m : Mmt) : Nat × Nat := if m.col then (16 / colBytes m.af, ceilDiv (m.kc * m.d) 16) else (1, 0)

/-- A tile whose first feed is at cycle `first`: its first strip is filled, and the fill of the next begins with the first feed (DEDUCED, log
entry 124). -/
def Mmt.stage (m : Mmt) (first : Nat) : Stage := ⟨none, first + m.strip.2, first⟩

/-- A row has been fed. The half of a strip that is through takes the squares of the one after the next, one a cycle. -/
def Stage.fed (g : Stage) (m : Mmt) (r : RowPlan) : Stage :=
  let p := r.row / m.strip.1
  if r.fed.isEmpty then g
  else if g.cur = some p then { g with stop := r.stop }
  else ⟨some p, if g.cur.isNone then g.full else Nat.max g.full g.stop + m.strip.2, r.stop⟩

/-- The first cycle that can feed a row as far as the column stage goes. -/
def Stage.ready (g : Stage) (m : Mmt) (r : RowPlan) : Nat :=
  if r.fed.isEmpty ∨ g.cur.isNone ∨ g.cur = some (r.row / m.strip.1) then 0 else g.full

/-- Rows fed one after another from cycle `t`, a new strip of a tile in column orientation once it is filled. -/
def placeRows (m : Mmt) : Stage → Nat → List RowPlan → List RowPlan
  | _, _, [] => []
  | g, t, r :: l =>
    let r := { r with start := Nat.max t (g.ready m r) }
    r :: placeRows m (g.fed m r) r.stop l

/-- Change the rows of a tile from the first boundary at or after cycle `t` on, and move that boundary to `at_` of where it stood. -/
def MmtRun.fromRow (r : MmtRun) (t : Nat) (at_ : Nat → Nat) (f : RowPlan → RowPlan) : MmtRun :=
  let m := mmtOf r.ent.w0 r.ent.w1
  let old := r.rows.filter fun p => decide (p.start < t)
  match (r.rows.filter fun p => decide (t ≤ p.start)).map f with
  | [] => r
  | p :: l => { r with rows := old ++ placeRows m (old.foldl (fun g p => g.fed m p) (m.stage r.first)) (at_ p.start) (p :: l) }

/-- The matrix stream of core `c` pauses at the boundary at or after the present cycle (R22, R23). -/
def Dev.parkRows (s : Dev) (c : Nat) : Dev :=
  let t := s.cycle c
  s.onCore c fun k => { k with mmts := k.mmts.map fun m => m.fromRow t (· + farCycle) id }

/-- The first cycle in which a tile could feed if no tile stood before it: 4 or 20 cycles after its issue, which a removed tile before it delays
by one, and once its weights and the banks that it writes are free (R80, R87). -/
def Dev.feedFloor (s : Dev) (c : Nat) (x : QEnt) (banks : List Nat) : Nat :=
  let m := mmtOf x.w0 x.w1
  let k := s.core c
  let t := Nat.max (s.cycle c) (Nat.max x.cyc k.mfree + if m.col then 20 else 4)
  let t := (List.range 4).foldl (fun t e => if m.on e then Nat.max t (Sparse.get (always 0) k.wend (2 * e + m.wbuf)) else t) t
  match k.vrun with
  | some r => if banks.any fun b => r.bank == some b then Nat.max t r.stop else t
  | none => t

/-- The values of DIE_MTX_CTL that the matrix engines of core `c` work by: they feed in step, under what engine 0 has applied (R101, R360). -/
def Dev.ocSkip (s : Dev) (c : Nat) : Bool := s.onAs ⟨.matrix, 4 * c⟩ dieMtxCtlOcSkip
/-- The same for bm_skip. -/
def Dev.bmSkip (s : Dev) (c : Nat) : Bool := s.onAs ⟨.matrix, 4 * c⟩ dieMtxCtlBmSkip

/-- Place the rows that have not begun by cycle `t` again, tile behind tile: of a tile under way from its next boundary, or from where a pause
has left it; a tile that has not begun feeds from its floor, behind the tile before it, whose last feed `e` follows (R87, R101). -/
def replaceRuns (floor : MmtRun → Nat) (t : Nat) (f : RowPlan → RowPlan) : Nat → List MmtRun → List MmtRun
  | _, [] => []
  | e, r :: l =>
    let begun := r.rows.any fun p => decide (p.start < t)
    let at_ (b : Nat) : Nat := if !begun then Nat.max e (floor r) else if farCycle ≤ b then Nat.max t (b - farCycle) else b
    let r := if begun then r.fromRow t at_ f else ({ r with first := at_ 0 } : MmtRun).fromRow t at_ f
    r :: replaceRuns floor t f (Nat.max e (r.last + 1)) l

/-- The cores of `l` feed on, with the values of DIE_MTX_CTL in force now (R23, R101). -/
def Dev.unparkRows (s : Dev) (l : List Nat) : Dev :=
  l.foldl (fun s c =>
    let f (r : RowPlan) : RowPlan := { r with oc := s.ocSkip c, bm := s.bmSkip c }
    s.onCore c fun k => { k with mmts := replaceRuns (fun r => s.feedFloor c r.ent r.banks) (s.cycle c) f 0 k.mmts }) s

/-- What the chunks of a live row are (R83, R87, R88). -/
def Mmt.plan (m : Mmt) (lat : List W64) (k : Core) (r : Nat) : List FeedPlan :=
  let f := m.stored k r
  (List.range m.kc).map fun j =>
    let occ := m.occ k f j
    let zero := m.zeroChunk ((List.range m.d).map (elemAt m.af (m.chunk k r f j))) (m.acode k f j)
    let cls (e : Nat) : Nat :=
      if !m.on e then 4 else if m.idle lat e then 2 else if !m.block lat e j then 1
      else if occ && !zero && (!m.lg || (List.range 128).any fun i => k.gateOf (2 * e + m.wbuf) i) then 0 else 3
    ⟨occ, m.someBlock lat j, (List.range 4).map cls⟩

/-- Rows `[lo, hi)` of the tile, fed from cycle `t` on under the values `oc` and `bm` of DIE_MTX_CTL (R87, R101). -/
def Mmt.rowPlans (m : Mmt) (lat : List W64) (k : Core) (lo hi t : Nat) (oc bm : Bool) : List RowPlan :=
  placeRows m (m.stage t) t (((List.range (Nat.min hi m.rows)).filter (lo ≤ ·)).map fun r =>
    let live := m.live k r
    ⟨r, live, 0, if live then m.plan lat k r else [], oc, bm⟩)

/-- The row mask and the occupancy words of the live rows: what an MMT reads before anything else. -/
def Mmt.maps (m : Mmt) (k : Core) : List (Nat × Nat) :=
  (match m.rm with | some a => [(a, 16)] | none => []) ++
  (match m.oc with
   | some a => if m.col then (m.liveRows k 0).map fun r => (a + 2 * r, 2) else [(a, 2 * (m.liveRows k 0).length)]
   | none => [])

/-- The bytes a fed chunk is read from, its scale code among them (R75, R78). -/
def Mmt.chunkRanges (m : Mmt) (k : Core) (r j : Nat) : List (Nat × Nat) :=
  let f := m.stored k r
  (if m.col then (List.range m.d).flatMap fun i => skewPieces m.base (j * m.d + i) (16 * m.coff + r * colBytes m.af) (colBytes m.af)
   else skewPieces m.base f (j * chunkBytes m.af m.sp) (chunkBytes m.af m.sp)) ++
  (if isMx m.af then [(m.sc + 16 * f + j * m.d / 32, 1)] else [])

/-- What the feeds of some rows read (R100). -/
def Mmt.ranges (m : Mmt) (k : Core) (rows : List RowPlan) : List (Nat × Nat) :=
  rows.flatMap fun r => (r.chunks.zipIdx.filter fun c => (c.1.occ || !r.oc) && (c.1.blk || !r.bm)).flatMap fun c => m.chunkRanges k r.row c.2

/-- The bank record: 2 × int8 + buffer (R91). -/
def Core.bankRec (k : Core) (e b : Nat) : Nat := Sparse.get (always 0) k.bank (2 * e + b)

/-- The part `[lo, hi)` of the tile lies in bank `b`, in part. -/
def Mmt.meets (m : Mmt) (lo hi b : Nat) : Bool :=
  (List.range (Nat.min hi m.rows)).any fun r => decide (lo ≤ r) && (64 * m.half + r) / 64 == b

/-- Set the bank records of what rows `[lo, hi)` write: banks that they feed into or that their init clears, per engine (R91). An engine
that the block map idles for every chunk is fed into all the same (DESIGN CHOICE, log entry 113). -/
def Mmt.record (m : Mmt) (lat : List W64) (lo hi : Nat) (rows : List RowPlan) (init : Bool) (k : Core) : Core :=
  { k with bank := (List.range 4).foldl (fun rec_ e => [0, 1].foldl (fun rec_ b =>
      let hit := rows.any fun r => (64 * m.half + r.row) / 64 == b && r.chunks.any fun c => c.occ && c.blk
      if m.on e && m.meets lo hi b && (init || (hit && !m.idle lat e)) then
        Sparse.set (always 0) rec_ (2 * e + b) (2 * b2n (m.wf == 9) + m.wbuf)
      else rec_) rec_) k.bank }

/-- The part `[lo, hi)` of the tile writes these banks. -/
def Mmt.banksOf (m : Mmt) (lo hi : Nat) : List Nat := [0, 1].filter (m.meets lo hi)

/-- The first cycle in which the tile can feed, behind the tile before it (R80, R87). -/
def Dev.firstFeed (s : Dev) (c : Nat) (x : QEnt) (lo hi : Nat) : Nat :=
  (s.core c).mmts.foldl (fun t r => Nat.max t (r.last + 1)) (s.feedFloor c x ((mmtOf x.w0 x.w1).banksOf lo hi))

/-- A removed tile does nothing at all (R84); its pairs are skipped (R88). -/
def Mmt.countRemoved (m : Mmt) (c : Nat) (s : Dev) : Dev :=
  (List.range 4).foldl (fun s e => if m.on e then
    ((s.count (engBlk c e) 7 1).count (engBlk c e) 4 (m.rows * m.kc)).count (engBlk c e) 20 (m.rows * m.kc) else s) s

/-- Count chunks of a tile that have been fed, for every engine it enables (R88, R513, R521). -/
def Mmt.tallyFeeds (m : Mmt) (c : Nat) (l : List FeedPlan) (s : Dev) : Dev :=
  let redo := (s.core c).redo != 0
  (List.range 4).foldl (fun s e =>
    if !m.on e then s else
    let n (k : Nat) : Nat := (l.filter fun f => f.eng.getD e 4 == k).length
    let b := engBlk c e
    let s := if redo then (s.count b 1 (n 0)).count b 13 (n 0) else s.count b 0 (n 0)
    let s := (((s.count b 1 (n 1 + n 2 + n 3)).count b 10 (n 1)).count b 11 (n 2)).count b 12 (n 3)
    (s.count b 5 l.length).count b (21 + m.af) l.length) s

/-- Count the pairs of rows of a tile that no feed took: by row mask, occupancy map, block map of all engines (R88, R513). R88 speaks of one
skipped count of the core, R513 gives every engine block one: a pair is counted in the block of each engine of eng_en (DESIGN CHOICE, log entry
124). -/
def Mmt.tallyRows (m : Mmt) (c : Nat) (l : List RowPlan) (s : Dev) : Dev :=
  let dead := m.kc * (l.filter fun r => !r.live).length
  let occ := l.foldl (fun n r => n + (r.chunks.filter fun f => !f.occ && r.oc).length) 0
  let blk := l.foldl (fun n r => n + (r.chunks.filter fun f => (f.occ || !r.oc) && !f.blk && r.bm).length) 0
  (List.range 4).foldl (fun s e =>
    if !m.on e then s else
    let b := engBlk c e
    (((s.count b 4 (dead + occ + blk)).count b 17 dead).count b 18 occ).count b 19 blk) s

/-- The chunks of a tile that the cycles `[t, e)` feed, of its rows below `stop`. -/
def MmtRun.feedsIn (r : MmtRun) (t e stop : Nat) : List FeedPlan :=
  r.rows.flatMap fun p =>
    if p.row < stop then ((p.fed.zipIdx p.start).filter fun x => decide (t ≤ x.2) && decide (x.2 < e)).map (·.1) else []

/-- The rows of a tile below `stop` whose boundary lies in `[t, e)`. -/
def MmtRun.rowsIn (r : MmtRun) (t e stop : Nat) : List RowPlan :=
  r.rows.filter fun p => decide (p.row < stop) && decide (t ≤ p.start) && decide (p.start < e)

/-- Count what the cycles `[t, e)` do with the rows below `stop` of a tile that has started. -/
def MmtRun.tally (r : MmtRun) (c t e stop : Nat) (s : Dev) : Dev :=
  let m := mmtOf r.ent.w0 r.ent.w1
  m.tallyRows c (r.rowsIn t e stop) (m.tallyFeeds c (r.feedsIn t e stop) s)

/-- Feed rows `[lo, hi)` of a tile that is not removed, with or without its init (R66 to R70, R87, R98). -/
def mmtFeed (c : Nat) (x : QEnt) (lo hi : Nat) (doInit : Bool) (s : Dev) : Dev :=
  let m := mmtOf x.w0 x.w1
  match s.lsCheck c (m.maps (s.core c)) with
  | (s, false) => s
  | (s, true) =>
    let first := s.firstFeed c x lo hi
    let rows := m.rowPlans x.lat (s.core c) lo hi first (s.ocSkip c) (s.bmSkip c)
    match s.lsCheck c (m.ranges (s.core c) rows) with
    | (s, false) => s
    | (s, true) =>
      let pre := (s.core c).acc
      let init := doInit && m.init
      match s.lineCheck c (m.lines x.lat lo hi init) with
      | (s, false) => s
      | (s, true) =>
        let s := s.onCore c fun k => if init then m.clear lo hi k else k
        s.onCore c fun k =>
          let rows := m.rowPlans x.lat k lo hi first (s.ocSkip c) (s.bmSkip c)
          let run : MmtRun := ⟨x, pre, k.bank, first, rows, m.banksOf lo hi⟩
          { (m.record x.lat lo hi rows init k) with
            acc := m.addRows x.lat k ((m.liveRows k lo).filter (· < hi)), mmts := k.mmts ++ [run] }

/-! ### MDRAIN (R90 to R94, R173) -/

/-- Fields of MDRAIN. -/
structure Mdrain where
  eng   : Nat
  bank  : Nat
  rows  : Nat
  fmt   : Nat
  rnd   : Nat
  sat   : Bool
  bmax  : Bool
  bias  : Option Nat
  act   : Nat
  zf    : Bool
  rm    : Bool
  lg    : Bool
  chan  : Option Nat
  slot  : Option Nat
  pr    : Bool
  dst   : Nat
  pitch : Nat
  scl   : Nat
  deriving DecidableEq, Repr

/-- The fields of the words. -/
def mdrainOf (w0 w1 : W64) : Mdrain :=
  { eng := fld64 w0 8 4, bank := fld64 w0 12 1, rows := fld64 w0 13 6 + 1, fmt := fld64 w0 19 4, rnd := fld64 w0 23 2,
    sat := fld64 w0 25 1 == 1, bmax := fld64 w0 26 1 == 1,
    bias := if fld64 w0 27 1 = 1 then some (16 * fld64 w1 28 16) else none, act := fld64 w0 28 3, zf := fld64 w0 31 1 == 1,
    rm := fld64 w0 32 1 == 1, lg := fld64 w0 33 1 == 1,
    chan := if fld64 w0 34 1 = 1 then some (fld64 w0 35 4) else none,
    slot := if fld64 w0 39 1 = 1 then some (fld64 w0 40 3) else none, pr := fld64 w0 63 1 == 1, dst := 16 * fld64 w1 0 16,
    pitch := 16 * fld64 w1 16 12, scl := 16 * fld64 w1 44 16 }

/-- The scalar registers an MDRAIN reads, in the order it names them: sc_reg, sr_reg and the two behind it under SR, rm_reg,
pr_reg (R90). -/
def mdrainRegs (w0 : W64) : List Nat :=
  [fld64 w0 43 5] ++ (if fld64 w0 23 2 = 2 then [fld64 w0 48 5, fld64 w0 48 5 + 1, fld64 w0 48 5 + 2] else []) ++
  [fld64 w0 53 5, fld64 w0 58 5]

/-- Engine `e` is drained. -/
def Mdrain.on (m : Mdrain) (e : Nat) : Bool := bit m.eng e

/-- Columns up to the end of the highest engine drained. -/
def Mdrain.cols (m : Mdrain) : Nat := 128 * (Nat.log2 m.eng + 1)

/-- What R79 and R175 ask of MDRAIN. -/
def mdrainLegal (brz : Bool) (w0 w1 : W64) : Bool :=
  let m := mdrainOf w0 w1
  fld64 w1 60 4 == 0 && m.eng != 0 && decide (m.fmt ≤ 0xD) && m.rnd != 3 && decide (m.act ≤ 4) &&
  !(m.rnd == 2 && decide (29 < fld64 w0 48 5)) && !(m.fmt == 0xC && m.bmax) &&
  !(m.fmt == 0xB && (m.bias.isSome || m.act != 0)) && !(m.chan.isSome && m.fmt != 0xC) && !(m.slot.isSome && brz) &&
  (match m.bias with | some a => decide (a + 4 * m.cols ≤ lsSize) | none => true) &&
  (m.chan.isSome ||
    (decide (m.dst + (m.rows - 1) * m.pitch + m.cols * elemBits m.fmt / 8 ≤ lsSize) &&
     (!isBlock m.fmt || decide (m.scl + 16 * (m.rows - 1) + m.cols / 32 ≤ lsSize))))

/-- Cycles of the vector engine (R94). -/
def Mdrain.cost (m : Mdrain) (lat : List W64) : Nat :=
  if m.pr ∧ lat.getLastD 0 = 0 then 1
  else m.rows * ((List.range 4).filter m.on).length * (if 2 ≤ m.act then 2 else 1)

/-- Row `r` is live. -/
def Mdrain.live (m : Mdrain) (lat : List W64) (r : Nat) : Bool := !m.rm || bit (wordAt lat (lat.length - 2)).toNat r

/-- Column `n` is open: its gate bit in the buffer recorded for the bank (R92). -/
def Mdrain.open_ (m : Mdrain) (k : Core) (n : Nat) : Bool :=
  !m.lg || k.gateOf (2 * (n / 128) + k.bankRec (n / 128) m.bank % 2) (n % 128)

/-- The activation functions (R90, R91). -/
def actFn (lvl act : Nat) (v : XVal) : XVal :=
  match act with
  | 1 => match v with
    | .nan => .nan
    | v => if XVal.lt (.fin false 0 0) v then v else .fin false 0 0
  | 2 => f32 (sfu lvl 6 (rne32 v))
  | 3 => f32 (sfu lvl 5 (rne32 v))
  | 4 => f32 (sfu lvl 4 (rne32 v))
  | _ => v

/-- The value of column `n` in row `r` before conversion (R91). -/
def Mdrain.value (m : Mdrain) (lvl : Nat) (k : Core) (r n : Nat) : XVal :=
  let acc := k.accOf (n / 128) (n % 128) (64 * m.bank + r)
  let int8 := decide (2 ≤ k.bankRec (n / 128) m.bank)
  let v := if int8 then (if m.fmt = 0xB then XVal.ofInt (signed 32 acc) else f32 (rne32 (XVal.ofInt (signed 32 acc))))
           else f32 acc
  let v := match m.bias with
    | some a => f32 (rne32 (v.add (f32 (k.lsNat (a + 4 * n) 4))))
    | none => v
  actFn lvl m.act v

/-- What one converted element contributes to a statistics slot (R173). -/
def statOf (v : XVal) (satd nf zero : Bool) : Stat :=
  match v with
  | .fin _ m e =>
    if m = 0 then { Stat.cleared with sat := b2n satd, nfb := b2n nf }
    else ⟨ilog2 m e, b2n satd, b2n nf, 1, b2n zero⟩
  | _ => { Stat.cleared with sat := b2n satd, nfb := b2n nf }

/-- Convert one element to an element format: bits, and its statistics. -/
def Mdrain.elem (m : Mdrain) (rand : Nat) (v : XVal) : Nat × Stat :=
  if isInt m.fmt then
    let n := elemBits m.fmt
    let z := v.toInt n m.rnd rand
    let past := match v with
      | .fin s a e => roundInt m.rnd rand s a e != z
      | .inf _ => true
      | .nan => false
    (wrap n z, statOf v past false (z == 0))
  else
    let f := fmtOf m.fmt
    let x := f.encode m.rnd m.sat rand v
    let past := match v with
      | .fin _ a e => f.overflows m.rnd rand a e
      | _ => false
    (x, statOf v past (!(f.decode x).finite) (f.decode x).isZero)

/-- Convert one block of 32 columns (elements none where masked): scale code, element bits, statistics, saturations of R46. Of a
block that is written with code 0xFF no value counts as an underflow (DESIGN CHOICE beside R173; log entry 129). -/
def Mdrain.block (m : Mdrain) (planned : Nat) (rand : Nat → Nat) (vs : List (Option XVal)) : Nat × List Nat × Stat × Nat :=
  let live := vs.filterMap id
  let code := if m.bmax then blockCode m.fmt live else planned
  if (planned = 0xFF ∧ !m.bmax) ∨ !(live.all XVal.finite) then
    (0xFF, List.replicate 32 0,
     (live.map fun v => statOf v false false false).foldl Stat.fold { Stat.cleared with nfb := 1 }, 0)
  else
    let r := vs.zipIdx.map fun p =>
      match p.1 with
      | none => (0, Stat.cleared, 0)
      | some v =>
        if m.fmt = 0xC then
          let (q, o) := toBi16 code m.rnd (rand p.2) v
          (wrap 16 q, statOf v o false (q == 0), b2n o)
        else
          let (q, o) := toMx m.fmt code m.rnd (rand p.2) v
          let z := if m.fmt = 0xD then q == 0 else ((fmtOf m.fmt).decode q).isZero
          (q, statOf v o false z, 0)
    (code, r.map fun x => x.1, (r.map fun x => x.2.1).foldl Stat.fold Stat.cleared, (r.map fun x => x.2.2).foldl (· + ·) 0)

/-- What a drained row yields: cells for the local store, blocks for a stream, statistics, saturations, non-finite blocks. -/
structure RowOut where
  cells : List (Nat × Byte)
  blks  : List (Nat × List Byte)
  stat  : Stat
  sats  : Nat
  nfs   : Nat
  deriving DecidableEq, Repr

/-- Drain row `r` (R91 to R93). -/
def Mdrain.row (m : Mdrain) (lvl : Nat) (k : Core) (lat : List W64) (rand : Nat → Nat) (r : Nat) : RowOut :=
  let ok (n : Nat) : Bool := m.on (n / 128) && m.live lat r && m.open_ k n
  let planned := (wordAt lat 0).toNat % 256
  if isBlock m.fmt then
    (List.range 16).foldl (fun (o : RowOut) b =>
      let ns := (List.range 32).map fun i => 32 * b + i
      let vs := ns.map fun n => if ok n then some (m.value lvl k r n) else none
      let none_ := vs.all Option.isNone
      if m.chan.isNone ∧ (!m.on (b / 4) ∨ (none_ ∧ !m.zf)) then o else
      let (code, els, st, sats) := m.block planned (fun i => rand (32 * b + i)) vs
      let bs := packElems m.fmt els
      { cells := o.cells ++ (if m.chan.isSome then [] else
          cellsAt (m.dst + r * m.pitch + b * 4 * elemBits m.fmt) bs ++ [(m.scl + 16 * r + b, BitVec.ofNat 8 code)]),
        blks := o.blks ++ [(code, bs)], stat := o.stat.fold st, sats := o.sats + sats,
        nfs := o.nfs + b2n (code == 0xFF) }) ⟨[], [], Stat.cleared, 0, 0⟩
  else
    ((List.range 512).filter fun n => m.on (n / 128)).foldl (fun (o : RowOut) n =>
      let w := elemBits m.fmt / 8
      let at_ := m.dst + r * m.pitch + w * n
      if ok n then
        let (x, st) := m.elem (rand n) (m.value lvl k r n)
        { o with cells := o.cells ++ cellsAt at_ (natLe w x), stat := o.stat.fold st }
      else if m.zf then { o with cells := o.cells ++ cellsAt at_ (natLe w 0) } else o) ⟨[], [], Stat.cleared, 0, 0⟩

/-- The bias range an MDRAIN reads. -/
def Mdrain.ranges (m : Mdrain) : List (Nat × Nat) :=
  match m.bias with
  | some a => ((List.range 4).filter m.on).map fun e => (a + 512 * e, 512)
  | none => []

/-- An element of the drain is active: it is not skipped, and some row and column are open (R519). -/
def Mdrain.acts (m : Mdrain) (k : Core) (lat : List W64) : Bool :=
  !(m.pr && lat.getLastD 0 == 0) && ((List.range m.rows).any (m.live lat)) &&
  (List.range 512).any fun n => m.on (n / 128) && m.open_ k n

/-- Drain a bank. -/
def mdrainBody (c : Nat) (x : QEnt) (s : Dev) : Dev :=
  let m := mdrainOf x.w0 x.w1
  if m.pr ∧ x.lat.getLastD 0 = 0 then s else
  match s.lsCheck c m.ranges with
  | (s, false) => s
  | (s, true) =>
    match s.lineCheck c fun y => (List.range 4).any fun e => m.on e && accLine y e m.bank with
    | (s, false) => s
    | (s, true) =>
    let k := s.core c
    let h := s.tensor (wordAt x.lat 1)
    let rand (r n : Nat) : Nat :=
      if m.rnd = 2 then randAt h (wordAt x.lat 2 + BitVec.ofNat 64 r * wordAt x.lat 3 + BitVec.ofNat 64 n).toNat else 0
    let outs := (List.range m.rows).map fun r => m.row s.featLevel k x.lat (rand r) r
    let s := outs.foldl (fun s o => if o.cells.isEmpty then s else s.lsWrite c o.cells) s
    let s := match m.chan with
      | some ch =>
        let h := 16 * (c / 16) + ch
        s.setChan h { s.chan h with stream := (s.chan h).stream ++ outs.flatMap RowOut.blks }
      | none => s
    let st := (outs.map RowOut.stat).foldl Stat.fold Stat.cleared
    let s := match m.slot with
      | some i => s.onCore c fun k => k.setSlot i ((k.slot i).fold st)
      | none => s
    let s := (List.range 4).foldl (fun s e => if m.on e then s.count (engBlk c e) 9 m.rows else s) s
    s.vnote c ((outs.map RowOut.sats).foldl (· + ·) 0) ((outs.map RowOut.nfs).foldl (· + ·) 0)

end Sys2Proof.Machine
end

