-- ==== Sys2Proof/Machine/MemCmds.lean ====
section
/-! DEFINITION. The commands on memory: invalidation, scrub, drains, walks, the pager, CXL memory (R244 to R262). -/

namespace Sys2Proof.Machine

/-! ### Invalidation (R253, R265) -/

/-- Remove, from every TLB, the entries whose page overlaps `[lo, hi)`. -/
def Dev.dropTlb (s : Dev) (lo hi : Nat) : Dev :=
  let keep (e : TlbEnt) : Bool := !(decide (e.va < hi) && decide (lo < e.va + e.size))
  (List.range 36).foldl (fun s t => s.setTlb t ((s.tlb t).filter keep)) s

/-- The size of an invalidation's range by its code; code 3 is all pages (R265). -/
def invSize (code : Nat) : Nat := if code = 0 then 0x10000 else if code = 1 then 0x200000 else 0x40000000

/-- A write of `w` to MEM_TLB_INV (R253, R278). -/
def tlbInvalidateEffect (w : W64) (s : Dev) : Dev :=
  let s := if fld64 w 2 14 != 0 || fld64 w 52 12 != 0 then s.violation 0x3010 true else s
  let code := fld64 w 0 2
  let z := invSize code
  let lo := fld64 w 16 36 * 65536 / z * z
  let s := if code = 3 then s.dropTlb 0 (2 ^ 52) else s.dropTlb lo (lo + z)
  { s with mem := { s.mem with invs := s.mem.invs + 1 } }

/-- The oldest invalidation completes (R253). -/
def tlbDoneEffect (s : Dev) : Dev :=
  if s.mem.invs = 0 then s
  else { s with mem := { s.mem with invs := s.mem.invs - 1 } }.addFld memTlbDoneDone 1

/-- TLB_INVALIDATE (R253). -/
def execTlbInvalidate (w : W64) (s : State) : Res := s.run (tlbInvalidateEffect w)
/-- TLB_INVALIDATION_DONE (R253). -/
def execTlbInvalidationDone (s : State) : Res := s.run tlbDoneEffect

/-! ### Scrub (R244, R245) -/

/-- Scrub the codeword that holds `pa`. -/
def scrubEffect (pa : Nat) (s : Dev) : Dev :=
  let cw := pa / 128 * 128
  if s.fld memHealthCtlScrubH = 0 || !s.inHbm cw then s else
  match s.phys.bad 128 cw 128 with
  | [] => { s with mem := { s.mem with scrubLog := setDel s.mem.scrubLog cw } }
  | (_, e) :: _ =>
    match e with
    | .corrected _ _ =>
      let d := s.snoopBack cw 128
      { d with phys := s.phys.write 128 cw (s.physRead cw 128) }.noteWord 0 cw e
    | .uncorr =>
      if s.mem.scrubLog.contains cw then s
      else { s with mem := { s.mem with scrubLog := setAdd s.mem.scrubLog cw } }.noteWord 2 cw e
    | _ => s

/-- SCRUB (R244). -/
def execScrub (pa : BitVec 52) (s : State) : Res := s.run (scrubEffect pa.toNat)

/-! ### Walks (R250) -/

/-- The unit that translates through TLB `t`, as a message source. -/
def tlbSrc (t : Nat) : Src := if t < 32 then clusterSrc t 1 else dieSrc (t - 32) 5

/-- TABLE_WALK (R250). -/
def execTableWalk (tlb : Fin 36) (va : BitVec 52) (wr : Bool) (s : State) : Res :=
  s.run fun s => (s.walkFill tlb (tlbSrc tlb) 0 va.toNat wr).1

/-! ### The pager (R255 to R258) -/

/-- Where the pool bit of a frame lies: byte address and bit (R257). -/
def Dev.poolBit (s : Dev) (frame : Nat) : Nat × Nat :=
  (s.fld memPagerPoolBase * 2 ^ 22 + frame / 65536 / 8, frame / 65536 % 8)

/-- A frame is free and belongs to the pager: its pool bit as the code corrects it, none in a word that is lost, or a frame of a spill window that is not in use (R257). -/
def Dev.poolFree (s : Dev) (frame : Nat) : Bool :=
  if frame < 0x20000000000 then
    let (a, b) := s.poolBit frame
    !(worst (s.physBad a 1)).lost && bit (leNat (s.physRead a 1)) b && s.frameBacked frame
  else match s.window frame with
    | some (.cxl n, _) => s.on (memCxlWinSpill.nth n) && !s.mem.spilled.contains frame
    | _ => false

/-- Mark a frame free or taken (R257). -/
def Dev.setPool (s : Dev) (frame : Nat) (free : Bool) : Dev :=
  if frame < 0x20000000000 then
    let (a, b) := s.poolBit frame
    let v := leNat (s.physRead a 1)
    let v' := if free then (if bit v b then v else v + 2 ^ b) else (if bit v b then v - 2 ^ b else v)
    s.ownWrite a [BitVec.ofNat 8 v']
  else { s with mem := { s.mem with
    spilled := if free then setDel s.mem.spilled frame else setAdd s.mem.spilled frame } }

/-- The frames of the byte of the bitmap at `a`. -/
def Dev.poolByte (s : Dev) (a : Nat) (b : Byte) : List Nat :=
  let f0 := (a - s.fld memPagerPoolBase * 2 ^ 22) * 8
  (List.range 8).filterMap fun i => if bit b.toNat i then some ((f0 + i) * 65536) else none

/-- The pool bitmap's first byte. -/
def Dev.poolBase (s : Dev) : Nat := s.fld memPagerPoolBase * 2 ^ 22

/-- The free pool frames below 0x200_0000_0000, rising. -/
def Dev.poolFrames (s : Dev) : List Nat :=
  let st := Store.correct 128 s.phys (s.phys.bad 128 s.poolBase (2 ^ 22))
  ((Sparse.range st.bytes s.poolBase (s.poolBase + 2 ^ 22)).flatMap fun e => s.poolByte e.1 e.2).filter s.poolFree

/-- The window of a frame, for "a pool frame of the same window". -/
def Dev.frameWindow (s : Dev) (f : Nat) : Option Window := (s.window f).map (·.1)

/-- A leaf of the page tables: the virtual address and size of its page, its entry's name and value. -/
structure Leaf where
  va   : Nat
  size : Nat
  addr : Nat
  ent  : W64
  deriving DecidableEq, Repr

/-- The indexes of a table's entries that memory lists, rising. -/
def Dev.tableIndexes (s : Dev) (tab n : Nat) : List Nat :=
  (Sparse.range s.phys.bytes tab (tab + 8 * n)).foldl (fun l e => setAdd l ((e.1 - tab) / 8)) []

/-- The leaves under table `tab`, whose first page is at `va`. -/
def Dev.leavesFrom (s : Dev) : List Level → Nat → Nat → List Leaf
  | [], _, _ => []
  | lv :: rest, tab, va =>
    (s.tableIndexes tab (2 ^ lv.width)).flatMap fun i =>
      let a := tab + 8 * i
      let e := BitVec.ofNat 64 (leNat (s.physRead a 8))
      let v := va + i * 2 ^ lv.lo
      if fld64 e 0 1 = 0 || (worst (s.physBad a 8)).lost then []
      else if fld64 e 1 1 = 0 then Dev.leavesFrom s rest (fld64 e 8 44 * 256) v
      else if s.isSplit a e then
        (List.range (2 ^ lv.lo / 65536)).map fun j => ⟨v + 65536 * j, 65536, splitKey a j, s.splitEntry a j e⟩
      else [⟨v, 2 ^ lv.lo, a, e⟩]

/-- Every valid leaf of the page tables. -/
def Dev.leaves (s : Dev) : List Leaf :=
  if s.on memPtRootEn then s.leavesFrom levels (s.fld memPtRootBase * 16384) 0 else []

/-- The entries of the tables that the pager reads on its way through them. -/
def Dev.tableReads (s : Dev) : List Level → Nat → List Nat
  | [], _ => []
  | lv :: rest, tab =>
    (s.tableIndexes tab (2 ^ lv.width)).flatMap fun i =>
      let a := tab + 8 * i
      let e := BitVec.ofNat 64 (leNat (s.physRead a 8))
      a :: (if fld64 e 0 2 = 1 ∧ !(worst (s.physBad a 8)).lost then Dev.tableReads s rest (fld64 e 8 44 * 256) else [])

/-- The pager has read the pool bitmap and the page tables: each codeword that is not clean counts once (R245, R246). -/
def Dev.pagerReads (s : Dev) : Dev :=
  let tables := if s.on memPtRootEn then (s.tableReads levels (s.fld memPtRootBase * 16384)).flatMap fun a => s.physBad a 8 else []
  s.noteAll 2 (s.physBad s.poolBase (2 ^ 22) ++ tables).eraseDups

/-- The frame of a leaf. -/
def Leaf.frame (l : Leaf) : Nat := fld64 l.ent 16 36 * 65536
/-- Pinned: the pager never spills it (R250). -/
def Leaf.pinned (l : Leaf) : Bool := fld64 l.ent 3 1 == 1
/-- Accessed. -/
def Leaf.accessed (l : Leaf) : Bool := fld64 l.ent 4 1 == 1

/-- The leaf that maps the 64 KiB page at `va`, split into 64 KiB entries first when its page is larger (R247, R256). -/
def Dev.smallLeaf (s : Dev) (va : Nat) : Dev × Option Leaf :=
  match s.leaves.find? fun l => decide (l.va ≤ va) && decide (va < l.va + l.size) with
  | none => (s, none)
  | some l =>
    if l.size = 65536 then (s, some l)
    else
      let i := (va - l.va) / 65536
      let s := { s with mem := { s.mem with splits := Sparse.set (always 0) s.mem.splits l.addr l.ent,
                                            split := Sparse.clear s.mem.split (splitKey l.addr 0) (splitKey (l.addr + 1) 0) } }
      (s, some ⟨l.va + 65536 * i, 65536, splitKey l.addr i, s.splitEntry l.addr i l.ent⟩)

/-- The first half of a move: mv set, the page invalidated in every TLB and MEM_TLB_DONE waited for, the destination taken
from the pool (R255). `org` is the window of origin to record. -/
def Dev.moveBegin (s : Dev) (l : Leaf) (dst org : Nat) : Dev :=
  let s := s.putLeaf l.addr (putBits l.ent 6 1 1)
  let s := s.dropTlb l.va (l.va + 65536)
  let s := { s with mem := { s.mem with invs := 0 } }.addFld memTlbDoneDone (s.mem.invs + 1)
  let s := s.setPool dst false
  { s with mem := { s.mem with move := some ⟨l.va, l.addr, l.frame, dst, org⟩ } }.setBit memPagerCtlIdle false

/-- Serve a host access that waited (R255), defined with the HDM commands below as a list to take up. -/
def Dev.takeWaiting (s : Dev) : Dev × List HdmReq := ({ s with mem := { s.mem with hdmWait := [] } }, s.mem.hdmWait)

/-- The bytes of a page move cross the ring and the stacks: the lead's base die reads the source and writes the destination (R12; that it passes them is
a DESIGN CHOICE, log entry 110). -/
def Dev.moveBytes (s : Dev) (m : Move) : Dev :=
  let t := baseTlb s.pkg.lead
  let src := pkgSrc s.pkg.lead 6
  ((s.countBytes 0 15 m.src 65536).carry t src false m.src 65536).countBytes 4 16 m.dst 65536 |>.carry t src true m.dst 65536

/-- The lines of a moved page that the host holds stand in the new frame from then on (R262). -/
def Dev.moveLines (s : Dev) (m : Move) : Dev :=
  let snoop := s.mem.snoop.map fun l => if m.src ≤ l ∧ l < m.src + 65536 then l - m.src + m.dst else l
  { s with mem := { s.mem with snoop } }

/-- The second half: copy 64 KiB in whole codewords, write the entry with the new frame, a 0, d kept, mv 0; the source frame
returns to the pool unless it is retired with a draining channel (R255, R247). -/
def Dev.moveEnd (s : Dev) (m : Move) (retire : Bool) : Dev :=
  let bad := s.physBad m.src 65536
  let lines := s.mem.cxlErr.filter fun l => decide (m.src ≤ l) && decide (l < m.src + 65536)
  let s := (((s.moveBytes m).noteAll 2 bad).snoopBack m.dst 65536).moveLines m
  let bs := s.physRead m.src 65536
  let s := { s with phys := s.phys.copyTo s.phys (cwLen m.src) (cwLen m.dst) m.src m.dst 65536 lines }
  let s := (s.cxlAsk m.src fun via tgt => .cxlRead via tgt 65536).cxlOut m.dst bs
  let e := putBits (putBits (putBits (putBits (s.leafWord m.leaf) 16 36 (m.dst / 65536)) 4 1 0) 6 1 0) 52 4 m.org
  let s := s.putLeaf m.leaf e
  let s := if retire then s else s.setPool m.src true
  { s with mem := { s.mem with move := none } }.setBit memPagerCtlIdle (!s.on memPagerCtlEn) |>.count pkgBlk 5 1

/-- A frame is one of those that a fence of pseudo-channel `pc` of `stack` retires (R237, R247). -/
def Dev.frameOn (s : Dev) (stack pc frame : Nat) : Bool :=
  match s.window frame, s.stackAddr frame with
  | some (w, _), some (_, sa) => w.stacks.contains stack && pcOf sa == pc
  | _, _ => false

/-- The window of origin as the org field has it: 0 to 3 home of die *d*, 4 interleaved (R250). -/
def orgOf : Window → Nat
  | .home d => d
  | .inter => 4
  | _ => 0

/-- A frame uses a pseudo-channel that drains (R247). -/
def Dev.onDraining (s : Dev) (frame : Nat) : Bool :=
  match s.window frame, s.stackAddr frame with
  | some (w, _), some (_, sa) => w.stacks.any fun st => bit (s.fld (memPcDrainDrain.nth st)) (pcOf sa)
  | _, _ => false

/-- The pseudo-channels on which a frame lies and that drain. -/
def Dev.drainsOf (s : Dev) (frame : Nat) : List (Nat × Nat) :=
  match s.window frame, s.stackAddr frame with
  | some (w, _), some (_, sa) =>
    (w.stacks.filter fun st => bit (s.fld (memPcDrainDrain.nth st)) (pcOf sa)).map fun st => (st, pcOf sa)
  | _, _ => []

/-- Step 1 of a drain: every free frame on the pseudo-channel leaves the pool (R247). -/
def Dev.drainPool (s : Dev) (stack pc : Nat) : Dev :=
  (s.poolFrames.filter (s.frameOn stack pc ·)).foldl (fun s f => s.setPool f false) s

/-- A drain that has stalled goes on (R248). -/
def Dev.drainGoes (s : Dev) (stack pc : Nat) : Dev :=
  { s with mem := { s.mem with stalled := setDel s.mem.stalled (64 * stack + pc) } }

/-- Move the page at `va` to `dst`, both halves. -/
def Dev.movePage (s : Dev) (va dst org : Nat) (retire : Bool) : Dev :=
  match s.smallLeaf va with
  | (s, some l) =>
    let s := s.moveBegin l dst org
    s.moveEnd ⟨l.va, l.addr, l.frame, dst, org⟩ retire
  | (s, none) => s

/-- The 64 KiB pages, by virtual address, whose frame uses a pseudo-channel. -/
def Dev.pagesOn (s : Dev) (stack pc : Nat) : List Nat :=
  s.leaves.flatMap fun l =>
    (List.range (l.size / 65536)).filterMap fun i =>
      if s.frameOn stack pc (l.frame + 65536 * i) then some (l.va + 65536 * i) else none

/-- The frame that maps the 64 KiB page at `va`, by the tables as they stand. -/
def Dev.frameAt (s : Dev) (va : Nat) : Option Nat :=
  (s.leaves.find? fun l => decide (l.va ≤ va) && decide (va < l.va + l.size)).map fun l =>
    l.frame + (va - l.va) / 65536 * 65536

/-- Move a drain's pages to the frames given, one after another; a frame that is not a free one of the page's window stops
it (R247, R248). The answer says whether every page has moved. -/
def Dev.drainMoves (s : Dev) (stack pc : Nat) : List Nat → List Nat → Dev × Bool
  | [], _ => (s, true)
  | _ :: _, [] => (s, false)
  | va :: vs, d :: ds =>
    match s.frameAt va with
    | none => Dev.drainMoves s stack pc vs (d :: ds)
    | some f =>
      if s.poolFree d && s.frameWindow d == s.frameWindow f && !s.frameOn stack pc d then
        Dev.drainMoves (s.movePage va d 0 true) stack pc vs ds
      else (s, false)

/-- The windows in which a drain still needs frames. -/
def Dev.drainNeeds (s : Dev) (stack pc : Nat) : List Window := (s.pagesOn stack pc).filterMap fun va => (s.frameAt va).bind s.frameWindow

/-- A pseudo-channel earlier in stack and pseudo-channel order drains and needs frames of the same pool (R248). -/
def Dev.drainBehind (s : Dev) (stack pc : Nat) : Bool :=
  let mine := s.drainNeeds stack pc
  (List.range (64 * stack + pc)).any fun n =>
    bit (s.fld (memPcDrainDrain.nth (n / 64))) (n % 64) && (s.drainNeeds (n / 64) (n % 64)).any mine.contains

/-- A pseudo-channel drains (R247): free frames leave the pool, pages move, frames retire with the fence bit. With no frame
for a page, while an earlier one needs the frames, while a page is being moved, or with the pager disabled, the drain waits (R248, R268). A
FENCE that waited for it completes (R313). -/
def pcDrainEffect (stack pc : Nat) (dsts : List Nat) (s : Dev) : Dev :=
  if !bit (s.fld (memPcDrainDrain.nth stack)) pc || !s.on memPagerCtlEn || s.mem.move.isSome || s.drainBehind stack pc then s else
  let s := (s.pagerReads).drainPool stack pc
  let pages := s.pagesOn stack pc
  match s.drainMoves stack pc pages dsts with
  | (s, true) =>
    let s := s.setFld (memPcFencedFenced.nth stack) (s.fld (memPcFencedFenced.nth stack) + 2 ^ pc)
    let s := s.setFld (memPcDrainDrain.nth stack) (s.fld (memPcDrainDrain.nth stack) - 2 ^ pc)
    let mine (c : RunCmd) : Bool := c.what == .drain stack pc
    let l := s.job.cmds.filter mine
    let s := { s with job := { s.job with cmds := s.job.cmds.filter fun c => !mine c } }.drainGoes stack pc
    l.foldl (fun (s : Dev) c => s.complete c.q c.cid c.quiet 0 0) s
  | (s, false) => if (s.pagesOn stack pc).length < pages.length then s.drainGoes stack pc else s

/-- A drain that has a page to move and no frame of its window in the pool sends drain-stalled, once until it moves a page again (R248). -/
def drainStalledEffect (stack pc : Nat) (s : Dev) : Dev :=
  let need := s.drainNeeds stack pc
  let have_ := (s.poolFrames.filter (!s.frameOn stack pc ·)).filterMap s.frameWindow
  if bit (s.fld (memPcDrainDrain.nth stack)) pc && need.any (!have_.contains ·) &&
     !s.mem.stalled.contains (64 * stack + pc) then
    { s with mem := { s.mem with stalled := setAdd s.mem.stalled (64 * stack + pc) } }.detect
      (pkgSrc s.pkg.lead 6) 0x07 2 (pc + 64 * stack)
  else s

/-! ### The HDM window (R262) -/

/-- A 64-byte line of the HDM window at offset `off`: its device virtual address, if the window holds it. -/
def Dev.hdmVa (s : Dev) (off : Nat) : Option Nat :=
  let line := off / 64 * 64
  if line < Nat.min 992 (s.fld memHdmHdmGib) * gib then some (s.fld memHdmHdmVa * gib + line) else none

/-- A host read of a line (R262, R245): the data, or CXL poison; the host may keep the line. A page being moved makes it wait
(R255). -/
def Dev.hdmRead (s : Dev) (off : Nat) (own : Bool) : Dev :=
  if !s.on hifStatusMemEn then s else
  match s.hdmVa off with
  | none => s.sendHost (.memData (List.replicate 64 0) true)
  | some va =>
    match s.xlate (baseTlb 0) (pkgSrc 0 4) 0 va false with
    | (s, .ok pa) =>
      let bad := s.physBad pa 64
      let s := ((s.noteAll 0 bad).countBytes 0 15 pa 64).carry (baseTlb 0) (pkgSrc 0 4) false pa 64
      let s := s.cxlAsk pa fun via tgt => .cxlRead via tgt 64
      let s := s.sendHost (.memData (s.physRead pa 64) (worst bad).lost)
      if own then { s with mem := { s.mem with snoop := setAdd s.mem.snoop (pa / 64 * 64) } } else s
    | (s, .wait _) => { s with mem := { s.mem with hdmWait := s.mem.hdmWait ++ [⟨off, none, own⟩] } }
    | (s, .fail) => s.sendHost (.memData (List.replicate 64 0) true)

/-- A host write of a line (R262): applied, or dropped when the translation fails. The host's own copy is the one written
back, so that no snoop is sent to it. -/
def Dev.hdmWrite (s : Dev) (off : Nat) (data : List Byte) : Dev :=
  if !s.on hifStatusMemEn then s else
  match s.hdmVa off with
  | none => s
  | some va =>
    match s.xlate (baseTlb 0) (pkgSrc 0 4) 0 va true with
    | (s, .ok pa) =>
      let s := { s with mem := { s.mem with snoop := setDel s.mem.snoop (pa / 64 * 64) } }
      (s.carry (baseTlb 0) (pkgSrc 0 4) true pa 64).physWriteC 0 pa (padTo 64 data)
    | (s, .wait _) => { s with mem := { s.mem with hdmWait := s.mem.hdmWait ++ [⟨off, some data, false⟩] } }
    | (s, .fail) => s

/-- Take up the host accesses that waited for a move, in their order. -/
def Dev.hdmResume (s : Dev) : Dev :=
  let (s, l) := s.takeWaiting
  l.foldl (fun s r => match r.data with | some d => s.hdmWrite r.off d | none => s.hdmRead r.off r.own) s

/-- A move left by a warm reset is undone when the pager is enabled: mv cleared, the destination back in the pool, what waited goes on
(R255, R483). -/
def Dev.undoMove (s : Dev) : Dev :=
  match s.mem.moveRec with
  | none => s
  | some m =>
    let s := (s.putLeaf m.leaf (putBits (s.leafWord m.leaf) 6 1 0)).setPool m.dst true
    { s with mem := { s.mem with moveRec := none } }.hdmResume

/-! ### HDM commands (R262) -/

/-- HDM_READ (R262). -/
def execHdmRead (off : W64) (own : Bool) (s : State) : Res := s.run fun s => s.hdmRead off.toNat own
/-- HDM_WRITE (R262). -/
def execHdmWrite (off : W64) (data : List Byte) (s : State) : Res := s.run fun s => s.hdmWrite off.toNat data

/-! ### Moves, sweeps and drains as commands -/

/-- Free pool frames of a window. -/
def Dev.freeCount (s : Dev) (w : Window) : Nat := (s.poolFrames.filter fun f => s.frameWindow f == some w).length

/-- The return threshold: low_gib + 1 when it is not above it (R268). -/
def Dev.highGib (s : Dev) : Nat := Nat.max (s.fld memPagerCtlHighGib) (s.fld memPagerCtlLowGib + 1)

/-- The frame of the 64 KiB page at `va` under leaf `l`. -/
def Leaf.frameOf (l : Leaf) (va : Nat) : Nat := l.frame + (va - l.va) / 65536 * 65536

/-- R256 lets the pager move the page at `va` under leaf `l` to `dst`, and the window of origin to record: a spill of an unpinned page
from a window below low_gib (a page with a = 1 only when none with a = 0 remains), or the return of an accessed spilled page to its window
above high_gib. A page that a drain is to move is left to it (R260). -/
def Dev.spillOk (s : Dev) (l : Leaf) (va dst : Nat) : Option Nat :=
  if !s.on memPagerCtlSpillEn || l.pinned || s.onDraining (l.frameOf va) then none else
  match s.frameWindow (l.frameOf va), s.frameWindow dst with
  | some (.cxl _), some w =>
    if w.hbm && orgOf w == fld64 l.ent 52 4 && l.accessed && decide (s.highGib * 16384 < s.freeCount w) && !s.onDraining dst
    then some 0 else none
  | some w, some (.cxl _) =>
    let cold := s.leaves.any fun x => !x.pinned && !x.accessed && s.frameWindow x.frame == some w
    if w.hbm && decide (s.freeCount w < s.fld memPagerCtlLowGib * 16384) && (!l.accessed || !cold) then some (orgOf w) else none
  | _, _ => none

/-- R247 lets the pager move the page at `va` under leaf `l` to `dst`: from a draining pseudo-channel to a frame of the same window,
pinned or not, while no earlier pseudo-channel needs the frames (R248). -/
def Dev.drainOk (s : Dev) (l : Leaf) (va dst : Nat) : Bool :=
  s.onDraining (l.frameOf va) && !s.onDraining dst && s.frameWindow dst == s.frameWindow (l.frameOf va) &&
  (s.drainsOf (l.frameOf va)).any fun x => !s.drainBehind x.1 x.2

/-- One move of a sweep, if R256 allows it. -/
def Dev.sweepMove (s : Dev) (m : Nat × Nat) : Dev :=
  match s.leaves.find? fun l => decide (l.va ≤ m.1) && decide (m.1 < l.va + l.size) with
  | none => s
  | some l =>
    if fld64 l.ent 6 1 = 1 || !s.poolFree m.2 then s else
    match s.spillOk l m.1 m.2 with
    | some org => s.movePage m.1 m.2 org false
    | none => s

/-- The pager moves one page (R255): begin when it is enabled and idle, the frame is a free one, and a drain or a sweep's rule asks for the
move (R247, R256, R258), a drain's after its free frames have left the pool; finish what has begun. -/
def pageMoveEffect (va dst : Nat) (finish : Bool) (s : Dev) : Dev :=
  if finish then
    match s.mem.move with
    | some m => (s.moveEnd m (s.onDraining m.src)).hdmResume
    | none => s
  else if s.mem.move.isSome || !s.on memPagerCtlEn || !s.poolFree dst then s
  else
    let s := s.undoMove.pagerReads
    match s.leaves.find? fun l => decide (l.va ≤ va) && decide (va < l.va + l.size) with
    | none => s
    | some l =>
      match if s.drainOk l va dst then some 0 else s.spillOk l va dst with
      | none => s
      | some org =>
        let drains := if s.drainOk l va dst then s.drainsOf (l.frameOf va) else []
        let s := drains.foldl (fun s x => (s.drainPool x.1 x.2).drainGoes x.1 x.2) s
        match s.smallLeaf va with
        | (s', some l) => if fld64 l.ent 6 1 = 1 then s else s'.moveBegin l dst org
        | (_, none) => s

/-- A sweep (R256): the moves, then a cleared in every unpinned leaf. -/
def pagerSweepEffect (moves : List (Nat × Nat)) (s : Dev) : Dev :=
  if !s.on memPagerCtlEn || !s.on memPagerCtlSpillEn || s.mem.move.isSome then s else
  let s := moves.foldl Dev.sweepMove s.undoMove.pagerReads
  s.leaves.foldl (fun s l => if l.pinned || !l.accessed then s else s.putLeaf l.addr (putBits l.ent 4 1 0)) s

/-- PC_DRAIN (R247). -/
def execPcDrain (stack : Fin 16) (pc : Fin 64) (dsts : List Nat) (s : State) : Res := s.run (pcDrainEffect stack pc dsts)
/-- DRAIN_STALLED (R248). -/
def execDrainStalled (stack : Fin 16) (pc : Fin 64) (s : State) : Res := s.run (drainStalledEffect stack pc)
/-- PAGE_MOVE (R255). -/
def execPageMove (va dst : BitVec 52) (finish : Bool) (s : State) : Res :=
  s.run (pageMoveEffect (va.toNat / 65536 * 65536) (dst.toNat / 65536 * 65536) finish)
/-- PAGER_SWEEP (R256). -/
def execPagerSweep (moves : List (Nat × Nat)) (s : State) : Res := s.run (pagerSweepEffect moves)

/-! ### CXL windows (R261) -/

/-- The lines of 64 bytes that `[pa, pa + n)` touches. -/
def linesOf (pa n : Nat) : List Nat := codewords 64 pa n

/-- CXL-attached memory answers: its bytes are what the window reads from then on, or the lines are marked so that the
requester meets an uncorrectable word (R261, R245). -/
def cxlCompletionEffect (pa : Nat) (data : List Byte) (ok : Bool) (s : Dev) : Dev :=
  match s.window pa with
  | some (.cxl _, _) =>
    let ls := linesOf pa data.length
    if ok then
      { s with phys := s.phys.write 64 pa data,
               mem := { s.mem with cxlErr := s.mem.cxlErr.filter (!ls.contains ·) } }
    else { s with mem := { s.mem with cxlErr := ls.foldl setAdd s.mem.cxlErr } }
  | _ => s

/-- CXL_WINDOW_COMPLETION (R261). -/
def execCxlWindowCompletion (pa : BitVec 52) (data : List Byte) (ok : Bool) (s : State) : Res :=
  s.run (cxlCompletionEffect pa.toNat data ok)

end Sys2Proof.Machine
end

