-- ==== Sys2Proof/Machine/Commit.lean ====
section
/-! DEFINITION. Commits and scheduled changes (R7, R23, R24, R280, R360): what COMMIT_REQUEST, UNIT_LULL_PAUSE, DEVICE_LULL,
SCHEDULE_CHANGE, SCHEDULE_CANCEL and SCHEDULED_CHANGE_DUE do. -/

namespace Sys2Proof.Machine

/-! ### Units and their fields -/

/-- `n` units of a kind, `step` apart. -/
def unitList (k : UnitKind) (n step : Nat) : List UnitId := (List.range n).map fun i => ⟨k, step * i⟩

/-- The units that hold the fields of the register at `off`; samples are the sequencers', trace records theirs and the dispatchers' (log
entry 112) (R22, R163, R226, R271, R373, R407, R444, R466, R467, R490). -/
def unitsOf (off : Nat) : List UnitId :=
  if off < 0x1000 then [⟨.complex, 0⟩]
  else if off < 0x2000 then [⟨.hostPort, 0⟩]
  else if off < 0x3000 then [⟨.complex, 0⟩]
  else if off < 0x4000 then unitList .memCtl 4 1
  else if off < 0x5000 then unitList .dispatcher 36 1
  else if off < 0x6000 then unitList .port 16 1
  else if off < 0x7000 then unitList .collective 4 1
  else if off < 0x7040 then unitList .update 4 1
  else if off < 0x8000 then [⟨.update, off / 8 % 4⟩]
  else if off < 0x8020 then unitList .collector 4 1
  else if off = 0x9028 ∨ off = 0x9030 ∨ (0x9080 ≤ off ∧ off < 0x90C0) then unitList .sequencer 512 1
  else if off = 0x9040 ∨ off = 0x9048 then unitList .sequencer 512 1 ++ unitList .dispatcher 36 1
  else if off < 0xC000 then [⟨.complex, 0⟩]
  else if off = 0xC000 then unitList .matrix 2048 1
  else if off = 0xC008 then unitList .clusterDma 32 16
  else if off = 0xC010 then unitList .dispatcher 36 1
  else if off = 0xC028 then [⟨.timeUnit, 0⟩]
  else [⟨.complex, 0⟩]

/-- The units that hold a change in one of the registers listed, without repeats. -/
def holders (m : Sparse W64) : List UnitId := (m.flatMap fun e => unitsOf e.1).eraseDups

/-- The base-die DMAs that run a chain of a DMA queue: a commit pauses them too (R305; log entry 112). -/
def Dev.queueDmas (s : Dev) : List UnitId :=
  ((List.range 4).filter fun d => s.chans.any fun e =>
    decide (1024 ≤ e.1) && e.2.st != .idle && (s.qctx (e.1 - 1024)).die == d).map fun d => ⟨.baseDma, 16 * d⟩

/-- The unit was out of service when the commit started. -/
def Dev.startFenced (s : Dev) (c : Commit) (u : UnitId) : Bool :=
  if u.kind = .port then c.ports.contains u.ix else s.unitFenced c.fenced u

/-- The units whose lull a commit waits for: those with a staged change that were in service at its start and still are. A memory controller is at a
boundary between any two accesses: it pauses with the device lull itself, and serves until then (DEDUCED; log entry 30). -/
def Dev.participants (s : Dev) (c : Commit) : List UnitId :=
  (holders s.regs.stgBits ++ s.queueDmas).filter fun u => u.kind != .memCtl && !s.startFenced c u && !s.unitFenced s.pkg.fences u

/-- A DMA chain of cluster `k` runs; a paused breeze chain stands at a boundary (R163). -/
def Dev.chainRuns (s : Dev) (k : Nat) : Bool :=
  (Sparse.range s.chans (16 * k) (16 * k + 16)).any fun e => e.2.st != .idle && !e.2.pause

/-- Unit `u` is at its lull (R22): a matrix engine comes to a tile-row boundary before the next tick, or feeds nothing; a cluster DMA is between
chains (R163); the memory controllers have no host access in flight when MEM_HDM is to change (R270); the time unit starts a whole
microsecond. Every other unit is at its lull between two commands. -/
def Dev.atLull (s : Dev) (bits : Sparse W64) (u : UnitId) : Bool :=
  match u.kind with
  | .matrix =>
    let c := u.ix / 4
    (s.feeding c).isNone || (s.core c).mmts.any fun m => m.rows.any fun r => decide (s.cycle c ≤ r.start) && decide (r.start < s.cycle c + 24)
  | .vector => !s.vecBusy u.ix
  | .clusterDma => !s.chainRuns (u.ix / 16)
  | .memCtl => !(bits.any fun e => e.1 == 0x3038) || s.mem.hdmWait.isEmpty
  | .timeUnit => decide (s.now 0 % 1000 < 8)
  | _ => true

/-- The job is RUNNING (R312). -/
def Dev.running (s : Dev) : Bool := s.fld sysJobStatusState == 3

/-- A register whose commits wait for the next close while the job is RUNNING (R191, R226). -/
def deferred (off : Nat) : Bool := off == 0x50 || off == 0x58 || off == 0x60 || (decide (0x7000 ≤ off) && decide (off < 0x8000))

/-- Advance the incarnation; 255 is followed by 1 (R399). Sequence numbers run from 0 again (R398), and the levels held and granted
before end. -/
def Dev.nextIncarnation (s : Dev) : Dev :=
  { s with fab := { s.fab with next := [], levels := [], granted := [] } }.setFld fabCtlInc
    (if s.fld fabCtlInc = 255 then 1 else s.fld fabCtlInc + 1)

/-- What HBM holds is undefined after a change of *I* (R263): every byte that memory lists there takes a free value (log entry 111). -/
def Dev.forgetHbm (s : Dev) : Dev :=
  let (n, s) := s.fresh
  let hbm := s.phys.bytes.filter fun e => decide (e.1 < 0x20000000000)
  { s with phys := { s.phys with bytes := Sparse.setAll (always 0) s.phys.bytes (hbm.map fun e => (e.1, Config.freeByte n e.1)) } }

/-- Make the bits `mask` of the value `v` active in the register at `off`. A change of the statistics ring or the plan table starts the
planner's window anew (R191); a change of *I* leaves HBM undefined (R263), and with one of MEM_PT_ROOT the TLBs begin anew (R271); with
poll_force cleared the device takes the doorbell lines into its cache again (R293); the pager
is idle while it is stopped and moves nothing (R268); running tiles go on with a change of DIE_MTX_CTL from their next row (R101); a change of en or pkg in FAB_CTL advances the incarnation (R399, R407), and one of pkg or mode has every port's plane and PBR ID judged anew
(R375, R380); the pager, once enabled, undoes a
move that a warm reset left (R483); a sampler that is rewritten counts from its period anew (R529). -/
def Dev.activate (s : Dev) (off : Nat) (mask v : W64) : Dev :=
  let old := s.reg off
  let new := (old &&& ~~~mask) ||| (v &&& mask)
  let s := s.setReg off new
  let s := if (off = 0x58 ∨ off = 0x60) ∧ old ≠ new then { s with job := { s.job with planFrom := s.fld sysStepStatusOrdinal } } else s
  let s := if off = 0x3000 ∧ Nat.min 62 (fld64 old 0 6) ≠ Nat.min 62 (fld64 new 0 6) then s.forgetHbm else s
  let s := if (off = 0x3000 ∨ off = 0x3008) ∧ old ≠ new then { s with mem := { s.mem with tlbs := [] } } else s
  let s := if off = 0x3028 then
    let s := if fld64 old 0 1 = 0 ∧ fld64 new 0 1 = 1 then s.undoMove else s
    s.setBit memPagerCtlIdle (fld64 new 0 1 == 0 && s.mem.move.isNone) else s
  let s := if off = 0x1010 ∧ fld64 old 0 1 ≠ fld64 new 0 1 then
    let all := s.on hifStatusCacheEn && fld64 new 0 1 == 0
    { s with que := { s.que with lines := [], stale := if all then s.heldLines else s.que.stale } } else s
  let s := if off = 0xC000 then s.unparkRows (s.cores.map (·.1)) else s
  let s := if 0x9080 ≤ off ∧ off < 0x90C0 then
    let n := (off - 0x9080) / 8
    { s with pmc := { s.pmc with samp := Sparse.clear s.pmc.samp (512 * n) (512 * n + 512) } } else s
  if off ≠ 0x5000 then s else
  let s := if fld64 old 0 1 ≠ fld64 new 0 1 ∨ fld64 old 16 13 ≠ fld64 new 16 13 then s.nextIncarnation else s
  if fld64 old 1 1 ≠ fld64 new 1 1 ∨ fld64 old 16 13 ≠ fld64 new 16 13 then
    (List.range 16).foldl (fun s p => (s.judgePort p).portSettle p) s
  else s

/-- Make active every register of a set, all together (R23): what the pager undoes when it is enabled it undoes under all the new values, its pool's
among them (R271, R483). -/
def Dev.activateAll (s : Dev) (vals bits : Sparse W64) : Dev :=
  let pager (e : Nat × W64) : Bool := e.1 == 0x3028
  (bits.filter (fun e => !pager e) ++ bits.filter pager).foldl (fun s e => s.activate e.1 e.2 (Sparse.get (always 0) vals e.1)) s

/-- Signal a completed commit (R280). -/
def Dev.commitSignal (s : Dev) : Dev := if s.on hifIntCommitIe then s.msix (s.fld hifIntCommitVec) else s

/-- A commit completes: done takes the count of its start (R280). -/
def Dev.commitDone (s : Dev) (req : Nat) : Dev :=
  ({ s with regs := { s.regs with commit := none } }.setFld sysLullStatusDone req).commitSignal

/-- A commit starts; without a staged change it completes at once (R280). -/
def Dev.commitStart (s : Dev) : Dev :=
  if s.regs.stgBits.isEmpty then (s.commitDone (s.fld sysLullStatusReq)).count pkgBlk 0 1
  else { s with regs := { s.regs with commit := some ⟨BitVec.ofNat 32 (s.fld sysLullStatusReq), [], s.pkg.fences, false,
    (List.range 16).filter fun p => s.on (fabPortFenced.nth p), []⟩ } }

/-- A commit has completed: the further one that was requested starts. -/
def Dev.commitNext (s : Dev) : Dev :=
  if s.regs.again then { s with regs := { s.regs with again := false } }.commitStart else s

/-- COMMIT_REQUEST (R280). -/
def commitRequestEffect (s : Dev) : Dev :=
  let s := s.addFld sysLullStatusReq 1
  match s.regs.commit with
  | some _ => { s with regs := { s.regs with again := true } }
  | none => s.commitStart

/-- A unit reaches its lull and pauses, if it takes part (R23, R24). -/
def unitPauseEffect (u : UnitId) (s : Dev) : Dev :=
  match s.regs.commit with
  | none => s
  | some c =>
    if c.lulled || !(s.participants c).contains u || c.paused.contains u || !s.atLull s.regs.stgBits u then s
    else
      let stop := decide (u.kind = .matrix) && !c.stops.contains (u.ix / 4)
      let s := if stop then s.parkRows (u.ix / 4) else s
      let stops := if stop then c.stops ++ [u.ix / 4] else c.stops
      { s with regs := { s.regs with commit := some { c with paused := c.paused ++ [u], stops } } }

/-- Split a set of registers into those at once and those that wait for the close. -/
def Dev.splitDeferred (s : Dev) (m : Sparse W64) : Sparse W64 × Sparse W64 :=
  if s.running then (m.filter fun (e : Nat × W64) => !deferred e.1, m.filter fun (e : Nat × W64) => deferred e.1) else (m, [])

/-- The device lull (R23, R280): once every participating unit has paused, the staged values as they stand become active, those
of R191 and R226 at the next close while the job runs; the commit completes when all of them are active. -/
def deviceLullEffect (s : Dev) : Dev :=
  match s.regs.commit with
  | none => s
  | some c =>
    if c.lulled || !(s.participants c).all c.paused.contains || (holders s.regs.stgBits).any fun u =>
        u.kind == .memCtl && !s.atLull s.regs.stgBits u then s else
    let (now, later) := s.splitDeferred s.regs.stgBits
    let stg := s.regs.stg
    let s := (s.activateAll stg now).unparkRows c.stops
    let wait := Sparse.setAll (always 0) s.regs.wait (later.map fun (e : Nat × W64) =>
      (e.1, (Sparse.get (always 0) s.regs.wait e.1 &&& ~~~e.2) ||| (Sparse.get (always 0) stg e.1 &&& e.2)))
    let waitBits := Sparse.setAll (always 0) s.regs.waitBits (later.map fun (e : Nat × W64) =>
      (e.1, Sparse.get (always 0) s.regs.waitBits e.1 ||| e.2))
    let s := { s with regs := { s.regs with stg := [], stgBits := [], wait, waitBits } }
    let s := s.count pkgBlk 0 1
    if later.isEmpty then
      let s := s.commitDone c.req.toNat
      (if c.paused.any (fun u => u.kind == .port) then s.pump else s).commitNext
    else { s with regs := { s.regs with commit := some { c with paused := [], stops := [], lulled := true } } }

/-- The next close makes waiting values active, and a commit that waited for them completes (R191, R226, R280). -/
def Dev.applyWaiting (s : Dev) : Dev :=
  let vals := s.regs.wait
  let bits := s.regs.waitBits
  let s := { s with regs := { s.regs with wait := [], waitBits := [] } }.activateAll vals bits
  match s.regs.commit with
  | some c => if c.lulled then (s.commitDone c.req.toNat).commitNext else s
  | none => s

/-- COMMIT_REQUEST (R280). -/
def execCommitRequest (s : State) : Res := s.run commitRequestEffect
/-- UNIT_LULL_PAUSE (R23). -/
def execUnitLullPause (u : UnitId) (s : State) : Res := s.run (unitPauseEffect u)
/-- DEVICE_LULL (R23). -/
def execDeviceLull (s : State) : Res := s.run deviceLullEffect

/-! ### Changes scheduled at a time (R360) -/

/-- T of a pending set has come, on base die 0's time. -/
def Dev.schedDue (s : Dev) : Bool := match s.regs.sched with | some c => decide (c.t ≤ s.now 0) | none => false

/-- The units that a scheduled set touches and that are in service (R360). -/
def Dev.schedUnits (s : Dev) (c : Sched) : List UnitId := (holders c.bits).filter fun u => !s.unitFenced s.pkg.fences u

/-- go in TIM_SCHED_CTL (R360): capture the staged values, or refuse. -/
def scheduleEffect (s : Dev) : Dev :=
  let t := s.fld timSchedTT
  if t < s.now 0 + 50000 || s.on timSchedStatusPending then s.setBit timSchedStatusRefused true
  else
    let c : Sched := ⟨t, s.regs.stg, s.regs.stgBits, []⟩
    let n := (s.schedUnits c).length
    let s := { s with regs := { s.regs with sched := some c, stg := [], stgBits := [] } }
    ((s.setBit timSchedStatusPending true).setFld timSchedStatusApplied 0).setFld timSchedStatusExpected n

/-- cancel in TIM_SCHED_CTL: before T the set is discarded (R360). -/
def cancelEffect (s : Dev) : Dev :=
  if s.schedDue || s.regs.sched.isNone then s
  else
    let s := { s with regs := { s.regs with sched := none } }
    ((s.setBit timSchedStatusPending false).setFld timSchedStatusApplied 0).setFld timSchedStatusExpected 0

/-- Every touched unit in service has applied the set: it is no longer pending (R360). -/
def Dev.schedSettle (s : Dev) : Dev :=
  match s.regs.sched with
  | none => s
  | some c =>
    let l := s.schedUnits c
    let s := (s.setFld timSchedStatusApplied c.applied.length).setFld timSchedStatusExpected
      (c.applied.length + (l.filter fun u => !c.applied.contains u).length)
    if l.all c.applied.contains then
      let s := s.activateAll c.vals c.bits
      let s := { s with regs := { s.regs with sched := none } }
      ((s.setBit timSchedStatusPending false).addFld timSchedStatusSeq 1).count pkgBlk 1 1
    else s

/-- A touched unit applies the set at its first lull at or after T and works by the new values from then on (R360, `Dev.regAs`); a core's
matrix engines place their next rows under them. The registers it alone holds, and those whose every holder in service has applied, read
the new values. -/
def schedDueEffect (u : UnitId) (s : Dev) : Dev :=
  match s.regs.sched with
  | none => s
  | some c =>
    if !s.schedDue || !(s.schedUnits c).contains u || c.applied.contains u || !s.atLull c.bits u then settleDue s
    else
      let c := { c with applied := c.applied ++ [u] }
      let ready := c.bits.filter fun (e : Nat × W64) =>
        (unitsOf e.1).contains u && (unitsOf e.1).all fun x => c.applied.contains x || s.unitFenced s.pkg.fences x
      let s := s.activateAll c.vals ready
      let s := { s with regs := { s.regs with sched := some c } }
      (if u.kind = .matrix then s.unparkRows [u.ix / 4] else s).schedSettle
where
  /-- A set whose last unit was fenced is settled at the next event. -/
  settleDue (s : Dev) : Dev := if s.schedDue then s.schedSettle else s

/-- A unit holds a change that is due and not applied (R353, R360). -/
def Dev.schedHolds (s : Dev) (us : List UnitId) : Bool :=
  match s.regs.sched with
  | some c => s.schedDue && us.any fun u => (s.schedUnits c).contains u && !c.applied.contains u
  | none => false

/-- SCHEDULE_CHANGE (R360). -/
def execScheduleChange (s : State) : Res := s.run scheduleEffect
/-- SCHEDULE_CANCEL (R360). -/
def execScheduleCancel (s : State) : Res := s.run cancelEffect
/-- SCHEDULED_CHANGE_DUE (R360). -/
def execScheduledChangeDue (u : UnitId) (s : State) : Res := s.run (schedDueEffect u)

end Sys2Proof.Machine
end

