-- ==== Sys2Proof/Machine/Matrix.lean ====
section
/-! DEFINITION. The matrix instructions as rows, the two unit queues, pre-emption and resumption (R76 to R98, R128, R131,
R161). -/

namespace Sys2Proof.Machine

/-! ### Interlocks (R80) -/

/-- How far ahead of an event within the present tick a queue entry may start, in cycles: the 24 of a tick. -/
def lookAhead : Nat := 24

/-- An MDRAIN of bank `b` that is earlier than place `n` waits, or runs beyond the present tick, on core `c`. -/
def Dev.drainAhead (s : Dev) (c n : Nat) (b : Nat) : Bool :=
  let k := s.core c
  (k.vq.any fun e => vop e.w0 == 0x41 && decide (e.seq < n) && fld64 e.w0 12 1 == b) ||
  (match k.vrun with | some r => r.bank == some b && decide (s.cycle c + lookAhead < r.stop) | none => false)

/-- Rows from `lo` on of the tile `x` may feed: the tile before it, the loads of its weights and the drain of the bank of row `lo` end before
the next tick (R80, R87). -/
def Dev.tileReady (s : Dev) (c : Nat) (x : QEnt) (lo : Nat) : Bool :=
  let m := mmtOf x.w0 x.w1
  let k := s.core c
  let t := s.cycle c + lookAhead
  (k.mmts.all fun r => decide (r.last ≤ t)) &&
  ((List.range 4).all fun e => !m.on e || decide (Sparse.get (always 0) k.wend (2 * e + m.wbuf) ≤ t)) &&
  !s.drainAhead c x.seq ((64 * m.half + lo) / 64)

/-- The matrix engines of core `c` have paused for a commit (R23). -/
def Dev.matPaused (s : Dev) (c : Nat) : Bool := (List.range 4).any fun e => s.pausedUnit ⟨.matrix, 4 * c + e⟩

/-- The head of the matrix queue may start. A tile that its predicate removes does nothing that an interlock could hold. -/
def Dev.matReady (s : Dev) (c : Nat) (x : QEnt) : Bool :=
  let k := s.core c
  let t := s.cycle c
  if s.matPaused c then false
  else if vop x.w0 = 0x42 then
    let m := mwldOf x.w0 x.w1
    let uses (y : Mmt) : Bool := y.on m.eng && y.wbuf == m.buf
    decide (k.mwend ≤ t) &&
    (k.mmts.all fun r => decide (r.last < t) || !uses (mmtOf r.ent.w0 r.ent.w1)) &&
    (match k.rest with | some (y, _) => !uses (mmtOf y.w0 y.w1) | none => true)
  else if vop x.w0 = 0x40 then
    k.rest.isNone && ((mmtOf x.w0 x.w1).removed x.lat || s.tileReady c x 0)
  else true

/-- A vector-queue entry may start: an MDRAIN waits for every earlier MMT's writes to its bank. -/
def Dev.vecReady (s : Dev) (c : Nat) (x : QEnt) : Bool :=
  let k := s.core c
  if vop x.w0 ≠ 0x41 then true else
  let b := fld64 x.w0 12 1
  let waits (e : QEnt) : Bool := decide (e.seq < x.seq) && (mmtOf e.w0 e.w1).meets 0 128 b && !(mmtOf e.w0 e.w1).removed e.lat
  (k.mq.all fun e => !(vop e.w0 == 0x40 && waits e)) &&
  (match k.rest with | some (e, _) => !waits e || b == 0 | none => true) &&
  k.mmts.all fun r => !(decide (r.ent.seq < x.seq) && r.banks.contains b)

/-! ### The matrix queue -/

/-- Feed a tile from row `lo` on. While bank 1 still drains only its rows of bank 0 feed, and the rest stands by (R80). -/
def tileBody (c : Nat) (x : QEnt) (lo : Nat) (doInit : Bool) (s : Dev) : Dev :=
  let m := mmtOf x.w0 x.w1
  let split := decide (lo < 64) && m.half == 0 && decide (64 < m.rows) && s.drainAhead c x.seq 1
  if split then (mmtFeed c x lo 64 doInit s).onCore c fun k => { k with rest := some (x, 64) }
  else (mmtFeed c x lo 128 doInit s).onCore c fun k => { k with rest := none }

/-- What a matrix-queue entry does as it leaves the queue (R135). -/
def matBody (c : Nat) (x : QEnt) (s : Dev) : Dev :=
  if vop x.w0 = 0x42 then mwldBody c x.w0 x.w1 s
  else if vop x.w0 = 0x40 then
    let m := mmtOf x.w0 x.w1
    if m.removed x.lat then (m.countRemoved c s).onCore c fun k => { k with mfree := Nat.max (s.cycle c) k.mfree + 1 }
    else tileBody c x 0 true s
  else
    let b := wordAt x.lat 0
    s.onCore c fun k => { k with mrsv := if b.msb then none else some b.toNat }

/-- The rest of a tile goes on, or the head of the matrix queue starts, when its interlocks are clear. -/
def Dev.matStart (s : Dev) (c : Nat) : Dev :=
  if s.coreDown c then s else
  match (s.core c).rest with
  | some (x, lo) => if !s.matPaused c && s.tileReady c x lo then tileBody c x lo true s else headStart s
  | none => headStart s
where
  /-- The head of the queue. -/
  headStart (s : Dev) : Dev :=
    match (s.core c).mq with
    | [] => s
    | x :: q => if s.matReady c x then matBody c x (s.onCore c fun k => { k with mq := q }) else s

/-- The entries of the matrix queue, with those that have started ahead of the tile that feeds. -/
def Dev.mqLen (s : Dev) (c : Nat) : Nat :=
  (s.core c).mq.length + match s.feeding c with
    | some r => ((s.core c).mmts.filter fun y => decide (r.ent.seq < y.ent.seq)).length
    | none => 0

/-- The issue of a matrix instruction: into the queue of 4 entries, its scalars latched, started at once when it is alone and
clear (R135). `fit` is what R79 asks of the values of its registers, judged once they are ready. -/
def matIssue (c op : Nat) (w0 w1 : W64) (regs : List Nat) (legal fit : Dev → Bool) (rec_ : Core → Core) (s : Dev) : Dev :=
  s.issue c op w0 legal fun s =>
    let k := s.core c
    if !s.regsFree c regs || decide (4 ≤ s.mqLen c) then s
    else if !fit s then s.illegal c else
    let s := s.countIssue c 1
    let s := s.onCore c fun k =>
      { rec_ k with mq := k.mq ++ [⟨w0, w1, regs.map k.sreg, k.seq, k.pc, s.cycle c⟩], seq := k.seq + 1 }
    let s := if k.mq.isEmpty then s.matStart c else s
    s.advance c (instrLen w0)

/-- MWLD (R76). -/
def execMwld (core : Fin 512) (w0 w1 : W64) (s : State) : Res :=
  s.run (matIssue core 0x42 w0 w1 [] (fun _ => mwldLegal w0 w1) (fun _ => true) fun k =>
    let m := mwldOf w0 w1
    { k with wrec := Sparse.set (always 0) k.wrec m.key (2 * m.fmt + b2n m.sp) })

/-- MMT (R77). -/
def execMmt (core : Fin 512) (w0 w1 : W64) (s : State) : Res :=
  s.run fun s =>
    let n := (s.core core).seq
    let s := matIssue core 0x40 w0 w1 (mmtRegs w1) (fun s => mmtLegal (s.core core) w0 w1) (fun _ => true) id s
    if (s.core core).seq = n then s
    else (List.range 4).foldl (fun s e => if (mmtOf w0 w1).on e then s.count (engBlk core e) 6 1 else s) s

/-- MRSV (R95): bit 63 removes the reserve; else it fits, and its base is a multiple of 256 (R79 lists no such condition: DESIGN CHOICE, log
entry 113). -/
def mrsvFits (c : Nat) (w0 : W64) (s : Dev) : Bool :=
  let b := (s.core c).sreg (fld64 w0 8 5)
  b.msb || (b.toNat % 256 == 0 && decide (b.toNat + 256 + 262144 ≤ lsSize))

/-- MRSV (R95). -/
def execMrsv (core : Fin 512) (w0 : W64) (s : State) : Res :=
  s.run (matIssue core 0x43 w0 0 [fld64 w0 8 5] (fun _ => onlyBits w0 0x1FFF) (mrsvFits core w0) id)

/-- MATRIX_INSTRUCTION_START (R80). -/
def execMatrixInstructionStart (core : Fin 512) (s : State) : Res := s.run fun s => s.matStart core

/-- Drop bank `b` from the first tile whose writes to it are complete: 12 cycles after the last feed (R80, R87). -/
def releaseBank (t b : Nat) : List MmtRun → List MmtRun
  | [] => []
  | r :: l =>
    if r.banks.contains b && decide (r.bankLast b + 12 ≤ t) then
      let r' := { r with banks := r.banks.filter fun p => p != b }
      if r'.banks.isEmpty then l else r' :: l
    else r :: releaseBank t b l

/-- The cycle at which the writes to bank `b` of the first tile that has some outstanding are complete (R80). -/
def writesDone (b : Nat) (l : List MmtRun) : Option Nat := (l.find? fun r => r.banks.contains b).map fun r => r.bankLast b + 12

/-- MMT_WRITES_COMPLETE (R80): the cycle is kept for the drain that waits for it (R94). -/
def execMmtWritesComplete (core : Fin 512) (bank : Fin 2) (s : State) : Res :=
  s.run fun s => s.onCore core fun k =>
    let bdone := match writesDone bank k.mmts with
      | some t => if t ≤ s.cycle core then Sparse.set (always 0) k.bdone bank t else k.bdone
      | none => k.bdone
    { k with mmts := releaseBank (s.cycle core) bank k.mmts, bdone }

/-! ### MDRAIN and the vector queue -/

/-- The vector engine takes an MDRAIN: its first read follows the end of the interlock of R80 by 4 cycles (R94); one that its predicate skips reads
nothing. -/
def Dev.drainStart (s : Dev) (c : Nat) (x : QEnt) : Dev :=
  let m := mdrainOf x.w0 x.w1
  let wait := if m.pr ∧ x.lat.getLastD 0 = 0 then 0 else Sparse.get (always 0) (s.core c).bdone m.bank + 4 - s.cycle c
  s.vstart c wait (m.cost x.lat) (some m.bank) (fun k x => (mdrainOf x.w0 x.w1).acts k x.lat) (mdrainBody c)

/-- MDRAIN (R90). -/
def mdrainIssue (c : Nat) (w0 w1 : W64) (s : Dev) : Dev :=
  s.issue c 0x41 w0 (fun s => mdrainLegal (s.isBrz c) w0 w1) fun s =>
    let k := s.core c
    let regs := mdrainRegs w0
    if !s.regsFree c regs || decide (8 ≤ k.vq.length) then s else
    let s := (s.countIssue c 1).vpush c w0 w1 (regs.map k.sreg)
    let s := match (s.core c).vq with
      | [x] => if !s.vecBusy c && s.vecReady c x then s.drainStart c x else s
      | _ => s
    s.advance c 16

/-- MDRAIN (R91). -/
def execMdrain (core : Fin 512) (w0 w1 : W64) (s : State) : Res := s.run (mdrainIssue core w0 w1)

/-- What the vector engine does for an opcode. -/
def vecBodyOf (c op : Nat) : QEnt → Dev → Dev :=
  match op with
  | 0x50 | 0x51 | 0x52 | 0x53 | 0x54 | 0x55 => arithBody c
  | 0x56 | 0x57 => signBody c
  | 0x58 | 0x59 | 0x5A | 0x5B | 0x5C => bitBody c
  | 0x5D => cmpBody c
  | 0x5E => selBody c
  | 0x5F => cvtBody c
  | 0x60 => sfuBody c
  | 0x61 => bcastBody c
  | 0x62 => iotaBody c
  | 0x63 => rngBody c
  | 0x64 => redBody c
  | 0x65 => packBody c
  | 0x66 => unpackBody c
  | 0x67 => tbaseBody c
  | 0x68 => vldBody c
  | 0x69 => vstBody c
  | 0x6A => topkBody c
  | 0x6B => statBody c
  | 0x6C => predBody c and
  | 0x6D => predBody c or
  | 0x6E => predBody c xor
  | _ => rsvBody c

/-- The head of the vector queue starts on an idle engine once it may (R128). -/
def Dev.vecStart (s : Dev) (c : Nat) : Dev :=
  if s.coreDown c || s.vecBusy c then s else
  match (s.core c).vq with
  | [] => s
  | x :: _ =>
    if !s.vecReady c x || s.vecHeld c x then s
    else if vop x.w0 = 0x41 then s.drainStart c x
    else
      let op := vop x.w0
      let cost := if op = 0x68 ∨ op = 0x69 then memCostOf c x.w0 x.w1 s else vcost x.w0 x.w1
      s.vstart c 0 cost none vecActs (vecBodyOf c op)

/-- VECTOR_INSTRUCTION_START (R128). -/
def execVectorInstructionStart (core : Fin 512) (s : State) : Res := s.run fun s => s.vecStart core

/-- After 512 cycles of one instruction its bank requests go before the matrix stream's until it completes (R128). -/
def escalateEffect (c : Nat) (s : Dev) : Dev :=
  match (s.core c).vrun with
  | some r => if s.vecBusy c ∧ r.start + 512 ≤ s.cycle c then
      s.onCore c fun k => { k with vrun := some { r with first := true } } else s
  | none => s

/-- VECTOR_BANK_ESCALATION (R128). -/
def execVectorBankEscalation (core : Fin 512) (s : State) : Res := s.run (escalateEffect core)

/-! ### Pre-emption (R96, R97, R131, R161) -/

/-- The local-store address of a byte from its place in the order of `swz`. -/
def unswzByte (w : Nat) : Nat := w / 1024 * 1024 + w / 16 % 4 * 256 + w / 64 % 16 * 16 + w % 16

/-- The four lines of the word at `w`. -/
def wordLines (w : Nat) : List Nat := (List.range 4).map fun i => unswz w + 256 * i

/-- The word at `w` lies in `[lo, lo + n)` with all its lines. -/
def wordWhole (w lo n : Nat) : Bool := (wordLines w).all fun l => decide (lo ≤ l) && decide (l + 16 ≤ lo + n)

/-- Write the whole of `[lo, lo + n)` of a local store: `data` lists its bytes that are not zero. A word written whole is
clean; the words at the edges merge (R140). -/
def Store.fill (st : Store) (lo n : Nat) (data : List (Nat × Byte)) : Store :=
  let inside (a : Nat) : Bool := decide (lo ≤ a) && decide (a < lo + n)
  let chk : Sparse W32 := (st.chk.filter fun (e : Nat × W32) => !wordWhole e.1 lo n).map fun (e : Nat × W32) =>
    (e.1, if wordMeets e.1 lo n && eccDecode 68 e.2 == .uncorr then poisonDev else e.2)
  let kept : Sparse Byte := st.bytes.filter fun (e : Nat × Byte) => !inside (unswzByte e.1)
  { bytes := Sparse.setAll (always 0) kept (data.map fun (x : Nat × Byte) => (swz x.1, x.2)), chk }

/-- Core `c` writes a whole range of its local store. -/
def Dev.lsFill (s : Dev) (c lo n : Nat) (data : List (Nat × Byte)) : Dev :=
  let part := (s.core c).ls.chk.filter fun (e : Nat × W32) => wordMeets e.1 lo n && !wordWhole e.1 lo n
  let s := (s.lsReact c (part.map fun (e : Nat × W32) => (e.1, eccDecode 68 e.2))).1
  s.onCore c fun k => { k with ls := k.ls.fill lo n data }

/-- The words of the last MWLD into each buffer, in the order 2e + buf (R97). -/
def Core.mwlds (k : Core) : List (W64 × W64) := (List.range 8).map fun i => Sparse.get (always (0, 0)) k.wword i

/-- Take back the adds of a started part from row `lo` on: those accumulators stand as before it (R96). -/
def MmtRun.undo (r : MmtRun) (lo : Nat) (k : Core) : Core :=
  let m := mmtOf r.ent.w0 r.ent.w1
  let mine (x : Nat) : Bool := r.rows.any fun p => decide (lo ≤ p.row) && m.owns p.row (p.row + 1) x
  let keys := ((k.acc ++ r.pre).map (·.1)).filter mine
  { k with acc := Sparse.setAll (always 0) k.acc (keys.map fun a => (a, Sparse.get (always 0) r.pre a)) }

/-- Tiles that have started ahead of the end of tile `n` go back to the head of the queue, as if they had not (R80). -/
def Core.recall (k : Core) (n : Nat) : Core :=
  let ahead := k.mmts.filter fun r => decide (n < r.ent.seq)
  let k' := ahead.reverse.foldl (fun k r => r.undo 0 { k with bank := r.bank }) k
  { k' with mmts := k.mmts.filter fun r => decide (r.ent.seq ≤ n), mq := ahead.map (·.ent) ++ k.mq }

/-- Stop tile `x` at row `stop`: rows behind it have none of its adds, and are cleared if it clears (R96). -/
def Core.cut (k : Core) (x : QEnt) (stop : Nat) : Core :=
  let m := mmtOf x.w0 x.w1
  let k := (k.mmts.filter (·.ent.seq == x.seq)).foldl (fun k r => r.undo stop k) k
  { m.clear stop 128 k with mmts := [], rest := none }

/-- The matrix save (R96, R97): the record, then all accumulators. -/
def matSave (c base stop : Nat) (x : QEnt) (s : Dev) : Dev :=
  -- the rest of the row in progress, and of the tiles before this one, is fed before the stop
  let s := (s.core c).mmts.foldl (fun s r => r.tally c (s.cycle c) farCycle (if r.ent.seq = x.seq then stop else 128) s) s
  match (s.onCore c (·.cut x stop)).lineCheck c fun y => decide (4096 ≤ y) && decide (y < 8192) with
  | (s, false) => s
  | (s, true) =>
    let k := s.core c
    let rec_ := natLe 8 x.w0.toNat ++ natLe 8 x.w1.toNat ++ natLe 1 stop ++ [1] ++ List.replicate 14 0 ++
      (k.mwlds.flatMap fun p => natLe 8 p.1.toNat ++ natLe 8 p.2.toNat) ++ (x.lat.flatMap fun w => natLe 8 w.toNat)
    let s := (s.lsWrite c (cellsAt base rec_)).moves c 1025
    let cell (x : Nat × W32) : List (Nat × Byte) :=
      let e := x.1 / 16384; let i := x.1 / 128 % 128; let a := x.1 % 128
      cellsAt (base + 0x100 + 65536 * e + 512 * i + 4 * a) (natLe 4 x.2.toNat)
    s.lsFill c (base + 0x100) 262144 (k.acc.flatMap cell)

/-- Coded line `y` belongs to the predicates or to a live register. -/
def liveLine (live y : Nat) : Bool := decide (12288 ≤ y) || (decide (8192 ≤ y) && bit live ((y - 8192) / 128))

/-- The vector reserve (R131): mask, status, tile-buffer base, predicates, live registers. -/
def vecSave (c base : Nat) (s : Dev) : Dev :=
  let s := (s.lineCheck c (liveLine (s.core c).vlive.toNat)).1
  let k := s.core c
  let s := (s.lsWrite c (cellsAt base (natLe 8 k.vlive.toNat ++ natLe 8 k.vstat.toNat ++ natLe 8 k.tb))).moves c
    (9 + 32 * ((List.range 32).filter (bit k.vlive.toNat)).length)
  let s := s.lsWrite c (cellsAt (base + 0x100) ((List.range 2048).map fun i =>
    BitVec.ofNat 8 ((List.range 8).foldl (fun v j => v + 2 ^ j * b2n (k.pbit (i / 256) (i % 256 * 8 + j))) 0)))
  (List.range 32).foldl (fun s n =>
    if !bit k.vlive.toNat n then s else
    s.lsFill c (base + 0x1000 + 8192 * n) 8192
      ((Sparse.range k.v (2048 * n) (2048 * n + 2048)).flatMap fun x =>
        cellsAt (base + 0x1000 + 4 * x.1) (natLe 4 x.2.toNat))) s

/-- A queue entry as 64 bytes: instruction, then its latched scalars (R162). -/
def QEnt.encode (x : QEnt) : List Byte :=
  padTo 64 (natLe 8 x.w0.toNat ++ natLe 8 x.w1.toNat ++ x.lat.flatMap fun w => natLe 8 w.toNat)

/-- The breeze context (R161, R162). -/
def ctxSave (c : Nat) (s : Dev) : Dev :=
  let k := s.core c
  let a := s.ctxSlot c + 0x400
  let (w, n, v) := match k.run with
    | .waiting n v => (2, n, v.toNat)
    | _ => (0, 0, 0)
  let put (s : Dev) (o : Nat) (bs : List Byte) : Dev := s.csWrite (c / 16) (cellsAt (a + o) bs)
  let s := put s 0 (natLe 8 k.pc ++ natLe 1 (1 + w) ++ natLe 1 n ++ natLe 1 k.mq.length ++ natLe 1 k.vq.length ++ natLe 4 v)
  let s := put s 0x40 k.sBytes
  let s := if k.mq.isEmpty then s else put s 0x200 (k.mq.flatMap QEnt.encode)
  if k.vq.isEmpty then s else put s 0x300 (k.vq.flatMap QEnt.encode)

/-- The cycle of a request that comes `lag` cycles after the present time, within its tick (R131). -/
def Dev.lagged (s : Dev) (c lag : Nat) : Nat := s.cycle c + Nat.min lag 23

/-- The tile that runs on core `c` at cycle `t`: the one it feeds from, or the one whose rest stands by. -/
def Dev.tile (s : Dev) (c t : Nat) : Option QEnt :=
  match (s.core c).feedingAt t with
  | some r => some r.ent
  | none => (s.core c).rest.map (·.1)

/-- The row at whose boundary the tile with place `n` stops (R96): the first that has not begun by the request's cycle, else the rest's. -/
def Dev.stopRow (s : Dev) (c n lag : Nat) : Nat :=
  let k := s.core c
  let rows := (k.mmts.filter (·.ent.seq == n)).map (·.boundary (s.lagged c lag))
  rows.foldl Nat.min (match k.rest with | some (_, lo) => lo | none => 128)

/-- Cycles that the writes of a save take, one access a cycle: record and accumulators, vector reserve, breeze context (DESIGN CHOICE, log entry
125; R161 gives the bound of 5,400 alone). -/
def saveCycles (k : Core) (tile : Bool) : Nat :=
  (if tile then 1025 else 0) + (if k.vrsv.isSome then 9 + 32 * ((List.range 32).filter (bit k.vlive.toNat)).length else 0) + 5

/-- The core is released (R96, R161): with its context saved it runs nothing; after a fault met by a save the context is discarded, and
the segment starts again on the peer (R165). The writes end at cycle `t`. -/
def preemptRelease (c t : Nat) (w : Work) (s : Dev) : Dev :=
  if s.coreDown c then s.csWrite (c / 16) [(s.ctxSlot c + 0xC, 0), (s.ctxSlot c + 0x408, 0)] else
  let s := s.onCore c fun k => { k with
    run := .idle, work := none, mq := [], vq := [], mmts := [], rest := none,
    saved := some ⟨w, k.vrsv, k.vlive, k.mrsv, k.tb, k.since, k.accs, (k.mq ++ k.vq).map fun x => (x.seq, x.pc), k.wrec, k.bank, t⟩ }
  s.count (coreBlk c) 18 1

/-- The vector save, the breeze context, the release. -/
def preemptRest (c t : Nat) (w : Work) (s : Dev) : Dev :=
  let s := match (s.core c).vrsv with
    | some b => vecSave c b s
    | none => s
  preemptRelease c t w (ctxSave c s)

/-- A pre-emption of breeze work (R161). With a matrix reserve a running tile stops at its next row boundary; without one the request waits
for the tile's last feed (R95). An MDRAIN that the tile waits for runs first (R96). -/
def preemptEffect (c lag : Nat) (s : Dev) : Dev :=
  let k := s.core c
  match k.work with
  | none => s
  | some w =>
    if !w.brz || s.coreDown c || k.run == .idle || k.run == .stopped then s else
    let done (tile : Bool) : Nat := s.lagged c lag + saveCycles k tile
    match s.tile c (s.lagged c lag), k.mrsv with
    | some x, some b =>
      if k.rest.isSome && s.drainAhead c x.seq 1 then s
      else preemptRest c (done true) w (matSave c b (Nat.min (s.stopRow c x.seq lag) (mmtOf x.w0 x.w1).rows) x (s.onCore c (·.recall x.seq)))
    | some _, none => s
    | none, _ => preemptRest c (done false) w s

/-- Restore the vector reserve (R131). -/
def vecRestore (c base : Nat) (s : Dev) : Dev :=
  match s.lsCheck c [(base, 24), (base + 0x100, 2048)] with
  | (s, false) => s
  | (s, true) =>
    let k := s.core c
    let live := k.lsNat base 8
    let s := s.moves c (9 + 32 * ((List.range 32).filter (bit live)).length)
    let preds := (List.range 16384).map fun i => (i, bit (k.lsByte (base + 0x100 + i / 8)).toNat (i % 8))
    let s := s.onCore c fun k => { k.cleanLines (liveLine live) with
      vlive := BitVec.ofNat 32 live, vstat := BitVec.ofNat 64 (k.lsNat (base + 8) 8), tb := k.lsNat (base + 16) 8,
      p := Sparse.setAll (always false) k.p preds }
    (List.range 32).foldl (fun s n =>
      if !bit live n then s else
      match s.lsCheck c [(base + 0x1000 + 8192 * n, 8192)] with
      | (s, false) => s
      | (s, true) => s.onCore c fun k => { k with
          v := Sparse.setAll (always 0) k.v ((List.range 2048).map fun e =>
            (2048 * n + e, BitVec.ofNat 32 (k.lsNat (base + 0x1000 + 8192 * n + 4 * e) 4))) }) s

/-- Resume a recorded tile (R98): accumulators, the recorded MWLDs, the MMT from row m' without init, the valid bit cleared. -/
def matResume (c base : Nat) (s : Dev) : Dev :=
  match s.lsCheck c [(base, 256 + 262144)] with
  | (s, false) => s
  | (s, true) =>
    let k := s.core c
    let w (o : Nat) : W64 := BitVec.ofNat 64 (k.lsNat (base + o) 8)
    if !bit (k.lsNat (base + 0x11) 1) 0 then s else
    let accs := (List.range 65536).map fun x =>
      (x, BitVec.ofNat 32 (k.lsNat (base + 0x100 + 65536 * (x / 16384) + 512 * (x / 128 % 128) + 4 * (x % 128)) 4))
    let s := s.onCore c fun k => { k.cleanLines fun y => decide (4096 ≤ y) && decide (y < 8192) with
      acc := Sparse.setAll (always 0) k.acc accs }
    let s := (List.range 8).foldl (fun s i =>
      let w0 := w (0x20 + 16 * i); let w1 := w (0x28 + 16 * i)
      if vop w0 = 0x42 then mwldBody c w0 w1 s else s) s
    let x : QEnt := ⟨w 0, w 8, [w 0xA0, w 0xA8, w 0xB0], 0, k.pc, s.cycle c⟩
    let s := mmtFeed c x (k.lsNat (base + 0x10) 1) 128 false (s.moves c 1025)
    s.lsWrite c [(base + 0x11, 0)]

/-- A queue entry as its 64 bytes say, at its place in issue order, issued at cycle `t`. -/
def qentOf (t : Nat) (bs : List Byte) (at_ : Nat × Nat) : QEnt :=
  let w0 := BitVec.ofNat 64 (leAt bs 0 8)
  let w1 := BitVec.ofNat 64 (leAt bs 8 8)
  let n := match vop w0 with
    | 0x40 => 3
    | 0x41 => (mdrainRegs w0).length
    | 0x42 => 0
    | 0x43 => 1
    | _ => scRegs w0 w1
  ⟨w0, w1, (List.range n).map fun i => BitVec.ofNat 64 (leAt bs (16 + 8 * i) 8), at_.1, at_.2, t⟩

/-- A pre-empted breeze program resumes (R161, R98): reserve, tile, queue entries, then issue at the saved PC, or the wait. -/
def resumeEffect (c : Nat) (s : Dev) : Dev :=
  match (s.core c).saved with
  | none => s
  | some v =>
    let a := s.ctxSlot c + 0x400
    if s.coreDown c || (s.core c).run != .idle || (s.core c).work.isSome then s else
    match s.csRead (c / 16) a 0x600 with
    | (s, none) => s
    | (s, some bs) =>
      if !bit (leAt bs 8 1) 0 then s else
      let nm := leAt bs 0xA 1
      let nv := leAt bs 0xB 1
      let s := s.onCore c fun k => { k with
        work := some v.work, vrsv := v.vrsv, vlive := v.vlive, mrsv := v.mrsv, since := v.since, accs := v.accs,
        wrec := v.wrec, bank := v.bank, saved := none }
      let s := match v.vrsv with | some b => vecRestore c b s | none => s
      let s := match v.mrsv with | some b => matResume c b s | none => s
      let s := s.onCore c fun k =>
        let mq := (List.range nm).map fun i => qentOf (s.cycle c) ((bs.drop (0x200 + 64 * i)).take 64) (v.order.getD i (k.seq, 0))
        let vq := (List.range nv).map fun i => qentOf (s.cycle c) ((bs.drop (0x300 + 64 * i)).take 64) (v.order.getD (nm + i) (k.seq, 0))
        { k with mq, vq, seq := (v.order.foldl (fun m o => Nat.max m o.1) k.seq) + 1, pc := leAt bs 0 8,
                 s := Sparse.setAll (always 0) k.s ((List.range 32).map fun x => (x, BitVec.ofNat 64 (leAt bs (0x40 + 8 * x) 8))),
                 run := if bit (leAt bs 8 1) 1 then .waiting (leAt bs 9 1) (BitVec.ofNat 32 (leAt bs 0xC 4)) else .issuing }
      s.csWrite (c / 16) [(a + 8, 0)]

/-- PREEMPTION_REQUEST (R161). -/
def execPreemptionRequest (core : Fin 512) (lag : Nat) (s : State) : Res := s.run (preemptEffect core lag)

end Sys2Proof.Machine
end

