-- ==== Sys2Proof/Machine/DmaOps.lean ====
section
/-! DEFINITION. DMA descriptors: fields, checks, rows, transforms, 4 KiB units (R144 to R157). -/

namespace Sys2Proof.Machine

/-! ### Fields (R145) -/

/-- Bits of word `i` of a descriptor. -/
def qf (q : List W64) (i lo w : Nat) : Nat := fld64 (wordAt q i) lo w

/-- op. -/
def dOp (q : List W64) : Nat := qf q 0 0 4
/-- Source space. -/
def dSs (q : List W64) : Nat := qf q 0 4 2
/-- Destination space. -/
def dDs (q : List W64) : Nat := qf q 0 6 2
/-- Source format. -/
def dSf (q : List W64) : Nat := qf q 0 12 4
/-- Destination format. -/
def dDf (q : List W64) : Nat := qf q 0 16 4
/-- A flag of q0. -/
def dFlag (q : List W64) (i : Nat) : Bool := qf q 0 i 1 == 1
/-- Skewed destination. -/
def dSkew (q : List W64) : Bool := dFlag q 20
/-- Transpose. -/
def dXpose (q : List W64) : Bool := dFlag q 21
/-- Row mask. -/
def dRm (q : List W64) : Bool := dFlag q 22
/-- Occupancy map. -/
def dOc (q : List W64) : Bool := dFlag q 23
/-- self. -/
def dSelf (q : List W64) : Bool := dFlag q 36
/-- Chunk width of the occupancy map. -/
def dOcW (q : List W64) : Nat := if qf q 0 24 2 = 0 then 16 else if qf q 0 24 2 = 1 then 24 else 32
/-- Source address. -/
def dSrc (q : List W64) : Nat := qf q 1 0 52
/-- Destination address. -/
def dDst (q : List W64) : Nat := qf q 2 0 52
/-- Rows. -/
def dRows (q : List W64) : Nat := qf q 3 0 16 + 1
/-- Source row bytes. -/
def dRb (q : List W64) : Nat := qf q 3 16 16 + 1
/-- Source pitch. -/
def dSp (q : List W64) : Nat := qf q 4 0 32
/-- Destination pitch. -/
def dDp (q : List W64) : Nat := if dSkew q then 256 else qf q 4 32 32
/-- Scale region. -/
def dScl (q : List W64) : Nat := (wordAt q 5).toNat
/-- Row-mask address. -/
def dRmA (q : List W64) : Nat := 16 * qf q 7 0 16
/-- Occupancy-map address. -/
def dOcA (q : List W64) : Nat := 16 * qf q 7 16 16
/-- Routing-table entry of a list. -/
def dList (q : List W64) : Nat := qf q 6 0 20
/-- Gather or scatter. -/
def dLists (q : List W64) : Bool := dOp q == 2 || dOp q == 4

/-- Elements of a row. -/
def dElems (q : List W64) : Nat := dRb q * 8 / elemBits (if dOp q = 1 then dDf q else dSf q)
/-- Elements and rows of the destination; a transpose swaps them. -/
def dDstElems (q : List W64) : Nat := if dXpose q then dRows q else dElems q
/-- Bytes of a destination row. -/
def dDb (q : List W64) : Nat := if dOp q = 1 then dRb q else dDstElems q * elemBits (dDf q) / 8

/-- The conversion pairs of R147. -/
def convPair (s d : Nat) : Bool :=
  if s == d then true else
  match s with
  | 0x0 | 0x1 => d == 0x4 || d == 0x5 || d == 0xA
  | 0x4 | 0x5 => d == 0xA
  | 0x2 | 0x3 | 0x6 | 0x7 | 0x8 => d == 0x4 || d == 0xA
  | 0xC => d == 0xA
  | 0x9 => d == 0xB
  | _ => false

/-- Whole elements, whole blocks in a block format. -/
def wholeRow (fmt n : Nat) : Bool := n * 8 % elemBits fmt == 0 && (!isBlock fmt || (n * 8 / elemBits fmt) % 32 == 0)

/-! ### Who runs it -/

/-- The cluster of a channel, or none for a base die's. -/
def chanCluster (h : Nat) : Option Nat := if h < 512 then some (h / 16) else none

/-- The base die that runs channel `h`. -/
def Dev.chanDie (s : Dev) (h : Nat) : Nat :=
  if h < 512 then h / 128 else if h < 1024 then (h - 512) / 16 else (s.qctx (h - 1024)).die

/-- The TLB of a channel. -/
def Dev.chanTlb (s : Dev) (h : Nat) : Nat := match chanCluster h with | some k => k | none => baseTlb (s.chanDie h)

/-- A channel's DMA as a requester and a message source; a cluster's arbitrates among the cores its chains run for (R17). -/
def Dev.chanSrc (s : Dev) (h : Nat) : Src :=
  match chanCluster h with
  | some k => { clusterSrc k 1 with core := match (s.chan h).core with | some c => c % 16 | none => 16 }
  | none => dieSrc (s.chanDie h) 5

/-- The core whose local store or drain stream a descriptor names (R146). -/
def lsCore (h : Nat) (ch : Chan) (self : Bool) (core : Nat) : Option Nat :=
  if self then ch.core else (chanCluster h).map fun k => 16 * k + core

/-- The core of the data. -/
def dCore (h : Nat) (ch : Chan) : Option Nat := lsCore h ch (dSelf ch.q) (qf ch.q 0 8 4)
/-- The core of the list (R151). -/
def dListCore (h : Nat) (ch : Chan) : Option Nat := lsCore h ch (qf ch.q 6 24 1 == 1) (qf ch.q 6 20 4)

/-- The descriptor names a local store, or a drain stream, for its data. -/
def dNamesCore (q : List W64) : Bool := dDs q == 0 || (dOp q != 1 && (dSs q == 0 || dSs q == 3))

/-! ### Checks before the first access (R146 to R156) -/

/-- A range lies within the store of its space. -/
def inSpace (sp a n : Nat) : Bool :=
  if sp = 0 then decide (a + n ≤ lsSize) else if sp = 1 then decide (a + n ≤ csSize) else true

/-- Blocks of a row of `n` bytes in a format. -/
def rowBlocks (fmt n : Nat) : Nat := n * 8 / elemBits fmt / 32

/-- The form of a descriptor: reserved fields and codes, pairs, limits, ranges. -/
def dForm (q : List W64) : Bool :=
  let op := dOp q
  qf q 0 37 27 == 0 && qf q 1 52 12 == 0 && qf q 2 52 12 == 0 && qf q 3 32 32 == 0 &&
  decide (op < 5) && dDs q != 3 && (dSs q != 3 || op == 3 || op == 1) && qf q 0 24 2 != 3 &&
  decide (dDf q < 0xE) && (op == 1 || decide (dSf q < 0xE)) &&
  (if op = 3 then (if dSs q = 3 then wordAt q 7 == 0 else qf q 7 52 12 == 0) else qf q 7 32 32 == 0) &&
  (op == 1 || !(dSs q == 0 && dDs q == 0)) &&
  (op == 1 || convPair (dSf q) (dDf q)) &&
  (if op = 1 then !isBlock (dDf q) || wholeRow (dDf q) (dRb q) else wholeRow (dSf q) (dRb q))

/-- The limits on transforms (R148 to R152). A fill with xpose and a scatter with skew, of which no rule speaks, are refused (DESIGN CHOICES; log
entry 129). -/
def dLimits (q : List W64) : Bool :=
  let op := dOp q
  let eb := elemBits (dSf q) / 8
  (!dXpose q || (op == 0 && dSf q == dDf q && !dRm q &&
    (dSf q == 0 || dSf q == 1 || dSf q == 9 || dSf q == 4 || dSf q == 5 || dSf q == 0xA || dSf q == 0xB) &&
    decide (dRows q * eb ≤ 256) && decide (dRb q ≤ 256))) &&
  (!dSkew q || (dDs q == 0 && dDst q % 256 == 0 && decide (dDb q ≤ 256) && op != 4)) &&
  (!dRm q || (decide (dRows q ≤ 128) && dDs q == 0)) &&
  (!dOc q || (dDs q == 0 && dDb q % dOcW q == 0 && decide (dDb q / dOcW q ≤ 16))) &&
  (!dLists q || (!isBlock (dSf q) && !isBlock (dDf q) && !dXpose q)) &&
  (op != 3 || (dDs q == 2 && dSf q == 0xC && dDf q == 0xC && !dRm q && !dOc q && !dSkew q &&
    (dSs q != 3 || dRb q == 1024)))

/-- The scale region of the operand: its space, address, codes. -/
def dSclRange (q : List W64) : Option (Nat × Nat × Nat) :=
  let op := dOp q
  if op = 0 ∧ isBlock (dSf q) ∧ (dSf q ≠ dDf q ∨ dOc q) then some (dSs q, dScl q, dRows q * rowBlocks (dSf q) (dRb q))
  else if op = 1 ∧ isBlock (dDf q) then some (dDs q, dScl q, dRows q * rowBlocks (dDf q) (dRb q))
  else none

/-- The ranges that are known without a list lie in their stores. -/
def dRanges (q : List W64) : Bool :=
  let op := dOp q
  let last := dRows q - 1
  let dRowsN := if dXpose q then dElems q else dRows q
  (op == 1 || op == 2 || dSs q == 3 || inSpace (dSs q) (dSrc q) (last * dSp q + dRb q)) &&
  (op == 4 || op == 3 || inSpace (dDs q) (dDst q) (if dSkew q then 256 * dRowsN else (dRowsN - 1) * dDp q + dDb q)) &&
  (match dSclRange q with | some (sp, a, n) => inSpace sp a n | none => true) &&
  (op != 3 || dSs q == 3 || inSpace (dSs q) (qf q 7 0 52) (dRows q * (dRb q / 64))) &&
  (!dRm q || inSpace 0 (dRmA q) 16) && (!dOc q || inSpace 0 (dOcA q) (2 * dRowsN)) &&
  (!dLists q || inSpace 0 (dList q) 16)

/-- What a base-die DMA accepts: space 2 on both sides, no list in a local store (R146); on a DMA queue also no transform and
op 0, 1 or 3 (R296). -/
def dBase (h : Nat) (q : List W64) : Bool :=
  dDs q == 2 && (dOp q == 1 || dSs q == 2) && !dLists q &&
  (h < 1024 || (dSs q == 2 && !dFlag q 26 && !dSkew q && !dXpose q && !dRm q && !dOc q))

/-- Whether a named core, not by self, is fenced (R146). -/
def Dev.dFenced (s : Dev) (h : Nat) (ch : Chan) : Bool :=
  let bad (self : Bool) (c : Option Nat) : Bool :=
    match c with
    | some c => !self && s.pkg.fences.core c
    | none => false
  (dNamesCore ch.q && bad (dSelf ch.q) (dCore h ch)) || (dLists ch.q && bad (qf ch.q 6 24 1 == 1) (dListCore h ch))

/-- What the checks before the first access come to: a status of R156, or 0. -/
def Dev.dCheck (s : Dev) (h : Nat) (ch : Chan) : Nat :=
  let q := ch.q
  let needs := (dNamesCore q && (dCore h ch).isNone) || (dLists q && (dListCore h ch).isNone)
  if !dForm q || !dLimits q || !dRanges q || ((chanCluster h).isNone && !dBase h q) || needs then 3
  else if s.dFenced h ch then 5 else 0

/-! ### Access by space -/

/-- What a DMA access meets: a value, no translation (because the page is being moved, or not), a word that cannot be read. -/
inductive Acc (α : Type) where
  | ok (v : α)
  | halt (mv : Bool)
  | uncorr
  deriving DecidableEq, Repr

/-- The cluster whose store a channel reaches as space 1: that of the domain it works for (R456). -/
def Dev.chanStore (s : Dev) (h : Nat) : Option Nat :=
  match chanCluster h, (s.chan h).work with
  | some k, some w => some (if w.dom < 32 then w.dom else k)
  | k, _ => k

/-- Read `n` bytes in a space for channel `h`. -/
def Dev.dRead (s : Dev) (h : Nat) (core : Option Nat) (sp a n : Nat) : Dev × Acc (List Byte) :=
  if sp = 0 then
    match core with
    | some c =>
      match s.lsCheck c [(a, n)] with
      | (s, true) => (s.moves c (ceilDiv n 256), .ok ((s.core c).lsBytes a n))
      | (s, false) => (s, .uncorr)
    | none => (s, .uncorr)
  else if sp = 1 then
    match s.chanStore h with
    | some k =>
      match s.csRead k a n with
      | (s, some bs) => (s, .ok bs)
      | (s, none) => (s, .uncorr)
    | none => (s, .uncorr)
  else
    match s.vRead (s.chanTlb h) (s.chanSrc h) 0 2 (a % 2 ^ 52) n with
    | (s, .data bs e) => (s, if e.lost then .uncorr else .ok bs)
    | (s, .wait _) => (s, .halt true)
    | (s, .fail) => (s, .halt false)

/-- The pieces of a unit can be written: every page of a device virtual destination translates, or one does not. The answer says whether
a line of the package buffer that the write merges with cannot be read (R140, R141). -/
def Dev.dReady (s : Dev) (h sp : Nat) : List (Nat × List Byte) → Dev × Acc Bool
  | [] => (s, .ok false)
  | (a, bs) :: l =>
    if sp ≠ 2 then (s, .ok false) else
    match s.xlateRange (s.chanTlb h) (s.chanSrc h) 0 (a % 2 ^ 52) bs.length true with
    | (s, .ok ps) =>
      match Dev.dReady s h sp l with
      | (s, .ok b) => (s, .ok (b || ps.any fun p => !s.inHbm p.1 && (s.partials p.1 p.2).any fun e => e.2.lost))
      | x => x
    | (s, .wait _) => (s, .halt true)
    | (s, .fail) => (s, .halt false)

/-- Write pieces in a space; writes to a fenced core's local store are discarded (R160). -/
def Dev.dWrite (s : Dev) (h : Nat) (core : Option Nat) (sp : Nat) (ps : List (Nat × List Byte)) : Dev :=
  if sp = 0 then
    match core with
    | some c =>
      if s.pkg.fences.core c then s
      else (s.lsWrite c (ps.flatMap fun p => cellsAt p.1 p.2)).moves c (ceilDiv (ps.foldl (fun n p => n + p.2.length) 0) 256)
    | none => s
  else if sp = 1 then
    match s.chanStore h with
    | some k => s.csWrite k (ps.flatMap fun p => cellsAt p.1 p.2)
    | none => s
  else ps.foldl (fun s p => (s.vWrite (s.chanTlb h) (s.chanSrc h) 0 (p.1 % 2 ^ 52) p.2).1) s

/-- Count bytes moved by a cluster's DMA (R515). -/
def Dev.dTally (s : Dev) (h i n : Nat) : Dev :=
  match chanCluster h with
  | some k => s.count (clusterBlk k) i n
  | none => s

/-! ### Rows -/

/-- The source rows in destination order: those the mask leaves (R149), at most the list's entries (R151). -/
def dOrder (ch : Chan) : List Nat :=
  let n := if dLists ch.q then Nat.min ch.lcount (dRows ch.q) else dRows ch.q
  (List.range n).filter fun r => !dRm ch.q || bit ch.mask r

/-- List entry `i`: row index and rank (R126, R151). -/
def Dev.listEntry (s : Dev) (h : Nat) (ch : Chan) (i : Nat) : Dev × Acc (Nat × Nat) :=
  match s.dRead h (dListCore h ch) 0 (ch.lbase + 8 * i) 8 with
  | (s, .ok bs) => (s, .ok (leAt bs 0 4, bits (leAt bs 0 8) 32 3))
  | (s, .halt m) => (s, .halt m)
  | (s, .uncorr) => (s, .uncorr)

/-- An address offset by rows before or behind it, modulo 2^52. -/
def rowAt (base x idx pitch : Nat) : Nat := wrap 52 ((base : Int) + ((x : Int) - idx) * pitch)

/-- The address of source row `r`, by the list for a gather. -/
def Dev.srcRow (s : Dev) (h : Nat) (ch : Chan) (r : Nat) : Dev × Acc Nat :=
  if dOp ch.q = 2 then
    match s.listEntry h ch r with
    | (s, .ok (x, _)) => (s, .ok (rowAt (dSrc ch.q) x (qf ch.q 6 32 32) (dSp ch.q)))
    | (s, .halt m) => (s, .halt m)
    | (s, .uncorr) => (s, .uncorr)
  else (s, .ok (dSrc ch.q + r * dSp ch.q))

/-- The address of destination row `f` (source row `r`), by the list for a scatter. -/
def Dev.dstRow (s : Dev) (h : Nat) (ch : Chan) (r f : Nat) : Dev × Acc Nat :=
  if dOp ch.q = 4 then
    match s.listEntry h ch r with
    | (s, .ok (x, j)) =>
      (s, .ok ((rowAt (dDst ch.q) x (qf ch.q 6 32 32) (dDp ch.q) + j * qf ch.q 5 0 32) % 2 ^ 52))
    | (s, .halt m) => (s, .halt m)
    | (s, .uncorr) => (s, .uncorr)
  else (s, .ok (dDst ch.q + f * dDp ch.q))

/-- Widen elements `[e, e + n)` of a source row: `bs` are its bytes from the first of them, `code i` the scale code of block i
of the row (R147). -/
def widen (sf df : Nat) (bs : List Byte) (e n : Nat) (code : Nat → Nat) : List Byte :=
  packElems df ((List.range n).map fun i =>
    let x := elemAt sf bs i
    if sf = 9 then wrap 32 (signed 8 x)
    else
      let v := if sf = 0xC then bi16Val x (code ((e + i) / 32))
               else if isMx sf then mxVal sf x (code ((e + i) / 32)) else (fmtOf sf).decode x
      (fmtOf df).encode 0 false 0 v)

/-- The codes of row `r`'s blocks, where the descriptor names the source's scale region. -/
def Dev.srcCodes (s : Dev) (h : Nat) (ch : Chan) (r : Nat) : Dev × Acc (List Byte) :=
  let b := rowBlocks (dSf ch.q) (dRb ch.q)
  match dSclRange ch.q with
  | some (sp, a, _) => s.dRead h (dCore h ch) sp (a + r * b) b
  | none => (s, .ok [])

/-- BI16 element bytes as they are written on: 0x8000 is −32,767 (R39); how many there were. -/
def clean16 : List Byte → List Byte × Nat
  | lo :: hi :: l =>
    let (r, n) := clean16 l
    if lo = 0 ∧ hi = 0x80 then (1 :: 0x80 :: r, n + 1) else (lo :: hi :: r, n)
  | l => (l, 0)

/-- Bytes `[o, o + n)` of the destination row made from source row `r`, without transpose. -/
def Dev.rowSlice (s : Dev) (h : Nat) (ch : Chan) (r o n : Nat) : Dev × Acc (List Byte) :=
  let q := ch.q
  if dOp q = 1 then
    (s, .ok (if isBlock (dDf q) then List.replicate n 0
             else (List.range n).map fun i => BitVec.ofNat 8 ((wordAt q 6).toNat / 2 ^ (8 * ((o + i) % 8)))))
  else
    match s.srcRow h ch r with
    | (s, .ok a) =>
      if dSf q = dDf q then
        -- a BI16 element with the pattern 0x8000 is never written again (R39): elements are read whole
        let b := dSf q == 0xC && dDf q == 0xC
        let lo := if b then o % 2 else 0
        match s.dRead h (dCore h ch) (dSs q) (a + o - lo) (if b then (lo + n + 1) / 2 * 2 else n) with
        | (s, .ok bs) => (s.dTally h 1 n, .ok (if b then (((clean16 bs).1.drop lo).take n) else bs))
        | x => x
      else
        let db := elemBits (dDf q)
        let sb := elemBits (dSf q)
        let e := o * 8 / db
        let m := n * 8 / db
        match s.dRead h (dCore h ch) (dSs q) (a + e * sb / 8) (m * sb / 8) with
        | (s, .ok bs) =>
          match s.srcCodes h ch r with
          | (s, .ok cs) => (s.dTally h 1 (m * sb / 8), .ok (widen (dSf q) (dDf q) bs e m fun i => (cs.getD i 0).toNat))
          | (s, x) => (s, x)
        | x => x
    | (s, .halt m) => (s, .halt m)
    | (s, .uncorr) => (s, .uncorr)

/-- Column `f` of the source matrix as a row (R148). -/
def Dev.colRow (s : Dev) (h : Nat) (ch : Chan) (f : Nat) : List Nat → Dev × Acc (List Byte)
  | [] => (s, .ok [])
  | r :: l =>
    let eb := elemBits (dSf ch.q) / 8
    match s.dRead h (dCore h ch) (dSs ch.q) (dSrc ch.q + r * dSp ch.q + f * eb) eb with
    | (s, .ok bs) =>
      match Dev.colRow (s.dTally h 1 eb) h ch f l with
      | (s, .ok cs) => (s, .ok (bs ++ cs))
      | x => x
    | x => x

/-- Bytes of destination row number `f`. -/
def Dev.dstSlice (s : Dev) (h : Nat) (ch : Chan) (f o n : Nat) : Dev × Acc (List Byte) :=
  if dXpose ch.q then
    match s.colRow h ch f (List.range (dRows ch.q)) with
    | (s, .ok bs) => (s, .ok ((bs.drop o).take n))
    | x => x
  else s.rowSlice h ch ((dOrder ch).getD f 0) o n

/-- Destination rows of the descriptor. -/
def dDstRows (ch : Chan) : Nat := if dXpose ch.q then dElems ch.q else (dOrder ch).length

/-- Destination bytes in all. -/
def dTotal (ch : Chan) : Nat := dDstRows ch * dDb ch.q

/-- The row slices of unit `u`: row, offset, bytes (R152). -/
def unitSlices (ch : Chan) (u : Nat) : List (Nat × Nat × Nat) :=
  let db := dDb ch.q
  if db = 0 then [] else
  let lo := 4096 * u
  let hi := Nat.min (lo + 4096) (dTotal ch)
  (List.range ((hi - 1) / db + 1 - lo / db)).map fun i =>
    let f := lo / db + i
    let a := Nat.max lo (f * db)
    let b := Nat.min hi ((f + 1) * db)
    (f, a - f * db, b - a)

/-- Units of the descriptor. -/
def dUnits (ch : Chan) : Nat := ceilDiv (dTotal ch) 4096

/-! ### Occupancy words (R150) -/

/-- Element bits that count as non-zero. The rule names BF16, FP16, the small formats and INT8: an FP32 element counts by its value, one of INT32, BI16 or
MXINT8 by its bits (DESIGN CHOICE; log entry 129). -/
def elemLive (fmt x : Nat) : Bool :=
  if fmt = 9 ∨ fmt = 0xB ∨ fmt = 0xC ∨ fmt = 0xD then x != 0 else !((fmtOf fmt).decode x).isZero

/-- The occupancy word of a destination row. -/
def occWord (fmt w : Nat) (row : List Byte) (codes : List Byte) : Nat :=
  let eb := elemBits fmt
  let n := row.length * 8 / eb
  let live := (List.range n).filter fun i =>
    elemLive fmt (elemAt fmt row i) || (isBlock fmt && (codes.getD (i / 32) 0).toNat == 0xFF)
  (List.range (row.length / w)).foldl (fun v j =>
    v + 2 ^ j * b2n (live.any fun i => decide (i * eb < 8 * w * (j + 1)) && decide (8 * w * j < (i + 1) * eb))) 0

end Sys2Proof.Machine
end

