-- ==== Sys2Proof/Machine/Dma.lean ====
section
/-! DEFINITION. DMA channels at work (R144 to R157) and DMA submission queues (R296). -/

namespace Sys2Proof.Machine

/-- The key of a channel. -/
def chanKey : ChanId → Nat
  | .cluster k ch => 16 * k.val + ch.val
  | .base d ch => 512 + 16 * d.val + ch.val
  | .queue q => 1024 + q.val

/-- Change channel `h`. -/
def Dev.onChan (s : Dev) (h : Nat) (f : Chan → Chan) : Dev := s.setChan h (f (s.chan h))

/-- A descriptor is done with a status (R156). -/
def Dev.dFinish (s : Dev) (h status : Nat) : Dev := s.onChan h fun ch => { ch with st := .finished status }

/-- A translation stops the channel before the unit (R156); `mv` says that the page is being moved (R255). -/
def Dev.dHalt (s : Dev) (h : Nat) (mv : Bool) : Dev := (s.onChan h fun ch => { ch with st := .halted, mv }).dTally h 7 1

/-- The channel may move: its cluster is in service, its DMA has not paused for a commit, and it is neither a paused breeze chain nor one
beside a foreground chain that is ready (R23, R144, R160). -/
def Dev.chanMay (s : Dev) (h : Nat) : Bool :=
  let ch := s.chan h
  (match chanCluster h with
   | some k => !s.clusterDown k && !s.pausedUnit ⟨.clusterDma, 16 * k⟩ && !(ch.brz && s.fgReady k)
   | none => !s.pausedUnit ⟨.baseDma, 16 * s.chanDie h⟩) && !(ch.brz && ch.pause)

/-! ### Beginning a descriptor -/

/-- The 64 bytes of the channel's descriptor: in the cluster store, at a device virtual address, or an entry fetched from the
DMA queue. -/
def Dev.dFetch (s : Dev) (h : Nat) : Dev × Acc (List Byte) :=
  let ch := s.chan h
  match ch.owner with
  | .queue q =>
    match (s.que.run.filter fun e => e.q == q)[ch.addr]? with
    | some e => (s, .ok e.bytes)
    | none => (s, .halt false)
  | _ => s.dRead h ch.core (if (chanCluster h).isSome then 1 else 2) ch.addr 64

/-- The words of a descriptor. -/
def descWords (bs : List Byte) : List W64 := (List.range 8).map fun i => BitVec.ofNat 64 (leAt bs (8 * i) 8)

/-- Translate pages of an accumulator for writing, one after another: 0 all lie in HBM, 4 one lies outside (R156), 1 one does
not translate, 2 one is being moved. -/
def Dev.accPagesAll (s : Dev) (h : Nat) : List Nat → Dev × Nat
  | [] => (s, 0)
  | va :: l =>
    match s.xlate (s.chanTlb h) (s.chanSrc h) 0 va true with
    | (s, .ok pa) => if s.inHbm pa then Dev.accPagesAll s h l else (s, 4)
    | (s, .wait _) => (s, 2)
    | (s, .fail) => (s, 1)

/-- Every page of an accumulator and its scale region is translated before the first unit (R156). -/
def Dev.accPages (s : Dev) (h : Nat) (q : List W64) : Dev × Nat :=
  let b := rowBlocks 0xC (dRb q)
  let rs := ((List.range (dRows q)).map fun r => ((dDst q + r * dDp q) % 2 ^ 52, dRb q)) ++ [(dScl q % 2 ^ 52, dRows q * b)]
  s.accPagesAll h (rs.flatMap fun r => (pagePieces (r.2 / 65536 + 2) r.1 r.2).map Prod.fst)

/-- A list lies in its local store, and the rows of a gather or scatter in a local or cluster store lie in it, by the list as it stands. -/
def Dev.listRanges (s : Dev) (h : Nat) (ch : Chan) : Bool :=
  let rows := List.range (Nat.min ch.lcount (dRows ch.q))
  let k := match dListCore h ch with | some c => s.core c | none => Core.cold
  decide (ch.lbase + 8 * rows.length ≤ lsSize) && rows.all fun i =>
    let a := ch.lbase + 8 * i
    let x : Int := (k.lsNat a 4 : Int) - qf ch.q 6 32 32
    let j := bits (k.lsNat a 8) 32 3
    let ok (sp : Nat) (b : Int) (n : Nat) : Bool := sp == 2 || (decide (0 ≤ b) && inSpace sp b.toNat n)
    if dOp ch.q = 2 then ok (dSs ch.q) (dSrc ch.q + x * dSp ch.q) (dRb ch.q)
    else ok (dDs ch.q) (dDst ch.q + x * dDp ch.q + j * qf ch.q 5 0 32) (dDb ch.q)

/-- Read what is read once: the row mask (R149) or the list's base and count (R151). -/
def Dev.dOnce (s : Dev) (h : Nat) : Dev × Acc Unit :=
  let ch := s.chan h
  let rd (s : Dev) (c : Option Nat) (a n : Nat) (f : List Byte → Chan → Chan) : Dev × Acc Unit :=
    match s.dRead h c 0 a n with
    | (s, .ok bs) => (s.onChan h (f bs), .ok ())
    | (s, .halt m) => (s, .halt m)
    | (s, .uncorr) => (s, .uncorr)
  let lists (s : Dev) : Dev × Acc Unit :=
    if dLists ch.q then rd s (dListCore h ch) (dList ch.q) 16 fun bs ch => { ch with lbase := leAt bs 0 4, lcount := leAt bs 8 2 }
    else (s, .ok ())
  if dRm ch.q then
    match rd s (dCore h ch) (dRmA ch.q) 16 fun bs ch => { ch with mask := leNat bs } with
    | (s, .ok _) =>
      let s := s.dTally h 3 (dRows ch.q - ((List.range (dRows ch.q)).filter fun r => bit (s.chan h).mask r).length)
      lists s
    | x => x
  else lists s

/-- Begin a descriptor: fetch it, make the checks of R156, read what is read once. The answer says whether it moves now. -/
def Dev.dBegin (s : Dev) (h : Nat) (ok : Nat → Bool) : Dev × Bool :=
  match s.dFetch h with
  | (s, .halt m) => (s.dHalt h m, false)
  | (s, .uncorr) => (s.dFinish h 2, false)
  | (s, .ok bs) =>
    let q := descWords bs
    if !ok (dOp q) then (s, false) else
    let s := s.onChan h fun ch => { ch with q, pos := 0, tail := [] }
    match s.dCheck h (s.chan h) with
    | 0 =>
      let (s, p) := if dOp q = 3 then s.accPages h q else (s, 0)
      if p = 4 then (s.dFinish h 4, false)
      else if p ≠ 0 then (s.dHalt h (p == 2), false)
      else
        match s.dOnce h with
        | (s, .ok _) =>
          if dLists q && !s.listRanges h (s.chan h) then (s.dFinish h 3, false)
          else (s.onChan h fun ch => { ch with st := .moving }, true)
        | (s, .halt m) => (s.dHalt h m, false)
        | (s, .uncorr) => (s.dFinish h 2, false)
    | e => (s.dFinish h e, false)

/-! ### Units -/

/-- The bytes of a unit's slices, one after another. -/
def Dev.sliceBytes (s : Dev) (h : Nat) (ch : Chan) : List (Nat × Nat × Nat) → Dev × Acc (List (Nat × Nat × List Byte))
  | [] => (s, .ok [])
  | (f, o, n) :: l =>
    match s.dstSlice h ch f o n with
    | (s, .ok bs) =>
      match Dev.sliceBytes s h ch l with
      | (s, .ok r) => (s, .ok ((f, o, bs) :: r))
      | x => x
    | (s, .halt m) => (s, .halt m)
    | (s, .uncorr) => (s, .uncorr)

/-- Where the slices go: by row address, or line by line in the skewed layout. -/
def Dev.slicePlaces (s : Dev) (h : Nat) (ch : Chan) : List (Nat × Nat × List Byte) → Dev × Acc (List (Nat × List Byte))
  | [] => (s, .ok [])
  | (f, o, bs) :: l =>
    match s.dstRow h ch ((dOrder ch).getD f 0) f with
    | (s, .ok a) =>
      let ps := if dSkew ch.q then bs.zipIdx.map fun p => (skewAddr (dDst ch.q) f (o + p.2), [p.1]) else [(a + o, bs)]
      match Dev.slicePlaces s h ch l with
      | (s, .ok r) => (s, .ok (ps ++ r))
      | x => x
    | (s, .halt m) => (s, .halt m)
    | (s, .uncorr) => (s, .uncorr)

/-- The scale codes that a fill writes with a unit: those of the blocks that begin in it (R155). -/
def fillCodes (ch : Chan) (l : List (Nat × Nat × Nat)) : List (Nat × List Byte) :=
  if dOp ch.q ≠ 1 ∨ !isBlock (dDf ch.q) then [] else
  let bb := 4 * elemBits (dDf ch.q)
  let nb := rowBlocks (dDf ch.q) (dRb ch.q)
  l.flatMap fun x => ((List.range nb).filter fun i => decide (x.2.1 ≤ i * bb) && decide (i * bb < x.2.1 + x.2.2)).map fun i =>
    (dScl ch.q + x.1 * nb + i, natLe 1 (wordAt ch.q 6).toNat)

/-- The bytes of a slice's row up to the slice's end: the last unit left the first of them. -/
def rowSoFar (ch : Chan) (x : Nat × Nat × List Byte) : List Byte := if x.2.1 = 0 then x.2.2 else ch.tail ++ x.2.2

/-- The bytes of the row that a unit leaves unfinished. -/
def rowTail (ch : Chan) (l : List (Nat × Nat × List Byte)) : List Byte :=
  match l.getLast? with
  | some x => if x.2.1 + x.2.2.length = dDb ch.q then [] else rowSoFar ch x
  | none => []

/-- The occupancy words of the rows that end in a unit (R150): addresses and bytes. -/
def Dev.occRows (s : Dev) (h : Nat) (ch : Chan) : List (Nat × Nat × List Byte) → Dev × Acc (List (Nat × List Byte))
  | [] => (s, .ok [])
  | x :: l =>
    if !dOc ch.q || x.2.1 + x.2.2.length != dDb ch.q then Dev.occRows s h ch l else
    let codes := if isBlock (dDf ch.q) ∧ dOp ch.q ≠ 1 then s.srcCodes h ch ((dOrder ch).getD x.1 0)
      else (s, .ok (List.replicate 512 (BitVec.ofNat 8 (wordAt ch.q 6).toNat)))
    match codes with
    | (s, .ok cs) =>
      match Dev.occRows s h ch l with
      | (s, .ok r) => (s, .ok ((dOcA ch.q + 2 * x.1, natLe 2 (occWord (dDf ch.q) (dOcW ch.q) (rowSoFar ch x) cs)) :: r))
      | x => x
    | (s, .halt m) => (s, .halt m)
    | (s, .uncorr) => (s, .uncorr)

/-- One unit of a descriptor other than an accumulating write; false ends the run. A write that merges with a line of the package buffer that
cannot be read stands, with the poison pattern, and ends the descriptor (R140, R141). -/
def Dev.unitMove (s : Dev) (h : Nat) : Dev × Bool :=
  let ch := s.chan h
  let sl := unitSlices ch ch.pos
  match s.sliceBytes h ch sl with
  | (s, .halt m) => (s.dHalt h m, false)
  | (s, .uncorr) => (s.dFinish h 2, false)
  | (s, .ok bs) =>
    match s.slicePlaces h ch bs with
    | (s, .halt m) => (s.dHalt h m, false)
    | (s, .uncorr) => (s.dFinish h 2, false)
    | (s, .ok ps) =>
      match s.occRows h ch bs with
      | (s, .halt m) => (s.dHalt h m, false)
      | (s, .uncorr) => (s.dFinish h 2, false)
      | (s, .ok occ) =>
        let codes := fillCodes ch sl
        match s.dReady h (dDs ch.q) (ps ++ codes) with
        | (s, .halt m) => (s.dHalt h m, false)
        | (s, .uncorr) => (s.dFinish h 2, false)
        | (s, .ok lost) =>
          let s := (s.dWrite h (dCore h ch) (dDs ch.q) ps).dWrite h (dCore h ch) (dDs ch.q) codes
          let s := s.dTally h 2 ((ps.map fun p => p.2.length).foldl (· + ·) 0)
          let s := (s.dWrite h (dCore h ch) 0 occ).dTally h 4 occ.length
          if lost then (s.dFinish h 2, false)
          else (s.onChan h fun c => { c with pos := c.pos + 1, tail := rowTail ch bs }, true)

/-! ### Accumulating writes (R152, R48) -/

/-- The sum of two BI16 blocks (R48): code, bytes, saturations, whether it is non-finite; of a non-finite sum no 0x8000 counts (DEDUCED, log
entry 100). -/
def bi16Add (ca : Nat) (a : List Byte) (cb : Nat) (b : List Byte) : Nat × List Byte × Nat × Bool :=
  if ca = 0xFF ∨ cb = 0xFF ∨ ca ≠ cb then (0xFF, List.replicate 64 0, 0, true)
  else
    let r := (List.range 32).map fun i =>
      let (x, m) := bi16Int (leAt a (2 * i) 2)
      let (y, n) := bi16Int (leAt b (2 * i) 2)
      let z := x + y
      let past := decide (32767 < z.natAbs)
      (wrap 16 (if past then (if z < 0 then -32767 else 32767) else z), b2n m + b2n n + b2n past)
    (ca, r.flatMap fun x => natLe 2 x.1, (r.map Prod.snd).foldl (· + ·) 0, false)

/-- The incoming blocks `[lo, hi)` of an accumulating write: code and bytes; none when the drain stream has not brought them. -/
def Dev.accBlocks (s : Dev) (h : Nat) (ch : Chan) : Nat → Nat → Dev × Acc (List (Nat × List Byte))
  | 0, _ => (s, .ok [])
  | n + 1, j =>
    let q := ch.q
    let nb := rowBlocks 0xC (dRb q)
    let r := j / nb
    let i := j % nb
    match s.dRead h (dCore h ch) (dSs q) (dSrc q + r * dSp q + 64 * i) 64 with
    | (s, .ok bs) =>
      match s.dRead h (dCore h ch) (dSs q) (qf q 7 0 52 + j) 1 with
      | (s, .ok c) =>
        match Dev.accBlocks (s.dTally h 1 65) h ch n (j + 1) with
        | (s, .ok l) => (s, .ok ((leNat c, bs) :: l))
        | x => x
      | (s, .halt m) => (s, .halt m)
      | (s, .uncorr) => (s, .uncorr)
    | (s, .halt m) => (s, .halt m)
    | (s, .uncorr) => (s, .uncorr)

/-- Bytes of the accumulator as the controller reads them to add to; what it finds there is noted when it writes them (R243). -/
def Dev.accRead (s : Dev) (h va n : Nat) : Dev × List Byte :=
  match s.xlateRange (s.chanTlb h) (s.chanSrc h) 0 (va % 2 ^ 52) n true with
  | (s, .ok ps) => (ps.foldl (fun s p => s.countBytes 0 15 p.1 p.2) s, ps.flatMap fun p => s.physRead p.1 p.2)
  | (s, _) => (s, [])

/-- Where block `j` of an accumulating write lies: its elements and its scale code. -/
def accPlace (q : List W64) (j : Nat) : Nat × Nat :=
  let nb := rowBlocks 0xC (dRb q)
  ((dDst q + j / nb * dDp q + 64 * (j % nb)) % 2 ^ 52, (dScl q + j) % 2 ^ 52)

/-- Apply one incoming block to the accumulator (R48). -/
def Dev.accApply (s : Dev) (h : Nat) (ch : Chan) (j : Nat) (b : Nat × List Byte) : Dev :=
  let (da, ca) := accPlace ch.q j
  let t := s.chanTlb h
  let src := s.chanSrc h
  let (s, bs) := s.accRead h da 64
  let (s, cs) := s.accRead h ca 1
  let (c, r, sats, nf) := bi16Add (leNat cs) bs b.1 b.2
  let s := ((s.vWrite t src 0 da r).1.vWrite t src 0 ca (natLe 1 c)).1
  let s := s.satFld (if ch.brz then memAccSatAccBrz else memAccSatAccFg) sats
  if nf then s.nonFinite ch.brz else s

/-- The words of an accumulator that a unit reads and cannot have (R243); they are noted, with what else the unit's words show. -/
def Dev.accLost (s : Dev) (h : Nat) (places : List (Nat × List Byte)) : Dev × Bool :=
  let bad := places.flatMap fun p =>
    match (s.xlateRange (s.chanTlb h) (s.chanSrc h) 0 (p.1 % 2 ^ 52) p.2.length true).2 with
    | .ok ps => ps.flatMap fun x => s.physBad x.1 x.2
    | _ => []
  if (worst bad).lost then (s.noteAll 2 bad.eraseDups, true) else (s, false)

/-- One unit of an accumulating write: 64 blocks, or the remainder, as a whole under the ledger (R152, R153), or not at all (R243). -/
def Dev.unitAcc (s : Dev) (h : Nat) : Dev × Bool :=
  let ch := s.chan h
  let q := ch.q
  let lo := 64 * ch.pos
  let n := Nat.min 64 (dTotal ch / 64 - lo)
  let tag : W32 := BitVec.ofNat 32 (qf q 6 0 32)
  let t := s.chanTlb h
  let next (s : Dev) (take : Nat) : Dev × Bool :=
    (s.onChan h fun ch => { ch with pos := ch.pos + 1, stream := ch.stream.drop take }, true)
  let stopped := match dCore h ch with | some c => ch.cut.contains c | none => false
  if dSs q = 3 ∧ ch.stream.length < n then
    (if stopped then (s.onChan h fun ch => { ch with hush := true }).dFinish h 5 else s, false) else
  let take := if dSs q = 3 then n else 0
  match (if dSs q = 3 then (s, Acc.ok (ch.stream.take n)) else s.accBlocks h ch n lo) with
  | (s, .halt m) => (s.dHalt h m, false)
  | (s, .uncorr) => (s.dFinish h 2, false)
  | (s, .ok bl) =>
    let places := (List.range n).flatMap fun i =>
      let (da, ca) := accPlace q (lo + i)
      [(da, List.replicate 64 (0 : Byte)), (ca, [(0 : Byte)])]
    match s.dReady h 2 places with
    | (s, .halt m) => (s.dHalt h m, false)
    | (s, .uncorr) => (s.dFinish h 2, false)
    | (s, .ok _) =>
      match s.ledgerAsk t tag ch.pos with
      | (s, .wait m) => (s.dHalt h m, false)
      | (s, .lost) => (s.dFinish h 2, false)
      | (s, .skip) => next (s.dTally h 6 1) take
      | (s, .apply) =>
        match s.accLost h places with
        | (s, true) => (s.dFinish h 2, false)
        | (s, false) =>
          let s := bl.zipIdx.foldl (fun s p => s.accApply h ch (lo + p.2) p.1) s
          let s := (s.ledgerPut t tag (ch.pos + 1)).dTally h 5 1
          let s := match ch.owner, ch.work with
            | .core _, some w => s.markAcc w
            | .core c, none => if (s.core c).work.isNone then s.onCore c fun k => { k with accs := true } else s
            | _, _ => s
          next s take

/-- The core that a channel's requests count for (R17): 16 for work of no core. -/
def Chan.coreOf (ch : Chan) : Nat := match ch.core with | some c => c % 16 | none => 16

/-- The channel's turn: of the cores of its cluster with a channel that is ready and may move, the next after the core served last, and of
that core's channels the next after the one served last (R17, R144). The base dies' DMA has no such order (log entry 116). -/
def Dev.chanTurn (s : Dev) (h : Nat) : Bool :=
  match chanCluster h with
  | none => true
  | some k =>
    let l := (s.chansOf k).filter fun e => e.2.wants && s.chanMay e.1
    let c := (s.chan h).coreOf
    turn 17 (Sparse.get (always 16) s.ring.dmaCore k) (fun x => l.any fun e => e.2.coreOf == x) == some c &&
    turn 16 (Sparse.get (always 15) s.ring.dmaChan (17 * k + c)) (fun x => l.any fun e => e.2.coreOf == c && e.1 % 16 == x) == some (h % 16)

/-- The channel has had its turn. -/
def Dev.chanServed (s : Dev) (h : Nat) : Dev :=
  match chanCluster h with
  | none => s
  | some k =>
    let c := (s.chan h).coreOf
    { s with ring := { s.ring with dmaCore := Sparse.set (always 16) s.ring.dmaCore k c,
                                   dmaChan := Sparse.set (always 15) s.ring.dmaChan (17 * k + c) (h % 16) } }

/-- Up to `n` units, each in its turn; the descriptor is done after its last. -/
def Dev.dUnitsRun (s : Dev) (h : Nat) : Nat → Dev
  | 0 => s
  | n + 1 =>
    let ch := s.chan h
    if dUnits ch ≤ ch.pos then s.dFinish h 0
    else if !s.chanTurn h then s else
    let s := s.chanServed h
    match (if dOp ch.q = 3 then s.unitAcc h else s.unitMove h) with
    | (s, true) => if dUnits (s.chan h) ≤ (s.chan h).pos then s.dFinish h 0 else Dev.dUnitsRun s h n
    | (s, false) => s

/-- A descriptor whose op is one of the row's begins or goes on by up to `n` units; an undefined op ends with ILLEGAL. -/
def dmaEffect (op : Nat) (id : ChanId) (n : Nat) (s : Dev) : Dev :=
  let h := chanKey id
  if !s.chanMay h || !s.chanTurn h then s else
  match (s.chan h).st with
  | .ready =>
    match s.dBegin h fun o => o == op || decide (5 ≤ o) with
    | (s, true) => s.dUnitsRun h n
    | (s, false) => s
  | .moving => if dOp (s.chan h).q = op then s.dUnitsRun h n else s
  | _ => s

/-- DMA_COPY (R147). -/
def execDmaCopy (ch : ChanId) (n : Nat) (s : State) : Res := s.run (dmaEffect 0 ch n)
/-- DMA_FILL (R155). -/
def execDmaFill (ch : ChanId) (n : Nat) (s : State) : Res := s.run (dmaEffect 1 ch n)
/-- DMA_GATHER (R151). -/
def execDmaGather (ch : ChanId) (n : Nat) (s : State) : Res := s.run (dmaEffect 2 ch n)
/-- DMA_SCATTER (R151). -/
def execDmaScatter (ch : ChanId) (n : Nat) (s : State) : Res := s.run (dmaEffect 4 ch n)
/-- DMA_ACCUMULATING_WRITE (R152). -/
def execDmaAccumulatingWrite (ch : ChanId) (n : Nat) (s : State) : Res := s.run (dmaEffect 3 ch n)

/-! ### Completion (R156) -/

/-- The domain of a channel's event counters. -/
def Dev.chanDom (s : Dev) (h : Nat) : Nat :=
  match (s.chan h).work with
  | some w => w.dom
  | none => match chanCluster h with | some k => k | none => 32 + s.chanDie h

/-- The address of a descriptor, for messages. -/
def Dev.descAddr (s : Dev) (h : Nat) : Nat :=
  match (s.chan h).owner with
  | .queue q => (s.qctx q).slot ((s.qctx q).dev.toNat + (s.chan h).addr)
  | _ => (s.chan h).addr

/-- The fault message of a status (R156, R448); UNCORR's was sent by the store or the memory. -/
def Dev.dMessage (s : Dev) (h status : Nat) : Dev :=
  let kind := if status = 3 then 0x11 else if status = 4 then 0x12 else 0x13
  if status = 3 ∨ status = 4 ∨ (status = 5 ∧ !(s.chan h).hush) then s.detect (s.chanSrc h) kind 2 (s.descAddr h / 16) else s

/-- The chain is over. -/
def Dev.chanFree (s : Dev) (h : Nat) : Dev := s.setChan h { Chan.idle with stream := (s.chan h).stream }

/-- The chain ends with a status: what it ran for learns it, the segment that started it stops wherever it stands. A stopped drain stream stops nothing (R156, R160). -/
def Dev.chainEnd (s : Dev) (h status : Nat) : Dev :=
  let ch := s.chan h
  let quiet := ch.hush
  let s := if status = 2 then (s.chanFree h).noteRetry ch.brz else s.chanFree h
  match ch.owner with
  | .core c =>
    if status = 0 ∨ quiet then s else
    match ch.work with
    | some w => s.stopWork w
    | none => if (s.core c).work.isSome ∨ (s.core c).run = .idle then s else s.stopSegment c
  | .entry => if quiet then s.hushWork ch.work else s.endWork ch.work (status == 0)
  | .queue q => s.complete q 0 false (if status = 0 then 0 else 0x300 + status) 0 (s.que.run.filter fun e => e.q == q).length

/-- A channel that is free takes the oldest chain of a fenced cluster that waits for it (R456). -/
def Dev.takeChain (s : Dev) (h : Nat) : Dev :=
  if (s.chan h).st != .idle then s else
  match s.disp.movedCh.find? fun e => e.1 == h with
  | some e => { s.setChan h e.2 with disp := { s.disp with movedCh := s.disp.movedCh.erase e } }
  | none => s

/-- A descriptor's completion: arrival and the next of the chain, or the chain's end (R156). -/
def descCompleteEffect (id : ChanId) (s : Dev) : Dev :=
  let h := chanKey id
  let ch := s.chan h
  match ch.st with
  | .finished 0 =>
    let s := s.dTally h 0 1
    let s := if dFlag ch.q 26 then s.arrive (s.chanDom h) (qf ch.q 0 27 8) else s
    if dFlag ch.q 35 then
      let step := match ch.owner with
        | .queue _ => 1
        | _ => 64
      s.onChan h fun ch => { ch with st := .ready, addr := ch.addr + step, q := [], pos := 0 }
    else (s.chainEnd h 0).takeChain h
  | .finished e => ((s.dMessage h e).chainEnd h e).takeChain h
  | _ => s

/-- A halted channel goes on from its boundary; a fault that the pager cannot resolve ends a DMA queue's chain (R156,
R296), but a page being moved is no such fault (R255). -/
def chanRestartEffect (id : ChanId) (ok : Bool) (s : Dev) : Dev :=
  let h := chanKey id
  match (s.chan h).st, (s.chan h).owner with
  | .halted, .queue _ => if ok then again s h else if (s.chan h).mv then s else s.dFinish h 1
  | .halted, _ => if ok then again s h else s
  | _, _ => s
where
  /-- Before the first unit the checks run again. -/
  again (s : Dev) (h : Nat) : Dev :=
    s.onChan h fun ch => { ch with st := if ch.pos = 0 ∧ (ch.q = [] ∨ dOp ch.q = 3) then .ready else .moving }

/-- DMA_DESCRIPTOR_COMPLETE (R156). -/
def execDmaDescriptorComplete (ch : ChanId) (s : State) : Res := s.run (descCompleteEffect ch)
/-- DMA_CHANNEL_RESTART (R156). -/
def execDmaChannelRestart (ch : ChanId) (ok : Bool) (s : State) : Res := s.run (chanRestartEffect ch ok)

/-! ### Breeze chains (R144) -/

/-- Every breeze chain of the cluster pauses, or goes on. -/
def Dev.setPause (s : Dev) (k : Nat) (p : Bool) : Dev :=
  (s.chansOf k).foldl (fun s e => if e.2.brz && e.2.st != .idle then s.onChan e.1 fun ch => { ch with pause := p } else s) s

/-- BREEZE_CHAIN_PAUSE (R144). -/
def execBreezeChainPause (cluster : Fin 32) (s : State) : Res :=
  s.run fun s =>
    if s.fgReady cluster then
      (s.setPause cluster true).count (clusterBlk cluster) 10
        ((s.chansOf cluster).filter fun e => e.2.brz && e.2.wants && !e.2.pause).length
    else s

/-- The breeze is to stop at its lulls: by STOP or JOB_CLOSE, or while a host command holds the package in calm (R318, R321, R324). -/
def Dev.breezeHalt (s : Dev) : Bool := s.disp.halt || s.on fabCalmHost

/-! ### DMA submission queues (R296) -/

/-- The chain at the front of a DMA queue starts on its base-die DMA. -/
def dmaQueueChainEffect (q : Nat) (s : Dev) : Dev :=
  let h := 1024 + q
  if (s.chan h).st != .idle || (s.qctx q).kind != 2 || !s.qBusy q then s
  else
    let s := { s with que := { s.que with run := s.que.run.map fun (e : Entry) => if e.q = q then { e with started := true } else e } }
    s.startChain h 0 false none (.queue q) none

/-- DMA_QUEUE_CHAIN (R296). -/
def execDmaQueueChain (q : Fin 32768) (s : State) : Res := s.run (dmaQueueChainEffect q)

end Sys2Proof.Machine
end

