-- ==== Sys2Proof/Machine/Timetable.lean ====
section
/-! DEFINITION. Timetables (R345 to R351, R366): images, entries, checks, floors, dependencies, and when an instance may be
released (R353, R362, R365). -/

namespace Sys2Proof.Machine

/-! ### Entries (R346, R347) -/

/-- Release offset. -/
def eRel (e : List Byte) : Nat := leAt e 0 8
/-- Dispatcher, which is also the domain. -/
def eDisp (e : List Byte) : Nat := leAt e 8 1
/-- Kind. -/
def eKind (e : List Byte) : Nat := leAt e 9 1
/-- Flags. -/
def eFlags (e : List Byte) : Nat := leAt e 0xA 1
/-- Anchor. -/
def eAnchor (e : List Byte) : Bool := bit (eFlags e) 0
/-- Charge in MiB. -/
def eChg (e : List Byte) : Nat := leAt e 0xC 4
/-- Dependency `i`: 8 bytes. -/
def eDep (e : List Byte) (i : Nat) : Nat := leAt e (0x10 + 8 * i) 8
/-- Arrival `i`: 2 bytes. -/
def eSig (e : List Byte) (i : Nat) : Nat := leAt e (0x28 + 2 * i) 2
/-- The entry whose completion returns the charge. -/
def eRelIdx (e : List Byte) : Nat := leAt e 0x2C 2
/-- Work word 0. -/
def eW0 (e : List Byte) : Nat := leAt e 0x30 8
/-- Work word 1. -/
def eW1 (e : List Byte) : Nat := leAt e 0x38 8

/-- Reserved bits of the work field are zero, and its fields are in range (R347). -/
def workOk (kind w0 w1 : Nat) : Bool :=
  match kind with
  | 0 => bits w0 25 7 == 0 && bits w1 30 2 == 0 && bits w1 60 4 == 0 && bits w0 0 8 == 0 && bits w0 40 8 == 0 && bits w1 0 6 == 0 &&
         decide (bits w1 25 5 ≤ 30) && decide (bits w1 40 4 ≤ 8)
  | 1 => bits w0 60 4 == 0 && w1 == 0
  | 2 => bits w0 52 12 == 0 && w1 == 0
  | 3 => bits w0 2 14 == 0 && bits w0 28 4 == 0 && bits w0 44 20 == 0 && w1 == 0 && decide (bits w0 0 2 ≤ 2) &&
         decide (bits w0 16 12 ≤ bits w0 32 12)
  | 4 => w0 / 4 == 0 && w1 == 0
  | 5 => w0 == 0 && w1 == 0
  | _ => false

/-- The kind is one that the dispatcher and the timetable may hold (R348). -/
def placeOk (brz : Bool) (disp kind w0 : Nat) : Bool :=
  decide (disp ≤ 35) &&
  (match kind with
   | 0 => decide (disp < 32)
   | 2 | 3 | 4 => decide (32 ≤ disp)
   | 1 | 5 => true
   | _ => false) &&
  (!brz || kind == 0 || kind == 1 || kind == 5 || (kind == 3 && bits w0 0 2 == 1))

/-- The dependencies and arrivals hold no reserved bit, and the valid ones name a domain up to 35 (R346, R349). -/
def refsOk (e : List Byte) : Bool :=
  ((List.range 3).all fun i => !bit (eDep e i) 15 && (!bit (eDep e i) 14 || decide (bits (eDep e i) 8 6 ≤ 35))) &&
  ((List.range 2).all fun i => !bit (eSig e i) 15 && (!bit (eSig e i) 14 || decide (bits (eSig e i) 8 6 ≤ 35)))

/-- The footprint rule of segments (R366). -/
def Dev.footprintOk (s : Dev) (brz : Bool) (e : List Byte) : Bool :=
  if eKind e ≠ 0 then true else
  let lo := bits (eW1 e) 44 8
  let hi := bits (eW1 e) 52 8
  let pc := bits (eW0 e) 40 20
  let code := bits (eW0 e) 0 25
  let args := bits (eW1 e) 0 25
  let page := s.fld timBudgetBrzLsPage
  let cs := s.fld timBudgetBrzCsUnit * 65536
  decide (4096 * lo ≤ pc) && decide (pc + 256 * (bits (eW0 e) 32 8 + 1) ≤ 4096 * (hi + 1)) &&
  (if brz then decide (page ≤ lo) && decide (cs ≤ code) && decide (cs ≤ args)
   else decide (hi < page) && decide (code < cs) && decide (args < cs))

/-- An entry of a timetable of `n` entries keeps R346 to R348 and the list of R349, but for the footprint. -/
def entryOk (brz : Bool) (n : Nat) (e : List Byte) : Bool :=
  eRel e % 8 == 0 && decide (eRel e < 2 ^ 48) && eFlags e / 2 == 0 && !(brz && eAnchor e) && leAt e 0xB 1 == 0 &&
  leAt e 0x2E 2 == 0 && (eRelIdx e == 0xFFFF || decide (eRelIdx e < n)) && refsOk e &&
  placeOk brz (eDisp e) (eKind e) (eW0 e) && workOk (eKind e) (eW0 e) (eW1 e)

/-- The entries of a valid timetable image and its period (R345 to R349); none when something is broken. -/
def Dev.parseTimetable (s : Dev) (brz : Bool) (img : List Byte) : Option (List (List Byte) × Nat) :=
  let n := leAt img 8 4
  let p := leAt img 0x10 8
  if leAt img 0 4 ≠ 0x4254544B ∨ leAt img 4 2 ≠ 1 ∨ leAt img 6 2 ≠ 0 ∨ leAt img 0xC 4 ≠ 0 ∨ leNat ((img.drop 0x18).take 40) ≠ 0 ∨
     n = 0 ∨ 65535 < n ∨ p % 8 ≠ 0 ∨ p < 8000 ∨ 2 ^ 48 < p ∨ img.length < 64 + 64 * n then none
  else
    let es := (List.range n).map fun i => (img.drop (64 + 64 * i)).take 64
    if es.all (fun e => entryOk brz n e && s.footprintOk brz e) &&
       (List.range 36).all (fun d => decide ((es.filter fun e => eDisp e == d).length ≤ 4096))
    then some (es, p) else none

/-! ### Domains and units (R351, R356) -/

/-- The next cluster of `k`'s die, in the order c + 1 modulo 8, that is in service; `n` bounds the search. -/
def Dev.nextCluster (s : Dev) : Nat → Nat → Option Nat
  | 0, _ => none
  | n + 1, k =>
    let k' := k / 8 * 8 + (k % 8 + 1) % 8
    if s.pkg.fences.cluster k' then Dev.nextCluster s n k' else some k'

/-- The cluster that runs domain `k`: itself in service, else the next cluster in service of its die, else that of cluster c
on the next compute die in service (R356). -/
def Dev.holderFrom (s : Dev) : Nat → Nat → Nat
  | 0, k => k
  | n + 1, k =>
    if !s.pkg.fences.cluster k then k
    else if s.pkg.fences.dies.contains (k / 8) then Dev.holderFrom s n ((k / 8 + 1) % 4 * 8 + k % 8)
    else match s.nextCluster 7 k with
      | some k' => k'
      | none => Dev.holderFrom s n ((k / 8 + 1) % 4 * 8 + k % 8)

/-- The cluster that holds domain `k`. -/
def Dev.holder (s : Dev) (k : Nat) : Nat := s.holderFrom 4 k

/-- The physical core of logical core `l` of domain `k` (R356). -/
def Dev.physCore (s : Dev) (k l : Nat) : Nat := Sparse.get (fun x => x) s.disp.lmap (16 * s.holder k + l)

/-- The base die whose time the dispatcher of domain `d` reads. -/
def Dev.domDie (s : Dev) (d : Nat) : Nat := if d < 32 then s.holder d / 8 else (d - 32) % 4

/-- The unit an entry's work needs. -/
inductive Need where
  | core (c : Nat)
  | chan (h : Nat)
  | update (d : Nat)
  | engine (d : Nat)
  | engines
  | nothing
  deriving DecidableEq, Repr

/-- The unit of an entry (R347, R348). -/
def Dev.need (s : Dev) (e : List Byte) : Need :=
  let d := eDisp e
  match eKind e with
  | 0 => .core (s.physCore d (bits (eW0 e) 60 4))
  | 1 => .chan (if d < 32 then 16 * s.holder d + bits (eW0 e) 52 4 else 512 + 16 * (d - 32) + bits (eW0 e) 52 4)
  | 2 => .engine (d - 32)
  | 3 => .update (d - 32)
  | 4 => .engines
  | _ => .nothing

/-- The units of R22 that the need stands for. -/
def Need.units : Need → List UnitId
  | .core c => [⟨.sequencer, c⟩, ⟨.vector, c⟩, ⟨.matrix, 4 * c⟩, ⟨.matrix, 4 * c + 1⟩, ⟨.matrix, 4 * c + 2⟩, ⟨.matrix, 4 * c + 3⟩]
  | .chan h => if h < 512 then [⟨.clusterDma, h / 16 * 16⟩] else [⟨.baseDma, (h - 512) / 16 * 16⟩]
  | .update d => [⟨.update, d⟩]
  | .engine d => [⟨.collective, d⟩]
  | .engines => unitList .collective 4 1
  | .nothing => []

/-- An update unit after reset. -/
def Upd.cold : Upd :=
  { run := none, sum := 0, inexact := 0, nsat := false, dig := [0, 0, 0, 0], prod := 0, fwd := 0, tag := none, blocks := 0, gap := none, sink := .none,
    restored := [], torn := none, flight := 0, todo := [], kept := [], restore := none, image := none, sinkNew := none }

/-- An update pass over descriptors `a` to `b` that the firmware runs, no entry waiting for it (R321, R329). -/
def updatePass (a b : Nat) (n : W64) : Pass :=
  { work := none, kind := 1, last := b, desc := a, blk := 0, n, begun := false, dig := [0, 0, 0, 0], sw := 0, sr := 0, paused := false,
    fresh := true, rec_ := none, sets := [], lp := 0 }

/-- Update unit `d`. -/
def Dev.upd (s : Dev) (d : Nat) : Upd := Sparse.get (always Upd.cold) s.upds d

/-- Set it. -/
def Dev.setUpd (s : Dev) (d : Nat) (u : Upd) : Dev := { s with upds := Sparse.set (always Upd.cold) s.upds d u }

/-- A pass comes to a unit; a yielded one that stands there stands behind it (R363). -/
def Dev.putPass (s : Dev) (d : Nat) (p : Pass) : Dev := s.setUpd d { s.upd d with run := some p, kept := (s.upd d).run.toList ++ (s.upd d).kept }

/-- Breeze work holds the unit and has not yielded it. -/
def Dev.heldByBreeze (s : Dev) : Need → Bool
  | .core c => match (s.core c).work with | some w => w.brz | none => false
  | .chan h => (s.chan h).brz && (s.chan h).st != .idle && !(s.chan h).pause
  | .update d => match (s.upd d).run with
    | some p => !p.paused && (match p.work with | some w => w.brz | none => false)
    | none => false
  | _ => false

/-- A breeze pass that has yielded its unit stands there (R213, R363). -/
def Dev.passYielded (s : Dev) (d : Nat) : Bool :=
  match (s.upd d).run with
  | some p => p.paused && (match p.work with | some w => w.brz | none => false)
  | none => false

/-- The unit is free, or breeze work has yielded it to the foreground (R353, R363); it is not paused for a commit (R358). -/
def Dev.unitFree (s : Dev) (brz : Bool) (n : Need) : Bool :=
  (match n with
   | .core c =>
     let k := s.core c
     !s.coreDown c && k.run == .idle && k.work.isNone && (!brz || k.saved.isNone) &&
     !(s.disp.moved.any fun m => s.physCore m.work.dom m.work.lcore == c)
   | .chan h =>
     (match chanCluster h with | some k => !s.clusterDown k | none => true) &&
     ((s.chan h).st == .idle && (!brz || Sparse.get (always Chan.idle) s.disp.parked h == Chan.idle) ||
      (!brz && (s.chan h).brz && (s.chan h).pause))
   | .update d => (s.upd d).torn.isNone && ((s.upd d).run.isNone || (!brz && s.passYielded d))
   | _ => true) &&
  (match s.regs.commit with
   | some c => n.units.all fun u => !c.paused.contains u
   | none => true)

/-! ### Instances -/

/-- A candidate for release: the entry's number (for a one-off, its place), round, bytes, whether it is breeze work, the queue
and cid of a one-off. -/
structure Cand where
  entry : Nat
  round : Nat
  brz   : Bool
  e     : List Byte
  one   : Option (Nat × BitVec 16)
  deriving DecidableEq, Repr

/-- A timetable: foreground or breeze. -/
def Dev.table (s : Dev) (brz : Bool) : Timetable := if brz then s.disp.brz else s.disp.fg

/-- Set it. -/
def Dev.setTable (s : Dev) (brz : Bool) (t : Timetable) : Dev :=
  if brz then { s with disp := { s.disp with brz := t } } else { s with disp := { s.disp with fg := t } }

/-- Instances of an entry that have completed. -/
def Dev.doneOf (s : Dev) (brz : Bool) (i : Nat) : Nat := Sparse.get (always 0) (s.table brz).done i

/-- The next instance of a timetable entry that has neither been released nor failed, or an accepted one-off entry; with the
timetable unarmed, beyond the last round that may be released, or in a step retry, there is none (R321, R353, R459). -/
def Dev.cand (s : Dev) : Rel → Option Cand
  | .entry brz i =>
    let t := s.table brz
    match t.ents[i]? with
    | none => none
    | some e =>
      let r := s.doneOf brz i
      if !t.armed || s.disp.failed.contains (brz, i) ||
         (s.disp.insts.any fun x => x.work.brz == brz && x.work.one.isNone && x.work.entry == i) ||
         (!brz && (match s.disp.last with | some l => decide (l < r) | none => false)) then none
      else some ⟨i, r, brz, e, none⟩
  | .one id => (s.disp.ones.find? fun o => o.id == id && (!s.flt.retrying || bit (eFlags o.bytes) 1)).map fun o =>
    ⟨o.id, 0, bit (eFlags o.bytes) 1, o.bytes, some (o.q, o.cid)⟩

/-- The instance that follows a released one of timetable entry `i`, which it waits for (R353). -/
def Dev.nextCand (s : Dev) (brz : Bool) (i : Nat) : Option Cand :=
  let t := s.table brz
  match t.ents[i]?, s.disp.insts.find? (fun x => x.work.brz == brz && x.work.one.isNone && x.work.entry == i) with
  | some e, some x => if t.armed then some ⟨i, x.work.round + 1, brz, e, none⟩ else none
  | _, _ => none

/-- B as it stands for an instance: a rebase moves the floors of its round's larger offsets and of later rounds (R359). -/
def Dev.rebaseFor (s : Dev) (round rel : Nat) : Nat :=
  s.disp.rebases.foldl (fun b x => if x.1 < round ∨ (x.1 = round ∧ x.2.1 < rel) then Nat.max b x.2.2 else b) 0

/-- The release floor (R350); one kept from before a rebase stands (R359). A one-off entry has none. -/
def Dev.floor (s : Dev) (x : Cand) : Nat :=
  if x.one.isSome then 0 else
  let t := s.table x.brz
  match (if x.brz then none else s.disp.early.find? fun f => f.1 == x.entry && f.2.1 == x.round) with
  | some f => f.2.2
  | none => t.t0 + x.round * t.period + eRel x.e + if x.brz then 0 else s.rebaseFor x.round (eRel x.e)

/-- A valid dependency is met: its counter reaches base + r × inc; a one-off's target is base (R351, R368). -/
def Dev.depMet (s : Dev) (x : Cand) (d : Nat) : Bool :=
  !bit d 14 ||
  reaches (s.evGet (bits d 8 6) (bits d 0 8))
    (BitVec.ofNat 32 (bits d 32 32 + if x.one.isSome then 0 else x.round * bits d 16 16))

/-- The dispatcher of a domain: that of the cluster that holds it, or of the base die. -/
def Dev.dispUnit (s : Dev) (d : Nat) : UnitId := ⟨.dispatcher, if d < 32 then s.holder d else d⟩

/-- The used MiB of a budget. -/
def Dev.budgetUsed (s : Dev) (brz : Bool) : Nat := s.fld (if brz then timBudgetBrzUsedMib else timBudgetFgUsedMib)

/-- The allowed MiB of a budget, as dispatcher `u` sees it. -/
def Dev.budgetMax (s : Dev) (u : UnitId) (brz : Bool) : Nat := s.fldAs u (if brz then timBudgetBrzHbmMib else timBudgetFgHbmMib)

/-- The charge fits (R365). -/
def Dev.chargeFits (s : Dev) (x : Cand) : Bool :=
  eChg x.e == 0 || decide (s.budgetUsed x.brz + eChg x.e ≤ s.budgetMax (s.dispUnit (eDisp x.e)) x.brz)

/-- The dispatcher's present time. -/
def Dev.dispNow (s : Dev) (x : Cand) : Nat := s.now (s.domDie (eDisp x.e))

/-- Eligible but for its unit (R353): floor, dependencies, charge. -/
def Dev.waitsForUnit (s : Dev) (x : Cand) : Bool :=
  decide (s.floor x ≤ s.dispNow x) && (List.range 3).all (fun i => s.depMet x (eDep x.e i)) && s.chargeFits x

/-- Every foreground candidate of the timetable and the one-off entries. -/
def Dev.fgCands (s : Dev) : List Cand :=
  (List.range s.disp.fg.ents.length).filterMap (fun i => s.cand (.entry false i)) ++
  (s.disp.ones.filterMap fun o => s.cand (.one o.id)).filter fun x => !x.brz

/-- gap_us, as the candidate's dispatcher sees it (R362). -/
def Dev.gapUs (s : Dev) (x : Cand) : Nat := s.fldOrAs (s.dispUnit (eDisp x.e)) timBrzCtlGapUs 1

/-- The floor of a candidate lies within `n` ns of the present: at most that far ahead, and at most gap_us behind (R362, R363). A one-off has
none. -/
def Dev.floorNear (s : Dev) (x : Cand) (n : Nat) : Bool :=
  x.one.isNone && decide (s.floor x ≤ s.dispNow x + n) && decide (s.dispNow x ≤ s.floor x + 1000 * s.gapUs x)

/-- Breeze work may take the unit: no foreground instance is eligible for it or has a floor within gap_us of the present (R362). -/
def Dev.breezeMay (s : Dev) (n : Need) : Bool :=
  s.fgCands.all fun x => s.need x.e != n || n == .nothing ||
    (!s.waitsForUnit x && !s.floorNear x (1000 * s.gapUs x))

/-- The entry depends on the vote's arrival at counter 253 of a base-die domain (R330, R352). -/
def onVote (e : List Byte) : Bool :=
  (List.range 3).any fun i => bit (eDep e i) 14 && bits (eDep e i) 0 8 == 253 && decide (32 ≤ bits (eDep e i) 8 6)

/-- After a vote without a majority the job holds at the first entry that depends on the vote: it is not released (R328). -/
def Dev.voteHolds (s : Dev) (x : Cand) : Bool := s.job.hold == some 1 && !x.brz && x.one.isNone && onVote x.e

/-- Eligible (R353, R362). -/
def Dev.eligible353 (s : Dev) (x : Cand) : Bool :=
  let n := s.need x.e
  s.waitsForUnit x && !s.voteHolds x && s.unitFree x.brz n && !s.schedHolds n.units && (!x.brz || (s.breezeMay n && !s.breezeHalt))

/-- To be released now: eligible, the dispatcher not paused for a commit (R23); of those contending for one unit at one dispatcher, the lowest
index goes first (R353). -/
def Dev.eligibleNow (s : Dev) (x : Cand) : Bool :=
  let n := s.need x.e
  !s.pausedUnit (s.dispUnit (eDisp x.e)) && s.eligible353 x &&
  (x.one.isSome || n == .nothing ||
   (List.range x.entry).all fun i =>
     match s.cand (.entry x.brz i) with
     | some y => !(eDisp y.e == eDisp x.e && s.need y.e == n && s.waitsForUnit y)
     | none => true)

/-! ### What holds a candidate back (R358, R365) -/

/-- Every candidate, and of entries whose instance is in flight the one that follows it, with whether it is that. -/
def Dev.waiting (s : Dev) : List (Cand × Bool) :=
  let of (brz : Bool) : List (Cand × Bool) := (List.range (s.table brz).ents.length).filterMap fun i =>
    match s.cand (.entry brz i) with
    | some x => some (x, false)
    | none => (s.nextCand brz i).map fun x => (x, true)
  of false ++ of true ++ s.disp.ones.filterMap fun o => (s.cand (.one o.id)).map fun x => (x, false)

/-- The causes of R358 whose conditions are not met for a candidate past its floor: 1 dependency, or the instance before it, 2 unit busy or
paused, 3 budget, 4 scheduled change, 5 breeze yield. -/
def Dev.unmet (s : Dev) (x : Cand) (behind : Bool) : List Nat :=
  let n := s.need x.e
  (if behind || !(List.range 3).all (fun i => s.depMet x (eDep x.e i)) then [1] else []) ++
  (if s.unitFree x.brz n && !s.pausedUnit (s.dispUnit (eDisp x.e)) then [] else if !x.brz && s.heldByBreeze n then [5] else [2]) ++
  (if s.chargeFits x then [] else [3]) ++ (if s.schedHolds n.units then [4] else [])

/-- The record of a candidate held back. -/
def Dev.heldOf (s : Dev) (x : Cand) : Option Held :=
  s.disp.waits.find? fun h => h.brz == x.brz && h.one == x.one.isSome && h.entry == x.entry && h.round == x.round

/-- At a tick the dispatchers note which candidates past their floors are held back, and by what. -/
def Dev.noteWaits (s : Dev) : Dev :=
  let l := s.waiting.filterMap fun (x, behind) =>
    if s.dispNow x < s.floor x then none else
    let causes := s.unmet x behind
    if causes.isEmpty then none else
    let old := s.heldOf x
    let since := if causes == [3] || causes == [2, 3] || causes == [5, 3] then some ((old.bind fun h => h.since).getD s.real) else none
    some ⟨x.brz, x.one.isSome, x.entry, x.round, causes, since, (old.map fun h => h.told).getD false⟩
  { s with disp := { s.disp with waits := l } }

/-- The cause of a late release (R358): the condition met last, which was unmet at the latest tick; of several that were met together the
one that the release names, else the first (log entry 53). -/
def Dev.lateCause (s : Dev) (x : Cand) (named : Nat) : Nat :=
  match s.heldOf x with
  | some h => if h.causes.contains named then named else h.causes.headD named
  | none => named

end Sys2Proof.Machine
end

