-- ==== Sys2Proof/Machine/StepOps.lean ====
section
/-! DEFINITION. The open step, commands that wait, holding and stopping the job (R166, R171, R176, R320, R321, R328, R459): what
dispatch, the close, the command set and the fault chapter share. -/

namespace Sys2Proof.Machine

/-! ### The open step (R166, R171, R176, R321, R459) -/

/-- Zero bytes at a virtual address, a page piece at a time. -/
def Dev.zeroRange (s : Dev) (va n : Nat) : Dev :=
  (pagePieces (n / 65536 + 2) va n).foldl (fun s p =>
    match s.xlate (baseTlb s.pkg.lead) s.sysSrc 2 p.1 true with
    | (s, .ok pa) =>
      let s := (s.countBytes 4 16 pa p.2).snoopBack pa p.2
      { s with phys := s.phys.zero pa (pa + p.2) }
    | (s, _) => s) s

/-- Statistics records of the plan. -/
def Dev.planN (s : Dev) : Nat := s.fld sysPlanBaseNM1 + 1

/-- The statistics ring (R189). -/
def Dev.statRing (s : Dev) : Nat := s.fld sysStatBaseBase * 65536

/-- The address of statistics slice `j`: 0 to 63 local, 64 to 127 global (R176). -/
def Dev.sliceAddr (s : Dev) (j : Nat) : Nat := s.statRing + 32 * s.planN * j

/-- Clear the local slice of ordinal `o`: every record holds what a cleared slot holds (R172, R176). -/
def Dev.clearSlice (s : Dev) (o : Nat) : Dev :=
  if !s.on sysStatBaseEn then s else
  let b := (List.range s.planN).flatMap fun _ => Stat.cleared.encode
  (s.vWrite (baseTlb s.pkg.lead) s.sysSrc 2 (s.sliceAddr (o % 64)) b).1

/-- A page of the local slice of ordinal `o` is being moved. -/
def Dev.sliceMoving (s : Dev) (o : Nat) : Bool := s.on sysStatBaseEn && s.moving (s.sliceAddr (o % 64)) (32 * s.planN)

/-- A page of the apply ledger is being moved. -/
def Dev.ledgerMoving (s : Dev) : Bool := s.on memLedgerBaseEn && s.moving (s.fld memLedgerBaseBase * 65536) (16 * 65536)

/-- Clear the apply ledger (R171). -/
def Dev.clearLedger (s : Dev) : Dev :=
  if s.on memLedgerBaseEn then s.zeroRange (s.fld memLedgerBaseBase * 65536) (16 * 65536) else s

/-- The units' norm sums and digests of the step that opens next start at zero (R208, R224). -/
def Dev.freshUnits (s : Dev) : Dev :=
  (List.range 4).foldl (fun s d => s.setUpd d { s.upd d with sum := 0, inexact := 0, nsat := false, dig := [0, 0, 0, 0] }) s

/-- A discard of the open step has to wait for a page that it clears (R255). -/
def Dev.discardWaits (s : Dev) : Bool := s.sliceMoving (s.fld sysStepStatusOrdinal) || s.ledgerMoving

/-- The open step is discarded (R321): its slice, the ledger, the units' sums and its non-finite flag are cleared (the flag: DEDUCED), the
ordinal stays. -/
def Dev.discardStep (s : Dev) : Dev :=
  let s := ((s.clearSlice (s.fld sysStepStatusOrdinal)).clearLedger).freshUnits
  let settled := s.fld fltSeqNext + s.flt.msgs.length
  let s := { s with job := { s.job with opened := none, overrun := false, close := none }, flt := { s.flt with redone := settled } }
  s.setBit sysStepStatusNf false

/-- The foreground timetable is armed with time zero `t0` (R320, R351): counters, B and the round are 0; charges of the arming before
are returned (DEDUCED), its instances are gone. -/
def Dev.armFg (s : Dev) (t0 : Nat) : Dev :=
  let d := s.disp
  let d := { d with fg := { d.fg with t0, armed := true, done := [] }, rebases := [], early := [], last := none,
                    failed := d.failed.filter fun x => x.1, waits := d.waits.filter fun x => x.brz || x.one,
                    charges := d.charges.filter fun g => g.brz, insts := d.insts.filter fun i => i.work.brz || i.work.one.isSome }
  ((({ s with disp := d, ev := [] }.setBit timTtStatusFgArmed true).setFld timTtStatusRound 0).setFld timRebaseB 0).setFld
    timBudgetFgUsedMib 0

/-- The breeze timetable is armed with time zero `t0`; its rounds start at 0. -/
def Dev.armBrz (s : Dev) (t0 : Nat) : Dev :=
  let d := s.disp
  let d := { d with brz := { d.brz with t0, armed := true, done := [] }, failed := d.failed.filter (fun x => !x.1),
                    waits := d.waits.filter (fun x => !x.brz || x.one), halt := false }
  { s with disp := d }.setBit timTtStatusBrzArmed true

/-- The breeze stops at its lulls (R318, R321). -/
def Dev.haltBrz (s : Dev) : Dev :=
  { s with disp := { s.disp with brz := { s.disp.brz with armed := false }, halt := true } }.setBit timTtStatusBrzArmed false

/-- A released foreground instance of the timetable or a one-off runs. -/
def Dev.fgRunning (s : Dev) : Bool := s.disp.insts.any fun i => !i.work.brz

/-- The close of the open ordinal has decided F. -/
def Dev.closeDecided (s : Dev) : Bool := match s.job.close with | some c => c.decided | none => false

/-! ### Commands that wait -/

/-- A command that was waiting ends. -/
def Dev.endCmd (s : Dev) (c : RunCmd) (status : Nat) (result : W64) : Dev :=
  { s with job := { s.job with cmds := s.job.cmds.erase c } }.complete c.q c.cid c.quiet status result

/-- Every waiting command for which `p` holds ends with a status and a result. -/
def Dev.endCmds (s : Dev) (p : RunCmd → Bool) (status : Nat) (result : W64) : Dev :=
  (s.job.cmds.filter p).foldl (fun s c => s.endCmd c status result) s

/-- What a waiting command has done so far is taken back, so that none of it is in force (R310): a STOP's or JOB_CLOSE's stop of the timetables, a
CALM_ENTER's calm. What an expulsion, a fence, a repair or an admission has begun goes on to its end without the command. -/
def Dev.undoCmd (s : Dev) (c : RunCmd) : Dev :=
  let brz (s : Dev) : Dev :=
    { s with disp := { s.disp with brz := { s.disp.brz with armed := c.brz }, halt := c.halt } }.setBit timTtStatusBrzArmed c.brz
  match c.what with
  | .stop false => brz { s with disp := { s.disp with last := none } }
  | .stop true =>
    brz (if s.fld sysJobStatusState = 3 then
      { s with disp := { s.disp with fg := { s.disp.fg with armed := c.fg } } }.setBit timTtStatusFgArmed c.fg else s)
  | .stopBreeze | .close => brz s
  | .calm _ none => s.setBit fabCalmHost false
  | .calm _ (some g) => { s with col := { s.col with calm := setDel s.col.calm g } }
  | _ => s

/-- Every waiting command for which `p` holds ends with a status and has no effect (R26, R310, R311). -/
def Dev.dropCmds (s : Dev) (p : RunCmd → Bool) (status : Nat) : Dev :=
  ((s.job.cmds.filter p).foldl Dev.undoCmd s).endCmds p status 0

/-! ### Holding the job (R328) -/

/-- The foreground timetable is no longer armed. -/
def Dev.disarmFg (s : Dev) : Dev :=
  { s with disp := { s.disp with fg := { s.disp.fg with armed := false } } }.setBit timTtStatusFgArmed false

/-- A job-level fault shows its cause and sends its message (R328). -/
def Dev.tellHold (s : Dev) (cause : Nat) : Dev := ((s.setFld sysJobStatusJfCause cause).detect s.sysSrc 0x1A 2 cause).count sysBlk 5 1

/-- A job-level fault is raised: the cause waits for the point at which the job holds; a fault that waits already stands (R328). -/
def Dev.raiseHold (s : Dev) (cause : Nat) : Dev :=
  if s.job.hold.isSome then s else { s with job := { s.job with hold := some cause } }.tellHold cause

/-- The job holds (R328): no further foreground instance is released. -/
def Dev.holdJob (s : Dev) (cause : Nat) : Dev :=
  if s.fld sysJobStatusState ≠ 3 then s else
  let s := if s.job.hold = some cause then s.setFld sysJobStatusJfCause cause else s.tellHold cause
  ({ s with job := { s.job with hold := none } }.disarmFg).setFld sysJobStatusState 5

/-- The point at which a vote without a majority holds the job has come: the first entry that depends on the vote would be released (R328). -/
def Dev.voteHoldDue (s : Dev) : Dev :=
  if s.job.hold = some 1 ∧ s.fgCands.any (fun x => s.voteHolds x && s.waitsForUnit x) then s.holdJob 1 else s

/-! ### STOP (R321) -/

/-- The released instance waits in a paused update pass, which a STOP leaves for START to resume. -/
def Dev.instPaused (s : Dev) (i : Inst) : Bool :=
  i.ended.isNone && (List.range 4).any fun d =>
    match (s.upd d).run with
    | some p => p.paused && (s.upd d).torn.isNone && p.work == some i.work
    | none => false

/-! ### Clearing the job (R318, R373, R443, R466, R560, R561) -/

/-- A dispatcher's state without timetables; the maps of fenced cores and what waits of one-off entries stand. -/
def DispUnit.cleared (d : DispUnit) : DispUnit :=
  { d with fg := Timetable.cold, brz := Timetable.cold, insts := d.insts.filter fun i => i.work.one.isSome, rebases := [], early := [], failed := [],
           last := Option.none, charges := [], late := [], doneAt := [], parked := [], waits := [], mapSw := Option.none, moved := [], movedCh := [] }

/-- Cores give up what a timetable instance left on them. -/
def Dev.clearCores (s : Dev) : Dev :=
  s.cores.foldl (fun s (e : Nat × Core) =>
    let old (w : Option Work) : Bool := match w with | some w => w.one.isNone | Option.none => false
    if old e.2.work && e.2.run == .stopped then s.onCore e.1 fun k => { k with run := .idle, work := Option.none, saved := Option.none }
    else if old (e.2.saved.map fun v => v.work) then s.onCore e.1 fun k => { k with saved := Option.none } else s) s

/-- Update unit `d` gives up its passes, with the valid and paused flags of a pass record (R212); with `keep`, an update pass that has paused with
its record stays, without an entry, for START to resume (R217, R321). -/
def Dev.clearUnit (s : Dev) (keep : Bool) (d : Nat) : Dev :=
  let u := s.upd d
  let stays (p : Pass) : Bool := keep && p.paused && p.kind == 1 && p.rec_.isSome && u.torn.isNone
  let run := (u.run.filter stays).map fun p => { p with work := none }
  let s := if run.isNone ∧ (u.run.toList ++ u.kept).any (fun p => p.rec_.isSome) then
      (s.vWrite (baseTlb d) (dieSrc d 7) 0 (s.fld (updTableBaseBase.nth d) * 65536 + 0x400B) (natLe 1 0)).1
    else s
  (s.setUpd d { u with run, sum := 0, dig := [0, 0, 0, 0], torn := Option.none, restored := [], todo := [], kept := [],
                       restore := Option.none, image := Option.none }).setFld (updStatusState.nth d) 0

/-- What JOB_CLOSE clears (R318): groups, map slots, both timetables, member map, expelled set. Commits that waited for a close take
effect (R191). `keep` is for the update units.
A package that has failed keeps a pass that its record holds (R217). -/
def Dev.clearJob (s : Dev) (keep : Bool) : Dev :=
  let s := s.applyWaiting.clearCores
  let s := { s with col := { s.col with groups := [], seqs := [], maps := [], calm := [], rec_ := [], resid := [], zeroAt := 0 },
                    disp := s.disp.cleared,
                    job := { s.job with members := Option.none, expelled := [], leaving := [], opened := Option.none, overrun := false,
                                        retries := 0, close := Option.none, decided := Option.none, voteOwed := false,
                                        hold := Option.none, planFrom := 0, joining := Option.none, barred := [],
                                        copying := false },
                    flt := { s.flt with retry := false, noticed := false, retrying := false } }
  let s := ((s.setFld colMapLoaded 0).setFld colMapSlot 0).setReg timTtStatusFgArmed.off 0
  let s := (List.range 4).foldl (Dev.clearUnit · keep ·) s
  ((s.setFld timBudgetFgUsedMib 0).setFld timBudgetBrzUsedMib 0).colShow

/-- A repair runs on unit `d` (R215, R216): an image has come for it, or its torn descriptor may have a copy on a member of the replica
group. -/
def Dev.repairing (s : Dev) (d : Nat) : Bool :=
  (s.upd d).image.isSome || ((s.upd d).torn.isSome && (s.members (s.fld updCtlRepGid)).any fun p => p != s.ownPkg)

/-- JOB_CLOSE waits for pager moves, repairs and the breeze (R318). -/
def Dev.closeReady (s : Dev) : Bool :=
  s.mem.move.isNone && !s.on timTtStatusBrzBusy && !(List.range 4).any s.repairing

/-- What waits for the work on the package to end goes on (R318, R321, R328). A STOP with when = 1 completes once every released
foreground instance has completed, failed or paused its pass: in the open, forward, backward or reduce phase the step is discarded, a close that has
not decided decides first, and the job is stopped. A
held job's open step is discarded at the same point, once no page that this clears is being moved (R255). A STOP of the breeze completes
when no breeze work holds a unit. -/
def Dev.stopSettle (s : Dev) : Dev :=
  let fgDone := s.disp.insts.all fun i => i.work.brz || i.work.one.isSome || s.instPaused i
  let torn := (List.range 4).any fun d => (s.upd d).torn.isSome
  let is (w : Waiting) (c : RunCmd) : Bool := c.what == w
  let open_ := s.job.opened.isSome && !s.closeDecided
  let fgDone := fgDone && !(open_ && s.discardWaits)
  let closing := s.job.close.isSome && !s.closeDecided
  let s := if s.job.cmds.any (is (.stop true)) && fgDone && !torn && !closing then
      let s := if open_ then s.discardStep else s
      (s.setFld sysJobStatusState (if s.running then 4 else s.fld sysJobStatusState)).endCmds (is (.stop true)) 0 s.step
    else if s.fld sysJobStatusState == 5 && fgDone && open_ then s.discardStep
    else s
  let s := if s.on timTtStatusBrzBusy then s else s.endCmds (is .stopBreeze) 0 s.step
  if s.job.cmds.any (is .close) && s.closeReady then ((s.clearJob (s.fld sysJobStatusState == 7)).setFld sysJobStatusState 0).endCmds (is .close) 0 0 else s

end Sys2Proof.Machine
end

