-- ==== Sys2Proof/Machine/Disp.lean ====
section
/-! DEFINITION. The dispatchers at work: releases, lateness and rebasing, completion, yields, budgets, one-off entries (R353 to
R368). -/

namespace Sys2Proof.Machine

/-- Breeze work holds some unit: brz_busy (R373). -/
def Dev.noteBreeze (s : Dev) : Dev :=
  let busy := (s.cores.any fun e => match e.2.work with | some w => w.brz | none => false) ||
    (s.chans.any fun e => e.2.brz && e.2.st != .idle && !e.2.pause) ||
    (s.upds.any fun e => s.heldByBreeze (.update e.1))
  s.setBit timTtStatusBrzBusy busy

/-! ### Charges (R365) -/

/-- Set the used MiB of a budget. -/
def Dev.setUsed (s : Dev) (brz : Bool) (n : Nat) : Dev := s.setFld (if brz then timBudgetBrzUsedMib else timBudgetFgUsedMib) n

/-- A released instance takes its charge; it names the instance whose completion returns it. -/
def Dev.takeCharge (s : Dev) (x : Cand) : Dev :=
  let c := eChg x.e
  if c = 0 then s else
  let i := eRelIdx x.e
  let g : Charge :=
    if i = 0xFFFF then ⟨x.brz, c, x.entry, x.round, x.one⟩
    else if x.one.isSome then ⟨x.brz, c, i, s.doneOf x.brz i, none⟩
    else ⟨x.brz, c, i, if x.entry < i then x.round else x.round + 1, none⟩
  { s with disp := { s.disp with charges := s.disp.charges ++ [g] } }.setUsed x.brz (s.budgetUsed x.brz + c)

/-- A completed instance returns the charges that name it. -/
def Dev.returnCharges (s : Dev) (w : Work) : Dev :=
  let mine (g : Charge) : Bool :=
    g.brz == w.brz && g.one == w.one && (g.entry == w.entry) && (w.one.isSome || g.round == w.round)
  let n := ((s.disp.charges.filter mine).map fun (g : Charge) => g.mib).foldl (· + ·) 0
  if n = 0 then s else
  { s with disp := { s.disp with charges := s.disp.charges.filter fun g => !mine g } }.setUsed w.brz (s.budgetUsed w.brz - n)

/-! ### Lateness and rebasing (R358, R359) -/

/-- A multiple of 8 ns at or after `t`. -/
def ceil8 (t : Nat) : Nat := (t + 7) / 8 * 8

/-- Record the lateness of an instance: the largest of its entry, and the table's 16 bytes when enabled (R358). -/
def Dev.recordLate (s : Dev) (w : Work) (late cause : Nat) : Dev :=
  if w.one.isSome then s else
  let k := if w.brz then 65536 + w.entry else w.entry
  let top := Nat.max (Sparse.get (always 0) s.disp.late k) (Nat.min (2 ^ 32 - 1) late)
  let s := { s with disp := { s.disp with late := Sparse.set (always 0) s.disp.late k top } }
  let u := s.dispUnit w.disp
  if !s.onAs u timLateBaseEn then s else
  let d := s.domDie w.disp
  (s.vWrite (baseTlb d) (pkgSrc d 5) 0 (s.fldAs u timLateBaseBase * 65536 + 16 * k)
    (natLe 4 (Nat.min (2 ^ 32 - 1) late) ++ natLe 4 top ++ natLe 1 (if late = 0 then 0 else cause) ++ natLe 3 0 ++ natLe 4 w.round)).1

/-- The entry bytes of a piece of work, if its timetable still holds them. -/
def Dev.workBytes (s : Dev) (w : Work) : List Byte := ((s.table w.brz).ents[w.entry]?).getD []

/-- An anchor started late: B takes the larger value; instances eligible at that moment keep their floors (R359). -/
def Dev.rebase (s : Dev) (w : Work) (start : Nat) : Dev :=
  let e := s.workBytes w
  let base := eRel e + s.disp.fg.t0 + w.round * s.disp.fg.period
  let b := Nat.max (s.fld timRebaseB) (start - base)
  let kept := s.fgCands.filterMap fun x => if x.one.isNone && s.eligible353 x then some (x.entry, x.round, s.floor x) else none
  { s with disp := { s.disp with rebases := s.disp.rebases ++ [(w.round, eRel e, b)], early := s.disp.early ++ kept } }.setFld timRebaseB b
    |>.count pkgBlk 2 1

/-- Count on the cluster of a dispatcher; base-die dispatchers have no counter (R515). -/
def Dev.dispCount (s : Dev) (w : Work) (i n : Nat) : Dev := if w.disp < 32 then s.count (clusterBlk w.disp) i n else s

/-- The start of an instance: its lateness against its floor, recorded, and the rebase of an anchor (R358, R359). -/
def Dev.startedAt (s : Dev) (x : Cand) (w : Work) (start cause : Nat) : Dev :=
  let f := s.floor x
  let late := (start - f) / 8 * 8
  let s := (s.recordLate w late cause).dispCount w 12 (start - f)
  if !x.brz && x.one.isNone && eAnchor x.e && 0 < late then s.rebase w start else s

/-! ### Releases -/

/-- The work of a released candidate. -/
def Cand.work (x : Cand) (lcore : Nat) : Work :=
  { disp := eDisp x.e, brz := x.brz, entry := x.entry, round := x.round, lcore, dom := eDisp x.e,
    w0 := BitVec.ofNat 64 (eW0 x.e), w1 := BitVec.ofNat 64 (eW1 x.e), one := x.one }

/-- The quiet flag of a one-off entry. -/
def Dev.oneQuiet (s : Dev) : Rel → Bool
  | .one id => s.disp.ones.any fun o => o.id == id && o.quiet
  | .entry _ _ => false

/-- The work of a released candidate: the logical core of a segment and the channel of a chain stand in the work field. -/
def Cand.workOf (x : Cand) : Work := x.work (bits (eW0 x.e) (if eKind x.e = 0 then 60 else 56) 4)

/-- Candidate `x` stands as released: its instance is noted, its charge held, its lateness (but for a collective, whose start is its
rendezvous) recorded (R353, R358). -/
def Dev.released (s : Dev) (r : Rel) (x : Cand) (cause : Nat) : Dev :=
  let w := x.workOf
  let start := ceil8 (s.dispNow x)
  let cause := s.lateCause x cause
  let s1 := if eKind x.e = 2 then s else s.startedAt x w start cause
  let s1 := if s1.traceGrant && s1.onAs (s1.dispUnit w.disp) pmcTraceCtlRelEn then
      s1.traceWrite (s1.dispUnit w.disp) (natLe 1 1 ++ natLe 1 w.disp ++ natLe 2 w.entry ++ natLe 4 w.round ++ natLe 8 start ++ natLe 4 (start - s.floor x))
    else s1
  let s1 := (s1.takeCharge x).dispCount w 11 1
  let s1 := match x.one with | some (q, _) => s1.startNext q | none => s1
  { s1 with disp := { s1.disp with
    insts := s1.disp.insts ++ [⟨w, start, x.e, none, s.oneQuiet r, false, cause⟩],
    ones := match r with | .one id => s1.disp.ones.filter (fun o => o.id != id) | _ => s1.disp.ones,
    waits := s1.disp.waits.filter fun h => !(s.heldOf x == some h) } }

/-- Release a candidate of kind `k` that is eligible: it stands as released; then its work starts (R353). -/
def Dev.release (s : Dev) (r : Rel) (k : Nat) (cause : Nat) (begin_ : Cand → Work → Dev → Dev) : Dev :=
  match s.cand r with
  | none => s
  | some x =>
    if eKind x.e ≠ k ∨ !s.eligibleNow x then s else (begin_ x x.workOf (s.released r x cause)).noteBreeze

/-- Set counters lc to lc + lc_n − 1 of the domain to 0 (R354). -/
def Dev.clearLocal (s : Dev) (dom lc n : Nat) : Dev := (List.range n).foldl (fun s i => s.evSet dom ((lc + i) % 256) 0) s

/-- The scalar registers at a segment's start: the arguments, zeros up to s29, the step counter and the round (R354). -/
def startRegs (args : List Byte) (argn : Nat) (step : W64) (round : Nat) : Sparse W64 :=
  Sparse.setAll (always 0) [] ((List.range 30).map (fun i => (i, if i < argn then BitVec.ofNat 64 (leAt args (8 * i) 8) else 0)) ++
    [(30, step), (31, BitVec.ofNat 64 (round % 2 ^ 32))])

/-- Copy the code image and the arguments of a segment to core `c` and set its registers (R354, R356); false when a store
cannot be read. -/
def Dev.loadSegment (s : Dev) (c : Nat) (w : Work) : Dev × Bool :=
  let w0 := w.w0.toNat
  let w1 := w.w1.toNat
  match s.csRead w.dom (bits w0 0 25) (256 * (bits w0 32 8 + 1)) with
  | (s, none) => (s, false)
  | (s, some code) =>
    match s.csRead w.dom (bits w1 0 25) (8 * bits w1 25 5) with
    | (s, none) => (s, false)
    | (s, some args) =>
      let s := (s.lsWrite c (cellsAt (bits w0 40 20) code)).moves c (ceilDiv code.length 256)
      (s.onCore c fun k => { k with s := startRegs args (bits w1 25 5) s.step w.round }, true)

/-- A peer core takes up a moved segment (R160, R356): the restart record comes into its own context slot, code and arguments are
loaded again, and the segment goes on from the record, or from its start when it has no mark. What cannot be read fails the entry. -/
def Dev.resumeMoved (s : Dev) (m : Moved) : Dev :=
  let w := m.work
  let c := s.physCore w.dom w.lcore
  match s.csRead (m.core / 16) (s.ctxSlot m.core) 0x140 with
  | (s, none) => s.endWork (some w) false
  | (s, some r) =>
    let s := s.csWrite (c / 16) (cellsAt (s.ctxSlot c) (r.take 0xD))
    let s := s.csWrite (c / 16) (cellsAt (s.ctxSlot c + 0x40) (r.drop 0x40))
    match s.loadSegment c w with
    | (s, false) => s.endWork (some w) false
    | (s, true) =>
      let mark := bit (leAt r 0xC 1) 0
      s.onCore c fun k =>
        let regs := if mark then
            Sparse.setAll (always 0) [] ((List.range 32).map fun x => (x, BitVec.ofNat 64 (leAt r (0x40 + 8 * x) 8)))
          else k.s
        { k with pc := if mark then leAt r 0 8 else bits w.w0.toNat 40 20, s := regs, run := .issuing, work := some w, slots := [],
                 grant := s.pmc.grant, since := 0, redo := m.redo, accs := m.accs }

/-- Moved segments whose peer is free start there. -/
def Dev.startMoved (s : Dev) : Dev :=
  s.disp.moved.foldl (fun s m =>
    let c := s.physCore m.work.dom m.work.lcore
    let k := s.core c
    if k.run == .idle && k.work.isNone && !s.coreDown c && (!m.work.brz || k.saved.isNone) then
      { s with disp := { s.disp with moved := s.disp.moved.erase m } }.resumeMoved m
    else s) s

/-- Start a segment on core `c` (R354): restart record and statistics slots cleared, local counters cleared, code and arguments
loaded, the sequencer started under the grant in force. -/
def Dev.startSegment (s : Dev) (c : Nat) (w : Work) : Dev :=
  let s := s.csWrite (c / 16) (cellsAt (s.ctxSlot c + 0xC) [0])
  let s := s.onCore c fun k => { k with slots := [] }
  let s := s.clearLocal w.dom (bits w.w1.toNat 32 8) (bits w.w1.toNat 40 4)
  match s.loadSegment c w with
  | (s, false) => s.endWork (some w) false
  | (s, true) =>
    let s := s.onCore c fun k => { k with
      pc := bits w.w0.toNat 40 20, run := .issuing, work := some w, grant := s.pmc.grant, since := 0, accs := false }
    s.count (coreBlk c) 16 1

/-- SEGMENT_RELEASE (R354). -/
def segmentReleaseEffect (r : Rel) (cause : Nat) (s : Dev) : Dev :=
  s.release r 0 cause fun x w s => s.startSegment (s.physCore (eDisp x.e) w.lcore) w

/-- DMA_CHAIN_ENTRY_RELEASE (R347): the first descriptor on its channel; a breeze chain that has yielded the channel keeps its
place until the channel is free again. -/
def chainReleaseEffect (r : Rel) (cause : Nat) (s : Dev) : Dev :=
  s.release r 1 cause fun x w s =>
    match s.need x.e with
    | .chan h =>
      let old := s.chan h
      let s := if old.st != .idle then
          { s with disp := { s.disp with parked := Sparse.set (always Chan.idle) s.disp.parked h old } }
        else s
      let core := if eDisp x.e < 32 then some (s.physCore (eDisp x.e) w.lcore) else none
      s.startChain h (bits (eW0 x.e) 0 52) x.brz core .entry (some w)
    | _ => s

/-- The pass that an update entry starts (R197, R347). -/
def passOf (w : Work) (n : W64) : Pass :=
  { work := some w, kind := bits w.w0.toNat 0 2, last := bits w.w0.toNat 32 12, desc := bits w.w0.toNat 16 12, blk := 0, n,
    begun := false, dig := [0, 0, 0, 0], sw := 0, sr := 0, paused := false,
    fresh := true, rec_ := none, sets := [], lp := 0 }

/-- The close of round `r` decided F = 1 (R357). -/
def Dev.skippedRound (s : Dev) (r : Nat) : Bool := s.job.decided == some (r, true)

/-- UPDATE_PASS_RELEASE (R347, R357): the pass stands on the unit of the dispatcher's base die; one of kind 1 or 2 in a skipped
round completes without running. A breeze pass that has yielded the unit stands behind it (R363). -/
def updateReleaseEffect (r : Rel) (cause : Nat) (s : Dev) : Dev :=
  s.release r 3 cause fun x w s =>
    let d := eDisp x.e - 32
    let p := passOf w s.step
    if (p.kind = 1 ∨ p.kind = 2) ∧ !x.brz ∧ s.skippedRound x.round then s.endWork (some w) true
    else (s.putPass d p).setFld (updStatusState.nth d) 1

/-- The collectives that run, by number. -/
def Dev.liveColls (s : Dev) : List Nat := s.col.live.map fun c => c.id

/-- The active map of engine `e` (R367): a switch under way has reached the engine once its collectives that had started before are
complete. -/
def Dev.engSlot (s : Dev) (e : Nat) : Nat :=
  match s.disp.mapSw with
  | some (slot, _, waits) => if s.col.live.any fun c => c.eng == e && waits.contains c.id then s.fld colMapSlot else slot
  | none => s.fld colMapSlot

/-- A map switch is complete once every engine has switched (R367); a switch to an empty slot fails. -/
def Dev.switchSettle (s : Dev) : Dev :=
  match s.disp.mapSw with
  | none => s
  | some (slot, w, waits) =>
    if waits.any s.liveColls.contains then s
    else ({ s with disp := { s.disp with mapSw := none } }.setFld colMapSlot slot).endWork (some w) true

/-- MAP_SWITCH (R367). -/
def mapSwitchEffect (r : Rel) (cause : Nat) (s : Dev) : Dev :=
  if s.disp.mapSw.isSome then s else
  s.release r 4 cause fun _ w s =>
    let slot := bits w.w0.toNat 0 2
    if !bit (s.fld colMapLoaded) slot then s.endWork (some w) false
    else { s with disp := { s.disp with mapSw := some (slot, w, s.liveColls) } }.switchSettle

/-! ### Completion (R355) -/

/-- The released instance that `r` names. -/
def Dev.instOf (s : Dev) (r : Rel) : Option Inst :=
  s.disp.insts.find? fun i => match r with
    | .entry brz n => i.work.brz == brz && i.work.one.isNone && i.work.entry == n
    | .one id => i.work.one.isSome && i.work.entry == id

/-- The arrivals of an entry (R346, R355). -/
def Dev.entryArrivals (s : Dev) (e : List Byte) : Dev :=
  (List.range 2).foldl (fun s i =>
    let g := eSig e i
    if bit g 14 then s.arrive (bits g 8 6) (bits g 0 8) else s) s

/-- Free the core that a stopped segment holds. -/
def Dev.freeCore (s : Dev) (w : Work) : Dev :=
  s.cores.foldl (fun s e => if e.2.work = some w ∧ e.2.run = .stopped then s.onCore e.1 fun k => { k with run := .idle, work := none } else s) s

/-- An instance whose work has ended completes: arrivals, charges, the completion time of its entry, which the dispatcher keeps beside the
lateness (log entry 53), the count of its entry, the completion of a one-off entry with its start; one that failed makes no arrival and returns no charge, and its message carries the entry (R355, R368). -/
def completionEffect (r : Rel) (s : Dev) : Dev :=
  match s.instOf r with
  | none => s
  | some i =>
    let w := i.work
    match i.ended with
    | none => s
    | some ok =>
      let s := ({ s with disp := { s.disp with insts := s.disp.insts.filter fun x => !(x == i) } }).freeCore w
      let s := if ok then (s.entryArrivals i.bytes).returnCharges w
               else if i.hush then s else s.detect (dispSrc w.disp) 0x17 2 (if w.one.isSome then w.entry % 65536 + 65536 * b2n w.brz else w.arg)
      let s := match w.one with
        | some (q, cid) => s.complete q cid i.quiet (if ok then 0 else 0x0503) (BitVec.ofNat 64 i.start)
        | none =>
          if ok then
            let t := s.table w.brz
            let done := if s.doneOf w.brz w.entry = w.round then Sparse.set (always 0) t.done w.entry (w.round + 1) else t.done
            let key := if w.brz then 65536 + w.entry else w.entry
            let doneAt := Sparse.set (always 0) s.disp.doneAt key (s.now (s.domDie w.disp))
            { s with disp := { s.disp with doneAt } }.setTable w.brz { t with done }
          else { s with disp := { s.disp with failed := s.disp.failed ++ [(w.brz, w.entry)] } }
      s.startMoved.noteBreeze.stopSettle

/-- SIGNAL_RELEASE (R347): a signal makes its arrivals when it is released, and is complete. -/
def signalReleaseEffect (r : Rel) (cause : Nat) (s : Dev) : Dev :=
  match s.cand r with
  | some x => if eKind x.e = 5 ∧ s.eligibleNow x then completionEffect r (s.release r 5 cause fun _ w s => s.endWork (some w) true) else s
  | none => s

/-- SEGMENT_RELEASE (R354). -/
def execSegmentRelease (r : Rel) (cause : Fin 6) (s : State) : Res := s.run (segmentReleaseEffect r cause)
/-- DMA_CHAIN_ENTRY_RELEASE (R347). -/
def execDmaChainEntryRelease (r : Rel) (cause : Fin 6) (s : State) : Res := s.run (chainReleaseEffect r cause)
/-- UPDATE_PASS_RELEASE (R197). -/
def execUpdatePassRelease (r : Rel) (cause : Fin 6) (s : State) : Res := s.run (updateReleaseEffect r cause)
/-- MAP_SWITCH (R367). -/
def execMapSwitch (r : Rel) (cause : Fin 6) (s : State) : Res := s.run (mapSwitchEffect r cause)
/-- SIGNAL_RELEASE (R347). -/
def execSignalRelease (r : Rel) (cause : Fin 6) (s : State) : Res := s.run (signalReleaseEffect r cause)
/-- INSTANCE_COMPLETION (R355). -/
def execInstanceCompletion (r : Rel) (s : State) : Res := s.run (completionEffect r)

/-! ### Yields (R362, R363) -/

/-- The unit is to be yielded: the breeze is to stop, or a foreground instance is eligible for it or has its floor within 2 µs (R363). -/
def Dev.wanted (s : Dev) (p : Need → Bool) : Bool :=
  s.breezeHalt || s.fgCands.any fun x => p (s.need x.e) && (s.waitsForUnit x || s.floorNear x 2000)

/-- Count a yield of `ns` nanoseconds; its bound is 2 µs (R363, R373). -/
def Dev.countYield (s : Dev) (ns : Nat) : Dev :=
  let s := s.satFld timBrzCtlYields 1
  (s.setFld timBrzCtlYieldMax (Nat.max (s.fld timBrzCtlYieldMax) (Nat.min 2000 ns))).noteBreeze.stopSettle

/-- Pause the update pass of unit `d` at its block boundary: the pass record holds the next block and the paused flag (R212,
R213). The pause waits while the record's page is being moved (R255); other passes do not pause. -/
def Dev.pausePass (s : Dev) (d : Nat) : Dev :=
  match (s.upd d).run with
  | none => s
  | some p =>
    let at_ := s.fld (updTableBaseBase.nth d) * 65536 + 0x4000
    if p.kind ≠ 1 ∨ s.moving at_ 16 then s else
    let s := (s.vWrite (baseTlb d) (dieSrc d 7) 0 at_ (natLe 8 p.n.toNat ++ natLe 2 p.desc ++ natLe 1 p.kind ++ natLe 1 3 ++ natLe 4 p.blk)).1
    (s.setUpd d { s.upd d with run := some { p with paused := true, rec_ := some p.desc } }).setFld (updStatusState.nth d) 2

/-- BREEZE_YIELD (R363): a unit that breeze work holds is freed for the foreground. -/
def breezeYieldEffect (u : YieldUnit) (lag ns : Nat) (s : Dev) : Dev :=
  match u with
  | .core c =>
    let m := s.disp.moved.any fun m => !m.work.brz && s.physCore m.work.dom m.work.lcore == c.val
    if s.heldByBreeze (.core c) && (m || s.wanted (· == .core c.val)) then ((preemptEffect c lag s).countYield ns).startMoved else s
  | .dma h =>
    if s.heldByBreeze (.chan h) && s.wanted (· == .chan h.val) then (s.onChan h fun ch => { ch with pause := true, lent := true }).countYield ns
    else s
  | .update d =>
    let paused := s.pausePass d
    if s.heldByBreeze (.update d) && s.wanted (· == .update d.val) && !paused.heldByBreeze (.update d) then paused.countYield ns else s

/-- Breeze chains of a cluster, or of a base die's DMA, go on: those that a foreground chain has paused once none of the cluster is ready
(R144), those that have yielded their channels, or had them taken, once R362 allows (R363). -/
def breezeResumeEffect (k : Nat) (s : Dev) : Dev :=
  if (k < 32 && s.fgReady k) || s.breezeHalt then s else
  let back := (Sparse.range s.disp.parked (16 * k) (16 * k + 16)).filter fun (e : Nat × Chan) => (s.chan e.1).st == .idle && s.breezeMay (.chan e.1)
  let go (ch : Chan) : Chan := { ch with pause := false, lent := false }
  let s := back.foldl (fun s (e : Nat × Chan) =>
    { s.setChan e.1 (go e.2) with disp := { s.disp with parked := Sparse.set (always Chan.idle) s.disp.parked e.1 Chan.idle } }) s
  ((s.chansOf k).foldl (fun s (e : Nat × Chan) =>
    if e.2.brz && e.2.st != .idle && e.2.pause && (!e.2.lent || s.breezeMay (.chan e.1)) then s.onChan e.1 go else s) s).noteBreeze

/-- BREEZE_CHAIN_RESUME (R144, R363). -/
def execBreezeChainResume (cluster : Fin 36) (s : State) : Res := s.run (breezeResumeEffect cluster)

/-- BREEZE_YIELD (R363). -/
def execBreezeYield (u : YieldUnit) (lag ns : Nat) (s : State) : Res := s.run (breezeYieldEffect u lag ns)

/-- PREEMPT_RESUME (R161): once R362 allows the breeze the core. -/
def execPreemptResume (core : Fin 512) (s : State) : Res :=
  s.run fun s => if s.disp.brz.armed && !s.breezeHalt && s.breezeMay (.core core) then (resumeEffect core s).noteBreeze else s

/-! ### Budgets (R365) -/

/-- BUDGET_WAIT (R365): a candidate that its charge alone has held back for more than 1 ms sends one message. -/
def budgetWaitEffect (r : Rel) (s : Dev) : Dev :=
  match s.cand r with
  | none => s
  | some x =>
    match s.heldOf x with
    | none => s
    | some h =>
      if h.told || s.chargeFits x || (match h.since with | some t => decide (s.real ≤ t + 1000000) | none => true) then s else
      { s with disp := { s.disp with waits := s.disp.waits.map fun g => if g = h then { h with told := true } else g } }.detect
        (dispSrc (eDisp x.e)) 0x18 0 ((x.work 0).arg)

/-- BUDGET_WAIT (R365). -/
def execBudgetWait (r : Rel) (s : State) : Res := s.run (budgetWaitEffect r)

/-! ### One-off entries (R368) -/

/-- The bytes of a work-queue entry in the layout of R346: no release offset. -/
def oneBytes (body : List Byte) : List Byte := List.replicate 8 0 ++ padTo 56 body

/-- A one-off entry keeps R346 to R348; anchors, update passes and map switches are refused (R368). -/
def oneOk (e : List Byte) : Bool :=
  eFlags e / 4 == 0 && !eAnchor e && leAt e 0xB 1 == 0 && leAt e 0x2E 2 == 0 && refsOk e && eKind e != 3 && eKind e != 4 &&
  placeOk (bit (eFlags e) 1) (eDisp e) (eKind e) (eW0 e) &&
  workOk (eKind e) (eW0 e) (eW1 e)

/-- The status of a one-off entry at acceptance; 0 accepts it. -/
def Dev.oneStatus (s : Dev) (e : List Byte) : Nat :=
  let st := s.fld sysJobStatusState
  if !oneOk e then 0x0501
  else if st < 1 ∨ 4 < st then 0x0502
  else if !s.footprintOk (bit (eFlags e) 1) e then 0x0504
  else if 64 ≤ (s.disp.ones.filter fun o => eDisp o.bytes == eDisp e).length then 0x0505
  else 0

/-- WORK_ENTRY (R368): the entry next on its queue is accepted as one without a release floor, or completed with its status. It starts
with its release. -/
def workEntryEffect (e : SubEntry) (s : Dev) : Dev :=
  if !s.fetched 1 1 e || s.disp.ones.any fun o => o.q == e.q then s else
  let b := oneBytes e.body
  match s.oneStatus b with
  | 0 => { s with disp := { s.disp with ones := s.disp.ones ++ [⟨s.disp.oneNext, b, e.q, e.cid, e.quiet⟩],
                                        oneNext := s.disp.oneNext + 1 } }
  | st => s.complete e.q e.cid e.quiet st 0

/-- WORK_ENTRY (R368). -/
def execWorkEntry (e : SubEntry) (s : State) : Res := s.run (workEntryEffect e)

end Sys2Proof.Machine
end

