-- ==== Sys2Proof/Machine/Fabric.lean ====
section
/-! DEFINITION. The fabric's commands (R374 to R407): a gust arriving, by kind; the transport's timers; a port's change. -/

namespace Sys2Proof.Machine

/-! ### Arrival (R391) -/

/-- The operations in use (R383). -/
def opUsed (g : List Byte) : Bool :=
  match gEclass g with
  | 0 => decide (gOp g ≤ 1)
  | 1 => decide (gOp g ≤ 8)
  | 3 | 4 => gOp g == 0
  | _ => false

/-- A gust of the given eclass and operation; ack and rack name another class in eclass, so they go by class now (R383). -/
def isGust (eclass op : Nat) (g : List Byte) : Bool :=
  if eclass = 1 ∧ (op = 1 ∨ op = 6) then gCls g == 1 && gOp g == op
  else gEclass g == eclass && gOp g == op && (gCls g == eclass)

/-- The form of R382 and R383. -/
def gustSound (g : List Byte) : Bool :=
  gustForm g && decide (64 + gLen g ≤ g.length) && (opUsed g || ((gOp g == 1 || gOp g == 6) && gCls g == 1))

/-- Steps 1 to 3 of R391 for a gust that ends here, of the kind `want`, whose window `held` tells: whether it goes on. A gust of another kind is
not this command's and changes nothing. Ask and probe carry no incarnation; a stale goes to the incarnation that the gust bears. -/
def Dev.take (s : Dev) (port : Nat) (g : List Byte) (want : List Byte → Bool) (held : Dev → Bool) : Dev × Bool :=
  if !s.on fabCtlEn || !s.portUp port || s.pausedUnit ⟨.port, port⟩ then (s, false)
  else
    let s1 := (s.count (portBlk port) 1 (gLen g)).count (portBlk port) 3 1
    if !gustCrcOk g then ((s1.satFld fabErrCrcBad 1).count (portBlk port) 5 1, false)
    else if !gustSound g || gDst g != s.ownPkg && gHi g == gNh g || gDst g == s.ownPkg && gHi g != gNh g then
      (s1.satFld fabErrMisroute 1, false)
    else if !want g || gDst g != s.ownPkg then (s, false)
    else if !held s then (s1.satFld fabErrMisroute 1, false)
    else if !(isGust 1 2 g || isGust 1 7 g) && gDinc g != s.inc then (s1.staleTo g, false)
    else (s1, true)

/-- A control gust: step 4 of R391, then what `f` says. -/
def Dev.takeControl (s : Dev) (port op : Nat) (g : List Byte) (f : Dev → Dev) : Dev :=
  match s.take port g (isGust 1 op) (fun _ => true) with
  | (s, false) => s
  | (s, true) => (f (s.controlSource (gSrc g) (gSinc g))).pump

/-- A data gust: steps 2 to 6 of R391; a window that is not held is a misroute. `f` says whether the gust is duplicate. -/
def Dev.takeData (s : Dev) (port eclass op : Nat) (g : List Byte) (held : Dev → Bool) (f : Bool → Dev → Dev) : Dev :=
  match s.take port g (isGust eclass op) held with
  | (s, false) => s
  | (s, true) =>
    let s := s.newSource (gSrc g) (gSinc g)
    (f ((s.rxOf (gSrc g) eclass).dup (gSeq g)) s).pump

/-- Record a gust and owe its ack; a duplicate is acknowledged again (R398). -/
def Dev.noteRx (s : Dev) (g : List Byte) : Dev :=
  let r := s.rxOf (gSrc g) (gEclass g)
  let win := if gEclass g = 0 then 0 else gWin g
  s.setRx (gSrc g) (gEclass g) (if r.dup (gSeq g) then { r with due := true, win } else r.note (gSeq g) win)

/-- GUST_WRITE (R391): staged in a slot of the request pool, then written with base-die translation; one whose translation fails is acknowledged and discarded. A write
into a page that is being moved waits for the source's resend. -/
def gustWriteEffect (port : Nat) (g : List Byte) (s : Dev) : Dev :=
  s.takeData port 0 0 g (fun s => gWin g == 0 && decide (0 < s.grantedTo (gSrc g) 0)) fun dup s =>
    if dup then s.noteRx g else
    match (s.intoPool port 0 (gPayload g)).vWrite (baseTlb (port % 4)) (portSrc port) 0 (gAddr g) (gPayload g) with
    | (s, .wait _) => s
    | (s, _) => s.noteRx g

/-- Send reply data for a read, in place of what was kept for its slot (R393, R397). -/
def Dev.reply (s : Dev) (g : List Byte) (bytes : List Byte) : Dev :=
  let s := { s with fab := { s.fab with sent := s.fab.sent.filter fun x => !(x.eclass == 1 && x.dst == gSrc g && x.win == gWin g) } }
  let r : TxGust := { dst := gSrc g, eclass := 1, op := 0, win := gWin g, seq := gSeq g, aseq := 0, addr := 0, payload := bytes, path := 4,
                      port := 16, time := 0, user := 0 }
  { s with fab := { s.fab with queue := s.fab.queue ++ [r] } }

/-- GUST_READ (R393): a read is served again when it comes again. One whose bytes cannot be had gets no reply. -/
def gustReadEffect (port : Nat) (g : List Byte) (s : Dev) : Dev :=
  s.takeData port 0 1 g (fun s => decide (1 ≤ gAseq g) && decide (gAseq g ≤ 4032) && decide (0 < s.grantedTo (gSrc g) 0)) fun _ s =>
    match s.vRead (baseTlb (port % 4)) (portSrc port) 0 2 (gAddr g) (gAseq g) with
    | (s, .data bs e) => if e.lost then s.noteRx g else (s.noteRx g).reply g bs
    | (s, .wait _) => s
    | (s, .fail) => s.noteRx g

/-- A gust is the reply to read `r`. -/
def replyTo (g : List Byte) (r : Read) : Bool := r.slot == gWin g && r.dst == gSrc g && r.seq == some (gSeq g)

/-- GUST_REPLY_DATA (R393): the first reply for each slot and sequence is kept, and lies in its slot of the area at FAB_BUF_BASE. -/
def gustReplyEffect (port : Nat) (g : List Byte) (s : Dev) : Dev :=
  match s.take port g (isGust 1 0) (fun s => s.fab.reads.any (replyTo g)) with
  | (s, false) => s
  | (s, true) =>
    let s := s.newSource (gSrc g) (gSinc g)
    let first (r : Read) : Bool := replyTo g r && r.data.isNone && gLen g == r.len
    let s := if s.fab.reads.any first then s.intoSlot port (s.replySlot (gWin g)) (gPayload g) else s
    let fill (r : Read) : Read := if first r then { r with data := some (gPayload g) } else r
    { s with fab := { s.fab with reads := s.fab.reads.map fill } }.pump

/-- A collective that has posted window `win` and not ended. -/
def Dev.posted (s : Dev) (win : Nat) : Option Coll :=
  s.col.live.find? fun c => c.win == win && (c.st == .entered || c.st == .exchanging)

/-- Opcodes that move data without reducing it, and without conversion: what arrives is written where it goes (R422). -/
def Coll.moves (c : Coll) : Bool := decide (5 ≤ c.op) && cType c.q == cDfmt c.q

/-- Bytes of `k` elements of the type that the wire carries, and their codes. -/
def wireBytes (q : List W64) (k : Nat) : Nat := ceilDiv (k * if cI64 q then 64 else elemBits (cType q)) 8
/-- Their scale codes. -/
def wireCodes (q : List W64) (k : Nat) : Nat := if isBlock (cType q) then k / 32 else 0

/-- Elements of the region that the collective's window posts on this package: its destination (R416, R422). -/
def Coll.regionElems (c : Coll) (own : Nat) : Nat :=
  match c.op with
  | 3 | 4 | 6 => cCount c.q
  | 5 | 8 => c.mem.length * cCount c.q
  | 7 => if rankIn c.mem own = cRoot c.q then c.mem.length * cCount c.q else 0
  | _ => 0

/-- The posted region: element bytes, then codes, as offsets count them (R422; log entry 126). A PERMUTE's ends where its moves end. -/
def Coll.region (c : Coll) (own : Nat) : Nat × Nat :=
  if c.op = 2 then (8 * cCount c.q, 0)
  else if c.op = 9 then (2 ^ 40 + 2 ^ 24, 0)
  else (wireBytes c.q (c.regionElems own), wireCodes c.q (c.regionElems own))

/-- A gust lies within the region. -/
def Coll.fits (c : Coll) (own off len : Nat) : Bool :=
  let (n, k) := c.region own
  decide (off + len ≤ n) || (decide (n ≤ off) && decide (off + len ≤ n + k))

/-- GUST_COLLECTIVE_DATA (R422): the window takes the gust; one that reaches beyond what it posts is dropped as one without a window. Moved data
is written at its offset, codes to dscl; what a reduction or a conversion makes of its gusts is written when the operation's own command has
every member's part. -/
def gustCollectiveEffect (port : Nat) (g : List Byte) (s : Dev) : Dev :=
  let held (s : Dev) : Bool := match s.posted (gWin g) with | some c => c.fits s.ownPkg (gAddr g) (gLen g) | none => false
  s.takeData port 3 0 g held fun dup s =>
    if dup then s.noteRx g else
    match s.posted (gWin g) with
    | none => s
    | some c =>
      let n := (c.region s.ownPkg).1
      let code := decide (n ≤ gAddr g) && decide (0 < gLen g)
      let at_ := if code then (wordAt c.q 6).toNat + (gAddr g - n) else (wordAt c.q 4).toNat + gAddr g
      match (if c.moves then s.vWrite (baseTlb c.eng) (dieSrc c.eng 6) 2 at_ (gPayload g) else (s, .done)) with
      | (_, .wait _) => s
      | (s, _) =>
        -- from the port's base die to the engine's, by bit 0 of the sequence number where the way is diagonal (R12)
        let s := (s.noteRx g).ringSend 4 0 16 (port % 4) c.eng (gSeq g % 2) (gPayload g).length
        let got := { c with got := c.got ++ [(gSrc g, gAddr g, gPayload g)] }
        let s := { s with col := { s.col with live := s.col.live.map fun x => if x.id = c.id then got else x } }
        if c.moves && code && (gPayload g).contains 0xFF then s.nonFinite false else s

/-- What an ack acknowledges. -/
def acked (g : List Byte) (x : TxGust) : Bool :=
  x.dst == gSrc g && x.eclass == gEclass g && (decide (x.seq < gAseq g) || (decide (x.seq < gAseq g + 64) && bit (gAddr g) (x.seq - gAseq g)))

/-- GUST_ACK (R392): what it covers is free, its paths are good, the level it repeats comes (R390). -/
def gustAckEffect (port : Nat) (g : List Byte) (s : Dev) : Dev :=
  s.takeControl port 1 g fun s =>
    let l := s.fab.sent.filter (acked g)
    let s := l.foldl (fun s x => s.clearStreak x.dst x.path) { s with fab := { s.fab with sent := s.fab.sent.filter fun x => !acked g x } }
    let s := s.usedNow (gSrc g) (gWin g)
    s.levelComes (gSrc g) (gWin g) (gSeq g)

/-- GUST_ASK (R390): the asks that wait are answered in their order, each with its level now. One for a window that this package does not hold
is a misroute. -/
def gustAskEffect (port : Nat) (g : List Byte) (s : Dev) : Dev :=
  s.takeControl port 2 g fun s =>
    if poolWin (gWin g) || (s.posted (gWin g)).isSome then
      let old := s.fab.askers.any fun a => a.pkg == gSrc g && a.win == gWin g
      let a : Ask := ⟨gSrc g, gWin g, gSeq g, s.real⟩
      let askers := if old then s.fab.askers.map fun x => if x.pkg = a.pkg ∧ x.win = a.win then a else x else s.fab.askers ++ [a]
      { s with fab := { s.fab with askers } }.serveAsks
    else s.satFld fabErrMisroute 1

/-- GUST_GRANT (R390). -/
def gustGrantEffect (port : Nat) (g : List Byte) (s : Dev) : Dev :=
  s.takeControl port 3 g fun s => s.levelComes (gSrc g) (gWin g) (gSeq g)

/-- GUST_RETURN (R390): the slots are free, and the level kept goes back. -/
def gustReturnEffect (port : Nat) (g : List Byte) (s : Dev) : Dev :=
  s.takeControl port 4 g fun s =>
    let n := Nat.min (s.grantedTo (gSrc g) (gWin g)) (gSeq g)
    ((s.setGranted (gSrc g) (gWin g) n).control (gSrc g) 3 1 (gWin g) n 0 0).serveAsks

/-- GUST_STALE (R399). -/
def gustStaleEffect (port : Nat) (g : List Byte) (s : Dev) : Dev :=
  s.takeControl port 5 g fun s => s.forget (gSrc g)

/-- GUST_RACK (R395). -/
def gustRackEffect (port : Nat) (g : List Byte) (s : Dev) : Dev :=
  s.takeControl port 6 g fun s =>
    let mine (x : Slot) : Bool := x.eddy == gSrc g && x.eclass == gEclass g && x.seq == gAseq g && x.src == gAddr g % 8192
    let l := s.fab.slots.filter mine
    l.foldl (fun s x => s.usedNow x.eddy x.stage) { s with fab := { s.fab with slots := s.fab.slots.filter fun x => !mine x } }

/-- GUST_PROBE (R388). -/
def gustProbeEffect (port : Nat) (g : List Byte) (s : Dev) : Dev :=
  s.takeControl port 7 g fun s => s.control (gSrc g) 8 1 0 0 (gAseq g) 0

/-- GUST_PROBE_ANSWER (R388): the probe's path and the eddies on it are up again. -/
def gustAnswerEffect (port : Nat) (g : List Byte) (s : Dev) : Dev :=
  s.takeControl port 8 g fun s =>
    match s.fab.probes.find? fun p => p.1 == gAseq g && p.2.1 / 4 == gSrc g with
    | none => s
    | some p =>
      let es := s.pathEddies (s.pathWord (p.2.1 / 4) (p.2.1 % 4))
      let s := { s with fab := { s.fab with
          probes := s.fab.probes.filter fun x => x.1 != p.1,
          down := setDel s.fab.down p.2.1,
          eddies := s.fab.eddies.filter fun e => !es.contains e } }
      s.clearStreak (p.2.1 / 4) (p.2.1 % 4)

/-- GUST_RELAY (R394): a gust for elsewhere enters its stage against its upstream's level, and is forwarded; a control gust needs no level
(R383). -/
def gustRelayEffect (port pbr : Nat) (g : List Byte) (s : Dev) : Dev :=
  if !s.on fabCtlEn || !s.portUp port || s.pausedUnit ⟨.port, port⟩ then s else
  let s1 := (s.count (portBlk port) 1 (gLen g)).count (portBlk port) 3 1
  if !gustCrcOk g then (s1.satFld fabErrCrcBad 1).count (portBlk port) 5 1
  else if !gustSound' g then s1.satFld fabErrMisroute 1
  else if gDst g = s.ownPkg ∨ gNh g ≤ gHi g then s
  else
    let b := g.set 3 (BitVec.ofNat 8 (leAt g 3 1 + 4))
    let stage := if gHi b < gNh b then stageA else stageB
    let up := pkgOn (s.plane port) pbr
    let held := (s.fab.relays.filter fun r => r.up == up && r.stage == stage && !relayedControl r.bytes).length
    if relayedControl b then (s1.forward ⟨b, up, stage, s.real⟩).pump
    else if s.grantedTo up stage ≤ held then s1.satFld fabErrMisroute 1
    else ((s1.intoPool port stage b).forward ⟨b, up, stage, s.real⟩).pump
where
  /-- A relayed gust's class now is eddy; its operation is its destination's concern. -/
  gustSound' (g : List Byte) : Bool := gustForm g && decide (64 + gLen g ≤ g.length)

/-! ### Timers -/

/-- RELAY_FORWARD_TIMEOUT (R394): gusts not forwarded within 5 µs are dropped. -/
def relayForwardEffect (s : Dev) : Dev :=
  let late (r : Relay) : Bool := decide (r.time + 5000 ≤ s.real)
  let n := (s.fab.relays.filter late).length
  ({ s with fab := { s.fab with relays := s.fab.relays.filter fun r => !late r } }.satFld fabErrMisroute n).pump

/-- RELAY_SLOT_TIMEOUT (R395): 10 µs after its gust a slot is free. -/
def relaySlotEffect (s : Dev) : Dev :=
  { s with fab := { s.fab with slots := s.fab.slots.filter fun x => !decide (x.time + 10000 ≤ s.real) } }.pump

/-- The resend timeout in nanoseconds; values below 4 µs are taken as 4 (R405). -/
def Dev.toNs (s : Dev) : Nat := 1000 * Nat.max 4 (s.fld fabTimeoutToUs)

/-- RESEND_TIMEOUT (R397, R388): every gust whose latest copy has waited to_us for its ack counts against its path and is resent. Reply data is
not acknowledged: it is kept until its read comes again (R393). -/
def resendTimeoutEffect (s : Dev) : Dev :=
  let due (g : TxGust) : Bool := g.eclass != 1 && decide (g.time + s.toNs ≤ s.real)
  let late := s.fab.sent.filter fun g => due g && g.port != 16
  let s := late.foldl (fun s g => s.streak g.dst g.path) s
  (s.resendAll fun g => due g).pump

/-- READ_REPLY_TIMEOUT (R393): a read whose gust is acknowledged and whose reply has not come within to_us is sent again, with its
sequence number. -/
def readReplyEffect (s : Dev) : Dev :=
  let sentYet (r : Read) : Bool := s.fab.sent.any fun g => g.eclass == 0 && g.op == 1 && g.dst == r.dst && g.win == r.slot
  let due (r : Read) : Bool := r.data.isNone && r.seq.isSome && decide (r.time + s.toNs ≤ s.real) && !sentYet r
  let l := s.fab.reads.filter due
  let s1 := { s with fab := { s.fab with reads := s.fab.reads.map fun r => if due r then { r with time := s.real } else r } }
  (l.foldl (fun s r =>
    s.resend { dst := r.dst, eclass := 0, op := 1, win := r.slot, seq := r.seq.getD 0, aseq := r.len, addr := r.addr, payload := [], path := 4,
               port := 16, time := 0, user := 8 }) s1).pump

/-- ASK_REPEAT (R390): asks and returns that have waited 10 µs are sent again. -/
def askRepeatEffect (s : Dev) : Dev :=
  let t := s.real
  let a := s.fab.asks.filter fun x => decide (x.time + 10000 ≤ t)
  let r := s.fab.rets.filter fun x => decide (x.time + 10000 ≤ t)
  let s := a.foldl (fun s x => s.control x.pkg 2 1 x.win x.want 0 0) s
  let s := r.foldl (fun s x => s.control x.pkg 4 1 x.win x.kept 0 0) s
  { s with fab := { s.fab with asks := s.fab.asks.map fun x => if a.contains x then { x with time := t } else x,
                               rets := s.fab.rets.map fun x => if r.contains x then { x with time := t } else x } }

/-- LEVEL_IDLE_RETURN (R390): every level of a request pool or relay stage whose window has been idle for 50 µs goes back whole. -/
def levelIdleEffect (s : Dev) : Dev :=
  let t := s.real
  let busy (pkg win : Nat) : Bool :=
    if win = 0 then s.fab.sent.any fun g => g.dst == pkg && g.eclass == 0 else s.fab.slots.any fun x => x.eddy == pkg && x.stage == win
  let l := s.fab.levels.filter fun e =>
    (e.1 % 65536 == 0 || e.1 % 65536 == stageA || e.1 % 65536 == stageB) && !busy (e.1 / 65536) (e.1 % 65536) &&
    decide (Sparse.get (always 0) s.fab.idle e.1 + 50000 ≤ t)
  (l.foldl (fun s (e : Nat × Nat) =>
    let s := s.setLevel (e.1 / 65536) (e.1 % 65536) 0
    { s with fab := { s.fab with rets := s.fab.rets ++ [Ret.mk (e.1 / 65536) (e.1 % 65536) 0 t] } }.control (e.1 / 65536) 4 1 (e.1 % 65536) 0 0 0)
    s).fabShow.calmReached

/-- PROBE_TIMER (R388): once probe_ms of system time have passed since the latest, a probe along every valid path that is marked down or passes
an eddy marked down, its own port being in service. -/
def probeTimerEffect (s : Dev) : Dev :=
  if s.leadNow < s.fab.probeAt + 1000000 * s.fldOr fabTimeoutProbeMs 1 then s else
  let marked (k : Nat) : Bool :=
    let w := s.pathWord (k / 4) (k % 4)
    pwV w && s.portUp (pwPort w) && (s.fab.down.contains k || (s.pathEddies w).any s.fab.eddies.contains)
  let l := (s.fab.paths.map fun (e : Nat × W64) => e.1).filter marked
  l.foldl (fun s k =>
    let n := (s.fab.probe + 1) % 2 ^ 32
    let w := s.pathWord (k / 4) (k % 4)
    { s with fab := { s.fab with probe := n, probes := s.fab.probes.filter (fun (p : Nat × Nat × Nat) => p.2.1 != k) ++ [(n, k, s.real)] } }.controlOn w (k / 4) 7 1 0 0 n 0)
    { s with fab := { s.fab with probeAt := s.leadNow } }

/-- ACK_SEND (R392): the ack of one source and eclass, with the level of the latest gust's window. -/
def ackSendEffect (src eclass : Nat) (s : Dev) : Dev :=
  let r := s.rxOf src eclass
  if !r.due || (s.controlPath src).isNone then s else
  (s.setRx src eclass { r with due := false }).control src 1 eclass r.win (s.grantedTo src r.win) r.point r.mask

/-! ### Ports (R374, R375, R406) -/

/-- PORT_SERVICE_CHANGE (R375): what the link and the fabric manager give a port. A link that goes down is a contained fault, which fences
the port (R448, R454), and a port reset, which ends its keys and sessions (R479, R503); a wrong or missing PBR ID is reported. -/
def portChangeEffect (p width rate : Nat) (up : Bool) (pbr : Option Nat) (s : Dev) : Dev :=
  let s := { s with fab := { s.fab with ids := Sparse.set (always 0) s.fab.ids p (match pbr with | some i => i + 1 | none => 0) } }
  let ok := pbr == some (pbrOn (s.plane p) s.ownPkg)
  let lost := s.on (fabPortUp.nth p) && !up && !s.on (fabPortFenced.nth p)
  let s := (((s.setFld (fabPortWidth.nth p) (if up then width else 0)).setFld (fabPortRate.nth p) (if up then rate else 0)).setBit
    (fabPortUp.nth p) up).judgePort p
  let s := s.setFld (fabPortPbrId.nth p) (pbr.getD 0)
  let s := if lost then (s.detect (portSrc p) 0x31 1 1).setBit (fabPortFenced.nth p) true |>.leaveCommit else s
  let s := if up then s else s.dropMailbox p
  let s := if up ∧ !ok then s.detect (portSrc p) 0x30 0 (match pbr with | some i => i | none => 4096) else s
  s.portSettle p

end Sys2Proof.Machine
end

