-- ==== Sys2Proof/Machine/ColOps.lean ====
section
/-! DEFINITION. Descriptors and their checks (R415 to R418, R429, R433, R444), signatures (R421), what
reductions compute (R417, R424, R425, R428, R49, R50): what the collective commands share. -/

namespace Sys2Proof.Machine

/-! ### The descriptor (R415) -/

/-- The group is usable on this package for engine `eng`, under the map that the engine works by (R367, R413). -/
def Dev.groupOk (s : Dev) (eng g : Nat) : Bool := s.isMember g s.ownPkg && (s.mapIn (s.engSlot eng) g).isSome

/-- Every address is a multiple of 64 below 2^52. -/
def addrsOk (q : List W64) : Bool := [3, 4, 5, 6, 7].all fun i => cf q i 52 12 == 0 && cAddr q i % 64 == 0

/-- Bits of one element of type `fmt` in this operation. -/
def cBits (q : List W64) (fmt : Nat) : Nat := if cI64 q then 64 else elemBits fmt
/-- Bytes of `k` elements. -/
def cBytes (q : List W64) (fmt k : Nat) : Nat := ceilDiv (k * cBits q fmt) 8
/-- Scale codes of `k` elements. -/
def cCodes (fmt k : Nat) : Nat := if isBlock fmt then k / 32 else 0

/-- The types and operators a reduction accepts, and the format it delivers (R417). -/
def redOk (q : List W64) : Bool :=
  match cType q with
  | 0xC => cRed q == 0 && cDfmt q == 0xC && !cI64 q
  | 0xD => cRed q == 0 && cDfmt q == 0xC && !cI64 q
  | 0xA | 0x4 => decide (cRed q ≤ 2) && cDfmt q == cType q && !cI64 q
  | 0xB => decide (cRed q ≤ 4) && cDfmt q == 0xB
  | _ => false

/-- The types that a data movement accepts (R417, R430). -/
def moveOk (q : List W64) (conv : Bool) : Bool :=
  cRed q == 0 && !cI64 q && decide (cType q ≤ 0xD) && (if conv then convPair (cType q) (cDfmt q) else cDfmt q == cType q)

/-- What R416 to R418, R429 and R444 ask of the fields, for a group of `n` members; `all` says that the group holds every package of the
job. -/
def collForm (op : Nat) (q : List W64) (n : Nat) (all staged : Bool) : Bool :=
  cf q 0 32 32 == 0 && cf q 1 15 1 == 0 && cf q 1 18 6 == 0 && cf q 1 54 10 == 0 && cf q 2 53 11 == 0 &&
  (!cEos q || (op == 1 && all)) && (!cHier q || op == 3) && (!cI64 q || (cType q == 0xB && (op == 2 || op == 3 || op == 4))) &&
  (!(isBlock (cType q) && decide (3 ≤ op) && decide (op ≤ 8)) || cCount q % 32 == 0) &&
  match op with
  | 1 => cCount q == 0 && cRed q == 0 && cDfmt q == cType q
  | 2 => decide (1 ≤ cCount q) && decide (cCount q ≤ 8) && (cType q == 0xA || cType q == 0xB) && redOk q
  | 3 => redOk q && (!cHier q || (cType q == 0xC && cAddr q 3 == cAddr q 4 && cAddr q 5 == cAddr q 6))
  | 4 => redOk q
  | 5 => moveOk q true
  | 6 => moveOk q true && decide (cRoot q < n)
  | 7 => moveOk q false && decide (cRoot q < n)
  | 8 => moveOk q false
  | 9 => moveOk q false && cType q == 9 && staged
  | 10 => moveOk q false && cType q == 9 && cCount q % 64 == 0
  | _ => false

/-- The first block that the member of rank `j` of `k` owns of `b` blocks (R426). -/
def splitAt (b k j : Nat) : Nat := j * b / k

/-- The lower chunk of the member: first block and number of blocks (R426). -/
def lowerChunk (q : List W64) (n r : Nat) : Nat × Nat :=
  let b := cCount q / 32
  (splitAt b n r, splitAt b n (r + 1) - splitAt b n r)

/-- Source bytes that the member reads (R416). -/
def srcLen (op : Nat) (q : List W64) (n : Nat) : Nat :=
  match op with
  | 2 => 8 * cCount q
  | 3 | 5 | 6 | 7 => cBytes q (cType q) (cCount q)
  | 4 | 8 => cBytes q (cType q) (n * cCount q)
  | _ => 0

/-- Destination elements that the operation writes on the member (R416). -/
def dstElems (op : Nat) (q : List W64) (n r : Nat) : Nat :=
  match op with
  | 3 | 4 | 6 => cCount q
  | 5 | 8 => n * cCount q
  | 7 => if r = cRoot q then n * cCount q else 0
  | _ => 0

/-- Destination bytes. -/
def dstLen (op : Nat) (q : List W64) (n r : Nat) : Nat :=
  match op with
  | 2 => 8 * cCount q
  | 10 => cCount q
  | _ => cBytes q (cDfmt q) (dstElems op q n r)

/-- Bytes that the operation reads on this package: of a COPY from itself, its source too. -/
def ownSrc (op : Nat) (q : List W64) (n r own : Nat) : Nat :=
  match op with
  | 6 => if r = cRoot q then srcLen op q n else 0
  | 10 => if cRoot q = own then cCount q else 0
  | _ => srcLen op q n

/-- The places of src and dst that R416 allows beside regions apart. -/
def placedOk (op : Nat) (q : List W64) (r : Nat) : Bool :=
  match op with
  | 3 | 6 => cAddr q 3 == cAddr q 4
  | 4 => cAddr q 4 == cAddr q 3 + cBytes q (cType q) (r * cCount q)
  | 5 => cAddr q 3 == cAddr q 4 + cBytes q (cDfmt q) (r * cCount q)
  | _ => false

/-- Two byte ranges share a byte. -/
def rangesMeet (a n b m : Nat) : Bool := decide (0 < n) && decide (0 < m) && decide (a < b + m) && decide (b < a + n)

/-- src and dst overlap. -/
def srcDstMeet (op : Nat) (q : List W64) (n r own : Nat) : Bool :=
  rangesMeet (cAddr q 3) (ownSrc op q n r own) (cAddr q 4) (dstLen op q n r)

/-! ### The signature (R421) -/

/-- The 64 bits. -/
def signature (op : Nat) (q : List W64) (slot level seq : Nat) : W64 :=
  BitVec.ofNat 64 (op % 16 + cRed q * 2 ^ 4 + cType q * 2 ^ 7 + cDfmt q * 2 ^ 11 + b2n (cHier q != cRes q) * 2 ^ 15 + slot * 2 ^ 16 +
    level * 2 ^ 18 + cGid q * 2 ^ 20 + seq % 256 * 2 ^ 28 +
    (if op = 6 ∨ op = 7 then cCount q % 2 ^ 15 * 2 ^ 36 + cRoot q * 2 ^ 51 else cCount q % 2 ^ 28 * 2 ^ 36))

/-! ### Reductions (R417, R424) -/

/-- One level of the tree: neighbours are added, a last one without neighbour goes up. Over the levels this is the tree of R424, whose left
part is always the largest power of two below the whole. -/
def pairUp {α : Type} (f : α → α → α) : List α → List α
  | a :: b :: l => f a b :: pairUp f l
  | l => l

/-- The tree over a list; `n` is at least its levels. -/
def treeOf {α : Type} (f : α → α → α) : Nat → List α → List α
  | 0, l => l
  | n + 1, l => treeOf f n (pairUp f l)

/-- Element `i` of bytes, `w` bits each. -/
def elemOf (w : Nat) (bs : List Byte) (i : Nat) : Nat :=
  if w = 64 then leAt bs (8 * i) 8 else bits (leAt bs (i * w / 8) 5) (i * w % 8) w

/-- Two elements under an operator (R33, R34, R417). -/
def redTwo (fmt w red a b : Nat) : Nat :=
  if fmt = 0xA ∨ fmt = 0x4 then
    let f := fmtOf fmt
    let x := f.decode a
    let y := f.decode b
    f.encode 0 false 0 (match red with | 0 => x.add y | 1 => x.max y | _ => x.min y)
  else
    match red with
    | 0 => (a + b) % 2 ^ w
    | 1 => if signed w a < signed w b then b else a
    | 2 => if signed w b < signed w a then b else a
    | 3 => a &&& b
    | _ => a ||| b

/-- Pack elements of `w` bits. -/
def packBits (w : Nat) (l : List Nat) : List Byte :=
  natLe (ceilDiv (l.length * w) 8) (l.foldr (fun x acc => x % 2 ^ w + acc * 2 ^ w) 0)

/-- Reduce `k` elements of the members' bytes, in rank order (R424). -/
def reduceElems (fmt w red k : Nat) (parts : List (List Byte)) : List Byte :=
  packBits w ((List.range k).map fun i =>
    (treeOf (redTwo fmt w red) parts.length (parts.map fun p => elemOf w p i)).headD 0)

/-- A block on its way: its code, its 32 integers, saturations met. -/
structure Blk where
  code : Nat
  xs   : List Int
  sats : Nat
  deriving DecidableEq, Repr

/-- A non-finite block. -/
def Blk.nan (sats : Nat) : Blk := ⟨0xFF, List.replicate 32 0, sats⟩

/-- Saturate to ±32,767. -/
def sat16 (x : Int) : Int × Bool := if 32767 < x.natAbs then (if x < 0 then -32767 else 32767, true) else (x, false)

/-- Saturate every element, counting. -/
def satBlk (code : Nat) (sats : Nat) (xs : List Int) : Blk :=
  ⟨code, xs.map fun x => (sat16 x).1, sats + (xs.filter fun x => (sat16 x).2).length⟩

/-- A BI16 block from bytes: element bytes and code. -/
def blkOf (bs : List Byte) (code : Nat) : Blk :=
  let l := (List.range 32).map fun i => bi16Int (leAt bs (2 * i) 2)
  ⟨code, l.map Prod.fst, (l.filter Prod.snd).length⟩

/-- The bytes of a BI16 block. -/
def Blk.bytes (b : Blk) : List Byte := b.xs.flatMap fun x => natLe 2 (wrap 16 x)

/-- BI16 addition of blocks (R48); the 0x8000 that were read into either count, the sum non-finite or not (DEDUCED, log entry 100). -/
def Blk.add (a b : Blk) : Blk :=
  if a.code = 0xFF ∨ b.code = 0xFF ∨ a.code ≠ b.code then Blk.nan (a.sats + b.sats)
  else satBlk a.code (a.sats + b.sats) (a.xs.zipWith (· + ·) b.xs)

/-- The sum of blocks in the order given. -/
def sumBlks : List Blk → Blk
  | [] => Blk.nan 0
  | b :: l => l.foldl Blk.add b

/-- Block `i` of a member's BI16 part. -/
def partBlk (p : List Byte × List Byte) (i : Nat) : Blk := blkOf ((p.1.drop (64 * i)).take 64) (p.2.getD i 0).toNat

/-- The sum of MXINT8 blocks as BI16 (R50): exact, then saturated; code s8 − 6. -/
def sumMx (l : List (List Byte × Nat)) : Blk :=
  let c := (l.headD ([], 0xFF)).2
  if c = 0xFF ∨ c < 6 ∨ l.any (fun b => b.2 != c) then Blk.nan 0
  else satBlk (c - 6) 0 ((List.range 32).map fun i => l.foldl (fun (z : Int) b => z + signed 8 (b.1.getD i 0).toNat) 0)

/-- Block `i` of a member's MXINT8 part. -/
def partMx (p : List Byte × List Byte) (i : Nat) : List Byte × Nat := ((p.1.drop (32 * i)).take 32, (p.2.getD i 0).toNat)

/-- Round `z × 2^e` to the nearest integer, ties to even. -/
def rneInt (z : Int) (e : Int) : Int := roundInt 0 0 (decide (z < 0)) z.natAbs e

/-- y of R428: the accumulator block with the entering residual. -/
def withResidual (a r : Blk) : Blk :=
  if a.code = 0xFF then a
  else if r.code = 0xFF then a
  else
    let r' := if r.code = a.code then r else satBlk a.code r.sats (r.xs.map fun x => rneInt x ((r.code : Int) - a.code))
    satBlk a.code (a.sats + r'.sats) (a.xs.zipWith (· + ·) r'.xs)

/-- Narrowing (R49): the MXINT8 block, the residual block with the saturations. A planned code of 0xFF makes both blocks non-finite (R44, R45;
of the residual: DEDUCED from step 2 of R49). -/
def narrow (y : Blk) (s8 : Nat) : (List Byte × Nat) × Blk :=
  let k : Int := (s8 : Int) - 6 - y.code
  if y.code = 0xFF ∨ s8 = 0xFF ∨ k < 0 then ((List.replicate 32 0, 0xFF), Blk.nan y.sats)
  else
    let l := y.xs.map fun x => rneInt x (-k)
    let c := l.map fun x => max (-127) (min 127 x)
    let n := (l.filter fun x => decide (127 < x.natAbs)).length
    ((c.map fun x => BitVec.ofInt 8 x, s8), satBlk y.code (y.sats + n) (y.xs.zipWith (fun x q => x - q * 2 ^ k.toNat) c))

/-! ### What the engines count and show -/

/-- The engine of base die `d` as a message source. -/
def colSrc (d : Nat) : Src := dieSrc d 6

/-- Saturations that engine `d` counts set the step's non-finite flag, and so do blocks written with code 0xFF (R425). -/
def Dev.colSat (s : Dev) (d n : Nat) (nan : Bool) : Dev :=
  let s := s.satFld (colStatusSat.nth d) n
  if 0 < n ∨ nan then s.nonFinite false else s

/-- Group calms that a CALM_ENTER waits for are reached (R324). -/
def Dev.groupCalmReached (s : Dev) : Dev :=
  let got (c : RunCmd) : Bool := match c.what with | .calm _ (some g) => s.groupCalm g | _ => false
  let l := s.job.cmds.filter got
  l.foldl (fun s c => s.complete c.q c.cid c.quiet 0 (BitVec.ofNat 64 s.leadNow)) { s with job := { s.job with cmds := s.job.cmds.filter fun c => !got c } }

/-- A collective has ended, entered or moved: a map switch that waits (R367), registers, calms. -/
def Dev.colSettle (s : Dev) : Dev := s.switchSettle.colShow.groupCalmReached

/-- Replace a collective. -/
def Dev.setColl (s : Dev) (c : Coll) : Dev :=
  { s with col := { s.col with live := s.col.live.map fun x => if x.id = c.id then c else x } }

/-- A collective by number. -/
def Dev.coll (s : Dev) (id : Nat) : Option Coll := s.col.live.find? fun c => c.id == id

/-- Bytes that the spec leaves undefined: free values (R438). -/
def Dev.freeBytes (s : Dev) (eng va n : Nat) : Dev :=
  if n = 0 then s else
  let (k, s) := s.fresh
  (s.vWrite (baseTlb eng) (colSrc eng) 0 va ((List.range n).map (Config.freeByte k))).1

/-- Where the residual buffers of a member with `e` elements lie: length of one (R427). -/
def residLen (e : Nat) : Nat := ceilDiv (2 * e + e / 32) 4096 * 4096

/-- src and its scale codes take free values. -/
def Dev.freeSrc (s : Dev) (c : Coll) : Dev :=
  let n := c.mem.length
  let k := ownSrc c.op c.q n (rankIn c.mem s.ownPkg) s.ownPkg
  let s := s.freeBytes c.eng (cAddr c.q 3) k
  if isBlock (cType c.q) then s.freeBytes c.eng (cAddr c.q 5) (k * 8 / elemBits (cType c.q) / 32) else s

/-- dst and its scale codes take free values. -/
def Dev.freeDst (s : Dev) (c : Coll) : Dev :=
  let n := c.mem.length
  let r := rankIn c.mem s.ownPkg
  let s := s.freeBytes c.eng (cAddr c.q 4) (dstLen c.op c.q n r)
  s.freeBytes c.eng (cAddr c.q 6) (cCodes (cDfmt c.q) (dstElems c.op c.q n r))

/-- An overlap of src with dst that R416 does not allow leaves undefined bytes in both. -/
def Dev.freeOverlap (s : Dev) (c : Coll) : Dev :=
  let n := c.mem.length
  let r := rankIn c.mem s.ownPkg
  if srcDstMeet c.op c.q n r s.ownPkg && !placedOk c.op c.q r then (s.freeSrc c).freeDst c else s

/-- What an aborted PERMUTE leaves undefined (R438): the bytes that its table moves to this member itself and those that gusts have brought.
What others had still to send here the package does not know (log entry 62). -/
def Dev.freeMoves (s : Dev) (c : Coll) : Dev :=
  let r := rankIn c.mem s.ownPkg
  let s := match s.vRead (baseTlb c.eng) (colSrc c.eng) 0 2 (cAddr c.q 5) (16 * cCount c.q) with
    | (s, .data bs _) => (List.range (cCount c.q)).foldl (fun s i =>
        if bits (leAt bs (16 * i) 8) 40 13 = r then
          s.freeBytes c.eng (cAddr c.q 4 + bits (leAt bs (16 * i + 8) 8) 0 40) (bits (leAt bs (16 * i + 8) 8) 40 24) else s) s
    | _ => s
  c.got.foldl (fun s g => s.freeBytes c.eng (cAddr c.q 4 + g.2.1) g.2.2.length) s

/-- An aborted collective leaves dst, its scale codes, overlapping src and the produced residual undefined (R438). -/
def Dev.undefine (s : Dev) (c : Coll) : Dev :=
  let n := c.mem.length
  let r := rankIn c.mem s.ownPkg
  let s := if srcDstMeet c.op c.q n r s.ownPkg then s.freeSrc c else s
  let s := s.freeDst c
  let s := if c.op = 9 then s.freeMoves c else s
  if cHier c.q ∧ cRes c.q then
    let e := 32 * (lowerChunk c.q n r).2
    s.freeBytes c.eng (cAddr c.q 7 + (s.step.toNat + 1) % 2 * residLen e) (2 * e + e / 32)
  else s

/-- The engine stops sending: what has not left is dropped (R438). -/
def Dev.stopSends (s : Dev) (c : Coll) : Dev :=
  { s with fab := { s.fab with queue := s.fab.queue.filter fun g => g.user != collUser c.id } }

/-- Gusts of a collective have not been acknowledged, or not been sent (R423). -/
def Dev.sending (s : Dev) (c : Coll) : Bool := (s.fab.sent ++ s.fab.queue).any fun g => g.user == collUser c.id

/-- End a collective after its rendezvous with a status (R438); `cls` is the class of the finder's message, if this member found it, which then
sends the abort along the group's barrier paths. -/
def Dev.abortColl (s : Dev) (c : Coll) (st : Nat) (cls : Option Nat) : Dev :=
  let s := match cls with
    | some k =>
      let s := s.detect (colSrc c.eng) 0x1C k (cGid c.q + st % 256 * 2 ^ 8 + c.seq * 2 ^ 16)
      if c.op = 10 then s else s.send (.collAbort (cGid c.q) c.seq (0x0400 + st))
    | none => s
  let s := s.noteRetry false
  ((((s.undefine c).stopSends c).setColl { c with st := .ended (0x0400 + st) })).colSettle

end Sys2Proof.Machine
end

