-- ==== Sys2Proof/Machine/Collect.lean ====
section
/-! DEFINITION. The collective commands (R415 to R444). What other members contribute to a rendezvous and to an exchange comes with
the command; which member evaluates which part, and in which order gusts arrive, changes no result (R414, R424). -/

namespace Sys2Proof.Machine

/-! ### Entry (R420) -/

/-- The vote request of R462: an uncleared suspect message of the kinds named. -/
def Dev.voteRequest (s : Dev) : Bool :=
  s.flt.uncl.any fun r => r.msg.cls == 2 && (r.msg.kind == 4 || r.msg.kind == 5 || r.msg.kind == 8 || r.msg.kind == 0x16)

/-- Entries of the plan table (R190). -/
def Dev.planEntries (s : Dev) : Nat := s.fld sysPlanBaseNM1 + 1
/-- Where a plan entry lies (R177, R190). -/
def Dev.planAddr (s : Dev) (i : Nat) : Nat := s.fld sysPlanBaseBase * 65536 + 32 * i

/-- Translate first addresses: whether all of them translate (R420). -/
def Dev.firstAddrs (s : Dev) (eng : Nat) : List (Nat × Bool) → Dev × Bool
  | [] => (s, true)
  | (va, wr) :: l =>
    match s.xlateRange (baseTlb eng) (colSrc eng) 0 va 1 wr with
    | (s, .fail) => (s, false)
    | (s, _) => Dev.firstAddrs s eng l

/-- The addresses that an operation uses first, and whether it writes there: of a BCAST its source on the root alone, of a PERMUTE the regions
moved from and into and the table. -/
def usedAddrs (op : Nat) (q : List W64) (n r : Nat) : List (Nat × Bool) :=
  let reads := decide (0 < srcLen op q n) && (op != 6 || r == cRoot q)
  let perm := op == 9 && decide (0 < cCount q)
  (if reads || perm then [(cAddr q 3, false)] else []) ++ (if decide (0 < dstLen op q n r) || perm then [(cAddr q 4, true)] else []) ++
  (if perm || (isBlock (cType q) && reads) then [(cAddr q 5, false)] else []) ++
  (if isBlock (cDfmt q) ∧ 0 < dstLen op q n r then [(cAddr q 6, true)] else []) ++
  (if cHier q ∧ cRes q ∧ 0 < cCount q then [(cAddr q 7, true)] else [])

/-- A move of PERMUTE (R431): source offset, destination rank, destination offset, length. -/
structure Mv where
  src  : Nat
  rank : Nat
  dst  : Nat
  len  : Nat
  deriving DecidableEq, Repr

/-- The moves of a table. -/
def movesOf (n : Nat) (bs : List Byte) : List Mv := (List.range n).map fun i =>
  let w0 := leAt bs (16 * i) 8
  let w1 := leAt bs (16 * i + 8) 8
  ⟨bits w0 0 40, bits w0 40 13, bits w1 0 40, bits w1 40 24⟩

/-- A move table keeps R431: multiples of 64, ranks of the group, no reserved bit. -/
def movesOk (n k : Nat) (bs : List Byte) : Bool :=
  (List.range k).all (fun i => leAt bs (16 * i) 8 / 2 ^ 53 == 0) &&
  (movesOf k bs).all fun m => m.src % 64 == 0 && m.dst % 64 == 0 && m.len % 64 == 0 && decide (m.rank < n)

/-- The checks at entry in this order: addresses, fields, upper group, plan entry, move table, translations. The code of a local error, 0
for none, and s8 of the plan entry (R413, R420, R429). -/
def Dev.entryCheck (s : Dev) (eng op : Nat) (q : List W64) (mem umem : List Nat) : Dev × Nat × Nat :=
  let n := mem.length
  let r := rankIn mem s.ownPkg
  let all := mem.length == ((List.range 8192).filter s.inJob).length
  if !addrsOk q then (s, 5, 0)
  else if !collForm op q n all (s.onAs ⟨.collective, eng⟩ colStageEn) then (s, 4, 0)
  else
    let (s, e, s8) :=
      if cHier q then
        if !s.groupOk eng (cUgid q) then (s, 3, 0)
        else if 0 < cCount q ∧ (lowerChunk q n r).2 < umem.length then (s, 4, 0)
        else if s.planEntries ≤ cPidx q then (s, 4, 0)
        else match s.vRead (baseTlb eng) (colSrc eng) 0 2 (s.planAddr (cPidx q)) 32 with
          | (s, .data bs w) => if w.lost then (s, 6, 0) else (s, 0, leAt bs 1 1)
          | (s, .wait _) => (s, 5, 0)
          | (s, .fail) => (s, 5, 0)
      else if op = 9 then
        match s.vRead (baseTlb eng) (colSrc eng) 0 2 (cAddr q 5) (16 * cCount q) with
        | (s, .data bs w) => if w.lost then (s, 6, 0) else if movesOk n (cCount q) bs then (s, 0, 0) else (s, 4, 0)
        | (s, .wait _) => (s, 5, 0)
        | (s, .fail) => (s, 5, 0)
      else (s, 0, 0)
    if e ≠ 0 then (s, e, 0)
    else match s.firstAddrs eng (usedAddrs op q n r) with
      | (s, true) => (s, 0, s8)
      | (s, false) => (s, 5, 0)

/-- Collectives of a group in flight on the package. -/
def Dev.groupLive (s : Dev) (g : Nat) : List Coll := s.col.live.filter fun c => c.op != 10 && !c.mem.isEmpty && cGid c.q == g

/-- What an entry reads lies on a page that is being moved: it waits (R255). -/
def Dev.entryMoving (s : Dev) (op : Nat) (q : List W64) : Bool :=
  (cHier q && s.moving (s.planAddr (cPidx q)) 32) || (op == 9 && s.moving (cAddr q 5) (16 * cCount q))

/-- The engine has room for one more collective (R419). -/
def Dev.engRoom (s : Dev) (eng : Nat) : Bool :=
  let busy (c : Coll) : Bool := match c.st with | .ended _ => false | _ => true
  decide ((s.col.live.filter fun c => c.eng == eng && busy c).length < Nat.min 64 (s.fldOrAs ⟨.collective, eng⟩ colCtlMaxIf 1))

/-- A collective may enter now (R401, R419, R421, R422): its engine is not paused for a commit (R23); its engine, its group and its window have
room, no calm and no recovery holds it, and what it reads first is not being moved (R255). -/
def Dev.mayEnter (s : Dev) (eng op : Nat) (q : List W64) : Bool :=
  let g := cGid q
  !s.pausedUnit ⟨.collective, eng⟩ && s.engRoom eng && !s.calmHeld &&
  (op == 10 || !s.groupOk eng g ||
    match s.mapIn (s.engSlot eng) g with
    | some m =>
      !s.col.calm.contains g && !s.col.rec_.contains g && decide ((s.groupLive g).length < m.wn) && !s.entryMoving op q &&
      (!cHier q || (!s.col.calm.contains (cUgid q) && !s.col.rec_.contains (cUgid q))) &&
      !s.col.live.any fun c => c.op != 10 && c.win == m.wbase + Sparse.get (always 0) s.col.seqs g % m.wn
    | none => true)

/-- Window `c.win` is posted: each of the other members is granted a level of 16 (R422). -/
def Dev.postWindow (s : Dev) (c : Coll) : Dev :=
  ((c.mem ++ c.umem).eraseDups.filter (· != s.ownPkg)).foldl (fun s p => (s.setGranted p c.win 16).control p 3 1 c.win 16 0 0) s

/-- The signature that this package contributes. -/
def Dev.ownSig (s : Dev) (c : Coll) : W64 := signature c.op c.q c.slot s.featLevel c.seq

/-- This package joins the rendezvous of group `g` with local error `err` (R420, R426). -/
def Dev.contribute (s : Dev) (c : Coll) (g n err : Nat) : Dev :=
  s.send (.rendezvous g (s.ownSig c) n c.seq c.start (if err = 0 then 0 else 0x0400 + err) (lowerChunk c.q c.mem.length (rankIn c.mem s.ownPkg)).2
    c.flag c.vote)

/-- A COPY of a timetable has its start with its entry: it has no rendezvous (R358, R432). -/
def Dev.copyStart (s : Dev) (owner : CollOwner) (eng : Nat) : Dev :=
  match owner with
  | .work w =>
    match s.disp.insts.find? fun (i : Inst) => i.work == w with
    | some i => s.startedAt ⟨w.entry, w.round, w.brz, i.bytes, w.one⟩ w (ceil8 (s.now eng)) i.cause
    | none => s
  | _ => s

/-- A collective starts and enters (R419, R420): its sequence number, its checks, its window, its rendezvous, that of the upper group first; an
end-of-step barrier reads and clears the step non-finite flag (R182, R433). -/
def Dev.enterColl (s : Dev) (eng op : Nat) (q : List W64) (owner : CollOwner) : Dev :=
  let c : Coll := { id := s.col.next, eng, op, q, owner, seq := 0, win := 0, start := s.now eng, since := s.real, rdv := 0, err := 0, st := .ended 0,
                    flag := false, vote := false, got := [], mem := [], umem := [], gone := [], pos := 0, s8 := 0, slot := s.engSlot eng,
                    ports := 0 }
  let add (s : Dev) (c : Coll) : Dev :=
    { s with col := { s.col with next := s.col.next + 1, live := s.col.live ++ [c] } }.colSettle
  if op = 10 then
    let (s, e, _) := s.entryCheck eng op q [cRoot q] []
    add (s.copyStart owner eng) { c with mem := [cRoot q], st := if e = 0 then .exchanging else .ended (0x0400 + e) }
  else
    match s.groupOk eng (cGid q), s.mapIn (s.engSlot eng) (cGid q) with
    | true, some m =>
      let seq := Sparse.get (always 0) s.col.seqs (cGid q)
      let mem := s.members (cGid q)
      let umem := if cHier q then s.members (cUgid q) else []
      let s := { s with col := { s.col with seqs := Sparse.set (always 0) s.col.seqs (cGid q) ((seq + 1) % 65536) } }
      let (s, e, s8) := s.entryCheck eng op q mem umem
      let eos := op == 1 && cEos q
      let c := { c with seq, win := m.wbase + seq % m.wn, err := e, st := .entered, mem, umem, s8, ports := m.ports,
                        flag := eos && s.on sysStepStatusNf, vote := eos && s.voteRequest }
      let s := add (if eos then s.setBit sysStepStatusNf false else s) c
      let s := s.postWindow c
      if cHier q then s.contribute c (cUgid q) umem.length e else s.contribute c (cGid q) mem.length e
    | _, _ => add s { c with st := .ended 0x0403 }

/-- The words of a queued collective. -/
def entryWords (op : Nat) (e : SubEntry) : List W64 :=
  BitVec.ofNat 64 (op + e.cid.toNat * 65536) :: (List.range 7).map fun i => BitVec.ofNat 64 (leAt e.body (8 * i) 8)

/-- No collective of its group that was fetched before the entry next on queue `q` is still to start (R419). -/
def Dev.firstOfGroup (s : Dev) (q : Nat) : Bool :=
  match s.nextOf q with
  | none => true
  | some x =>
    let g (e : Entry) : Nat := bits (leAt e.bytes 8 8) 24 8
    let mine (e : Entry) : Bool := !e.started && (s.qctx e.q).kind == 3 && leAt e.bytes 0 1 != 10 && g e == g x
    leAt x.bytes 0 1 == 10 || (match s.que.run.find? mine with | some y => y == x | none => true)

/-- A collective whose instance is eligible waits for room in its engine or group: lateness cause 2 (R419). -/
def Dev.roomWait (s : Dev) (x : Cand) : Bool :=
  let eng := (eDisp x.e - 32) % 4
  eKind x.e == 2 && decide (s.floor x ≤ s.dispNow x) && (s.unmet x false).isEmpty &&
  (match (s.vRead (baseTlb eng) (colSrc eng) 0 2 (bits (eW0 x.e) 0 52) 64).2 with
   | .data bs _ => !s.mayEnter eng (leAt bs 0 1) (descWords bs)
   | _ => false)

/-- At a tick such waits are noted beside the others. -/
def Dev.noteRooms (s : Dev) : Dev :=
  let l := s.waiting.filterMap fun (x, behind) =>
    if !behind && s.roomWait x then some (⟨x.brz, x.one.isSome, x.entry, x.round, [2], none, false⟩ : Held) else none
  { s with disp := { s.disp with waits := s.disp.waits ++ l } }

/-- COLLECTIVE_ENTRY (R420): of an eligible timetable instance, or of the queue entry next on its queue, once it may enter. -/
def collectiveEntryEffect (f : CollFrom) (s : Dev) : Dev :=
  match f with
  | .queued op e =>
    let q := entryWords op e
    if s.fetched 3 op e && s.firstOfGroup e.q && s.mayEnter (cf q 1 16 2) op q then (s.startNext e.q).enterColl (cf q 1 16 2) op q (.queue e.q e.cid e.quiet)
    else s
  | .rel r cause =>
    match s.cand r with
    | none => s
    | some x =>
      let eng := (eDisp x.e - 32) % 4
      let read (s : Dev) : Dev × VRead := s.vRead (baseTlb eng) (colSrc eng) 0 2 (bits (eW0 x.e) 0 52) 64
      let ready := match (read s).2 with
        | .data bs w => w.lost || s.mayEnter eng (leAt bs 0 1) (descWords bs)
        | .wait _ => false
        | .fail => true
      if !ready then s else
      s.release r 2 cause fun _ w s =>
        match read s with
        | (s, .data bs e) => if e.lost then s.endWork (some w) false else s.enterColl eng (leAt bs 0 1) (descWords bs) (.work w)
        | (s, _) => s.endWork (some w) false

/-- COLLECTIVE_ENTRY (R420). -/
def execCollectiveEntry (f : CollFrom) (s : State) : Res := s.run (collectiveEntryEffect f)

/-! ### The rendezvous (R420, R421) -/

/-- Every member of a list but this package and those that have left has contributed. -/
def Dev.allIn (s : Dev) (mem gone : List Nat) (l : List Contrib) : Bool :=
  mem.all fun p => p == s.ownPkg || gone.contains p || l.any fun c => c.pkg.val == p

/-- The contributions of members that have not left. -/
def contribsOf (mem gone : List Nat) (l : List Contrib) : List Contrib :=
  l.filter fun c => mem.contains c.pkg.val && !gone.contains c.pkg.val

/-- After a mismatch a group's number becomes the largest reported plus 1, and it waits in recovery (R421). -/
def Dev.recover (s : Dev) (g own : Nat) (l : List Contrib) : Dev :=
  let top := l.foldl (fun m c => Nat.max m c.seq.val) own
  { s with col := { s.col with seqs := Sparse.set (always 0) s.col.seqs g ((top + 1) % 65536), rec_ := setAdd s.col.rec_ g } }

/-- Whether this member sends the mismatch message: its signature is not the majority's, or there is none (R421). -/
def offMajority (own : W64) (l : List W64) : Bool :=
  match l.find? fun x => decide (l.length < 2 * (l.filter fun y => y == x).length) with
  | some x => x != own
  | none => true

/-- When the members' contributions are in: the latest entry (R420). -/
def rdvOf (c : Coll) (l : List Contrib) : Nat := l.foldl (fun t x => Nat.max t x.time) c.start

/-- The mismatch message of a group, unless the majority has this member's signature (R421). -/
def Dev.mismatchMsg (s : Dev) (c : Coll) (g : Nat) (l : List Contrib) : Dev :=
  let own := s.ownSig c
  if l.any (fun x => x.sig != own) && offMajority own (own :: l.map fun x => x.sig)
    then s.detect (colSrc c.eng) 0x1B 0 (g + c.seq * 2 ^ 8) else s

/-- The mismatch outcome (R421, R441). -/
def Dev.mismatch (s : Dev) (c : Coll) (l : List Contrib) : Dev :=
  let st := if !c.gone.isEmpty then 2 else if c.err ≠ 0 then c.err else 1
  let s := (s.satFld (colStatusMism.nth c.eng) 1).mismatchMsg c (cGid c.q) l
  ((s.recover (cGid c.q) c.seq l).setColl { c with st := .recovering, err := st, rdv := rdvOf c l }).colSettle

/-- The start of a collective of a one-off entry is its rendezvous (R358, R368). -/
def Dev.setStart (s : Dev) (w : Work) (t : Nat) : Dev :=
  { s with disp := { s.disp with insts := s.disp.insts.map fun i => if i.work = w then { i with start := t } else i } }

/-- The exchange starts (R420): the rendezvous is the latest entry, which is the start of a timetable's collective (R358, R359). One that came
late because others entered later has cause 6, else the cause with which it was released. -/
def Dev.exchange (s : Dev) (c : Coll) (l : List Contrib) (cause : Nat) : Dev :=
  let rdv := rdvOf c l
  let c := { c with st := .exchanging, rdv, flag := c.flag || l.any (fun x => x.flag), vote := c.vote || l.any (fun x => x.vote) }
  let s := match c.owner with
    | .work w =>
      match s.disp.insts.find? fun (i : Inst) => i.work == w with
      | some i => (s.startedAt ⟨w.entry, w.round, w.brz, i.bytes, w.one⟩ w (ceil8 rdv)
          (if c.start < rdv then 6 else if i.cause = 0 then cause else i.cause)).setStart w (ceil8 rdv)
      | none => s
    | _ => s
  (s.setColl c).colSettle

/-- The collective of its group that is next to meet its rendezvous: the earliest that has entered (R420). -/
def Dev.nextRdv (s : Dev) (c : Coll) : Bool :=
  match s.col.live.find? fun x => x.op != 10 && x.st == .entered && cGid x.q == cGid c.q with
  | some x => x.id == c.id
  | none => false

/-- RENDEZVOUS_END (R420, R421, R426, R441): what the other members of the upper group and of the group contribute. The upper rendezvous comes
first; its outcome is this member's local error in the lower one, which it then joins. With a member gone, anything but a barrier or a scalar
reduction ends without an exchange. -/
def rendezvousEndEffect (id : Nat) (others upper : List Contrib) (cause : Nat) (s : Dev) : Dev :=
  match s.coll id with
  | none => s
  | some c =>
    if c.st ≠ .entered ∨ !s.nextRdv c ∨ !s.allIn c.mem c.gone others ∨ !s.allIn c.umem c.gone upper then s else
    let own := s.ownSig c
    let nb := (lowerChunk c.q c.mem.length (rankIn c.mem s.ownPkg)).2
    let u := contribsOf c.umem c.gone upper
    let l := contribsOf c.mem c.gone others
    let upOff := cHier c.q && u.any fun x => x.sig != own || x.n != c.umem.length || x.blocks != nb || x.err.val != 0
    let upBad := cHier c.q && (c.err != 0 || upOff)
    let s := if upBad ∧ c.err ≠ 3 then (s.mismatchMsg c (cUgid c.q) u).recover (cUgid c.q) (Sparse.get (always 0) s.col.seqs (cUgid c.q)) u else s
    let s := if cHier c.q then s.contribute c (cGid c.q) c.mem.length (if c.err ≠ 0 then c.err else if upOff then 1 else 0) else s
    let bad := c.err != 0 || upBad || l.any fun x => x.sig != own || x.n != c.mem.length || x.err.val != 0
    if bad then s.mismatch c l
    else if !c.gone.isEmpty ∧ c.op ≠ 1 ∧ c.op ≠ 2 then (s.setColl { c with st := .ended 0x0402, rdv := rdvOf c l }).colSettle
    else s.exchange c l cause

/-- RENDEZVOUS_END (R421). -/
def execRendezvousEnd (id : Nat) (others upper : List Contrib) (cause : Fin 7) (s : State) : Res :=
  s.run (rendezvousEndEffect id others upper cause)

/-! ### The operations -/

/-- How an operation's own part ends: its data is in place, a part of it is and more is to come, an error of R438 with its code and class, a
page that is being moved. -/
inductive OpEnd where
  | done
  | more
  | fail (code cls : Nat)
  | wait
  deriving DecidableEq, Repr

/-- What a collective has handed to the transport leaves. -/
def Dev.pumpFor (s : Dev) (c : Coll) : Dev := if s.sending c then s.pump else s

/-- Run the operation of a collective whose exchange has begun. An error aborts it; a page being moved, or the engine's pause for a
commit (R23), leaves it for later. -/
def Dev.collOp (s : Dev) (id : Nat) (ok : Coll → Bool) (f : Coll → Dev → Dev × OpEnd) : Dev :=
  match s.coll id with
  | none => s
  | some c =>
    if c.st ≠ .exchanging ∨ !ok c ∨ s.pausedUnit ⟨.collective, c.eng⟩ then s else
    match f c s with
    | (s1, .done) => (((s1.freeOverlap c).setColl { c with st := .done }).colSettle).pumpFor c
    | (s1, .more) => s1.pumpFor c
    | (s1, .fail st cls) => s1.abortColl c st (some cls)
    | (_, .wait) => s

/-! ### What an engine sends (R414, R422)

The engines send by the direct pattern (log entry 126): each member sends every other member what that one is to have. -/

/-- Bytes for offset `off` of member `p`'s posted region, in gusts of up to 4,032 bytes. -/
def Dev.gustsTo (s : Dev) (c : Coll) (p off : Nat) (bs : List Byte) : Dev :=
  if p = s.ownPkg ∨ c.gone.contains p then s else
  (List.range (ceilDiv bs.length 4032)).foldl (fun s i =>
    s.toFabric p 3 0 c.win 0 (off + 4032 * i) ((bs.drop (4032 * i)).take 4032) (collUser c.id)) s

/-- Elements for element offset `e` of member `p`'s region of `total` elements, then their codes. -/
def Dev.elemsTo (s : Dev) (c : Coll) (p total e : Nat) (part : Part) : Dev :=
  (s.gustsTo c p (wireBytes c.q e) part.1).gustsTo c p (wireBytes c.q total + wireCodes c.q e) part.2

/-- Elements `[e, e + k)` of a part. -/
def slicePart (q : List W64) (part : Part) (e k : Nat) : Part :=
  ((part.1.drop (wireBytes q e)).take (wireBytes q k), (part.2.drop (wireCodes q e)).take (wireCodes q k))

/-- The same elements to every other member. -/
def Dev.elemsToAll (s : Dev) (c : Coll) (total e : Nat) (part : Part) : Dev := c.mem.foldl (fun s p => s.elemsTo c p total e part) s

/-- The slice of `count` elements that the member of rank `j` owns of a reduction: whole blocks in a block format (R424, R426). -/
def sliceOf (q : List W64) (n j : Nat) : Nat × Nat :=
  let u := if isBlock (cType q) then 32 else 1
  let b := cCount q / u
  (u * splitAt b n j, u * (splitAt b n (j + 1) - splitAt b n j))

/-- What reading a source gives: bytes and codes, or why not. -/
inductive Got where
  | ok (bs codes : List Byte)
  | no (e : OpEnd)
  deriving DecidableEq, Repr

/-- Read bytes; a word that is lost is an error. -/
def Dev.readBytes (s : Dev) (eng va n : Nat) : Dev × Got :=
  if n = 0 then (s, .ok [] []) else
  match s.vRead (baseTlb eng) (colSrc eng) 2 2 va n with
  | (s, .data bs w) => if w.lost then (s, .no (.fail 6 2)) else (s, .ok bs [])
  | (s, .wait _) => (s, .no .wait)
  | (s, .fail) => (s, .no (.fail 5 2))

/-- The ranges of a list that cannot be read, by index. -/
def Dev.lostAt (s : Dev) (eng va len n : Nat) : List Nat :=
  (List.range n).filter fun i => match (s.vRead (baseTlb eng) (colSrc eng) 2 2 (va + len * i) len).2 with
    | .data _ w => w.lost
    | _ => false

/-- Read `n` blocks of `len` bytes with their codes: in BI16 and MXINT8 a block that meets a lost word has code 0xFF and sets the
non-finite flag, in any other format it is an error (R438). -/
def Dev.readBlocks (s : Dev) (eng va scl len n : Nat) (soft : Bool) : Dev × Got :=
  if n = 0 then (s, .ok [] []) else
  match s.vRead (baseTlb eng) (colSrc eng) 2 2 va (len * n) with
  | (s, .wait _) => (s, .no .wait)
  | (s, .fail) => (s, .no (.fail 5 2))
  | (s, .data bs w) =>
    match s.vRead (baseTlb eng) (colSrc eng) 2 2 scl n with
    | (s, .wait _) => (s, .no .wait)
    | (s, .fail) => (s, .no (.fail 5 2))
    | (s, .data cs v) =>
      if !w.lost && !v.lost then (s, .ok bs cs)
      else if !soft then (s, .no (.fail 6 2))
      else
        let bad := s.lostAt eng va len n ++ s.lostAt eng scl 1 n
        (s.nonFinite false, .ok bs (cs.zipIdx.map fun c => if bad.contains c.2 then 0xFF else c.1))

/-- Read `k` elements of the collective's type, with codes in a block format. -/
def Dev.readSrc (s : Dev) (c : Coll) (va scl k : Nat) : Dev × Got :=
  let t := cType c.q
  if isBlock t then s.readBlocks c.eng va scl (4 * elemBits t) (k / 32) (t == 0xC || t == 0xD)
  else s.readBytes c.eng va (cBytes c.q t k)

/-- Write bytes, then codes; a code of 0xFF sets the step non-finite flag (R425). -/
def Dev.writeDst (s : Dev) (eng va : Nat) (bs : List Byte) (scl : Nat) (codes : List Byte) : Dev × OpEnd :=
  let one (s : Dev) (a : Nat) (b : List Byte) : Dev × OpEnd :=
    if b.isEmpty then (s, .done) else
    match s.vWrite (baseTlb eng) (colSrc eng) 2 a b with
    | (s, .done) => (s, .done)
    | (s, .wait _) => (s, .wait)
    | (s, .fail) => (s, .fail 5 2)
  match one s va bs with
  | (s, .done) =>
    let s := if codes.contains 0xFF then s.nonFinite false else s
    one s scl codes
  | r => r

/-- A member's parts in rank order, the own one in its place. -/
def partsWith (parts : List Part) (n r : Nat) (own : Part) : List Part :=
  (List.range n).map fun i => if i = r then own else parts.getD i ([], [])

/-- The ranks in the order in which integer contributions are added: an order of arrival, else rank order (R425, R60). -/
def arrival (order : List Nat) (n : Nat) : List Nat :=
  if order.length = n ∧ (List.range n).all order.contains then order else List.range n

/-- Reduce block `i` of the parts of a BI16 or MXINT8 sum. -/
def reduceBlk (t : Nat) (order : List Nat) (parts : List Part) (i : Nat) : Blk :=
  if t = 0xD then sumMx (parts.map fun p => partMx p i)
  else sumBlks ((arrival order parts.length).map fun r => partBlk (parts.getD r ([], [])) i)

/-- Reduce `k` elements of the parts and write them at `dst` and `dscl`. The engine counts saturations in the blocks from `lo` to `hi`, which
its member owns. -/
def Dev.reduceInto (s : Dev) (c : Coll) (order : List Nat) (parts : List Part) (k lo hi : Nat) : Dev × OpEnd :=
  let t := cType c.q
  if t = 0xC ∨ t = 0xD then
    let l := (List.range (k / 32)).map (reduceBlk t order parts)
    let sats := (l.zipIdx.filter fun b => decide (lo ≤ b.2) && decide (b.2 < hi)).foldl (fun n b => n + b.1.sats) 0
    let s := s.colSat c.eng sats (l.any fun b => b.code == 0xFF)
    s.writeDst c.eng (cAddr c.q 4) (l.flatMap Blk.bytes) (cAddr c.q 6) (l.map fun b => BitVec.ofNat 8 b.code)
  else
    s.writeDst c.eng (cAddr c.q 4) (reduceElems t (cBits c.q t) (cRed c.q) k (parts.map Prod.fst)) 0 []

/-- BARRIER (R433). -/
def barrierEffect (id : Nat) (s : Dev) : Dev := s.collOp id (fun c => c.op == 1 && !cEos c.q) fun _ s => (s, .done)

/-- END_OF_STEP_BARRIER (R433, R462): F and the reduced vote request reach the lead, and the close begins. -/
def endOfStepEffect (id : Nat) (s : Dev) : Dev :=
  s.collOp id (fun c => c.op == 1 && cEos c.q) fun c s =>
    ({ s with job := { s.job with close := some ⟨c.flag, c.vote, false, false, none⟩ } }, .done)

/-- SCALAR (R434): each value on its own; FP32 and INT32 in the low half, INT32 sign-extended. -/
def scalarEffect (id : Nat) (parts : List Part) (s : Dev) : Dev :=
  s.collOp id (fun c => c.op == 2) fun c s =>
    match s.readBytes c.eng (cAddr c.q 3) (8 * cCount c.q) with
    | (s, .no e) => (s, e)
    | (s, .ok own _) =>
      let w := cBits c.q (cType c.q)
      let live := (List.range c.mem.length).filter fun i => !c.gone.contains (c.mem.getD i 0)
      let all := partsWith parts c.mem.length (rankIn c.mem s.ownPkg) (own, [])
      let ps := live.map fun i => (all.getD i ([], [])).1
      let val (i : Nat) : Nat := (treeOf (redTwo (cType c.q) w (cRed c.q)) ps.length (ps.map fun p => leAt p (8 * i) 8 % 2 ^ w)).headD 0
      let ext (v : Nat) : Nat := if cType c.q = 0xB ∧ w = 32 then wrap 64 (signed 32 v) else v
      let s := c.mem.foldl (fun s p => s.gustsTo c p 0 own) s
      s.writeDst c.eng (cAddr c.q 4) ((List.range (cCount c.q)).flatMap fun i => natLe 8 (ext (val i))) 0 []

/-- What this package holds at dst after a reduction, in the wire's form where that is dst's. -/
def Dev.ownSlice (s : Dev) (c : Coll) (e k : Nat) : Part :=
  let bytes (va n : Nat) : List Byte := match (s.vRead (baseTlb c.eng) (colSrc c.eng) 2 2 va n).2 with | .data bs _ => bs | _ => []
  (if k = 0 then [] else bytes (cAddr c.q 4 + cBytes c.q (cDfmt c.q) e) (cBytes c.q (cDfmt c.q) k),
   if k = 0 ∨ !isBlock (cDfmt c.q) then [] else bytes (cAddr c.q 6 + cCodes (cDfmt c.q) e) (cCodes (cDfmt c.q) k))

/-- ALLREDUCE without hier (R424): each member's slice goes to its owner, and the owner's result to every member. -/
def allreduceEffect (id : Nat) (parts : List Part) (order : List Nat) (s : Dev) : Dev :=
  s.collOp id (fun c => c.op == 3 && !cHier c.q) fun c s =>
    match s.readSrc c (cAddr c.q 3) (cAddr c.q 5) (cCount c.q) with
    | (s, .no e) => (s, e)
    | (s, .ok bs cs) =>
      let n := c.mem.length
      let r := rankIn c.mem s.ownPkg
      let (lo, k) := lowerChunk c.q n r
      let s := (List.range n).foldl (fun s j =>
        let (e, k) := sliceOf c.q n j
        s.elemsTo c (c.mem.getD j 0) (cCount c.q) e (slicePart c.q (bs, cs) e k)) s
      match s.reduceInto c order (partsWith parts n r (bs, cs)) (cCount c.q) lo (lo + k) with
      | (s, .done) =>
        let (e, k) := sliceOf c.q n r
        (s.elemsToAll c (cCount c.q) e (s.ownSlice c e k), .done)
      | x => x

/-- REDSCAT (R416): the parts are the members' chunks of this member's rank. The whole of src is read, since every chunk goes out. -/
def redscatEffect (id : Nat) (parts : List Part) (order : List Nat) (s : Dev) : Dev :=
  s.collOp id (fun c => c.op == 4) fun c s =>
    let n := c.mem.length
    let r := rankIn c.mem s.ownPkg
    let k := cCount c.q
    match s.readSrc c (cAddr c.q 3) (cAddr c.q 5) (n * k) with
    | (s, .no e) => (s, e)
    | (s, .ok bs cs) =>
      let s := (List.range n).foldl (fun s j => s.elemsTo c (c.mem.getD j 0) k 0 (slicePart c.q (bs, cs) (j * k) k)) s
      s.reduceInto c order (partsWith parts n r (slicePart c.q (bs, cs) (r * k) k)) k 0 (k / 32)

/-- An arriving chunk of `k` elements as it is written: converted where dfmt differs (R430); with how many BI16 elements were 0x8000, which is
never written and counts as a saturation (R39). -/
def arrivePart (q : List W64) (k : Nat) (p : Part) : Part × Nat :=
  let bs := padTo (cBytes q (cType q) k) p.1
  let n := if cType q = 0xC then (clean16 bs).2 else 0
  if cDfmt q = cType q then
    ((if cType q = 0xC then (clean16 bs).1 else bs, if isBlock (cType q) then padTo (k / 32) p.2 else []), n)
  else ((widen (cType q) (cDfmt q) bs 0 k fun i => (p.2.getD i 0).toNat, []), n)

/-- Write chunks one after another. -/
def Dev.writeChunks (s : Dev) (c : Coll) (k : Nat) (ps : List Part) : Dev × OpEnd :=
  let l := ps.map (arrivePart c.q k)
  let s := s.colSat c.eng (l.foldl (fun n x => n + x.2) 0) false
  s.writeDst c.eng (cAddr c.q 4) (l.flatMap fun x => x.1.1) (cAddr c.q 6) (l.flatMap fun x => x.1.2)

/-- ALLGATHER (R416, R430). -/
def allgatherEffect (id : Nat) (parts : List Part) (s : Dev) : Dev :=
  s.collOp id (fun c => c.op == 5) fun c s =>
    match s.readSrc c (cAddr c.q 3) (cAddr c.q 5) (cCount c.q) with
    | (s, .no e) => (s, e)
    | (s, .ok bs cs) =>
      let n := c.mem.length
      let r := rankIn c.mem s.ownPkg
      (s.elemsToAll c (n * cCount c.q) (r * cCount c.q) (bs, cs)).writeChunks c (cCount c.q) (partsWith parts n r (bs, cs))

/-- BCAST (R416, R430): the root's chunk, on every member. -/
def bcastEffect (id : Nat) (part : Part) (s : Dev) : Dev :=
  s.collOp id (fun c => c.op == 6) fun c s =>
    if rankIn c.mem s.ownPkg = cRoot c.q then
      match s.readSrc c (cAddr c.q 3) (cAddr c.q 5) (cCount c.q) with
      | (s, .no e) => (s, e)
      | (s, .ok bs cs) => (s.elemsToAll c (cCount c.q) 0 (bs, cs)).writeChunks c (cCount c.q) [(bs, cs)]
    else s.writeChunks c (cCount c.q) [part]

/-- GATHER (R416): the root alone writes. -/
def gatherEffect (id : Nat) (parts : List Part) (s : Dev) : Dev :=
  s.collOp id (fun c => c.op == 7) fun c s =>
    match s.readSrc c (cAddr c.q 3) (cAddr c.q 5) (cCount c.q) with
    | (s, .no e) => (s, e)
    | (s, .ok bs cs) =>
      let r := rankIn c.mem s.ownPkg
      let n := c.mem.length
      if r = cRoot c.q then s.writeChunks c (cCount c.q) (partsWith parts n r (bs, cs))
      else (s.elemsTo c (c.mem.getD (cRoot c.q) 0) (n * cCount c.q) (r * cCount c.q) (bs, cs), .done)

/-- ALLTOALL (R416): the parts are the members' chunks for this rank; its own lies at its rank in src. The whole of src is read, since
every chunk goes out. -/
def alltoallEffect (id : Nat) (parts : List Part) (s : Dev) : Dev :=
  s.collOp id (fun c => c.op == 8) fun c s =>
    let n := c.mem.length
    let r := rankIn c.mem s.ownPkg
    let k := cCount c.q
    match s.readSrc c (cAddr c.q 3) (cAddr c.q 5) (n * k) with
    | (s, .no e) => (s, e)
    | (s, .ok bs cs) =>
      let s := (List.range n).foldl (fun s j => s.elemsTo c (c.mem.getD j 0) (n * k) (r * k) (slicePart c.q (bs, cs) (j * k) k)) s
      s.writeChunks c k (partsWith parts n r (slicePart c.q (bs, cs) (r * k) k))

/-! ### PERMUTE (R431) -/

/-- The moves of the next round: up to `room` bytes, a move across the limit split; what remains. -/
def takeRound : Nat → List Mv → List Mv × List Mv
  | _, [] => ([], [])
  | room, m :: l =>
    if room = 0 then ([], m :: l)
    else if m.len ≤ room then
      let (a, b) := takeRound (room - m.len) l
      (m :: a, b)
    else ([{ m with len := room }], { m with src := m.src + room, dst := m.dst + room, len := m.len - room } :: l)

/-- Read the bytes of moves. -/
def Dev.readMoves (s : Dev) (eng src : Nat) : List Mv → Dev × Option (List (Mv × List Byte)) × OpEnd
  | [] => (s, some [], .done)
  | m :: l =>
    match s.readBytes eng (src + m.src) m.len with
    | (s, .no e) => (s, none, e)
    | (s, .ok bs _) =>
      match Dev.readMoves s eng src l with
      | (s, some r, e) => (s, some ((m, bs) :: r), e)
      | (s, none, e) => (s, none, e)

/-- Write what arrives: offset and bytes. -/
def Dev.writeMoves (s : Dev) (eng dst : Nat) : List (Nat × List Byte) → Dev × OpEnd
  | [] => (s, .done)
  | (o, bs) :: l =>
    match s.writeDst eng (dst + o) bs 0 [] with
    | (s, .done) => Dev.writeMoves s eng dst l
    | r => r

/-- The moves left after `k` rounds. -/
def laterMoves (room : Nat) : Nat → List Mv → List Mv
  | 0, l => l
  | k + 1, l => laterMoves room k (takeRound room l).2

/-- One round: the outgoing bytes are staged and sent; what the others send, and what this member sends to itself, is written. -/
def Dev.permuteRound (s : Dev) (c : Coll) (r room : Nat) (ms : List Mv) (inc : List (Nat × List Byte)) : Dev × OpEnd :=
  let (now, _) := takeRound room ms
  match s.readMoves c.eng (cAddr c.q 3) now with
  | (s, none, e) => (s, e)
  | (s, some out, _) =>
    match s.writeDst c.eng (s.fldAs ⟨.collective, c.eng⟩ colStageBase * 65536) (out.flatMap fun x => x.2) 0 [] with
    | (s, .done) =>
      let s := out.foldl (fun s x => s.gustsTo c (c.mem.getD x.1.rank 0) x.1.dst x.2) s
      s.writeMoves c.eng (cAddr c.q 4) (inc ++ (out.filter fun x => x.1.rank == r).map fun x => (x.1.dst, x.2))
    | x => x

/-- The rounds from number `k` on, as far as their sends are acknowledged: the barrier that ends a round waits for that (R431). -/
def Dev.permuteRounds (s : Dev) (c : Coll) (r room k : Nat) : List Mv → List (List (Nat × List Byte)) → Dev × OpEnd
  | _, [] => (s, .done)
  | ms, inc :: rounds =>
    if s.sending c then (s.setColl { c with pos := k }, .more) else
    match s.permuteRound c r room ms inc with
    | (s, .done) => Dev.permuteRounds s c r room (k + 1) (takeRound room ms).2 rounds
    | (s, .wait) => if k = c.pos then (s, .wait) else (s.setColl { c with pos := k }, .more)
    | x => x

/-- PERMUTE (R431): `rounds` holds, for each round, what the other members send here. A PERMUTE goes on with the round it has come to. -/
def permuteEffect (id : Nat) (rounds : List (List (Nat × List Byte))) (s : Dev) : Dev :=
  s.collOp id (fun c => c.op == 9) fun c s =>
    match s.readBytes c.eng (cAddr c.q 5) (16 * cCount c.q) with
    | (s, .no e) => (s, e)
    | (s, .ok bs _) =>
      let r := rankIn c.mem s.ownPkg
      let room := 0x100000 * Nat.min 768 (Nat.max 1 (s.fldAs ⟨.collective, c.eng⟩ colStageSizeMib))
      let ms := movesOf (cCount c.q) bs
      let own := ceilDiv (ms.foldl (fun n m => n + m.len) 0) room
      s.permuteRounds c r room c.pos (laterMoves room c.pos ms) ((rounds ++ List.replicate (own - rounds.length) []).drop c.pos)

/-! ### COPY (R432) -/

/-- Write the replies that have come. -/
def Dev.copyIn (s : Dev) (c : Coll) : List Read → Dev × OpEnd
  | [] => (s, .done)
  | x :: l =>
    match x.data with
    | none => Dev.copyIn s c l
    | some bs =>
      match s.writeDst c.eng (cAddr c.q 4 + x.off) bs 0 [] with
      | (s, .done) => Dev.copyIn { s with fab := { s.fab with reads := s.fab.reads.filter fun y => y != x } } c l
      | r => r

/-- Reserve reply slots for further reads of at most 4,032 bytes and hand the reads to the transport; the bytes requested so far. -/
def Dev.copyOut (s : Dev) (c : Coll) : List Nat → Nat → Dev × Nat
  | [], pos => (s, pos)
  | slot :: l, pos =>
    if cCount c.q ≤ pos then (s, pos) else
    let n := Nat.min 4032 (cCount c.q - pos)
    let x : Read := { slot, dst := cRoot c.q, seq := none, addr := cAddr c.q 3 + pos, len := n, time := s.real, coll := c.id, off := pos,
                      data := none }
    let s := { s with fab := { s.fab with reads := s.fab.reads ++ [x] } }
    Dev.copyOut (s.toFabric (cRoot c.q) 0 1 slot n (cAddr c.q 3 + pos) [] 8) c l (pos + n)

/-- COPY (R432): replies are written, further reads leave; the copy is in place when all of them have come. A copy from the package
itself reads its own memory. -/
def copyEffect (id : Nat) (s : Dev) : Dev :=
  match s.coll id with
  | none => s
  | some c =>
    if c.st ≠ .exchanging ∨ c.op ≠ 10 ∨ s.pausedUnit ⟨.collective, c.eng⟩ then s
    else if cRoot c.q = s.ownPkg then
      s.collOp id (fun _ => true) fun c s =>
        match s.readBytes c.eng (cAddr c.q 3) (cCount c.q) with
        | (s, .no e) => (s, e)
        | (s, .ok bs _) => s.writeDst c.eng (cAddr c.q 4) bs 0 []
    else
      match s.copyIn c (s.fab.reads.filter fun x => x.coll == id) with
      | (s1, .done) =>
        let slots := (List.range (s.fld fabCreditReplySlots)).filter fun k => !s1.fab.reads.any fun x => x.slot == k
        let (s2, pos) := s1.copyOut c slots c.pos
        let s3 := (s2.setColl { c with pos }).pump
        if cCount c.q ≤ pos ∧ !(s3.fab.reads.any fun x => x.coll == id) then (s3.setColl { c with pos, st := .done }).colSettle else s3
      | (s1, .fail st cls) => s1.abortColl c st (some cls)
      | (_, .wait) | (_, .more) => s

/-! ### The hierarchical all-reduce (R426 to R429) -/

/-- The entering residual blocks of `n` blocks: zero where E_r has changed for this step, else as read (R427, R429). -/
def Dev.readResid (s : Dev) (c : Coll) (n : Nat) (zero : Bool) : Dev × Got :=
  let e := 32 * n
  let a := cAddr c.q 7 + s.step.toNat % 2 * residLen e
  if zero then (s, .ok (List.replicate (64 * n) 0) (List.replicate n 0)) else s.readBlocks c.eng a (a + 2 * e) 64 n true

/-- Note E_r of a residual address; whether the buffers count as zero at the present step. -/
def Dev.noteResid (s : Dev) (a e : Nat) : Dev × Bool :=
  let now := s.step.toNat + 1
  let (old, at_) := Sparse.get (always (0, 0)) s.col.resid a
  if old = e then (s, at_ == now)
  else
    let change := if old = 0 ∧ s.col.zeroAt ≠ now then 0 else now
    ({ s with col := { s.col with resid := Sparse.set (always (0, 0)) s.col.resid a (e, change) } }, change != 0)

/-- The sends of phases 3 to 5 (R426): the narrowed blocks of each upper member's sub-chunk, then this member's sums to the upper members, then
its lower chunk as delivered to the lower ones. -/
def Dev.hierSends (s : Dev) (c : Coll) (lo nb slo shi : Nat) (nar : List ((List Byte × Nat) × Blk)) (sums whole : Part) : Dev :=
  let b := cCount c.q / 32
  let ku := c.umem.length
  let s := (List.range ku).foldl (fun s j =>
    let l := (nar.drop (splitAt nb ku j)).take (splitAt nb ku (j + 1) - splitAt nb ku j)
    let at_ := lo + splitAt nb ku j
    (s.gustsTo c (c.umem.getD j 0) (64 * at_) (l.flatMap fun x => x.1.1)).gustsTo c (c.umem.getD j 0) (64 * b + at_)
      (l.map fun x => BitVec.ofNat 8 x.1.2)) s
  let s := c.umem.foldl (fun s p =>
    ((s.gustsTo c p (64 * (lo + slo)) sums.1).gustsTo c p (64 * b + lo + slo) sums.2)) s
  if shi = slo ∧ nb = 0 then s else
  c.mem.foldl (fun s p =>
    (s.gustsTo c p (64 * lo) ((whole.1.drop (64 * lo)).take (64 * nb))).gustsTo c p (64 * b + lo) ((whole.2.drop lo).take nb)) s

/-- The second half of a hierarchical all-reduce (R426 to R429), once the sums `acc` of the `nb` blocks of the lower chunk from block `lo` and
the entering residual (`rb`, `rc`) are at hand: narrowing, the upper sums, the residual produced, the blocks delivered. -/
def Dev.hierFinish (s : Dev) (c : Coll) (lo nb : Nat) (acc : List Blk) (zero : Bool) (rb rc : List Byte) (upper : List Part) (rest : Part) :
    Dev × OpEnd :=
  let b := cCount c.q / 32
  let ku := c.umem.length
  let ru := rankIn c.umem s.ownPkg
  let ys := (acc.zipIdx).map fun x =>
    if cRes c.q then
      let res := partBlk (rb, rc) x.2
      withResidual x.1 (if zero then { res with code := x.1.code } else res)
    else x.1
  let nar := ys.map fun y => narrow y c.s8
  let prod := nar.map Prod.snd
  let slo := splitAt nb ku ru
  let shi := splitAt nb ku (ru + 1)
  let own : Part := ((nar.map fun x => x.1.1).flatMap (fun x => x) |>.drop (32 * slo) |>.take (32 * (shi - slo)),
                     (nar.map fun x => BitVec.ofNat 8 x.1.2).drop slo |>.take (shi - slo))
  let sums := (List.range (shi - slo)).map (reduceBlk 0xD [] (partsWith upper ku ru own))
  let sats := prod.foldl (fun k x => k + x.sats) 0 + sums.foldl (fun k x => k + x.sats) 0
  let s := s.colSat c.eng sats ((acc.any fun x => x.code == 0xFF) || (prod.any fun x => x.code == 0xFF) || sums.any fun x => x.code == 0xFF)
  let a := cAddr c.q 7 + (s.step.toNat + 1) % 2 * residLen (32 * nb)
  match (if cRes c.q then s.writeDst c.eng a (prod.flatMap Blk.bytes) (a + 64 * nb) (prod.map fun x => BitVec.ofNat 8 x.code)
         else (s, .done)) with
  | (s, .done) =>
    let at_ := lo + slo
    let eb := padTo (64 * b) rest.1
    let ec := padTo b rest.2
    let bytes := eb.take (64 * at_) ++ sums.flatMap Blk.bytes ++ eb.drop (64 * (at_ + sums.length))
    let codes := ec.take at_ ++ sums.map (fun x => BitVec.ofNat 8 x.code) ++ ec.drop (at_ + sums.length)
    let s := s.hierSends c lo nb slo shi nar (sums.flatMap Blk.bytes, sums.map fun x => BitVec.ofNat 8 x.code) (bytes, codes)
    s.writeDst c.eng (cAddr c.q 4) bytes (cAddr c.q 6) codes
  | x => x

/-- HIER_ALLREDUCE (R426): `lower` holds the members' accumulator blocks of this member's lower chunk, `upper` the upper members' MXINT8
blocks of its sub-chunk, `rest` the delivered blocks of the whole count, of which the own sub-chunk is formed here. -/
def hierEffect (id : Nat) (lower upper : List Part) (rest : Part) (order : List Nat) (s : Dev) : Dev :=
  s.collOp id (fun c => c.op == 3 && cHier c.q) fun c s =>
    let n := c.mem.length
    let r := rankIn c.mem s.ownPkg
    let (lo, nb) := lowerChunk c.q n r
    let b := cCount c.q / 32
    if b = 0 then (s, .done) else
    match s.readBlocks c.eng (cAddr c.q 3) (cAddr c.q 5) 64 b true with
    | (s, .no e) => (s, e)
    | (s, .ok bs cs) =>
      let chunk (j : Nat) : Part := slicePart c.q (bs, cs) (32 * splitAt b n j) (32 * (splitAt b n (j + 1) - splitAt b n j))
      let s := (List.range n).foldl (fun s j => s.elemsTo c (c.mem.getD j 0) (cCount c.q) (32 * splitAt b n j) (chunk j)) s
      let acc := (List.range nb).map (reduceBlk 0xC order (partsWith lower n r (chunk r)))
      let (s, zero) := if cRes c.q then s.noteResid (cAddr c.q 7) (32 * nb) else (s, false)
      match (if cRes c.q then s.readResid c nb zero else (s, Got.ok [] [])) with
      | (s, .no e) => (s, e)
      | (s, .ok rb rc) => s.hierFinish c lo nb acc zero rb rc upper rest

/-! ### The end (R423, R438, R439) -/

/-- The levels of a collective's window return to zero (R422). -/
def Dev.closeWindow (s : Dev) (c : Coll) : Dev :=
  if c.win = 0 then s else
  { s with fab := { s.fab with levels := s.fab.levels.filter fun e => e.1 % 65536 != c.win,
                               granted := s.fab.granted.filter fun e => e.1 % 65536 != c.win,
                               asks := s.fab.asks.filter fun a => a.win != c.win,
                               askers := s.fab.askers.filter fun a => a.win != c.win } }

/-- A collective leaves the package: its completion is written, or its entry ends. -/
def Dev.endColl (s : Dev) (c : Coll) (status : Nat) : Dev :=
  let s := { s with col := { s.col with live := s.col.live.filter fun x => x.id != c.id },
                    fab := { s.fab with reads := s.fab.reads.filter fun x => x.coll != c.id,
                                        queue := s.fab.queue.filter fun g =>
                                          !(g.user == 8 && s.fab.reads.any fun x => x.coll == c.id && x.slot == g.win && x.dst == g.dst) } }
  let s := s.closeWindow c
  let held (g : Nat) : Bool := s.col.live.any fun x => x.op != 10 && x.st == .recovering && (cGid x.q == g || (cHier x.q && cUgid x.q == g))
  let s := if c.op = 10 then s else
    { s with col := { s.col with rec_ := s.col.rec_.filter fun g => held g || !(g == cGid c.q || (cHier c.q && g == cUgid c.q)) } }
  let s := match c.owner with
    | .queue q cid quiet => s.complete q cid quiet status (BitVec.ofNat 64 c.rdv)
    | .work w => s.endWork (some w) (status == 0)
    | .firmware => s
  let s := s.count (dieBlk c.eng) 20 1
  let n := c.mem.length
  let s := if c.op = 3 ∨ c.op = 4 then s.count (dieBlk c.eng) 19 (srcLen c.op c.q n) else s
  s.colSettle

/-- Whether an earlier collective of the same queue has not completed (R303). -/
def Dev.collBehind (s : Dev) (c : Coll) : Bool :=
  match c.owner with
  | .queue q _ _ =>
    match s.col.live.find? fun x => match x.owner with | .queue q' _ _ => q' == q | _ => false with
    | some x => x.id != c.id
    | none => false
  | _ => false

/-- COLLECTIVE_COMPLETE (R421, R423), once every gust sent is acknowledged. For one in recovery it is the end of the group's barrier on this member. -/
def collectiveCompleteEffect (id : Nat) (s : Dev) : Dev :=
  match s.coll id with
  | none => s
  | some c =>
    if s.collBehind c || s.sending c then s else
    match c.st with
    | .done => s.endColl c 0
    | .ended st => s.endColl c st
    | .recovering => s.endColl c (0x0400 + c.err)
    | _ => s

/-- COLLECTIVE_ABORT (R438): another member has sent an abort with its status. -/
def collectiveAbortEffect (id st : Nat) (s : Dev) : Dev :=
  match s.coll id with
  | some c => if c.st = .exchanging then s.abortColl c st none else s
  | none => s

/-- MEMBER_LEAVE (R439): BARRIER and SCALAR go on without the package; any other collective it belongs to is aborted with COLL_PEER, and
so is a COPY from it (R432). Before the rendezvous no byte has moved: the collective meets it without the package and ends there (R441). -/
def memberLeaveEffect (p : Nat) (s : Dev) : Dev :=
  s.col.live.foldl (fun s c =>
    if !(c.mem.contains p || c.umem.contains p) || p == s.ownPkg then s else
    match c.st with
    | .entered =>
      let s := if c.op = 1 ∨ c.op = 2 then s
        else (s.detect (colSrc c.eng) 0x1C 0 (cGid c.q + 2 * 2 ^ 8 + c.seq * 2 ^ 16)).noteRetry false
      (s.setColl { c with gone := setAdd c.gone p }).colSettle
    | .exchanging =>
      if c.op = 1 ∨ c.op = 2 then (s.setColl { c with gone := setAdd c.gone p }).colSettle else s.abortColl c 2 (some 0)
    | _ => s) s

/-- Packages met with a new incarnation leave their collectives (R399, R439). -/
def Dev.settleLeave (s : Dev) : Dev := s.fab.leave.foldl (fun s p => memberLeaveEffect p s) { s with fab := { s.fab with leave := [] } }

/-- BARRIER (R433). -/
def execBarrier (id : Nat) (s : State) : Res := s.run (barrierEffect id)
/-- END_OF_STEP_BARRIER (R433). -/
def execEndOfStepBarrier (id : Nat) (s : State) : Res := s.run (endOfStepEffect id)
/-- SCALAR (R434). -/
def execScalar (id : Nat) (parts : List Part) (s : State) : Res := s.run (scalarEffect id parts)
/-- ALLREDUCE (R424). -/
def execAllreduce (id : Nat) (parts : List Part) (order : List Nat) (s : State) : Res := s.run (allreduceEffect id parts order)
/-- HIER_ALLREDUCE (R426). -/
def execHierAllreduce (id : Nat) (lower upper : List Part) (rest : Part) (order : List Nat) (s : State) : Res :=
  s.run (hierEffect id lower upper rest order)
/-- REDSCAT (R416). -/
def execRedscat (id : Nat) (parts : List Part) (order : List Nat) (s : State) : Res := s.run (redscatEffect id parts order)
/-- ALLGATHER (R430). -/
def execAllgather (id : Nat) (parts : List Part) (s : State) : Res := s.run (allgatherEffect id parts)
/-- BCAST (R430). -/
def execBcast (id : Nat) (part : Part) (s : State) : Res := s.run (bcastEffect id part)
/-- GATHER (R416). -/
def execGather (id : Nat) (parts : List Part) (s : State) : Res := s.run (gatherEffect id parts)
/-- ALLTOALL (R416). -/
def execAlltoall (id : Nat) (parts : List Part) (s : State) : Res := s.run (alltoallEffect id parts)
/-- PERMUTE (R431). -/
def execPermute (id : Nat) (rounds : List Moves) (s : State) : Res := s.run (permuteEffect id rounds)
/-- COPY (R432). -/
def execCopy (id : Nat) (s : State) : Res := s.run (copyEffect id)
/-- COLLECTIVE_COMPLETE (R423). -/
def execCollectiveComplete (id : Nat) (s : State) : Res := s.run (collectiveCompleteEffect id)
/-- COLLECTIVE_ABORT (R438). -/
def execCollectiveAbort (id : Nat) (status : Fin 256) (s : State) : Res := s.run (collectiveAbortEffect id status)
/-- MEMBER_LEAVE (R439). -/
def execMemberLeave (pkg : Fin 8192) (s : State) : Res := s.run (memberLeaveEffect pkg)

end Sys2Proof.Machine
end

