-- ==== Sys2Proof/Machine/Arrive.lean ====
section
/-! DEFINITION. The fabric's rows at work (R374 to R407): after each arrival, packages that have shown a new incarnation leave their
collectives (R439). -/

namespace Sys2Proof.Machine

/-- PORT_SERVICE_CHANGE (R375). -/
def execPortServiceChange (port : Fin 16) (width : Fin 32) (rate : Fin 4) (up : Bool) (pbr : Option (Fin 4096)) (s : State) : Res :=
  s.run (portChangeEffect port width rate up (pbr.map fun i => i.val))
/-- GUST_WRITE (R391). -/
def execGustWrite (port : Fin 16) (gust : List Byte) (s : State) : Res := s.run fun s => (gustWriteEffect port gust s).settleLeave
/-- GUST_READ (R393). -/
def execGustRead (port : Fin 16) (gust : List Byte) (s : State) : Res := s.run fun s => (gustReadEffect port gust s).settleLeave
/-- GUST_REPLY_DATA (R393). -/
def execGustReplyData (port : Fin 16) (gust : List Byte) (s : State) : Res := s.run fun s => (gustReplyEffect port gust s).settleLeave
/-- GUST_COLLECTIVE_DATA (R422). -/
def execGustCollectiveData (port : Fin 16) (gust : List Byte) (s : State) : Res := s.run fun s => (gustCollectiveEffect port gust s).settleLeave
/-- GUST_ACK (R392). -/
def execGustAck (port : Fin 16) (gust : List Byte) (s : State) : Res := s.run fun s => (gustAckEffect port gust s).settleLeave
/-- GUST_ASK (R390). -/
def execGustAsk (port : Fin 16) (gust : List Byte) (s : State) : Res := s.run fun s => (gustAskEffect port gust s).settleLeave
/-- GUST_GRANT (R390). -/
def execGustGrant (port : Fin 16) (gust : List Byte) (s : State) : Res := s.run fun s => (gustGrantEffect port gust s).settleLeave
/-- GUST_RETURN (R390). -/
def execGustReturn (port : Fin 16) (gust : List Byte) (s : State) : Res := s.run fun s => (gustReturnEffect port gust s).settleLeave
/-- GUST_STALE (R399). -/
def execGustStale (port : Fin 16) (gust : List Byte) (s : State) : Res := s.run fun s => (gustStaleEffect port gust s).settleLeave
/-- GUST_RACK (R395). -/
def execGustRack (port : Fin 16) (gust : List Byte) (s : State) : Res := s.run fun s => (gustRackEffect port gust s).settleLeave
/-- GUST_PROBE (R388). -/
def execGustProbe (port : Fin 16) (gust : List Byte) (s : State) : Res := s.run fun s => (gustProbeEffect port gust s).settleLeave
/-- GUST_PROBE_ANSWER (R388). -/
def execGustProbeAnswer (port : Fin 16) (gust : List Byte) (s : State) : Res := s.run fun s => (gustAnswerEffect port gust s).settleLeave
/-- GUST_RELAY (R394). -/
def execGustRelay (port : Fin 16) (pbr : Fin 4096) (gust : List Byte) (s : State) : Res := s.run fun s => (gustRelayEffect port pbr gust s).settleLeave
/-- RELAY_FORWARD_TIMEOUT (R394). -/
def execRelayForwardTimeout (s : State) : Res := s.run relayForwardEffect
/-- RELAY_SLOT_TIMEOUT (R395). -/
def execRelaySlotTimeout (s : State) : Res := s.run relaySlotEffect
/-- RESEND_TIMEOUT (R397). -/
def execResendTimeout (s : State) : Res := s.run resendTimeoutEffect
/-- READ_REPLY_TIMEOUT (R393). -/
def execReadReplyTimeout (s : State) : Res := s.run readReplyEffect
/-- ASK_REPEAT (R390). -/
def execAskRepeat (s : State) : Res := s.run askRepeatEffect
/-- LEVEL_IDLE_RETURN (R390). -/
def execLevelIdleReturn (s : State) : Res := s.run levelIdleEffect
/-- PROBE_TIMER (R388). -/
def execProbeTimer (s : State) : Res := s.run probeTimerEffect
/-- ACK_SEND (R392). -/
def execAckSend (src : Fin 8192) (eclass : Fin 5) (s : State) : Res := s.run (ackSendEffect src eclass)

end Sys2Proof.Machine
end

