-- ==== Sys2Proof/Machine/Clock.lean ====
section
/-! DEFINITION. System time and its transfer (R339 to R344). -/

namespace Sys2Proof.Machine

/-! ### The count (R339) -/

/-- Move the count of every base die by `n` nanoseconds; TIM_NOW shows that of base die 0. -/
def Dev.moveTime (s : Dev) (n : Int) : Dev :=
  let s := (List.range 4).foldl (fun s d =>
    s.setBase d { s.base d with now := ((s.base d).now + n).toNat % 2 ^ 64 }) s
  s.setFld timNowNow (s.now 0)

/-- How many nanoseconds of a rate of `r` half nanoseconds per 16 ms fall due between the elapsed times `t` and `t` + 8. -/
def rateDue (r : Int) (t : Nat) : Int :=
  let due (x : Nat) : Nat := x * r.natAbs / 32000000
  let n : Nat := due (t + 8) - due t
  if r < 0 then -(n : Int) else n

/-- 8 ns pass (DESIGN CHOICE, log entry 5): the count advances by 8, corrected by a follower's rate, and by one more or one less at every 20 µs
of elapsed time while a correction to a SYNC_IN edge is to be slewed, which is the 50 ppm of R342 and R343. A follower without a valid
exchange for 16 ms is in holdover (R371). -/
def tickEffect (s : Dev) : Dev :=
  let turn := s.real / 20000 != (s.real + 8) / 20000
  let adj : Int := if turn ∧ 0 < s.tim.slew then 1 else if turn ∧ s.tim.slew < 0 then -1 else 0
  let s := if s.fld timStatusRole = 0 ∧ s.tim.valid + 16000000 ≤ s.real + 8 then s.setBit timStatusHoldover true else s
  { s.moveTime (8 + adj + rateDue s.tim.rate s.real) with tim := { s.tim with slew := s.tim.slew - adj } }

/-! ### Lock (R342) -/

/-- Set or clear lock; a change sends a time-lock message. -/
def Dev.setLock (s : Dev) (b : Bool) : Dev :=
  if s.on timStatusLock = b then s else (s.setBit timStatusLock b).detect (pkgSrc 0 1) 0x40 0 (b2n b)

/-- A follower. -/
def Dev.follower (s : Dev) : Bool := s.fld timStatusRole == 0

/-! ### The exchange (R341) -/

/-- The payload of an exchange. -/
def timePayload (type : Nat) (locked : Bool) (seq pkg t1 t2 t3 : Nat) : List Byte :=
  natLe 1 type ++ natLe 1 (b2n locked) ++ natLe 2 seq ++ natLe 2 pkg ++ natLe 2 0 ++ natLe 8 t1 ++ natLe 8 t2 ++ natLe 8 t3

/-- A time gust on `port` to package `dst` (R383, R387). -/
def Dev.timeGust (s : Dev) (port dst : Nat) (payload : List Byte) : Dev :=
  let h : GustHdr := { cls := 4, op := 0, eclass := 4, nh := 0, resend := false, src := s.ownPkg, dst, hop1 := 0, hop2 := 0, win := 0,
                       seq := 0, aseq := 0, addr := 0, dinc := Sparse.get (always 0) s.fab.seen dst, sinc := s.inc, payload }
  s.putGust port (pbrOn (s.plane port) dst) h.bytes

/-- The next port of the mask in service after the one used last (R341). -/
def Dev.timePort (s : Dev) : Option Nat :=
  let ok (p : Nat) : Bool := bit s.tim.ports p && s.portUp p
  ((List.range 16).map fun i => (s.tim.port + 1 + i) % 16).find? ok

/-- A follower sends a request (R341). -/
def timeRequestSendEffect (s : Dev) : Dev :=
  let due := match s.tim.sent with | some t => decide (t + 1000000 ≤ s.now 0) | none => true
  if !s.follower || !due then s else
  match s.timePort with
  | none => s
  | some p =>
    let seq := (s.tim.seq + 1) % 65536
    let s := { s with tim := { s.tim with seq, sent := some (s.now 0), port := p } }
    s.timeGust p (s.fld timStatusMpkg) (timePayload 1 (s.on timStatusLock) seq s.ownPkg (s.now 0) 0 0)

/-- A time gust that this package takes (R391): in service, sound, for itself, of the exchange's form, for its incarnation; its source's own is
noted. -/
def Dev.timeTake (s : Dev) (port : Nat) (g : List Byte) : Dev × Bool :=
  match s.take port g (isGust 4 0) (fun _ => gLen g == 32) with
  | (s, false) => (s, false)
  | (s, true) => (s.newSource (gSrc g) (gSinc g), true)

/-- The master answers a request (R341). -/
def timeRequestEffect (port : Nat) (g : List Byte) (ns : Nat) (s : Dev) : Dev :=
  match s.timeTake port g with
  | (s, false) => s
  | (s, true) =>
    let p := gPayload g
    if s.follower || leAt p 0 1 != 1 then s else
    s.timeGust port (gSrc g) (timePayload 2 (s.on timStatusLock) (leAt p 2 2) s.ownPkg (leAt p 8 8) (s.now 0) (s.now 0 + ns))

/-- The follower takes a reply (R341): 2θ = (t2 − t1) − (t4 − t3) and the round trip; the window keeps the exchange with the
smallest round trip (R342). -/
def timeReplyEffect (port : Nat) (g : List Byte) (s : Dev) : Dev :=
  match s.timeTake port g with
  | (s, false) => s
  | (s, true) =>
    let p := gPayload g
    if !s.follower || leAt p 0 1 != 2 || leAt p 2 2 != s.tim.seq || s.tim.sent.isNone || leAt p 1 1 % 2 != 1 then s else
    let t1 : Int := leAt p 8 8; let t2 : Int := leAt p 0x10 8; let t3 : Int := leAt p 0x18 8; let t4 : Int := s.now 0
    let th2 := (t2 - t1) - (t4 - t3)
    let rtt := ((t4 - t1) - (t3 - t2)).toNat
    let best := match s.tim.best with
      | some b => if rtt < b.2 then (th2, rtt) else b
      | none => (th2, rtt)
    { s with tim := { s.tim with best := some best, valid := s.real } }.setBit timStatusHoldover false

/-- Move the count to the master's at once (R342, R343). -/
def Dev.stepTime (s : Dev) (n : Int) : Dev :=
  let s := s.moveTime n
  { s with tim := { s.tim with slew := 0, rate := 0, winAt := s.real, valid := s.real, sent := none } }

/-- The end of a 16 ms window (R342): the rate of the next one is to remove θ, within 50 ppm. Without an exchange the last rate stays
(R344). -/
def timeWindowEffect (s : Dev) : Dev :=
  if !s.follower || decide (s.real < s.tim.winAt + 16000000) then s else
  match s.tim.best with
  | none => { s with tim := { s.tim with winAt := s.real, good := 0 } }
  | some (th2, rtt) =>
    let sat : Int := max (-32767) (min 32767 (th2 / 2))
    let s := (s.setFld timStatusOffset (wrap 16 sat)).setFld timStatusRtt (Nat.min 65535 rtt)
    let jump := s.tim.first && !s.on timStatusLock && s.fld sysJobStatusState != 3 && decide (2000 < th2.natAbs)
    let good := if th2.natAbs ≤ 20 then s.tim.good + 1 else 0
    let s := { s with tim := { s.tim with best := none, winAt := s.real, first := false, good, rate := max (-1600) (min 1600 th2) } }
    let s := if jump then s.stepTime (th2 / 2) else s
    if 40 < th2.natAbs then s.setLock false else if 4 ≤ good then s.setLock true else s

/-- 100 ms without a valid exchange clear lock (R342). -/
def timeTimeoutEffect (s : Dev) : Dev :=
  if s.follower && s.on timStatusLock && decide (s.tim.valid + 100000000 ≤ s.real) then s.setLock false else s

/-! ### SYNC_IN (R343) -/

/-- The signed distance from the count to the nearest whole second. -/
def toSecond (t : Nat) : Int :=
  let m := t % 1000000000
  if m ≤ 500000000 then -(m : Int) else (1000000000 - m : Nat)

/-- A rising edge on SYNC_IN, which a follower ignores: a role-2 master slews toward the whole second, or steps when the first edge after
TIME_CONFIG lies more than 1 ms from it (R343); it reports lock from that edge on, so that no locked count steps (R339, log entry 51). -/
def syncEdgeEffect (s : Dev) : Dev :=
  -- edges less than 900 ms after the one counted last are ignored (R537)
  let early : Bool := match s.tim.edge with | some t => decide (s.real < t + 900000000) | none => false
  if s.follower || early then s else
  let d := toSecond (s.now 0)
  let s := if s.fld timStatusRole ≠ 2 then s
    else if s.tim.jump ∧ 1000000 < d.natAbs then s.stepTime d
    else { s with tim := { s.tim with slew := d } }
  ({ s with tim := { s.tim with edge := some s.real, jump := false } }.setBit timStatusSyncSeen true).setLock true

/-- 3 s without an edge, counted from TIME_CONFIG before the first: sync_seen clears and the master runs as role 1 does (R343). -/
def syncTimeoutEffect (s : Dev) : Dev :=
  if s.follower || decide (s.real < s.tim.edge.getD s.tim.winAt + 3000000000) then s else
  ({ s with tim := { s.tim with edge := none, slew := 0, jump := false } }.setBit timStatusSyncSeen false).setLock true

/-- TIME_REQUEST_SEND (R341). -/
def execTimeRequestSend (s : State) : Res := s.run timeRequestSendEffect
/-- TIME_REQUEST (R341). -/
def execTimeRequest (port : Fin 16) (gust : List Byte) (ns : Fin 2001) (s : State) : Res := s.run (timeRequestEffect port gust ns)
/-- TIME_REPLY (R341). -/
def execTimeReply (port : Fin 16) (gust : List Byte) (s : State) : Res := s.run (timeReplyEffect port gust)
/-- TIME_WINDOW (R342). -/
def execTimeWindow (s : State) : Res := s.run timeWindowEffect
/-- TIME_EXCHANGE_TIMEOUT (R342). -/
def execTimeExchangeTimeout (s : State) : Res := s.run timeTimeoutEffect
/-- SYNC_IN_EDGE (R343). -/
def execSyncInEdge (s : State) : Res := s.run syncEdgeEffect
/-- SYNC_IN_TIMEOUT (R343). -/
def execSyncInTimeout (s : State) : Res := s.run syncTimeoutEffect

end Sys2Proof.Machine
end

