-- ==== Sys2Proof/Machine/UpdOps.lean ====
section
/-! DEFINITION. The update units' descriptors and checks (R193 to R196), arithmetic (R198 to R206), digests (R224) and export records (R218
to R222). -/

namespace Sys2Proof.Machine

/-! ### Tables (R193) -/

/-- Where the unit table of base die `d` lies (R230). -/
def Dev.updTable (s : Dev) (d : Nat) : Nat := s.fld (updTableBaseBase.nth d) * 65536
/-- The unit as a message source. -/
def updSrc (d : Nat) : Src := dieSrc d 7

/-- Read bytes as the unit of base die `d`: none when a word is lost or a translation fails; the message has class `cls`. -/
inductive URead where
  | ok (bs : List Byte)
  | wait
  | bad
  deriving DecidableEq, Repr

/-- Read bytes. -/
def Dev.uRead (s : Dev) (d va n : Nat) : Dev × URead :=
  if n = 0 then (s, .ok []) else
  match s.vRead (baseTlb d) (updSrc d) 0 2 va n with
  | (s, .data bs e) => if e.lost then (s, .bad) else (s, .ok bs)
  | (s, .wait _) => (s, .wait)
  | (s, .fail) => (s, .bad)

/-- What writes come to: all done; one would have to wait for a page that is being moved (R255); one failed. -/
inductive UWrite where
  | done
  | wait
  | bad
  deriving DecidableEq, Repr

/-- Write pieces one after another. -/
def Dev.uWrite (s : Dev) (d : Nat) : List (Nat × List Byte) → Dev × UWrite
  | [] => (s, .done)
  | (va, bs) :: l =>
    if bs.isEmpty then Dev.uWrite s d l else
    match s.vWrite (baseTlb d) (updSrc d) 0 va bs with
    | (s, .done) => Dev.uWrite s d l
    | (s, .wait _) => (s, .wait)
    | (s, .fail) => (s, .bad)

/-- Every page of a range is placed home-local on the unit's own stacks, as the present tables say (R192, R196); a page that is being moved
keeps its place until the move ends (R255). -/
def Dev.homeLocal (s : Dev) (d va n : Nat) : Bool :=
  (pagePieces (n / 65536 + 2) va n).all fun p =>
    let home (frame : Nat) : Bool := match s.window frame with | some (.home e, _) => e == d | _ => false
    match s.walk p.1 false with
    | .leaf _ frame size _ => home (frame + p.1 % size)
    | .moving _ => match s.mem.move with | some m => home m.src | none => false
    | _ => false

/-! ### Descriptors (R194) -/

/-- Bits of word `i`. -/
def uf (q : List W64) (i lo w : Nat) : Nat := fld64 (wordAt q i) lo w
/-- Rule. -/
def uRule (q : List W64) : Nat := uf q 0 0 4
/-- BF16 moments. -/
def uBf (q : List W64) : Bool := uf q 0 4 1 == 1
/-- Compensated mode. -/
def uComp (q : List W64) : Bool := uf q 0 5 1 == 1
/-- Working-copy format. -/
def uWcFmt (q : List W64) : Nat := uf q 0 6 4
/-- Write a working copy. -/
def uWc (q : List W64) : Bool := uf q 0 10 1 == 1
/-- Honour the freeze map. -/
def uFrz (q : List W64) : Bool := uf q 0 11 1 == 1
/-- Arrays exported. -/
def uExp (q : List W64) : Nat := uf q 0 12 4
/-- Counts in the global norm. -/
def uNrm (q : List W64) : Bool := uf q 0 16 1 == 1
/-- Apply the clip factor. -/
def uClip (q : List W64) : Bool := uf q 0 17 1 == 1
/-- Hyper-parameter set. -/
def uHp (q : List W64) : Nat := uf q 0 18 8
/-- Shard id. -/
def uSid (q : List W64) : Nat := uf q 0 26 16
/-- LAMB slot. -/
def uLt (q : List W64) : Nat := uf q 0 50 12
/-- Parameters. -/
def uCount (q : List W64) : Nat := uf q 1 0 40
/-- Address word `i`. -/
def uAddr (q : List W64) (i : Nat) : Nat := (wordAt q i).toNat
/-- Update blocks (R193). -/
def uBlocks (q : List W64) : Nat := ceilDiv (uCount q) 1024
/-- Whether the rule keeps moment 1. -/
def uMom1 (q : List W64) : Bool := uRule q != 0
/-- Whether the rule keeps moment 2. -/
def uMom2 (q : List W64) : Bool := uRule q == 3 || uRule q == 4 || uRule q == 6
/-- Bytes of a stored moment. -/
def uMomLen (q : List W64) : Nat := if uBf q then 2 else 4
/-- Bytes of a stored master value. -/
def uMasLen (q : List W64) : Nat := if uComp q then 2 else 4
/-- The working copy is MXFP8. -/
def uMx (q : List W64) : Bool := uWcFmt q == 2 || uWcFmt q == 3

/-- Bytes of the working copy's elements: whole blocks of MXFP8 (R38). -/
def uWcLen (q : List W64) : Nat := if uMx q then 32 * ceilDiv (uCount q) 32 else uCount q * elemBits (uWcFmt q) / 8

/-- The arrays that a descriptor uses: address word and bytes. -/
def uArrays (q : List W64) : List (Nat × Nat) :=
  let n := uCount q
  [(4, 64 * ceilDiv n 32), (5, ceilDiv n 32), (6, uMasLen q * n), (13, 8 * uBlocks q)] ++
  (if uComp q then [(7, n)] else []) ++ (if uMom1 q then [(8, uMomLen q * n)] else []) ++ (if uMom2 q then [(9, uMomLen q * n)] else []) ++
  (if uWc q then [(10, uWcLen q)] ++ (if uMx q then [(11, ceilDiv n 32)] else []) else []) ++
  (if uFrz q then [(12, ceilDiv n 8)] else [])

/-- A hyper-parameter set (R195), with the scalars of R199 and lp of R202. -/
structure Hyp where
  lr   : Nat
  b1   : Nat
  ob1  : Nat
  b2   : Nat
  ob2  : Nat
  eps  : Nat
  wd   : Nat
  mu   : Nat
  gmul : Nat
  rbc1 : Nat
  rbc2 : Nat
  dk   : Nat
  lp   : Nat
  deriving DecidableEq, Repr

/-- FP32 bits of 1.0. -/
def one32 : Nat := 0x3F800000
/-- Sum, rounded. -/
def fAdd (a b : Nat) : Nat := rne32 ((f32 a).add (f32 b))
/-- Difference. -/
def fSub (a b : Nat) : Nat := rne32 ((f32 a).sub (f32 b))
/-- Product. -/
def fMul (a b : Nat) : Nat := rne32 ((f32 a).mul (f32 b))
/-- Quotient. -/
def fDiv (a b : Nat) : Nat := rne32 ((f32 a).div (f32 b))
/-- Square root. -/
def fSqrt (a : Nat) : Nat := rne32 (f32 a).sqrt
/-- Fused multiply-add. -/
def fFma (a b c : Nat) : Nat := rne32 (((f32 a).mul (f32 b)).add (f32 c))
/-- The bits of the opposite value. -/
def fNeg (a : Nat) : Nat := if a < 2 ^ 31 then a + 2 ^ 31 else a - 2 ^ 31
/-- Neither NaN nor infinite. -/
def fFin (a : Nat) : Bool := (f32 a).finite

/-- pw of R199. -/
def powF (b t : Nat) : Nat :=
  ((List.range (Nat.log2 t)).reverse).foldl (fun r i => let r := fMul r r; if bit t i then fMul r b else r) b

/-- In [0, 1). -/
def unitF (a : Nat) : Bool := fFin a && ((f32 a).isZero || !(f32 a).lt (f32 0)) && (f32 a).lt (f32 one32)

/-- t of R199. -/
def tOf (set : List Byte) (n : Nat) : Int := (n : Int) + 1 - (leAt set 0x28 8 : Nat)

/-- The set with its scalars; `lp` is that of R202 or 0. -/
def hypOf (q : List W64) (set : List Byte) (n lp : Nat) : Hyp :=
  let g (o : Nat) : Nat := leAt set o 4
  let t := (tOf set n).toNat
  let rbc (b : Nat) : Nat := fDiv one32 (fSub one32 (powF b t))
  let bc := uMom2 q
  { lr := g 0, b1 := g 4, ob1 := g 8, b2 := g 0xC, ob2 := g 0x10, eps := g 0x14, wd := g 0x18, mu := g 0x1C, gmul := g 0x20,
    rbc1 := if bc then rbc (g 4) else 0, rbc2 := if bc then rbc (g 0xC) else 0, dk := fSub one32 (fMul (g 0) (g 0x18)), lp }

/-- The offsets of the fields that a rule reads. -/
def ruleFields (rule : Nat) : List Nat :=
  [0, 0x18, 0x20] ++ (match rule with
    | 1 | 2 => [0x1C]
    | 3 | 4 | 6 => [4, 8, 0xC, 0x10, 0x14]
    | 5 => [4, 8, 0xC, 0x10]
    | _ => [])

/-- The checks of R196 on the words and the set. -/
def uForm (q : List W64) (set : List Byte) (n : Nat) : Bool :=
  let rule := uRule q
  decide (rule ≤ 6) && uf q 0 62 2 == 0 && uf q 1 40 24 == 0 && uf q 2 32 32 == 0 && uAddr q 14 == 0 && uAddr q 15 == 0 &&
  leAt set 0x24 4 == 0 && leNat ((set.drop 0x30).take 16) == 0 && (!uWc q || (decide (uWcFmt q ≤ 4) && !uComp q)) &&
  (uArrays q).all (fun a => uAddr q a.1 < 2 ^ 52 && uAddr q a.1 % 64 == 0) && (ruleFields rule).all (fun o => fFin (leAt set o 4)) &&
  (!(decide (3 ≤ rule)) || (unitF (leAt set 4 4) && unitF (leAt set 0xC 4))) && (!(rule == 1 || rule == 2) || unitF (leAt set 0x1C 4)) &&
  (!uMom2 q || decide (1 ≤ tOf set n)) && uCount q != 0

/-- The descriptor's arrays lie in the unit's own home-local pages (R196). -/
def Dev.uPlaced (s : Dev) (d : Nat) (q : List W64) : Bool := (uArrays q).all fun a => s.homeLocal d (uAddr q a.1) a.2

/-- The unit table is sound (R196). -/
def Dev.tableOk (s : Dev) (d : Nat) : Bool :=
  s.on (updTableBaseEn.nth d) && s.updTable d % 0x100000 == 0 && s.homeLocal d (s.updTable d) 0x100000

/-! ### One parameter (R200 to R204) -/

/-- sgn of R201. -/
def fSgn (a : Nat) : Nat := match f32 a with
  | .nan => fp32.nanBits
  | .inf s => if s then fNeg one32 else one32
  | .fin s m _ => if m = 0 then 0 else if s then fNeg one32 else one32

/-- The state of one parameter as FP32 bits: weight, moments; r of rule 6. -/
structure Par where
  w : Nat
  m : Nat
  v : Nat
  r : Nat
  deriving DecidableEq, Repr

/-- R201 for gradient `g`; `st1` and `st2` store the moments (R203). -/
def applyRule (rule : Nat) (h : Hyp) (g0 : Nat) (st1 st2 : Nat → Nat) (p : Par) : Par :=
  let g := if rule ≤ 3 ∧ !(f32 h.wd).isZero then fFma h.wd p.w g0 else g0
  match rule with
  | 0 => { p with w := fFma (fNeg h.lr) g p.w }
  | 1 =>
    let m := st1 (fFma h.mu p.m g)
    { p with m, w := fFma (fNeg h.lr) m p.w }
  | 2 =>
    let m := st1 (fFma h.mu p.m g)
    { p with m, w := fFma (fNeg h.lr) (fFma h.mu m g) p.w }
  | 5 =>
    let c := fFma h.b1 p.m (fMul h.ob1 g)
    { p with w := fFma (fNeg h.lr) (fSgn c) (fMul p.w h.dk), m := st1 (fFma h.b2 p.m (fMul h.ob2 g)) }
  | _ =>
    let m := st1 (fFma h.b1 p.m (fMul h.ob1 g))
    let v := st2 (fFma h.b2 p.v (fMul h.ob2 (fMul g g)))
    let u := fDiv (fMul m h.rbc1) (fAdd (fSqrt (fMul v h.rbc2)) h.eps)
    match rule with
    | 3 => { p with m, v, w := fFma (fNeg h.lr) u p.w }
    | 4 => { p with m, v, w := fFma (fNeg h.lr) u (fMul p.w h.dk) }
    | _ =>
      let r := fFma h.wd p.w u
      { m, v, r, w := fFma (fNeg h.lp) r p.w }

/-- st of R203: FP32 as it is, or BF16 by stochastic rounding, as FP32 bits. -/
def store (bf : Bool) (rnd x : Nat) : Nat := if bf then bf16.encode 2 false rnd (f32 x) * 65536 else x

/-- E of R204: the unbiased exponent of BF16 bits, −126 when zero or subnormal. -/
def expBf (w : Nat) : Int := let e := bits w 7 8; if e = 0 then -126 else (e : Int) - 127

/-- W of R204 as FP32 bits; it is exact. -/
def joinComp (w k : Nat) : Nat := rne32 ((bf16.decode w).add (XVal.ofScaled (signed 8 k) (expBf w - 15)))

/-- w′ and κ′ of R204. -/
def splitComp (x : Nat) : Nat × Nat :=
  let w := bf16.encode 0 false 0 (f32 x)
  let d := ((f32 x).sub (bf16.decode w)).scale (15 - expBf w)
  let k : Int := match d with
    | .fin s m e => max (-127) (min 127 (roundInt 0 0 s m e))
    | _ => 0
  (w, wrap 8 k)

/-- Gradient of element `q` at code `c` (R200). The pattern 0x8000 counts as no saturation anywhere here: R39 names no count of the update unit (DESIGN
CHOICE; log entry 100). -/
def gradOf (h : Hyp) (clip : Option Nat) (q c : Nat) : Nat :=
  let g := fMul (rne32 (bi16Val q c)) h.gmul
  match clip with
  | some k => fMul g k
  | none => g

/-! ### One block -/

/-- The stored arrays of a block: master, compensation, moments, one number per parameter. -/
structure UBlk where
  mas : List Nat
  kap : List Nat
  m1  : List Nat
  m2  : List Nat
  deriving DecidableEq, Repr

/-- Numbers of `w` bytes each. -/
def nums (w n : Nat) (bs : List Byte) : List Nat := (List.range n).map fun i => leAt bs (w * i) w
/-- Their bytes. -/
def numBytes (w : Nat) (l : List Nat) : List Byte := l.flatMap (natLe w)

/-- The FP32 bits of stored moment `x`. -/
def momVal (q : List W64) (x : Nat) : Nat := if uBf q then x * 65536 else x
/-- What is stored of moment bits `x`. -/
def momStored (q : List W64) (x : Nat) : Nat := if uBf q then x / 65536 else x

/-- Parameter `i` of a block. -/
def UBlk.par (q : List W64) (b : UBlk) (i : Nat) : Par :=
  { w := if uComp q then joinComp (b.mas.getD i 0) (b.kap.getD i 0) else b.mas.getD i 0,
    m := momVal q (b.m1.getD i 0), v := momVal q (b.m2.getD i 0), r := 0 }

/-- Update the `n` parameters of block `b` (R201, R206): the frozen ones stay. -/
def newPars (q : List W64) (h : Hyp) (clip : Option Nat) (seed step : W64) (blk n : Nat) (grad codes frz : List Byte) (old : UBlk) :
    List (Bool × Par) :=
  let tid := uf q 2 0 32
  let h1 := tensorHash seed step tid
  let h2 := tensorHash seed step (tid + 1)
  (List.range n).map fun i =>
    let ix := (uAddr q 3 + 1024 * blk + i) % 2 ^ 64
    let p := old.par q i
    if uFrz q ∧ bit (frz.getD (i / 8) 0).toNat (i % 8) then (true, p)
    else
      let g := gradOf h (if uClip q then clip else none) (leAt grad (2 * i) 2) (codes.getD (i / 32) 0).toNat
      (false, applyRule (uRule q) h g (store (uBf q) (randAt h1 ix)) (store (uBf q) (randAt h2 ix)) p)

/-- What is stored of updated parameters; frozen ones keep their bits. -/
def storedBlk (q : List W64) (old : UBlk) (l : List (Bool × Par)) : UBlk :=
  let pick (i : Nat) (frz : Bool) (o : List Nat) (x : Nat) : Nat := if frz then o.getD i 0 else x
  let mas (p : Par) : Nat := if uComp q then (splitComp p.w).1 else p.w
  let map_ (o : List Nat) (f : Par → Nat) : List Nat := l.zipIdx.map fun x => pick x.2 x.1.1 o (f x.1.2)
  { mas := map_ old.mas mas,
    kap := if uComp q then map_ old.kap fun p => (splitComp p.w).2 else [],
    m1 := if uMom1 q then map_ old.m1 fun p => momStored q p.m else [],
    m2 := if uMom2 q then map_ old.m2 fun p => momStored q p.v else [] }

/-- A non-frozen parameter would get a NaN or an infinite value (R207). -/
def heldBlk (q : List W64) (l : List (Bool × Par)) : Bool :=
  l.any fun x => !x.1 && (!(if uComp q then (bf16.decode (splitComp x.2.w).1).finite else fFin x.2.w) ||
    (uMom1 q && !fFin x.2.m) || (uMom2 q && !fFin x.2.v))

/-- The working copy of master values: elements and scale codes (R205); the last block of MXFP8 is padded with zeros (R38). -/
def workingCopy (fmt : Nat) (mas : List Nat) : List Nat × List Nat :=
  if fmt = 2 ∨ fmt = 3 then
    let groups := (List.range (ceilDiv mas.length 32)).map fun g => ((mas.drop (32 * g)).take 32).map f32
    let one (g : List XVal) : List Nat × Nat :=
      let code := if g.all XVal.finite then blockCode fmt g else 0xFF
      ((g.map fun x => if code = 0xFF then 0 else (toMx fmt code 0 0 x).1) ++ List.replicate (32 - g.length) 0, code)
    ((groups.map one).flatMap Prod.fst, (groups.map one).map Prod.snd)
  else (mas.map fun x => (fmtOf fmt).encode 0 true 0 (f32 x), [])

/-! ### The digest (R224) -/

/-- One doubling in GF(2^64) modulo x^64 + x^4 + x^3 + x + 1. -/
def gf64Double (x : W64) : W64 := if x.msb then (x <<< 1) ^^^ 0x1B else x <<< 1

/-- The product of a 32-bit number, bit by bit, with a field element; `n` bits. -/
def gf64Mul : Nat → Nat → W64 → W64
  | 0, _, _ => 0
  | n + 1, a, b => (if a % 2 = 1 then b else 0) ^^^ gf64Mul n (a / 2) (gf64Double b)

/-- K_l of R224. -/
def digestKey (seed : W64) (l : Nat) : W64 := mix (mix (seed + 0x9E3779B97F4A7C15) ^^^ BitVec.ofNat 64 (0x100 + l))

/-- The four lanes of a block's terms. -/
def blockDigest (seed : W64) (q : List W64) (blk : Nat) (b : UBlk) : List W64 :=
  (List.range 4).map fun l =>
    let k := digestKey seed l
    let term (i a x : Nat) : W64 := gf64Mul 32 x (mix (k ^^^ BitVec.ofNat 64 (uSid q * 2 ^ 42 + 4 * (1024 * blk + i) + a)))
    (List.range b.mas.length).foldl (fun z i =>
      let w := term i 0 (b.mas.getD i 0 + if uComp q then b.kap.getD i 0 * 65536 else 0)
      let m := if uMom1 q then term i 1 (b.m1.getD i 0) else 0
      let v := if uMom2 q then term i 2 (b.m2.getD i 0) else 0
      z ^^^ w ^^^ m ^^^ v) 0

/-- XOR of lanes. -/
def xorLanes (a b : List W64) : List W64 := (List.range 4).map fun l => wordAt a l ^^^ wordAt b l

/-- The 32 bytes of a digest. -/
def digestBytes (l : List W64) : List Byte := (List.range 4).flatMap fun i => natLe 8 (wordAt l i).toNat

/-- The registers show the units' counts of the step (R229). -/
def Dev.normShow (s : Dev) : Dev :=
  let us := (List.range 4).map s.upd
  (s.setFld updNormAuxInexact (us.foldl (fun n v => satAdd (2 ^ 32 - 1) n v.inexact) 0)).setBit updNormAuxNormSat (us.any Upd.nsat)

/-! ### Export records (R218 to R222) -/

/-- The words of the arrays of a block in payload order, with their bit in exp_arr (R220). -/
def blockWords (q : List W64) (b : UBlk) : List (Nat × List Nat) :=
  let words (w : Nat) (l : List Nat) : List Nat := nums 4 (ceilDiv (w * l.length) 4) (numBytes w l)
  [(0, words (uMasLen q) b.mas)] ++ (if uComp q then [(1, words 1 b.kap)] else []) ++
  (if uMom1 q then [(2, words (uMomLen q) b.m1)] else []) ++ (if uMom2 q then [(3, words (uMomLen q) b.m2)] else [])

/-- Literal words as tokens. -/
def litTok (l : List Nat) : List Nat := if l.isEmpty then [] else (2 ^ 31 + l.length - 1) :: l

/-- The encoder of R220: `lit` holds the literals gathered, `z` the zeros seen in a row. -/
def encodeWords : List Nat → List Nat → Nat → List Nat
  | [], lit, z => if 2 ≤ z then litTok lit ++ [z - 1] else litTok (lit ++ List.replicate z 0)
  | 0 :: l, lit, z => encodeWords l lit (z + 1)
  | x :: l, lit, z =>
    if 2 ≤ z then litTok lit ++ [z - 1] ++ encodeWords l [x] 0 else encodeWords l (lit ++ List.replicate z 0 ++ [x]) 0

/-- A record: header and payload, padded (R219). -/
def recordBytes (type arrays sid block step : Nat) (payload : List Byte) : List Byte :=
  natLe 1 type ++ natLe 1 arrays ++ natLe 2 sid ++ natLe 4 block ++ natLe 4 step ++ natLe 4 payload.length ++ payload ++
  List.replicate ((8 - payload.length % 8) % 8) 0

/-- The block record of type 1, 2 or 6, if it has arrays (R220, R221). -/
def blockRecord (q : List W64) (type blk step : Nat) (old new : UBlk) : Option (List Byte) :=
  let arrs := (blockWords q new).filter fun a => bit (uExp q) a.1
  let olds := blockWords q old
  let ws := arrs.map fun a =>
    if type = 1 then
      let o := match olds.find? fun x => x.1 == a.1 with | some x => x.2 | none => []
      (a.1, a.2.zipIdx.map fun x => x.1 ^^^ o.getD x.2 0)
    else a
  let ws := if type = 1 then ws.filter fun a => a.2.any (· != 0) else ws
  if ws.isEmpty then none
  else some (recordBytes type (ws.foldl (fun n a => n + 2 ^ a.1) 0) (uSid q) blk step (ws.flatMap fun a => numBytes 4 (encodeWords a.2 [] 0)))

/-- The size of a unit's export ring (R231). -/
def Dev.ringSize (s : Dev) (d : Nat) : Nat := (s.fld (updExpRingSizeM1.nth d) + 1) * 65536
/-- Its address. -/
def Dev.ringAddr (s : Dev) (d : Nat) : Nat := s.fld (updExpRingBase.nth d) * 65536
/-- Its free bytes. -/
def Dev.ringRoom (s : Dev) (d : Nat) : Nat := s.ringSize d - ((s.upd d).prod - (s.upd d).fwd)

/-- Bytes of a ring from count `at_`, split where the ring wraps: offsets in the ring and bytes. -/
def ringPieces (size at_ : Nat) (bs : List Byte) : List (Nat × List Byte) :=
  let o := at_ % size
  if o + bs.length ≤ size then [(o, bs)] else [(o, bs.take (size - o)), (0, bs.drop (size - o))]

/-- Append bytes to the export ring; no page that they go to is being moved (`Dev.ringMoving`). -/
def Dev.ringPut (s : Dev) (d : Nat) (bs : List Byte) : Dev :=
  let u := s.upd d
  let s := (s.uWrite d ((ringPieces (s.ringSize d) u.prod bs).map fun p => (s.ringAddr d + p.1, p.2))).1
  s.setUpd d { u with prod := u.prod + bs.length }

/-- Write a record that belongs to the step of tag `tag`, or drop it (R222): once one is dropped, all are until a step begins with room for
the gap record and itself. -/
def Dev.record (s : Dev) (d tag : Nat) (begins : Bool) (bs : List Byte) : Dev :=
  let u := s.upd d
  match u.gap with
  | none =>
    if bs.length ≤ s.ringRoom d then s.ringPut d bs else s.setUpd d { u with gap := some (tag, 1) }
  | some (first, n) =>
    if begins ∧ 16 + bs.length ≤ s.ringRoom d then
      let s := (s.setUpd d { u with gap := none }).ringPut d (recordBytes 5 0 0 (n % 2 ^ 32) (first % 2 ^ 32) [])
      ((s.setBit (updStatusGap.nth d) true).satFld (updStatusDropped.nth d) n).ringPut d bs
    else s.setUpd d { u with gap := some (first, n + 1) }

/-- Whether a descriptor exports (R218). -/
def Dev.exports (s : Dev) (d : Nat) (q : List W64) : Bool := s.onAs ⟨.update, d⟩ updCtlExpEn && s.on (updExpRingEn.nth d) && uExp q != 0

/-- The step-begin record, before the first records of a step (R218). -/
def Dev.exportBegin (s : Dev) (d tag : Nat) : Dev :=
  let u := s.upd d
  if u.tag = some tag then s
  else (s.setUpd d { u with tag := some tag, blocks := 0 }).record d tag true (recordBytes 3 0 0 0 (tag % 2 ^ 32) [])

/-- A block record; one within a step is counted by the step-end record (R219). -/
def Dev.exportBlock (s : Dev) (d tag : Nat) (r : Option (List Byte)) : Dev :=
  match r with
  | none => s
  | some bs =>
    let u := s.upd d
    (s.setUpd d { u with blocks := if u.tag.isSome then u.blocks + 1 else u.blocks }).record d tag false bs

/-- The step-end record of a unit (R218, R219). -/
def Dev.exportEnd (s : Dev) (d tag : Nat) : Dev :=
  let u := s.upd d
  if u.tag = some tag then
    let s := s.record d tag false (recordBytes 4 0 0 u.blocks (tag % 2 ^ 32) (digestBytes u.dig))
    s.setUpd d { s.upd d with tag := none }
  else s

/-- The page of the ring that the next record goes to, or the one after it, is being moved. -/
def Dev.ringMoving (s : Dev) (d : Nat) : Bool :=
  [0, 65536].any fun i => s.moving (s.ringAddr d + ((s.upd d).prod + i) % s.ringSize d) 1

/-- The step-end record of some unit waits for a page of its ring that is being moved (R255). -/
def Dev.stepEndWaits (s : Dev) : Bool := (List.range 4).any fun d => (s.upd d).tag.isSome && s.ringMoving d

/-- Block counts of the `n` descriptors from `i`, as the table reads now (R221): none when one cannot be read, or when a page of the table
is being moved (true). -/
def Dev.blocksBelow (s : Dev) (d : Nat) : Nat → Nat → Dev × Option Nat × Bool
  | 0, _ => (s, some 0, false)
  | n + 1, i =>
    match s.uRead d (s.updTable d + 0x10000 + 128 * i) 128 with
    | (s, .wait) => (s, none, true)
    | (s, .bad) => (s, none, false)
    | (s, .ok bs) =>
      match Dev.blocksBelow s d n (i + 1) with
      | (s, some k, w) => (s, some (k + ceilDiv (leAt bs 8 8 % 2 ^ 40) 1024), w)
      | x => x

/-- The type of the record of block `blk`: a keyframe every K applied steps (R221). -/
def Dev.recordType (s : Dev) (d desc blk tag : Nat) : Dev × Option Nat × Bool :=
  match s.blocksBelow d desc 0 with
  | (s, some g, w) =>
    let k := s.fldAs ⟨.update, d⟩ updCtlKfM1 + 1
    (s, some (if (g + blk) % k = tag % k then 2 else 1), w)
  | x => x

end Sys2Proof.Machine
end

