-- ==== Sys2Proof/Machine/Update.lean ====
section
/-! DEFINITION. The update unit's commands (R197, R202, R207 to R216) and the export engine's (R218, R300, R325). -/

namespace Sys2Proof.Machine

/-! ### The pass -/

/-- Replace the pass that runs on a unit. -/
def Dev.setPass (s : Dev) (d : Nat) (p : Pass) : Dev := s.setUpd d { s.upd d with run := some p }

/-- Write the pass record (R212): descriptor, kind, valid. -/
def Dev.passRecord (s : Dev) (d : Nat) (p : Pass) : Dev × UWrite :=
  s.uWrite d [(s.updTable d + 0x4000, natLe 8 p.n.toNat ++ natLe 2 p.desc ++ natLe 1 p.kind ++ natLe 1 1 ++ natLe 4 0)]

/-- Set the flags of the pass record alone; `Dev.recMoving` says when that must wait. -/
def Dev.passFlags (s : Dev) (d flags : Nat) : Dev := (s.uWrite d [(s.updTable d + 0x400B, natLe 1 flags)]).1

/-- The page of the pass record is being moved, and the pass has a record that its end must clear (R212, R255). -/
def Dev.recMoving (s : Dev) (d : Nat) (p : Pass) : Bool := p.rec_.isSome && s.moving (s.updTable d + 0x4000) 16

/-! ### Restores under way (R216, R333) -/

/-- What UPD_STATUS shows of a unit: torn, paused, running, idle (R232). -/
def Dev.updShow (s : Dev) (d : Nat) : Dev :=
  let u := s.upd d
  s.setFld (updStatusState.nth d) (if u.torn.isSome then 3 else match u.run with
    | some p => if p.paused then 2 else 1
    | none => 0)

/-- A restore's digest pass is over: the pass that stood behind it is back. -/
def Dev.unkeep (s : Dev) (d : Nat) : Dev :=
  let u := s.upd d
  s.setUpd d { u with run := u.kept.head?, kept := u.kept.tail, restore := none }

/-- The PEER_RESTORE that waits for descriptor `desc` of unit `d` completes with a status, its result the bytes written (R333). -/
def Dev.restoreDone (s : Dev) (d desc st n : Nat) : Dev :=
  let mine (c : RunCmd) : Bool := match c.what with | .restore d' x _ => d' == d && x == desc | _ => false
  let l := s.job.cmds.filter mine
  let u := s.upd d
  let s := s.setUpd d { u with image := u.image.filter fun x => x.1 != desc }
  let s := { s with job := { s.job with cmds := s.job.cmds.filter fun c => !mine c } }
  (l.foldl (fun (s : Dev) c => s.complete c.q c.cid c.quiet st (BitVec.ofNat 64 n)) s).stopSettle

/-- A digest pass that cannot go on refuses its restore (DESIGN CHOICE: as a digest that differs). -/
def Dev.restoreOff (s : Dev) (d : Nat) : Dev :=
  match (s.upd d).restore with
  | none => (s.unkeep d).updShow d
  | some r => ((s.unkeep d).updShow d).restoreDone d r.desc 0x020A 0

/-- A pass ends: a pass record that it has written is no longer valid, its entry ends, and the pass that stood behind it, if one did, stands
on the unit again, paused as it was (R212, R363); passes that the firmware runs follow one another. -/
def Dev.endPass (s : Dev) (d : Nat) (p : Pass) (ok : Bool) : Dev :=
  let s := if p.rec_.isSome then s.passFlags d 0 else s
  if p.kind = 3 then s.restoreOff d else
  let u := s.upd d
  let s := ((s.setUpd d { u with run := u.kept.head?, kept := u.kept.tail }).updShow d).endWork p.work ok
  match (s.upd d).todo with
  | [] => s
  | (a, b) :: l => ((s.setUpd d { s.upd d with todo := l }).putPass d (updatePass a b s.step)).updShow d

/-- The descriptor that the pass record names is torn, and the unit stops (R214). A digest of it that the unit digest has taken in leaves it
again: the repair brings it back. A digest pass gives way to the pass that it stood before; its restore may be made again. -/
def Dev.tear (s : Dev) (d : Nat) (p : Pass) : Dev :=
  let u := s.upd d
  let x := p.rec_.getD p.desc
  let run := if p.kind = 3 then u.kept.head? else some { p with paused := true }
  let kept := if p.kind = 3 then u.kept.tail else u.kept
  let dig := if p.kind = 1 ∧ x < p.desc then xorLanes u.dig p.dig else u.dig
  ((s.setUpd d { u with run, kept, dig, restore := none, torn := some x }).updShow d).detect (updSrc d) 0x16 2 x

/-- A read of a pass failed: with a valid pass record its descriptor is torn, otherwise the pass ends as failed. -/
def Dev.passBad (s : Dev) (d : Nat) (p : Pass) : Dev :=
  if p.rec_.isSome ∧ (p.kind = 1 ∨ p.kind = 3) then s.tear d p
  else (s.noteRetry (match p.work with | some w => w.brz | none => false)).endPass d p false

/-- An illegal descriptor or unit table: the pass writes nothing of it and stops; the job is to be held (R196, R328). -/
def Dev.passIllegal (s : Dev) (d : Nat) (p : Pass) (arg : Nat) : Dev :=
  ((s.detect (updSrc d) 0x14 2 arg).endPass d p false).holdJob 4

/-- A descriptor that a kind processes (R197). -/
def qualifies (kind : Nat) (q : List W64) : Bool :=
  match kind with
  | 0 => uNrm q
  | 2 => uRule q == 6
  | _ => true

/-- Read the arrays of block `blk`: stored numbers (R211). -/
def Dev.readBlk (s : Dev) (d : Nat) (q : List W64) (blk n : Nat) : Dev × Option UBlk × Bool :=
  let rd (s : Dev) (on : Bool) (i w : Nat) : Dev × Option (List Nat) × Bool :=
    if !on then (s, some [], false) else
    match s.uRead d (uAddr q i + w * 1024 * blk) (w * n) with
    | (s, .ok bs) => (s, some (nums w n bs), false)
    | (s, .wait) => (s, none, true)
    | (s, .bad) => (s, none, false)
  match rd s true 6 (uMasLen q) with
  | (s, none, w) => (s, none, w)
  | (s, some mas, _) =>
    match rd s (uComp q) 7 1 with
    | (s, none, w) => (s, none, w)
    | (s, some kap, _) =>
      match rd s (uMom1 q) 8 (uMomLen q) with
      | (s, none, w) => (s, none, w)
      | (s, some m1, _) =>
        match rd s (uMom2 q) 9 (uMomLen q) with
        | (s, none, w) => (s, none, w)
        | (s, some m2, _) => (s, some ⟨mas, kap, m1, m2⟩, false)

/-- Gradient bytes, codes and freeze bits of a block. -/
def Dev.readGrad (s : Dev) (d : Nat) (q : List W64) (blk n : Nat) : Dev × Option (List Byte × List Byte × List Byte) × Bool :=
  match s.uRead d (uAddr q 4 + 2048 * blk) (2 * n) with
  | (s, .wait) => (s, none, true)
  | (s, .bad) => (s, none, false)
  | (s, .ok g) =>
    match s.uRead d (uAddr q 5 + 32 * blk) (ceilDiv n 32) with
    | (s, .wait) => (s, none, true)
    | (s, .bad) => (s, none, false)
    | (s, .ok c) =>
      match (if uFrz q then s.uRead d (uAddr q 12 + 128 * blk) (ceilDiv n 8) else (s, URead.ok [])) with
      | (s, .wait) => (s, none, true)
      | (s, .bad) => (s, none, false)
      | (s, .ok f) => (s, some (g, c, f), false)

/-- The writes of a block in the order of R211, working copy included, tag last. -/
def blockWrites (q : List W64) (blk : Nat) (b : UBlk) (w : List Nat) (tag : Option Nat) : List (Nat × List Byte) :=
  let (els, codes) := workingCopy (uWcFmt q) w
  (if uMom1 q then [(uAddr q 8 + uMomLen q * 1024 * blk, numBytes (uMomLen q) b.m1)] else []) ++
  (if uMom2 q then [(uAddr q 9 + uMomLen q * 1024 * blk, numBytes (uMomLen q) b.m2)] else []) ++
  [(uAddr q 6 + uMasLen q * 1024 * blk, numBytes (uMasLen q) b.mas)] ++
  (if uComp q then [(uAddr q 7 + 1024 * blk, numBytes 1 b.kap)] else []) ++
  (if uWc q then [(uAddr q 10 + 1024 * blk * elemBits (uWcFmt q) / 8, packElems (uWcFmt q) els)] ++
    (if uMx q then [(uAddr q 11 + 32 * blk, numBytes 1 codes)] else []) else []) ++
  (match tag with | some t => [(uAddr q 13 + 8 * blk, natLe 8 t)] | none => [])

/-- What one turn of a pass comes to: the pass goes on as given; it is over for this command; it waits for a page that is being moved, as if
the turn had not begun. -/
inductive Turn where
  | on (p : Pass)
  | stop
  | wait
  deriving DecidableEq, Repr

/-- The pass runs for breeze work. -/
def Pass.brz (p : Pass) : Bool := match p.work with | some w => w.brz | none => false

/-- One block of the update pass (R211). A block that would get a NaN or an infinite value keeps its old bits (R207). A working copy's block
of code 0xFF sets the non-finite flag (R45). Nothing of the block is done while a page that it needs is being moved (R255). -/
def Dev.updateBlk (s0 : Dev) (d : Nat) (q : List W64) (h : Hyp) (p : Pass) : Dev × Turn :=
  let n := Nat.min 1024 (uCount q - 1024 * p.blk)
  if s0.exports d q && s0.ringMoving d then (s0, .wait) else
  match s0.readGrad d q p.blk n with
  | (_, none, true) => (s0, .wait)
  | (s, none, false) => (s.passBad d p, .stop)
  | (s, some (g, c, f), _) =>
    match s.readBlk d q p.blk n with
    | (_, none, true) => (s0, .wait)
    | (s, none, false) => (s.passBad d p, .stop)
    | (s, some old, _) =>
      let pars := newPars q h (some (s.fld updNormStatClip)) s.job.seed p.n p.blk n g c f old
      let held := heldBlk q pars
      let new := if held then old else storedBlk q old pars
      let tag := p.n.toNat + 1
      let writes := if held then [(uAddr q 13 + 8 * p.blk, natLe 8 tag)] else blockWrites q p.blk new new.mas (some tag)
      match s.uWrite d writes with
      | (_, .wait) => (s0, .wait)
      | (s, .bad) => (s.passBad d p, .stop)
      | (s, .done) =>
        match (if !held && s.exports d q then s.recordType d p.desc p.blk tag else (s, some 0, false)) with
        | (_, none, true) => (s0, .wait)
        | (s, none, false) => (s.passBad d p, .stop)
        | (s, some type, _) =>
        let s := if held then (s.satFld (updStatusHeld.nth d) 1).detect (updSrc d) 0x15 0 (p.desc + p.blk * 2 ^ 12)
          else if s.exports d q then s.exportBlock d tag (blockRecord q type p.blk (tag % 2 ^ 32) old new)
          else s
        let s := if !held && uWc q && (workingCopy (uWcFmt q) new.mas).2.contains 0xFF then s.nonFinite p.brz else s
        let s := s.count (dieBlk d) 17 1
        let s := if held then s.count (dieBlk d) 18 1 else s
        (s, .on { p with blk := p.blk + 1, dig := xorLanes p.dig (blockDigest s.job.seed q p.blk new) })

/-- One block of LAMB pass A (R202): nothing is written; the block's sums join the pass's. -/
def Dev.lambBlk (s0 : Dev) (d : Nat) (q : List W64) (h : Hyp) (p : Pass) : Dev × Turn :=
  let n := Nat.min 1024 (uCount q - 1024 * p.blk)
  match s0.readGrad d q p.blk n with
  | (_, none, true) => (s0, .wait)
  | (s, none, false) => (s.passBad d p, .stop)
  | (s, some (g, c, f), _) =>
    match s.readBlk d q p.blk n with
    | (_, none, true) => (s0, .wait)
    | (s, none, false) => (s.passBad d p, .stop)
    | (s, some old, _) =>
      let pars := newPars q h (some (s.fld updNormStatClip)) s.job.seed p.n p.blk n g c f old
      let tree (v : Nat → Nat) : Nat := (treeOf fAdd 10 ((List.range 1024).map v)).headD 0
      let sq (get : Nat → Par → Nat) (i : Nat) : Nat :=
        match pars[i]? with
        | some (false, x) => fMul (get i x) (get i x)
        | _ => 0
      let sw := tree (sq fun i _ => (old.par q i).w)
      let sr := tree (sq fun _ x => x.r)
      (s, .on { p with blk := p.blk + 1, sw := BitVec.ofNat 32 (fAdd p.sw.toNat sw), sr := BitVec.ofNat 32 (fAdd p.sr.toNat sr) })

/-- The contribution of one element to *S*, and whether a remainder was left (R208). -/
def normTerm (ref c : Nat) (q : Int) : Nat × Bool :=
  let x := q.natAbs * q.natAbs
  if ref ≤ c then (x * 4 ^ (c - ref), false) else (x / 4 ^ (ref - c), x % 4 ^ (ref - c) != 0)

/-- One block of 32 gradient elements (R208). -/
def Dev.normGroup (s : Dev) (d : Nat) (brz : Bool) (c : Nat) (qs : List Int) : Dev :=
  if c = 0xFF then s.nonFinite brz else
  let ref := s.fld updNormAuxRef
  let l := qs.map (normTerm ref c)
  let u := s.upd d
  let sum := l.foldl (fun n x => Nat.min (2 ^ 96 - 1) (n + x.1)) u.sum
  let inexact := satAdd (2 ^ 32 - 1) u.inexact (l.filter Prod.snd).length
  s.setUpd d { u with sum, inexact, nsat := u.nsat || sum == 2 ^ 96 - 1 }

/-- One block of the norm pass (R208): a block of 32 that cannot be read counts as one of code 0xFF. -/
def Dev.normBlk (s0 : Dev) (d : Nat) (q : List W64) (p : Pass) : Dev × Turn :=
  let n := Nat.min 1024 (uCount q - 1024 * p.blk)
  let next : Turn := .on { p with blk := p.blk + 1 }
  match s0.vRead (baseTlb d) (updSrc d) 0 2 (uAddr q 4 + 2048 * p.blk) (2 * n) with
  | (_, .wait _) => (s0, .wait)
  | (s, .fail) => (s.passBad d p, .stop)
  | (s, .data bs _) =>
    match s.vRead (baseTlb d) (updSrc d) 0 2 (uAddr q 5 + 32 * p.blk) (ceilDiv n 32) with
    | (_, .wait _) => (s0, .wait)
    | (s, .fail) => (s.passBad d p, .stop)
    | (s, .data cs _) =>
      let lost (va k : Nat) : Bool := match (s0.vRead (baseTlb d) (updSrc d) 0 2 va k).2 with | .data _ e => e.lost | _ => false
      (((List.range (ceilDiv n 32)).foldl (fun s i =>
        let k := Nat.min 32 (n - 32 * i)
        let bad := lost (uAddr q 4 + 2048 * p.blk + 64 * i) (2 * k) || lost (uAddr q 5 + 32 * p.blk + i) 1
        s.normGroup d p.brz (if bad then 0xFF else (cs.getD i 0).toNat)
          ((List.range k).map fun j => (bi16Int (leAt bs (64 * i + 2 * j) 2)).1)) s).normShow, next)

/-- One block of a digest pass (R216): the digest alone. -/
def Dev.digestBlk (s0 : Dev) (d : Nat) (q : List W64) (p : Pass) : Dev × Turn :=
  let n := Nat.min 1024 (uCount q - 1024 * p.blk)
  match s0.readBlk d q p.blk n with
  | (_, none, true) => (s0, .wait)
  | (s, none, false) => (s.passBad d p, .stop)
  | (s, some b, _) => (s, .on { p with blk := p.blk + 1, dig := xorLanes p.dig (blockDigest s.job.seed q p.blk b) })

/-- lp of R202 from the slot's reduced pair. -/
def lampLp (lr sw sr : Nat) : Nat :=
  if (f32 0).lt (f32 sw) ∧ (f32 0).lt (f32 sr) then fMul lr (fDiv (fSqrt sw) (fSqrt sr)) else lr

/-- A restored descriptor is noted for START (R329). -/
def Dev.noteRestored (s : Dev) (d desc tag : Nat) : Dev :=
  let u := s.upd d
  s.setUpd d { u with restored := u.restored.filter (fun x => x.1 != desc) ++ [(desc, tag)] }

/-- A restored descriptor is no longer torn; the pass that it stopped goes on from descriptor `next` (R215, R216), `dig` the digest of the
descriptor that its record names. -/
def Dev.mended (s : Dev) (d next : Nat) (dig : List W64) : Dev :=
  let u := s.upd d
  let run := u.run.map fun p =>
    if p.kind = 1 ∧ p.rec_ = u.torn then { p with desc := next, blk := 0, begun := false, paused := false, dig } else p
  (s.setUpd d { u with torn := none, run }).updShow d

/-- Restore keyframes of the `n` blocks from `b` of a descriptor, from the state as it stands (R215, R221). -/
def Dev.keyframes (s : Dev) (d : Nat) (q : List W64) (tag : Nat) : Nat → Nat → Dev × UWrite
  | 0, _ => (s, .done)
  | n + 1, b =>
    match s.readBlk d q b (Nat.min 1024 (uCount q - 1024 * b)) with
    | (s, some blk, _) => Dev.keyframes (s.exportBlock d tag (blockRecord q 6 b (tag % 2 ^ 32) blk blk)) d q tag n (b + 1)
    | (s, none, w) => (s, if w then .wait else .bad)

/-- Restore keyframes of every block of a descriptor that exports; they wait while a page that they need is being moved (R221, R255). -/
def Dev.restoreKeys (s : Dev) (d : Nat) (q : List W64) (tag : Nat) : Dev × UWrite :=
  if !s.exports d q then (s, .done)
  else if s.moving (s.ringAddr d) (s.ringSize d) then (s, .wait)
  else s.keyframes d q tag (uBlocks q) 0

/-- The digest pass of a restore has read the whole descriptor `q` (R216, R333): with the digest that the image names, the descriptor digest and
the restore keyframes are written, and a torn descriptor is updated again; with another one the restore is refused and the tags take their
old values. None while a page is being moved. -/
def Dev.digestEnd (s : Dev) (d : Nat) (q : List W64) (p : Pass) : Option Dev :=
  match (s.upd d).restore with
  | none => some (s.unkeep d)
  | some r =>
    let good := p.dig == r.want
    let w := if good then (s.updTable d + 0x90000 + 32 * r.desc, digestBytes r.want) else (uAddr q 13, r.old)
    match s.uWrite d [w, (s.updTable d + 0x400B, natLe 1 0)] with
    | (_, .wait) => none
    | (s, _) =>
      let s := s.unkeep d
      if !good then some ((s.updShow d).restoreDone d r.desc 0x020A 0) else
      match s.restoreKeys d q r.tag with
      | (_, .wait) => none
      | (s, .bad) => some (((s.setUpd d { s.upd d with torn := some r.desc }).updShow d).detect (updSrc d) 0x16 2 r.desc)
      | (s, .done) =>
        let s := if (s.upd d).torn = some r.desc then
            (if (s.upd d).run.isSome then s else s.noteRestored d r.desc r.tag).mended d r.desc [0, 0, 0, 0]
          else (s.noteRestored d r.desc r.tag).updShow d
        some (s.restoreDone d r.desc 0 r.n)

/-- The last block of a descriptor is done: its digest or its slot is written, and the next descriptor follows (R211, R202). None while a page
is being moved. -/
def Dev.endDesc (s : Dev) (d : Nat) (q : List W64) (p : Pass) : Option Dev :=
  let t := s.updTable d
  let next : Pass := { p with desc := p.desc + 1, blk := 0, begun := false, sw := 0, sr := 0 }
  let w : List (Nat × List Byte) := match p.kind with
    | 1 => [(t + 0x90000 + 32 * p.desc, digestBytes p.dig)]
    | 2 => [(t + 0xB0000 + 8 * uLt q, natLe 4 p.sw.toNat ++ natLe 4 p.sr.toNat)]
    | _ => []
  if p.kind = 3 then s.digestEnd d q p else
  match s.uWrite d w with
  | (_, .wait) => none
  | (s, .bad) => some (s.passBad d p)
  | (s, .done) =>
    let s := if p.kind = 1 then s.setUpd d { s.upd d with dig := xorLanes (s.upd d).dig p.dig } else s
    some (s.setPass d next)

/-- The hyper-parameter set of a descriptor: what the pass has read of it stands for the whole pass (R199). -/
def Dev.setOf (s : Dev) (d : Nat) (p : Pass) (hp : Nat) : Dev × URead :=
  match p.sets.find? fun e => e.1 == hp with
  | some e => (s, .ok e.2)
  | none => s.uRead d (s.updTable d + 64 * hp) 64

/-- A descriptor begins: the checks of R196, lp of R202, the pass record of kinds 1 and 3, the step-begin record where the descriptor
exports. None while a page is being moved; the pass, unless it has ended. -/
def Dev.beginDesc (s : Dev) (d : Nat) (q : List W64) (set : List Byte) (p : Pass) : Option (Dev × Option Pass) :=
  if !uForm q set p.n.toNat || !s.uPlaced d q then
    (if s.recMoving d p then none else some (s.passIllegal d p p.desc, none))
  else if p.kind = 1 && s.exports d q && s.ringMoving d then none else
  let slot := if uRule q = 6 ∧ p.kind = 1 then s.uRead d (s.updTable d + 0xB0000 + 8 * uLt q) 8 else (s, .ok [])
  match slot with
  | (_, .wait) => none
  | (s, .bad) => some (s.passBad d p, none)
  | (s, .ok sl) =>
    let lp := if sl.isEmpty then 0 else lampLp (leAt set 0 4) (leAt sl 0 4) (leAt sl 4 4)
    let p := { p with lp, sets := if p.sets.any (fun e => e.1 == uHp q) then p.sets else p.sets ++ [(uHp q, set)] }
    if p.kind ≠ 1 ∧ p.kind ≠ 3 then some (s, some { p with begun := true, dig := [0, 0, 0, 0] }) else
    match s.passRecord d p with
    | (_, .wait) => none
    | (s, .bad) => some (s.passBad d p, none)
    | (s, .done) =>
      let s := if p.kind = 1 ∧ s.exports d q then s.exportBegin d (p.n.toNat + 1) else s
      some (s, some { p with begun := true, dig := [0, 0, 0, 0], rec_ := some p.desc })

/-- A pass takes its first turn: an entry's pass checks the unit table (R196), and an update pass counts held blocks from 0 (R232). The answer
says whether the table is sound. -/
def Dev.firstTurn (s : Dev) (d : Nat) (p : Pass) : Dev × Bool :=
  if !p.fresh then (s, true) else
  let s := if p.kind = 1 then s.setFld (updStatusHeld.nth d) 0 else s
  (s, p.work.isNone || s.tableOk d)

/-- The next block of the descriptor in progress. -/
def Dev.blkTurn (s : Dev) (d : Nat) (q : List W64) (set : List Byte) (p : Pass) : Dev × Turn :=
  let h := hypOf q set p.n.toNat p.lp
  match p.kind with
  | 0 => s.normBlk d q p
  | 1 => s.updateBlk d q h p
  | 2 => s.lambBlk d q h p
  | _ => s.digestBlk d q p

/-- One turn of a pass on unit `d`: the end of the range, a descriptor passed over, or the next block of the present one. While a page that it
needs is being moved, nothing happens (R255). -/
def Dev.passTurn (s0 : Dev) (d : Nat) (p : Pass) : Dev :=
  let (s, sound) := s0.firstTurn d p
  if !sound then s.passIllegal d p 4096 else
  let p := { p with fresh := false }
  if p.last < p.desc then (if s.recMoving d p then s0 else s.endPass d p true) else
  match s.uRead d (s.updTable d + 0x10000 + 128 * p.desc) 128 with
  | (_, .wait) => s0
  | (s, .bad) => s.passBad d p
  | (s, .ok bs) =>
    let q := (List.range 16).map fun i => BitVec.ofNat 64 (leAt bs (8 * i) 8)
    if !qualifies p.kind q then s.setPass d { p with desc := p.desc + 1 } else
    match s.setOf d p (uHp q) with
    | (_, .wait) => s0
    | (s, .bad) => s.passBad d p
    | (s, .ok set) =>
      match (if p.begun then some (s, some p) else s.beginDesc d q set p) with
      | none => s0
      | some (s, none) => s
      | some (s, some p) =>
        match s.blkTurn d q set p with
        | (_, .wait) => s0
        | (s, .stop) => s
        | (s, .on p) => if uBlocks q ≤ p.blk then (s.endDesc d q p).getD s0 else s.setPass d p

/-- Up to `n` turns of the pass of kind `kind` on unit `d`; nothing while it or the unit is paused or another pass runs. -/
def Dev.passTurns (d kind : Nat) : Nat → Dev → Dev
  | 0, s => s
  | n + 1, s =>
    match (s.upd d).run with
    | some p => if p.paused ∨ p.kind ≠ kind ∨ s.pausedUnit ⟨.update, d⟩ then s else Dev.passTurns d kind n (s.passTurn d p)
    | none => s

/-- NORM_PASS (R208). -/
def execNormPass (d : Fin 4) (n : Nat) (s : State) : Res := s.run (Dev.passTurns d 0 n)
/-- UPDATE_PASS (R211). -/
def execUpdatePass (d : Fin 4) (n : Nat) (s : State) : Res := s.run (Dev.passTurns d 1 n)
/-- LAMB_PASS_A (R202). -/
def execLambPassA (d : Fin 4) (n : Nat) (s : State) : Res := s.run (Dev.passTurns d 2 n)
/-- DIGEST_PASS (R216). -/
def execDigestPass (d : Fin 4) (n : Nat) (s : State) : Res := s.run (Dev.passTurns d 3 n)

/-! ### Pauses (R213) -/

/-- A STOP or STOP of the breeze is under way. -/
def Dev.stopping (s : Dev) (brz : Bool) : Bool :=
  s.job.cmds.any fun c => match c.what with | .stop now => now && !brz | .stopBreeze => brz | _ => false

/-- UPDATE_PASS_PAUSE (R213): a STOP, or a foreground instance that wants the unit of a breeze pass, pauses an update pass. -/
def updatePauseEffect (d : Nat) (s : Dev) : Dev :=
  match (s.upd d).run with
  | none => s
  | some p =>
    let brz := p.brz
    if !p.paused && p.kind == 1 && (s.stopping brz || (brz && s.wanted (· == .update d))) then (s.pausePass d).stopSettle else s

/-- What holds a paused pass: its unit torn, a STOP, a foreground pass in a job that does not run, a breeze pass that R362 does not allow
the unit. -/
def Dev.passHeld (s : Dev) (d : Nat) (p : Pass) : Bool :=
  (s.upd d).torn.isSome || s.stopping p.brz || (!p.brz && !s.running) || (p.brz && (!s.disp.brz.armed || s.breezeHalt || !s.breezeMay (.update d)))

/-- UPDATE_PASS_RESUME (R213, R217, R321, R362): a paused pass that nothing holds goes on from the pass record, which is then valid and no
longer paused. A pass whose record names it no longer, or cannot be read, ends as failed. -/
def updateResumeEffect (d : Nat) (s : Dev) : Dev :=
  match (s.upd d).run with
  | none => s
  | some p =>
    if !p.paused || s.passHeld d p then s else
    match s.uRead d (s.updTable d + 0x4000) 16 with
    | (_, .wait) => s
    | (s, .bad) => s.endPass d { p with rec_ := none } false
    | (s', .ok r) =>
      if leAt r 0 8 ≠ p.n.toNat ∨ leAt r 0xA 1 ≠ 1 ∨ leAt r 0xB 1 % 4 ≠ 3 then s'.endPass d { p with rec_ := none } false else
      match s'.uWrite d [(s.updTable d + 0x400B, natLe 1 1)] with
      | (_, .wait) => s
      | (s, .bad) => s.endPass d { p with rec_ := none } false
      | (s, .done) =>
        let x := leAt r 8 2
        let same := x == p.desc && p.begun
        ((s.setPass d { p with desc := x, blk := leAt r 0xC 4, begun := same, paused := false, rec_ := some x }).updShow d).noteBreeze

/-- UPDATE_PASS_PAUSE (R213). -/
def execUpdatePassPause (d : Fin 4) (s : State) : Res := s.run (updatePauseEffect d)
/-- UPDATE_PASS_RESUME (R213). -/
def execUpdatePassResume (d : Fin 4) (s : State) : Res := s.run (updateResumeEffect d)

/-! ### Torn shards (R214 to R216, R333) -/

/-- TORN_SHARD (R214): a fault or reset while the pass record is valid and the pass not paused. -/
def tornShardEffect (d : Nat) (s : Dev) : Dev :=
  match (s.upd d).run with
  | some p => if !p.paused ∧ p.rec_.isSome ∧ (p.kind = 1 ∨ p.kind = 3) then s.tear d p else s
  | none => s

/-- TORN_SHARD (R214). -/
def execTornShard (d : Fin 4) (s : State) : Res := s.run (tornShardEffect d)

/-- The words of descriptor `desc` of unit `d`, if they can be read. -/
def Dev.descOf (s : Dev) (d desc : Nat) : Dev × Option (List W64) :=
  match s.uRead d (s.updTable d + 0x10000 + 128 * desc) 128 with
  | (s, .ok bs) => (s, some ((List.range 16).map fun i => BitVec.ofNat 64 (leAt bs (8 * i) 8)))
  | (s, _) => (s, none)

/-- The digest of a descriptor's state as it stands. -/
def Dev.stateDigest (s : Dev) (d : Nat) (q : List W64) : Option (List W64) :=
  (List.range (uBlocks q)).foldl (fun z b =>
    match z, (s.readBlk d q b (Nat.min 1024 (uCount q - 1024 * b))).2.1 with
    | some l, some blk => some (xorLanes l (blockDigest s.job.seed q b blk))
    | _, _ => none) (some [0, 0, 0, 0])

/-- What a copy from a member brings (R215): master, cterm, mom1, mom2, working copy, its codes, tags, descriptor digest. -/
def copyPieces (q : List W64) (table desc : Nat) (arrs : List (List Byte)) : List (Nat × List Byte) :=
  let n := uCount q
  let take (i k : Nat) : List Byte := padTo k (arrs.getD i [])
  [(uAddr q 6, take 0 (uMasLen q * n))] ++ (if uComp q then [(uAddr q 7, take 1 n)] else []) ++
  (if uMom1 q then [(uAddr q 8, take 2 (uMomLen q * n))] else []) ++ (if uMom2 q then [(uAddr q 9, take 3 (uMomLen q * n))] else []) ++
  (if uWc q then [(uAddr q 10, take 4 (uWcLen q))] ++ (if uMx q then [(uAddr q 11, take 5 (ceilDiv n 32))] else []) else []) ++
  [(uAddr q 13, take 6 (8 * uBlocks q)), (table + 0x90000 + 32 * desc, take 7 32)]

/-- The PEER_RESTORE for descriptor `desc` of unit `d` that runs, if one does: its source package, or 8,192 for an image (R333). -/
def Dev.restoreFrom (s : Dev) (d desc : Nat) : Option Nat :=
  s.job.cmds.findSome? fun c => match c.what with | .restore d' x src => if d' = d ∧ x = desc then some src else none | _ => none

/-- A copy of descriptor `desc` from package `src` is wanted (R215, R333): by a PEER_RESTORE that names the package, from another member where
that one has left (R217), or by a torn descriptor that no PEER_RESTORE sees to. -/
def Dev.restoreWanted (s : Dev) (d desc src : Nat) : Bool :=
  match s.restoreFrom d desc with
  | some k => if k = 8192 ∨ (s.members (s.fld updCtlRepGid)).contains k then k == src else (s.members (s.fld updCtlRepGid)).contains src
  | none => (s.upd d).torn == some desc && (s.members (s.fld updCtlRepGid)).contains src

/-- SHARD_REPAIR (R215): the bytes of a descriptor from member `src` of the replica group. For a torn one every tag must read *n* + 1; the
pass then goes on with the next descriptor. -/
def shardRepairEffect (d desc src : Nat) (arrs : List (List Byte)) (s : Dev) : Dev :=
  if !s.restoreWanted d desc src then s else
  match s.descOf d desc with
  | (s, none) => s
  | (s, some q) =>
    let tags := nums 8 (uBlocks q) (padTo (8 * uBlocks q) (arrs.getD 6 []))
    let tag := tags.headD 0
    let torn := (s.upd d).torn == some desc
    if tags.any (· != tag) || (torn && tag != s.step.toNat + 1) then s else
    let s0 := s
    match s.uWrite d (copyPieces q (s.updTable d) desc arrs) with
    | (_, .wait) => s0
    | (s, .bad) => s
    | (s, .done) =>
      match s.restoreKeys d q tag with
      | (_, .wait) => s0
      | (s, .bad) => s
      | (s, .done) =>
      let dig := (List.range 4).map fun l => BitVec.ofNat 64 (leAt (arrs.getD 7 []) (8 * l) 8)
      let s := if !torn then s.noteRestored d desc tag
        else (s.setUpd d { s.upd d with dig := xorLanes (s.upd d).dig dig }).mended d (desc + 1) dig
      s.restoreDone d desc 0 ((copyPieces q (s.updTable d) desc arrs).foldl (fun n x => n + x.2.length) 0)

/-- SHARD_REPAIR (R215). -/
def execShardRepair (d : Fin 4) (desc : Fin 4096) (src : Fin 8192) (arrays : List (List Byte)) (s : State) : Res :=
  s.run (shardRepairEffect d desc src arrays)

/-- Whether an image's arrays cover the descriptor's rule (R333). -/
def imageCovers (q : List W64) (arrays : Nat) : Bool :=
  bit arrays 0 && (!uComp q || bit arrays 1) && (!uMom1 q || bit arrays 2) && (!uMom2 q || bit arrays 3)

/-- The arrays of an image (R333): address and bytes, in its order. -/
def imagePieces (q : List W64) (img : List Byte) : List (Nat × List Byte) :=
  let n := uCount q
  let lens := [(0, 6, uMasLen q * n), (1, 7, n), (2, 8, uMomLen q * n), (3, 9, uMomLen q * n)].filter fun (x : Nat × Nat × Nat) => bit (leAt img 4 1) x.1
  let used (i : Nat) : Bool := i == 0 || (i == 1 && uComp q) || (i == 2 && uMom1 q) || (i == 3 && uMom2 q)
  ((lens.foldl (fun (acc : Nat × List (Nat × List Byte)) x =>
    (acc.1 + x.2.2, if used x.1 then acc.2 ++ [(uAddr q x.2.1, padTo x.2.2 ((img.drop acc.1).take x.2.2))] else acc.2)) (64, [])).2)

/-- Whether the gradient accumulator of a descriptor can be read (R216), or that is to wait for a page being moved. -/
def Dev.gradReadable (s : Dev) (d : Nat) (q : List W64) : Dev × UWrite :=
  [(uAddr q 4, 64 * ceilDiv (uCount q) 32), (uAddr q 5, ceilDiv (uCount q) 32)].foldl (fun x a =>
    match x.2, x.1.uRead d a.1 a.2 with
    | .done, (s, .ok _) => (s, .done)
    | .done, (s, .wait) => (s, .wait)
    | .done, (s, .bad) => (s, .bad)
    | _, _ => x) (s, .done)

/-- SHARD_RESTORE (R216, R328, R333): the image that PEER_RESTORE has brought is written, every tag is set, and a digest pass over the descriptor starts and takes `n`
turns; `Dev.digestEnd` ends it. A torn descriptor takes an image at step *n* only (DESIGN CHOICE: another one is refused as of wrong form); where the
image or the accumulator cannot serve, the job is to be held. -/
def shardRestoreEffect (d desc n : Nat) (s : Dev) : Dev :=
  match (s.upd d).image.filter fun x => x.1 == desc with
  | none => s
  | some (_, img) =>
  if (s.upd d).restore.isSome then s else
  let torn := (s.upd d).torn == some desc
  -- a unit that works on another descriptor comes to it later
  if !torn && ((s.upd d).torn.isSome || (match (s.upd d).run with | some p => !p.paused | none => false)) then s else
  match s.descOf d desc with
  | (s, none) => s
  | (s, some q) =>
    let tag := leAt img 0x10 8
    match (if !torn then (s, UWrite.done) else if imageCovers q (uExp q) then s.gradReadable d q else (s, .bad)) with
    | (_, .wait) => s
    | (s, .bad) => (s.holdJob 3).restoreDone d desc 0x020E 0
    | (s, .done) =>
    if !imageCovers q (leAt img 4 1) || leAt img 8 8 != uCount q || (torn && tag != s.step.toNat) then s.restoreDone d desc 0x020E 0 else
    match s.uRead d (uAddr q 13) (8 * uBlocks q) with
    | (_, .wait) => s
    | (s', was) =>
      let old := match was with | .ok bs => bs | _ => List.replicate (8 * uBlocks q) 0
      let tags := (uAddr q 13, (List.range (uBlocks q)).flatMap fun _ => natLe 8 tag)
      match s'.uWrite d (imagePieces q img ++ [tags]) with
      | (_, .wait) => s
      | (s, .bad) => s
      | (s, .done) =>
        let want := (List.range 4).map fun l => BitVec.ofNat 64 (leAt img (0x20 + 8 * l) 8)
        let len := (imagePieces q img).foldl (fun n x => n + x.2.length) 0
        let u := s.upd d
        let pass : Pass := { updatePass desc desc s.step with kind := 3, fresh := false }
        let s := s.setUpd d { u with run := some pass, kept := u.run.toList ++ u.kept, restore := some ⟨desc, tag, want, old, len⟩ }
        Dev.passTurns d 3 n (s.setFld (updStatusState.nth d) 1)

/-- SHARD_RESTORE (R216). -/
def execShardRestore (d : Fin 4) (desc : Fin 4096) (n : Nat) (s : State) : Res := s.run (shardRestoreEffect d desc n)

/-! ### The export engine (R218, R300, R325) -/

/-- The next record in a unit's ring that has not been forwarded. -/
def Dev.nextRecord (s : Dev) (d : Nat) : Dev × Option (List Byte) :=
  let u := s.upd d
  let size := s.ringSize d
  let rd (s : Dev) (at_ n : Nat) : Dev × Option (List Byte) :=
    let o := at_ % size
    match s.uRead d (s.ringAddr d + o) (Nat.min n (size - o)) with
    | (s, .ok a) =>
      if n ≤ size - o then (s, some a) else
      match s.uRead d (s.ringAddr d) (n - (size - o)) with
      | (s, .ok b) => (s, some (a ++ b))
      | (s, _) => (s, none)
    | (s, _) => (s, none)
  if u.prod ≤ u.fwd then (s, none) else
  match rd s u.fwd 16 with
  | (s, none) => (s, none)
  | (s, some h) => rd s u.fwd (16 + ceilDiv (leAt h 0xC 4) 8 * 8)

/-- Gusts of unit `d`'s export that are not acknowledged or have not left. -/
def Dev.exportBusy (s : Dev) (d : Nat) : Bool := (s.fab.queue ++ s.fab.sent).any fun g => g.user == 2 + d

/-- Hand pieces of at most 4,032 bytes to the transport as request writes. -/
def Dev.pushBytes (s : Dev) (dst addr user : Nat) (bs : List Byte) : Dev :=
  (List.range (ceilDiv bs.length 4032)).foldl (fun s i =>
    s.toFabric dst 0 0 0 0 (addr + 4032 * i) ((bs.drop (4032 * i)).take 4032) user) s

/-- EXPORT_FORWARD (R218, R325, R392): to a sink ring, the next record when it has room; once all its gusts are acknowledged, the producer
count, and at that boundary the sink that EXPORT_CONFIG has named. -/
def exportForwardEffect (d : Nat) (s : Dev) : Dev :=
  let u := s.upd d
  match u.sink with
  | .ring pkg addr size prod cons =>
    if s.exportBusy d then s
    else if 0 < u.flight then
      let sink := u.sinkNew.getD (.ring pkg addr size (prod + u.flight) cons)
      let s := s.setUpd d { u with fwd := u.fwd + u.flight, flight := 0, sink, sinkNew := none }
      (s.pushBytes pkg addr (2 + d) (natLe 8 (prod + u.flight))).pump
    else
      match s.nextRecord d with
      | (s, none) => s
      | (s, some bs) =>
        if size - 64 < prod - cons + bs.length then s else
        let s := s.setUpd d { s.upd d with flight := bs.length }
        ((ringPieces (size - 64) prod bs).foldl (fun s p => s.pushBytes pkg (addr + 64 + p.1) (2 + d) p.2) s).pump
  | _ => s

/-- EXPORT_QUEUE_WRITE (R300): to a host export queue, the next record when the ring has room for all its slots. -/
def exportQueueEffect (d : Nat) (s : Dev) : Dev :=
  match (s.upd d).sink with
  | .queue q =>
    match s.nextRecord d with
    | (s, none) => s
    | (s, some bs) =>
      let n := ceilDiv bs.length 64
      let c := s.qctx q
      if !c.live || decide (c.room < n) then s else
      let s := s.qAppend q ((List.range n).map fun i => padTo 64 ((bs.drop (64 * i)).take 64))
      s.setUpd d { s.upd d with fwd := (s.upd d).fwd + bs.length }
  | _ => s

/-- SINK_CONSUMER_POLL (R325): the consumer count that the sink package holds. -/
def sinkPollEffect (d n : Nat) (s : Dev) : Dev :=
  match (s.upd d).sink with
  | .ring pkg addr size prod _ => s.setUpd d { s.upd d with sink := .ring pkg addr size prod n }
  | _ => s

/-- EXPORT_FORWARD (R218). -/
def execExportForward (d : Fin 4) (s : State) : Res := s.run (exportForwardEffect d)
/-- EXPORT_QUEUE_WRITE (R300). -/
def execExportQueueWrite (d : Fin 4) (s : State) : Res := s.run (exportQueueEffect d)
/-- SINK_CONSUMER_POLL (R325). -/
def execSinkConsumerPoll (d : Fin 4) (cons : W64) (s : State) : Res := s.run (sinkPollEffect d cons.toNat)

end Sys2Proof.Machine
end

