-- ==== Sys2Proof/Machine/FaultOps.lean ====
section
/-! DEFINITION. Fences and where work goes (R160, R356, R454 to R457), notices (R460), leaving and expulsion (R331, R461), the step
retry's parts (R459): what the fault commands share with the close, the command set and the resets. -/

namespace Sys2Proof.Machine

/-! ### Core fences (R160, R356) -/

/-- The next release on core `c`: the earliest floor of what it is to run, the next rounds of entries in flight and one-offs among it. -/
def Dev.nextRelease (s : Dev) (c : Nat) : Option Nat :=
  ((s.waiting.filter fun x => s.need x.1.e == .core c).map fun x => s.floor x.1).foldl (fun m f => some (Nat.min f (m.getD f))) none

/-- Whether core `a` is to be taken before `b` as a peer: the earlier next release, then the lower number (R356). -/
def Dev.before (s : Dev) (a b : Nat) : Bool :=
  match s.nextRelease a, s.nextRelease b with
  | some x, some y => decide (x < y) || (x == y && decide (a < b))
  | some _, none => true
  | none, some _ => false
  | none, none => decide (a < b)

/-- The peer that takes a fenced core's logical core. -/
def Dev.peerOf (s : Dev) (c : Nat) : Option Nat :=
  ((List.range 16).map fun i => c / 16 * 16 + i).foldl (fun m p =>
    if p == c || s.coreDown p then m else
    match m with
    | some q => if s.before p q then some p else m
    | none => some p) none

/-- What a core holds of released segments: the running one, with the instructions since its mark, and a pre-empted one. -/
def Core.works (k : Core) : List (Work × Nat × Bool) :=
  (match k.work with | some w => if k.run = .stopped then [] else [(w, k.since, k.accs)] | none => []) ++
  (match k.saved with | some v => [(v.work, v.since, v.accs)] | none => [])

/-- A fence meets the writes of a pre-emption that has just saved a segment of core `c`: the breeze context is discarded, and the segment starts
again from its first instruction (R165). -/
def Dev.dropContext (s : Dev) (c : Nat) : Dev :=
  match (s.core c).saved with
  | some v => if s.cycle c < v.safeAt ∧ (s.core c).work.isNone then s.csWrite (c / 16) [(s.ctxSlot c + 0xC, 0), (s.ctxSlot c + 0x408, 0)] else s
  | none => s

/-- A fenced core gives its segments up; `move` says whether a peer takes them. With the ledger off, a segment that has written into an
accumulator or folded cannot be redone exactly: a fault of class suspect (R154, R175). -/
def Dev.coreLeaves (s : Dev) (c : Nat) (move : Bool) : Dev :=
  let l := (s.core c).works
  let s := s.dropContext c
  let s := s.onCore c fun k => { k with run := .idle, work := none, mq := [], vq := [], mmts := [], rest := none, vrun := none,
                                        slots := [], folds := [], saved := none }
  l.foldl (fun s x =>
    let (w, n, accs) := x
    if move then
      let s := if accs && !s.on memLedgerBaseEn then s.detect (dispSrc w.disp) 0x17 2 w.arg else s
      { s with disp := { s.disp with moved := s.disp.moved ++ [⟨w, c, n, accs⟩] } }
    else s.endWork (some w) false) s

/-- Core `c`'s drain streams have stopped for every chain of its cluster (R160): a descriptor that one feeds ends at its last whole unit. -/
def Dev.cutStreams (s : Dev) (c : Nat) : Dev :=
  let stop (ch : Chan) : Chan := { ch with cut := setAdd ch.cut c }
  let s := (s.chansOf (c / 16)).foldl (fun s (e : Nat × Chan) => if e.2.st != .idle then s.onChan e.1 stop else s) s
  { s with disp := { s.disp with parked := s.disp.parked.map fun (e : Nat × Chan) => if e.1 / 16 = c / 16 then (e.1, stop e.2) else e,
                                 movedCh := s.disp.movedCh.map fun (e : Nat × Chan) => if e.1 / 16 = c / 16 then (e.1, stop e.2) else e } }

/-- Core `c` is fenced: its logical cores go to the peer, its segments after them (R19, R160, R356). -/
def Dev.fenceCoreOnly (s : Dev) (c : Nat) : Dev :=
  let p := s.peerOf c
  let s := match (s.core c).vrun with
    | some r => if s.vecBusy c then s.vUndefAt c r.ent r.puts else s
    | none => s
  let s := { s with pkg := { s.pkg with faulted := setDel s.pkg.faulted c,
                                        fences := { s.pkg.fences with cores := setAdd s.pkg.fences.cores c } } }
  let s := match p with
    | some p =>
      let key (l : Nat) : Nat := 16 * (c / 16) + l
      let mine := (List.range 16).filter fun l => Sparse.get (fun x => x) s.disp.lmap (key l) == c
      { s with disp := { s.disp with lmap := Sparse.setAll (fun x => x) s.disp.lmap (mine.map fun l => (key l, p)) } }
    | none => s
  ((s.leaveCommit.cutStreams c).coreLeaves c true).startMoved

/-! ### Cluster fences (R456) -/

/-- The channels of cluster `k` stop; chains that a core issued vanish with it, chains of timetable entries go to the taking cluster's
channels of the same numbers, their descriptor in progress from its start (DEDUCED), or fail when there is no one to take them. -/
def Dev.chansLeave (s : Dev) (k : Nat) (move : Bool) : Dev :=
  let l := (s.chansOf k).filter (fun (e : Nat × Chan) => e.2.st != .idle) ++ Sparse.range s.disp.parked (16 * k) (16 * k + 16)
  let s := { s with disp := { s.disp with parked := Sparse.clear s.disp.parked (16 * k) (16 * k + 16) } }
  l.foldl (fun s (e : Nat × Chan) =>
    let s := s.setChan e.1 Chan.idle
    match e.2.owner, e.2.work with
    | .entry, some w =>
      if !move then s.endWork (some w) false else
      let st := match e.2.st with | .finished n => ChanSt.finished n | _ => ChanSt.ready
      let fed := e.2.q != [] && dOp e.2.q == 3 && dSs e.2.q == 3
      let core := s.physCore w.dom w.lcore
      let ch := { e.2 with st, core := some core, q := if st = .ready then [] else e.2.q, pos := 0, stream := [], pause := false, lent := false,
                           cut := if fed then [core] else [] }
      let h := 16 * s.holder w.dom + e.1 % 16
      { s with disp := { s.disp with movedCh := s.disp.movedCh ++ [(h, ch)] } }.takeChain h
    | _, _ => s) s

/-- Cluster `k` is fenced and its work moves (R160, R356, R456); with shadows in use its store is to be copied. -/
def Dev.fenceClusterOnly (s : Dev) (k : Nat) : Dev :=
  let gone (u : Nat) : Bool := u == 512 + k || (decide (u < 512) && u / 16 == k)
  let s := { s with pkg := { s.pkg with
    faulted := s.pkg.faulted.filter fun u => !gone u,
    fences := { s.pkg.fences with clusters := setAdd s.pkg.fences.clusters k },
    shadows := if s.on dieShadowBaseEn then setAdd s.pkg.shadows k else s.pkg.shadows } }
  let s := s.leaveCommit.chansLeave k true
  let s := (List.range 16).foldl (fun s i => s.coreLeaves (16 * k + i) true) s
  if s.copyDue k then s else s.startMoved

/-! ### Compute-die fences (R457) -/

/-- Compute die `d` is fenced by a fault: nothing of it is trusted, its segments and chains fail, and the open step is retried. -/
def Dev.dieFaultOnly (s : Dev) (d : Nat) : Dev :=
  let gone (u : Nat) : Bool := u == 544 + d || (decide (u < 512) && u / 128 == d) || (decide (512 ≤ u) && decide (u < 544) && (u - 512) / 8 == d)
  let s := { s with pkg := { s.pkg with
    faulted := s.pkg.faulted.filter fun u => !gone u,
    fences := { s.pkg.fences with dies := setAdd s.pkg.fences.dies d },
    shadows := s.pkg.shadows.filter fun k => k / 8 != d } }
  let s := (List.range 8).foldl (fun s i => s.chansLeave (8 * d + i) false) s.leaveCommit
  let s := (List.range 128).foldl (fun s i => s.coreLeaves (128 * d + i) false) s
  let (dead, rest) := (s.disp.moved.filter fun m => m.core / 128 == d, s.disp.moved.filter fun m => m.core / 128 != d)
  let s := dead.foldl (fun s m => s.endWork (some m.work) false) { s with disp := { s.disp with moved := rest } }
  if s.running then s.noteRetry false else s

/-- Compute die `d` is fenced by a FENCE command: its stores stand and are copied (R456, R457). -/
def Dev.dieFenceOnly (s : Dev) (d : Nat) : Dev :=
  let s := (List.range 8).foldl (fun s i =>
    if s.pkg.fences.cluster (8 * d + i) then s else
    { s with pkg := { s.pkg with shadows := if s.on dieShadowBaseEn then setAdd s.pkg.shadows (8 * d + i) else s.pkg.shadows } }) s
  let s := { s with pkg := { s.pkg with fences := { s.pkg.fences with dies := setAdd s.pkg.fences.dies d } } }
  let s := (List.range 8).foldl (fun s i => s.chansLeave (8 * d + i) true) s.leaveCommit
  let s := (List.range 128).foldl (fun s i => s.coreLeaves (128 * d + i) true) s
  if s.pkg.shadows.isEmpty then s.startMoved else s

/-! ### Escalation (R455) -/

/-- A compute-die fault: a second die out of service is fatal for the package. -/
def Dev.fenceDie (s : Dev) (d : Nat) : Dev :=
  if s.pkg.fences.dies.contains d then s
  else if s.pkg.fences.dies != [] then
    if s.pkg.faulted.contains (544 + d) then s else (s.detect (dieSrc d 1) 0x51 3 0).markFault (544 + d)
  else s.dieFaultOnly d

/-- A cluster fault: the last cluster in service of a die takes the die with it. -/
def Dev.fenceCluster (s : Dev) (k : Nat) : Dev :=
  if s.pkg.fences.cluster k then s
  else if (List.range 8).all fun i => k / 8 * 8 + i == k || s.pkg.fences.cluster (k / 8 * 8 + i) then s.fenceDie (k / 8)
  else s.fenceClusterOnly k

/-- A core fault: the last core in service of a cluster takes the cluster with it. -/
def Dev.fenceCore (s : Dev) (c : Nat) : Dev :=
  if s.pkg.fences.core c then s
  else if (s.peerOf c).isNone then s.fenceCluster (c / 16)
  else s.fenceCoreOnly c

/-- A fabric port is fenced (R335, R454). -/
def Dev.fencePort (s : Dev) (p : Nat) : Dev := (s.setBit (fabPortFenced.nth p) true).leaveCommit.portSettle p

/-- Lateral module `m` of link `l` is fenced (R15, R406). -/
def Dev.fenceLateral (s : Dev) (l m : Nat) : Dev := (s.setBit (dieLat l m 5 1) true).setBit (dieLat l m 4 1) false

/-! ### The log (R449 to R451) -/

/-- FAULT_N and FLT_STATUS follow the uncleared table (R451, R466). -/
def Dev.faultShow (s : Dev) : Dev :=
  let low := !s.flt.uncl.isEmpty || s.on fltStatusUnclOvf
  let was := s.on fltStatusFaultN
  let s := (s.setBit fltStatusFaultN low).setFld fltStatusUncleared s.flt.uncl.length
  if low = was then s else s.send (.pin "FAULT_N" !low)

/-- A record's 32 bytes (R299): message, sequence number, flags. -/
def LogRec.encode (r : LogRec) (phase : Nat) : List Byte :=
  natLe 16 r.msg.encode ++ natLe 8 r.seq ++ natLe 8 (phase + 2 * b2n r.cleared)

/-- A message is copied to every enabled fault-event queue whose mask holds its class; without room it is lost to that queue (R299,
R304). -/
def Dev.copyToQueues (s : Dev) (r : LogRec) : Dev :=
  s.que.ctx.foldl (fun s (e : Nat × QCtx) =>
    let c := s.qctx e.1
    if c.kind ≠ 5 ∨ !c.live ∨ !bit c.clsMask r.msg.cls then s
    else if c.room = 0 then s.setQ e.1 { c with lost := BitVec.ofNat 32 (satAdd 0xFFFFFFFF c.lost.toNat 1) }
    else s.qAppend e.1 [r.encode (c.phase c.dev.toNat)]) s

/-! ### Notices (R460) -/

/-- Every other package of the job that is not expelled. -/
def Dev.others (s : Dev) : List Nat := (List.range 8192).filter fun p => s.inJob p && p != s.ownPkg

/-- The 64 bytes of a notice. -/
def Dev.noticeBytes (s : Dev) (type pkg : Nat) : List Byte :=
  padTo 64 (natLe 1 type ++ natLe 1 0 ++ natLe 2 pkg ++ natLe 4 (s.fld sysJobStatusJobId) ++ natLe 8 (s.fld sysStepStatusOrdinal) ++
    natLe 4 (s.fld timTtStatusRound))

/-- Send a notice to every other package of the job, when notices are in use. -/
def Dev.notice (s : Dev) (type pkg : Nat) : Dev :=
  if !s.on fltNoticeEn then s else
  let b := s.noticeBytes type pkg
  (s.others.foldl (fun s p => s.pushBytes p (s.fld fltNoticeBase * 65536 + 64 * s.ownPkg) 9 b) s).pump

/-! ### Leaving the job (R312, R331) -/

/-- A fatal message's reaction (R311, R312, R447, R461): the state, the commands that run but JOB_CLOSE, the loss notice of the package
itself. -/
def Dev.fatal (s : Dev) (kind : Nat) : Dev :=
  let st := s.fld sysJobStatusState
  let s := s.dropCmds (fun c => c.what != .close) 0x020F
  if st = 0 then s else
    ((s.setFld sysJobStatusState (if kind = 0x1D then 6 else 7)).disarmFg).notice 2 s.ownPkg

/-- The packages of the replica unit of package `p` (R331): the own norm group when `p` is in it, else as the norm group of `p` holds
them. -/
def Dev.unitOfPkg (s : Dev) (p : Nat) (unit : List Nat) : List Nat :=
  let own := s.members (s.fld updCtlNormGid)
  if own.contains p then own else (unit.foldl setAdd [p]).filter s.inJob

/-- The replica unit of package `p` is expelled (R331): it leaves at the next change of membership; a package of it stops its
foreground and leaves the job, with the message of the package named or of a partner. -/
def Dev.expelUnit (s : Dev) (p reason : Nat) (unit : List Nat) : Dev :=
  let l := (s.unitOfPkg p unit).filter fun x => !s.job.leaving.contains x
  if l.isEmpty || !s.inJob p then s else
  let s := { s with job := { s.job with leaving := l.foldl setAdd s.job.leaving } }.count sysBlk 3 1
  if s.ownPkg = p then s.disarmFg.detect s.sysSrc 0x1D 3 (reason + 2 ^ 8 * p)
  else if l.contains s.ownPkg then
    (s.disarmFg.setFld sysJobStatusState 6).detect s.sysSrc 0x1E 0 (2 ^ 8 * p)
  else s

/-- Expulsions take effect in group membership (R331). -/
def Dev.applyLeaving (s : Dev) : Dev :=
  { s with job := { s.job with expelled := s.job.leaving.foldl setAdd s.job.expelled, leaving := [] } }.colShow

end Sys2Proof.Machine
end

