-- ==== Sys2Proof/Machine/Faults.lean ====
section
/-! DEFINITION. Fault collection, fencing and continuity (R445 to R463): the log, squalls, fences, the step retry, lost packages. -/

namespace Sys2Proof.Machine

/-! ### The log (R449 to R451) -/

/-- FAULT_MESSAGE_LOG (R449 to R451, R299): the oldest message in the collectors is logged, copied to the fault-event queues, and reacted
to when it is fatal. -/
def messageLogEffect (s : Dev) : Dev :=
  match s.flt.msgs with
  | [] => s
  | m :: rest =>
    let seq := s.fld fltSeqNext
    let r : LogRec := ⟨m, seq, false⟩
    let log := (s.flt.log ++ [r]).drop (s.flt.log.length + 1 - 65536)
    let full := decide (4096 ≤ s.flt.uncl.length)
    let uncl := if m.cls = 0 ∨ full then s.flt.uncl else s.flt.uncl ++ [r]
    let s := { s with flt := { s.flt with msgs := rest, log, uncl } }
    let s := ((s.setFld fltSeqNext (seq + 1)).setFld fltOldestOldest (seq + 1 - log.length)).count pkgBlk 3 1
    let s := if m.cls ≠ 0 ∧ full then s.setBit fltStatusUnclOvf true else s
    let s := s.faultShow.copyToQueues r
    if m.cls = 3 then s.fatal m.kind else s

/-- CORRECTED_MERGE_EXPIRY (R449). -/
def mergeExpiryEffect (s : Dev) : Dev := s.mergeRipe

/-! ### Squalls (R453) -/

/-- A unit that a squall can fence. -/
def fenceable (r : Src) : Bool := decide (r.level ≤ 2) || (r.level == 3 && (r.unit == 0 || r.unit == 3)) || (r.level == 4 && r.unit == 3)

/-- The fence of the unit that a source names, as a contained fault of its level has it (R454). -/
def Dev.fenceSource (s : Dev) (r : Src) : Dev :=
  match r.level with
  | 0 | 1 => s.fenceCore (128 * r.die + 16 * r.cluster + r.core)
  | 2 => s.fenceCluster (8 * r.die + r.cluster)
  | 3 => if r.unit = 0 then s.fenceDie r.die else s.fenceLateral r.die r.cluster
  | _ => s.fencePort r.core

/-- SQUALL (R453): the sum of a source's corrected events has reached sq_cnt; a fabric port that it fences also reports itself down (R448). HBM controllers never squall (R246). -/
def squallEffect (r : Src) (kind : Nat) (s : Dev) : Dev :=
  if s.squallSum r < s.fldOrAs ⟨.collector, r.die⟩ fltCtlSqCnt 1 || (r.level == 3 && r.unit == 2) || s.srcFenced r || s.flt.silent.contains (r, kind) then s
  else
    let s := s.satFld fltStatusSqualls 1
    if fenceable r then
      let s := s.detect r 0x52 1 kind
      (if r.level = 4 then s.detect r 0x31 1 2 else s).fenceSource r
    else
      -- logged as one message, outside the merge windows of the source's corrected events
      let s := s.mergeRipe
      let m : Msg := { time := s.now r.die, kind := 0x52, cls := 0, src := r, count := 1, arg := BitVec.ofNat 48 kind, born := s.real }
      { s with flt := { s.flt with merge := mergeIn m s.flt.merge, silent := s.flt.silent ++ [(r, kind)] } }

/-! ### Fences (R454 to R457) -/

/-- A unit that no fence takes out (R454): crossbar and ring interface, HBM controller, package buffer, base-die DMA, collective engine, update unit,
time unit, fault collector. -/
def unfenceable (r : Src) : Bool :=
  (r.level == 3 && r.unit != 0 && r.unit != 3 && decide (r.unit ≤ 7)) || (r.level == 4 && (r.unit == 1 || r.unit == 2))

/-- CORE_FENCE (R160): a fault of core `c`, or of engine `unit` of it, fences the core. A fault already met has sent its message. While a
fault of the cluster or the die waits for its fence, the core's message is covered by it and the core gets no fence of its own (R18). -/
def coreFenceEffect (c : Nat) (eng : Bool) (unit : Nat) (s : Dev) : Dev :=
  let met := s.pkg.faulted.contains c
  let r : Src := if eng then ⟨0, c / 128, c / 16 % 8, c % 16, unit⟩ else coreSrc c unit
  if s.pkg.fences.core c || (!met && !eng && (unit = 0 || unit = 4)) then s
  else
    let s := s.coreFault c r 0
    if s.clusterDown (c / 16) then s else s.fenceCore c

/-- CLUSTER_FENCE (R456): a fault of the store (unit 0) or port (unit 3) of cluster `k`, with the message's address (R448), or one already met, fences the cluster; a pending
fault of its die covers it (R18). -/
def clusterFenceEffect (k unit arg : Nat) (s : Dev) : Dev :=
  if s.pkg.fences.cluster k then s
  else
    let s := s.clusterFault k unit arg
    if s.pkg.faulted.contains (544 + k / 8) then s else s.fenceCluster k

/-- COMPUTE_DIE_FENCE (R457): a hard fault of compute die `d`, or one already met, fences it. -/
def dieFenceEffect (d : Nat) (s : Dev) : Dev :=
  if s.pkg.fences.dies.contains d then s
  else if s.pkg.faulted.contains (544 + d) then s.fenceDie d
  else (s.detect (dieSrc d 0) 0x50 1 0).fenceDie d

/-- CLUSTER_FENCE (R141, R456): a hard fault fences the cluster, a corrected error at its port is a corrected message. -/
def clusterFaultEffect (k : Nat) (f : ClusterFault) (s : Dev) : Dev :=
  match f with
  | .hard unit arg => clusterFenceEffect k unit arg.toNat s
  | .corrected arg => s.detect (clusterSrc k 3) 0x01 0 arg.toNat

/-- COMPUTE_DIE_FENCE (R17, R217, R454, R457): a compute die is fenced; a hard fault of a unit that no fence takes out is fatal for the package. -/
def dieFaultEffect (f : DieFault) (s : Dev) : Dev :=
  match f with
  | .compute d => dieFenceEffect d s
  | .base r => if unfenceable r then s.detect r 0x51 3 0 else s

/-- SHADOW_COPY (R456): the base-die DMA copies a fenced cluster store into its shadow; lines that cannot be read arrive poisoned. The
segments that waited for it start. -/
def shadowCopyEffect (k : Nat) (s : Dev) : Dev :=
  if !s.copyDue k then s else
  let st := s.cstore k
  let s := (pagePieces 386 (s.shadowAddr k 0) csSize).foldl (fun s p =>
    match s.xlate (baseTlb (k / 8)) (dieSrc (k / 8) 5) 0 p.1 true with
    | (s, .ok pa) =>
      let s := (s.countBytes 4 16 pa p.2).snoopBack pa p.2
      let a := p.1 - s.shadowAddr k 0
      -- the SRAM's 64-byte lines become halves of HBM codewords; a lost line poisons the codeword it goes into
      let lost := (st.bad 64 a p.2).filter fun x => x.2.lost
      let clean := (Store.correct 64 st (st.bad 64 a p.2)).bytes
      let d := s.phys.zero pa (pa + p.2)
      let bytes := Sparse.setAll (always 0) d.bytes ((Sparse.range clean a (a + p.2)).map fun e => (e.1 - a + pa, e.2))
      let chk := Sparse.setAll (always 0) d.chk (lost.map fun e => ((e.1 - a + pa) / 128 * 128, poisonDev))
      { s with phys := ⟨bytes, chk⟩ }
    | (s, _) => s) s
  let s := { s with pkg := { s.pkg with shadows := s.pkg.shadows.filter (· != k) } }
  if s.pkg.shadows.isEmpty then s.startMoved else s

/-! ### The step retry (R458, R459) -/

/-- Entered collectives that have not completed are aborted with COLL_PEER (R459 step 1); one in recovery completes so once its part of the recovery
ends (R421). -/
def Dev.abortAll (s : Dev) : Dev :=
  s.col.live.foldl (fun s c =>
    match c.st with
    | .exchanging => s.abortColl c 2 none
    | .entered => s.setColl { c with st := .ended 0x0402 }
    | .recovering => s.setColl { c with err := 2 }
    | _ => s) s

/-- The retry begins: own failures are told to every package, releases end, collectives are aborted. -/
def retryBegin (s : Dev) : Dev :=
  if s.flt.retrying || !(s.flt.retry || s.flt.noticed) || !s.running || s.closeDecided || s.job.hold = some 1 ||
     decide (s.fld fltCtlRetryMax ≤ s.job.retries) then s
  else
    let s := if s.flt.retry then s.notice 1 0 else s
    { s with flt := { s.flt with retrying := true } }.disarmFg.abortAll

/-- The retry ends, once no released foreground instance runs, no page that the discard clears is being moved (R255) and the barrier has
delivered its rendezvous time `tb`: the step is discarded, expulsions take effect, the foreground timetable is armed again (R459 steps 2 to 6). -/
def retryEnd (tb : Nat) (s : Dev) : Dev :=
  if !s.flt.retrying || s.fgRunning || !s.running || s.discardWaits then s else
  let s := s.discardStep.applyLeaving
  let n := s.job.retries + 1
  let s := { s with job := { s.job with retries := n }, flt := { s.flt with retry := false, noticed := false, retrying := false } }
  let s := s.armFg (ceil8 (tb + 500000))
  ((s.satFld fltStatusRetries 1).count pkgBlk 4 1).detect s.sysSrc 0x20 0 (s.fld sysStepStatusOrdinal % 2 ^ 32 + n * 2 ^ 32)

/-- STEP_RETRY (R459). -/
def retryEffect (tb : Option Nat) (s : Dev) : Dev :=
  match tb with
  | none => retryBegin s
  | some t => retryEnd t s

/-! ### Notices and lost packages (R460, R461) -/

/-- What every package does that finds package `p` lost or is told so: its replica unit is expelled with reason 0xFF, and the open step
is retried unless its close has decided; a replica group left without a member holds the job. -/
def Dev.loseUnit (s : Dev) (p : Nat) (unit : List Nat) (bare : Bool) : Dev :=
  if !s.inJob p || s.job.leaving.contains p then s else
  let s := s.expelUnit p 0xFF unit
  let s := if bare then s.raiseHold 3 else s
  if s.closeDecided then s else { s with flt := { s.flt with noticed := true } }

/-- NOTICE_RECEIVE (R460, R461): the notice that a package has written; one of another job or ordinal is ignored. `unit` holds the packages
of the lost package's norm group, `bare` says that some replica group loses its last member. -/
def noticeEffect (sender : Nat) (unit : List Nat) (bare : Bool) (s : Dev) : Dev :=
  if !s.on fltNoticeEn then s else
  match s.vRead (baseTlb s.pkg.lead) s.sysSrc 0 2 (s.fld fltNoticeBase * 65536 + 64 * sender) 64 with
  | (s, .data b e) =>
    if e.lost || leAt b 4 4 != s.fld sysJobStatusJobId || leAt b 8 8 != s.fld sysStepStatusOrdinal || !s.running then s
    else if leAt b 0 1 = 1 then
      if leAt b 0x10 4 = s.fld timTtStatusRound ∧ !s.closeDecided then { s with flt := { s.flt with noticed := true } } else s
    else if leAt b 0 1 = 2 then s.loseUnit (leAt b 2 2 % 8192) unit bare
    else s
  | (s, _) => s

/-- A package is lost to this one (R461): it has shown a new incarnation, or every path to it has been down for lost_ms. -/
def Dev.isLost (s : Dev) (p : Nat) : Bool :=
  s.fab.reborn.contains p ||
  (match Sparse.get (always 0) s.fab.dead p with
   | 0 => false
   | t => decide (t - 1 + 1000000 * s.fldOr fltCtlLostMs 1 ≤ s.real))

/-- PACKAGE_LOST (R461). -/
def packageLostEffect (p : Nat) (unit : List Nat) (bare : Bool) (s : Dev) : Dev :=
  if !s.running || !s.isLost p || p == s.ownPkg || !s.inJob p || s.job.leaving.contains p then s else
  let s := ((s.notice 2 p).detect s.sysSrc 0x1F 0 p).loseUnit p unit bare
  { s with fab := { s.fab with reborn := setDel s.fab.reborn p } }

/-- A probe along a path; an earlier one without an answer counts as a timeout of it (DEDUCED). -/
def Dev.probePath (s : Dev) (dst i : Nat) : Dev :=
  let k := 4 * dst + i
  let w := s.pathWord dst i
  if !pwV w || !s.portUp (pwPort w) then s else
  let late := s.fab.probes.any fun (p : Nat × Nat × Nat) => p.2.1 == k
  let s := if late then s.streak dst i else s
  let n := (s.fab.probe + 1) % 2 ^ 32
  let probes := s.fab.probes.filter (fun (p : Nat × Nat × Nat) => p.2.1 != k) ++ [(n, k, s.real)]
  { s with fab := { s.fab with probe := n, probes } }.controlOn w dst 7 1 0 0 n 0

/-- RENDEZVOUS_PROBE (R461): a collective that has waited at its rendezvous for more than 1 ms probes the members on every path. Which
of them it waits for its own state does not tell: every other member is probed. -/
def rendezvousProbeEffect (id : Nat) (s : Dev) : Dev :=
  match s.coll id with
  | none => s
  | some c =>
    if c.st ≠ .entered ∨ s.real < c.since + 1000000 then s else
    let l := ((c.mem ++ c.umem).filter fun p => p != s.ownPkg && !c.gone.contains p).eraseDups
    (l.foldl (fun s p => (List.range 4).foldl (fun s i => s.probePath p i) s) s).pump

/-- ALL_PORTS_OUT_OF_SERVICE (R455). -/
def allPortsOutEffect (s : Dev) : Dev :=
  match s.fab.deaf with
  | some t => if s.running && decide (t + 1000000 * s.fldOr fltCtlLostMs 1 ≤ s.real) then
      { s with fab := { s.fab with deaf := some s.real } }.detect (dieSrc s.pkg.lead 1) 0x51 3 0 else s
  | none => s

/-- FAULT_MESSAGE_LOG (R449). -/
def execFaultMessageLog (s : State) : Res := s.run messageLogEffect
/-- CORRECTED_MERGE_EXPIRY (R449). -/
def execCorrectedMergeExpiry (s : State) : Res := s.run mergeExpiryEffect
/-- SQUALL (R453). -/
def execSquall (src : Src) (kind : Fin 256) (s : State) : Res := s.run (squallEffect src kind)
/-- CORE_FENCE (R160). -/
def execCoreFence (core : Fin 512) (eng : Bool) (unit : Fin 5) (s : State) : Res := s.run (coreFenceEffect core eng unit)
/-- CLUSTER_FENCE (R456). -/
def execClusterFence (cluster : Fin 32) (f : ClusterFault) (s : State) : Res := s.run (clusterFaultEffect cluster f)
/-- COMPUTE_DIE_FENCE (R457). -/
def execComputeDieFence (f : DieFault) (s : State) : Res := s.run (dieFaultEffect f)
/-- SHADOW_COPY (R456). -/
def execShadowCopy (cluster : Fin 32) (s : State) : Res := s.run (shadowCopyEffect cluster)
/-- STEP_RETRY (R459). -/
def execStepRetry (tb : Option Nat) (s : State) : Res := s.run (retryEffect tb)
/-- NOTICE_RECEIVE (R460). -/
def execNoticeReceive (sender : Fin 8192) (unit : List Nat) (bare : Bool) (s : State) : Res := s.run (noticeEffect sender unit bare)
/-- PACKAGE_LOST (R461). -/
def execPackageLost (pkg : Fin 8192) (unit : List Nat) (bare : Bool) (s : State) : Res := s.run (packageLostEffect pkg unit bare)
/-- RENDEZVOUS_PROBE (R461). -/
def execRendezvousProbe (id : Nat) (s : State) : Res := s.run (rendezvousProbeEffect id)
/-- ALL_PORTS_OUT_OF_SERVICE (R455). -/
def execAllPortsOutOfService (s : State) : Res := s.run allPortsOutEffect

end Sys2Proof.Machine
end

