-- ==== Sys2Proof/Machine/Close.lean ====
section
/-! DEFINITION. Opening and closing a step (R166, R176 to R183, R209, R210, R225, R327, R331, R332, R352, R562). -/

namespace Sys2Proof.Machine

/-! ### Overrun -/

/-- STEP_OVERRUN (R327). -/
def stepOverrunEffect (s : Dev) : Dev :=
  let ms := s.fld sysSupvCtlStepToMs
  match s.job.opened with
  | some t =>
    if ms = 0 ∨ s.job.overrun ∨ s.leadNow ≤ t + 1000000 * ms then s
    else { s with job := { s.job with overrun := true } }.detect s.sysSrc 0x19 0 (s.fld sysStepStatusOrdinal)
  | none => s

/-! ### Statistics (R178, R562) -/

/-- Read `n` records of 32 bytes one after another as the firmware; what cannot be read is none, and its message is of class suspect. -/
def Dev.readRecs (s : Dev) (addr n : Nat) : Dev × List (Option (List Byte)) :=
  (List.range n).foldl (fun (acc : Dev × List (Option (List Byte))) i =>
    match acc.1.vRead (baseTlb acc.1.pkg.lead) acc.1.sysSrc 2 2 (addr + 32 * i) 32 with
    | (s, .data bs e) => (s, acc.2 ++ [if e.lost then none else some bs])
    | (s, _) => (s, acc.2 ++ [none])) (s, [])

/-- A record as a statistic: cleared where there is none. -/
def recStat : Option (List Byte) → Stat
  | some bs => Stat.decode bs
  | none => Stat.cleared

/-- Record `i` of the other packages' combined records. -/
def restRec (rest : List Byte) (i : Nat) : Stat := if rest.length < 32 * i + 32 then Stat.cleared else Stat.decode ((rest.drop (32 * i)).take 32)

/-! ### The planner (R177, R179) -/

/-- ⌈log₂ x⌉. -/
def clog2 (x : Nat) : Nat := if x ≤ 1 then 0 else Nat.log2 (x - 1) + 1

/-- The kind under which the planner treats an entry. -/
def planKind (e : List Byte) : Nat :=
  let k := bits (leAt e 8 1) 6 2
  if k = 3 ∨ leAt e 0xA 1 / 4 ≠ 0 ∨ leAt e 0xB 1 ≠ 0 ∨ leNat ((e.drop 0x12).take 14) ≠ 0 then 2 else k

/-- The entry for the next step (R179): `emax` is the window's largest pmax, `r` the global record of the ordinal, `next` the step counter
that the next step runs at. -/
def planEntry (e : List Byte) (emax : Int) (r : Stat) (next : Nat) : List Byte :=
  let h16 := bits (leAt e 8 1) 0 3
  let h8 := bits (leAt e 8 1) 3 3
  let stamp := natLe 4 (next % 2 ^ 32)
  let keep (a n : Nat) : List Byte := (e.drop a).take n
  match planKind e with
  | 0 =>
    let b0 := leAt e 3 1
    let b := if 0 < r.sat then Nat.min (b0 + leAt e 0xA 1) 7 else b0 - 1
    let h := h16 + b
    let s16 := if emax = -32768 then leAt e 0 1 else
      (max 1 (min 0xFE (emax + 113 + clog2 (leAt e 0xC 2) + h))).toNat
    let k := Nat.max (9 - h) (clog2 (leAt e 0xE 2) + h8 - h)
    let s8 := Nat.min (s16 + 6 + k) 0xFE
    natLe 1 s16 ++ natLe 1 s8 ++ keep 2 1 ++ natLe 1 b ++ stamp ++ keep 8 24
  | 1 =>
    let fp8 := leAt e 2 1
    let run := leAt e 0x10 2
    let w := leAt e 9 1 % 64 + 1
    let (fp8, run) :=
      if fp8 = 0 ∧ (0 < r.sat ∨ r.nz < r.uf * 1024) then (1, 0)
      else if fp8 = 1 ∧ w ≤ run ∧ emax ≤ 7 - (h16 : Int) then (0, 0)
      else (fp8, Nat.min (run + 1) 0xFFFF)
    keep 0 2 ++ natLe 1 fp8 ++ keep 3 1 ++ stamp ++ keep 8 8 ++ natLe 2 run ++ keep 0x12 14
  | _ => keep 0 4 ++ stamp ++ keep 8 24

/-- The largest pmax of plan index `i` over the window of `w` global slices up to ordinal `o` (R179); a slice before the ring's history
is not in it. -/
def Dev.windowMax (s : Dev) (o w i : Nat) (r : Stat) : Dev × Int :=
  (List.range (w - 1)).foldl (fun (acc : Dev × Int) j =>
    if o < j + 1 + s.job.planFrom || !s.on sysStatBaseEn then acc else
    match acc.1.vRead (baseTlb s.pkg.lead) s.sysSrc 2 2 (s.sliceAddr (64 + (o - (j + 1)) % 64) + 32 * i) 32 with
    | (t, .data bs e) => (t, if e.lost then acc.2 else max acc.2 (Stat.decode bs).pmax)
    | (t, _) => (t, acc.2)) (s, r.pmax)

/-- The planner (R179, R180). -/
def Dev.plan (s : Dev) (o next : Nat) (entries : List (Option (List Byte))) (recs : List Stat) : Dev :=
  (entries.zipIdx).foldl (fun s x =>
    match x.1 with
    | none => s
    | some e =>
      let r := recs.getD x.2 Stat.cleared
      let (s, m) := s.windowMax o (leAt e 9 1 % 64 + 1) x.2 r
      (s.vWrite (baseTlb s.pkg.lead) s.sysSrc 2 (s.fld sysPlanBaseBase * 65536 + 32 * x.2) (planEntry e m r next)).1) s

/-! ### The norm (R209, R210) -/

/-- S of the package. -/
def Dev.normSum (s : Dev) : Nat := Nat.min ((List.range 4).foldl (fun n d => n + (s.upd d).sum) 0) (2 ^ 96 - 1)

/-- norm and clip, formed from the sums L and H of the norm group's members (R210); a threshold that is not positive never clips
(R228). -/
def normClip (lo hi ref maxn : Nat) : Nat × Nat :=
  let g := rne32 (.fin false (hi * 2 ^ 48 + lo) 0)
  let norm := rne32 ((f32 (fSqrt g)).scale ((ref : Int) - 127))
  (norm, if (f32 0).lt (f32 maxn) && (f32 maxn).lt (f32 norm) then fDiv maxn norm else one32)

/-- Form the clip factor (R210); the registers report the norm of the step (R229). The firmware's SCALAR takes a sequence number of the norm group
(R419, R434). -/
def Dev.formClip (s : Dev) (lo hi : Nat) : Dev :=
  let s := s.normShow
  if !s.on updCtlNormEn then s.setFld updNormStatClip one32 else
  let p := s.normSum
  let g := s.fld updCtlNormGid
  let seqs := Sparse.set (always 0) s.col.seqs g ((Sparse.get (always 0) s.col.seqs g + 1) % 65536)
  let s := { s with col := { s.col with seqs } }.colShow
  let (norm, clip) := normClip (lo + p % 2 ^ 48) (hi + p / 2 ^ 48) (s.fld updNormAuxRef) (s.fld updMaxnormMaxn)
  (s.setFld updNormStatNorm norm).setFld updNormStatClip clip

/-- A page of the plan table is being moved. -/
def Dev.planMoving (s : Dev) : Bool := s.moving (s.fld sysPlanBaseBase * 65536) (32 * s.planN)

/-- The norm reference of the next step: the smallest s16 of the kind-0 entries that name it (R209). While neither the plan nor the norm is in
use, an entry that cannot be read counts for nothing and is not reported (DESIGN CHOICE; log entry 65). -/
def Dev.setNormRef (s : Dev) : Dev :=
  let (t, es) := s.readRecs (s.fld sysPlanBaseBase * 65536) s.planN
  let s := if s.on updCtlNormEn || s.on sysStepCtlPlanEn then t else s
  let next := s.step.toNat % 2 ^ 32
  let l := es.filterMap fun e => match e with
    | some e => if planKind e = 0 ∧ leAt e 4 4 = next then some (leAt e 0 1) else none
    | none => none
  s.setFld updNormAuxRef (match l with | [] => 1 | x :: xs => xs.foldl Nat.min x)

/-! ### Opening -/

/-- STEP_OPEN (R166, R332, R443, R561): the saturation counts of the step start at zero, the step is open; an admitted package runs,
its first slice clear and its norm reference set (R176, R209). -/
def stepOpenEffect (s : Dev) : Dev :=
  let s := match s.job.joining with
    | some t0 => if s.fld sysJobStatusState = 2 ∧ !s.sliceMoving (s.fld sysStepStatusOrdinal) ∧ !s.planMoving then
        (({ s with job := { s.job with joining := none } }.clearSlice (s.fld sysStepStatusOrdinal)).setNormRef.armFg t0).setFld
          sysJobStatusState 3 else s
    | none => s
  if !s.running || s.job.opened.isSome || s.job.close.isSome || (s.job.hold.isSome && s.job.hold != some 1) || s.flt.retrying then s else
  let s := (s.setFld memAccSatAccFg 0).setFld memAccSatAccBrz 0
  let s := (List.range 4).foldl (fun s d => s.setFld (colStatusSat.nth d) 0) s
  { s with job := { s.job with opened := some s.leadNow, overrun := false } }

/-! ### Deciding (R183, R327 steps 1 to 5) -/

/-- One arrival at a counter of each base-die domain (R352). -/
def Dev.closeArrive (s : Dev) (n : Nat) : Dev := (List.range 4).foldl (fun s d => s.arrive (32 + d) n) s

/-- The skip decision of R183 but for the update itself. -/
def Dev.decideSkip (s : Dev) (f : Bool) : Dev :=
  if !f then s else
  let run := Nat.min (s.fld sysStepStatusSkipRun + 1) 255
  let s := ((s.setFld sysStepStatusSkipRun run).satFld sysStepStatusSkipCount 1).setBit sysStepStatusLastSkip true
  let s := s.clearLedger.count sysBlk 1 1
  let lim := s.fld sysStepCtlSkipLimit
  if lim ≠ 0 ∧ lim ≤ run then s.raiseHold 2 else s

/-- What the close reads and writes before its decision is known lies on a page that is being moved: the close waits (R255). -/
def Dev.decideWaits (s : Dev) (f : Bool) : Bool :=
  (s.on sysStatBaseEn && s.moving s.statRing (4096 * s.planN)) || (s.on sysStepCtlPlanEn && s.planMoving) || (f && s.ledgerMoving)

/-- The first half of the close: waiting commits, statistics, clip, decision, plan, their arrivals (R178 to R183, R191, R210, R226, R352,
R562). -/
def closeDecide (rest : List Byte) (err : Bool) (lo hi : Nat) (s : Dev) : Dev :=
  match s.job.close with
  | none => s
  | some c =>
    if c.decided || !s.running || s.flt.retrying then s else
    let s0 := s
    let s := s.applyWaiting
    if s.decideWaits c.f then s0 else
    let o := s.fld sysStepStatusOrdinal
    let n := s.planN
    let (s, own) := if s.on sysStatBaseEn then s.readRecs (s.sliceAddr (o % 64)) n else (s, [])
    let (s, es) := if s.on sysStepCtlPlanEn then s.readRecs (s.fld sysPlanBaseBase * 65536) n else (s, [])
    let err := err || own.any (·.isNone) || es.any (·.isNone)
    let recs := (own.zipIdx).map fun x => (recStat x.1).fold (restRec rest x.2)
    let s := if s.on sysStatBaseEn then
        (s.vWrite (baseTlb s.pkg.lead) s.sysSrc 2 (s.sliceAddr (64 + o % 64)) (recs.flatMap Stat.encode)).1 else s
    let s := s.formClip lo hi
    let s := { s with job := { s.job with decided := some (s.fld timTtStatusRound, c.f), close := some { c with decided := true, err } } }
    let s := s.decideSkip c.f
    let s := if err then s.raiseHold 5 else s
    let s := (s.closeArrive 254).closeArrive 252
    let next := s.step.toNat + (if c.f then 0 else 1)
    (if s.on sysStepCtlPlanEn && !err then s.plan o next es recs else s).closeArrive 255

/-! ### The vote and the end (R225, R331) -/

/-- Update passes of kinds 1 and 2 of round `r` that have neither completed nor failed. -/
def Dev.passesLeft (s : Dev) (r : Nat) : Bool :=
  (s.disp.fg.ents.zipIdx).any fun x =>
    eKind x.1 == 3 && (eW0 x.1 % 4 == 1 || eW0 x.1 % 4 == 2) && decide (s.doneOf false x.2 ≤ r) && !s.disp.failed.contains (false, x.2)

/-- An update pass that the firmware runs has not ended (R321, R329). -/
def Dev.firmwarePasses (s : Dev) : Bool :=
  (List.range 4).any fun d => !(s.upd d).todo.isEmpty || (match (s.upd d).run with | some p => p.work.isNone && p.kind == 1 | none => false)

/-- The digest vote (R225): a majority expels the others, each with its replica unit; without one the job holds with cause 1. The reason
that a vote gives is not stated: a free value. -/
def Dev.vote (s : Dev) (own : List Byte) (votes : List Ballot) : Dev :=
  let g := s.members (s.fld updCtlRepGid)
  let l := (⟨s.ownPkg, own, []⟩ : Ballot) :: votes.filter fun b => g.contains b.pkg && b.pkg != s.ownPkg
  let n (b : Ballot) : Nat := (l.filter fun x => x.digest == b.digest).length
  let s := { s with job := { s.job with voteOwed := false }, flt := { s.flt with voted := s.fld fltSeqNext } }.count sysBlk 2 1
  match l.find? fun b => decide (l.length < 2 * n b) with
  | some w =>
    (l.filter fun b => b.digest != w.digest).foldl (fun s b =>
      let (k, s) := s.fresh
      s.expelUnit b.pkg ((Config.freeWord k).toNat % 256) b.unit) s
  | none => s.raiseHold 1

/-- A LAMB reduction that failed after the decision runs again once expulsions have taken effect (R458). -/
def Dev.lambAgain (s : Dev) : Dev :=
  let lamb (x : Bool × Nat) : Bool := !x.1 && (match s.disp.fg.ents[x.2]? with | some e => eKind e == 2 | none => false)
  if s.job.leaving.isEmpty || !s.disp.failed.any lamb then s
  else { s.applyLeaving with disp := { s.disp with failed := s.disp.failed.filter fun x => !lamb x } }

/-- The package digest: the XOR of the unit digests (R224). -/
def Dev.pkgDigest (s : Dev) : List W64 := (List.range 4).foldl (fun l d => xorLanes l (s.upd d).dig) [0, 0, 0, 0]

/-- The updated step of the units: step-end records, the package digest, the step counter (R183, R218, R224). -/
def Dev.applied (s : Dev) : Dev :=
  let tag := s.step.toNat + 1
  let s := (List.range 4).foldl (fun s d => s.exportEnd d tag) s
  let dg := s.pkgDigest
  let s := (List.range 4).foldl (fun s l => s.setFld (updDigestLane.nth l) (wordAt dg l).toNat) s
  ((s.setFld sysStepCountStep tag).setFld sysStepStatusSkipRun 0).setBit sysStepStatusLastSkip false

/-- A STOP with when = 0 completes at the end of the close (R321). -/
def Dev.stopAtClose (s : Dev) : Dev :=
  let at_ (c : RunCmd) : Bool := match c.what with | .stop false => true | _ => false
  if !s.job.cmds.any at_ then s else
  (if s.running then s.disarmFg.setFld sysJobStatusState 4 else s).endCmds at_ 0 s.step

/-- The second half of the close, once the update passes and repairs are through: step counter, norm reference, vote, arrivals, the
ordinal, membership; then what waited for the end of the close (R183, R209, R225, R321, R327, R328, R331, R352, R462). -/
def closeFinish (votes : List Ballot) (s : Dev) : Dev :=
  match s.job.close with
  | none => s
  | some c =>
    let r := s.fld timTtStatusRound
    if !c.decided || !s.running || (List.range 4).any (fun d => (s.upd d).torn.isSome) then s
    else if c.redo.isNone && s.passesLeft r then s.lambAgain
    else if c.redo.isSome && s.firmwarePasses then s
    else if s.planMoving || (!c.f && s.stepEndWaits) || s.sliceMoving (s.fld sysStepStatusOrdinal + 1) then s
    else
      let o := s.fld sysStepStatusOrdinal
      let s := if c.f then s else s.applied
      let own := digestBytes s.pkgDigest
      let s := s.setNormRef
      let told := s.job.leaving
      let due := s.on updCtlDgEn && !c.f && (s.step.toNat % (s.fld updCtlDgDM1 + 1) == 0 || c.vote || s.job.voteOwed)
      let s := if due then s.vote own votes
               else if c.f && c.vote && s.on updCtlDgEn then { s with job := { s.job with voteOwed := true } } else s
      let adv := c.redo.getD true
      let s := s.freshUnits.count sysBlk 0 1
      let s := if adv then (s.clearSlice (o + 1)).setFld sysStepStatusOrdinal (o + 1) else s
      -- a close taken up by START stands before round 0 of the new arming: its arrival is made all the same (R352)
      let s := s.closeArrive 253
      let s := if c.redo.isSome then s else s.setFld timTtStatusRound (r + 1)
      let s := { s with job := { s.job with close := none, opened := none, overrun := false, retries := 0,
                                            barred := s.job.leaving.filter fun p => !told.contains p },
                        flt := { s.flt with retry := false, noticed := false } }.applyLeaving
      let s := match s.job.hold with
        | some 1 => if s.disp.fg.ents.any onVote then s else s.holdJob 1
        | some k => s.holdJob k
        | none => s
      (s.stopAtClose.endCmds (fun c => c.what == .expel) 0 s.step).stopSettle

/-- STEP_CLOSE (R327). -/
def stepCloseEffect (p : ClosePart) (s : Dev) : Dev :=
  match p with
  | .decide rest err lo hi => closeDecide rest err lo hi s
  | .finish votes => closeFinish votes s

/-! ### Admission (R332) -/

/-- The update entries of the foreground timetable: unit, first and last descriptor (R347). -/
def Dev.updateRanges (s : Dev) : List (Nat × Nat × Nat) :=
  (s.disp.fg.ents.filter fun e => eKind e == 3 && eW0 e % 4 == 1).map fun e => (eDisp e - 32, bits (eW0 e) 16 12, bits (eW0 e) 32 12)

/-- Every descriptor of the update entries, with its unit, satisfies `p`. -/
def Dev.allDescs (s : Dev) (p : Nat → Nat → Bool) : Bool :=
  s.updateRanges.all fun x => (List.range (x.2.2 + 1 - x.2.1)).all fun i => p x.1 (x.2.1 + i)

/-- Copy the descriptors of a newcomer: some false when a digest differs from its source or a descriptor cannot be read, none when a page is being
moved. -/
def Dev.copyShard (s : Dev) : List (Nat × Nat × List (List Byte)) → Dev × Option Bool
  | [] => (s, some true)
  | (d, desc, arrs) :: l =>
    if s.moving (s.updTable d + 0x10000 + 128 * desc) 128 then (s, none) else
    match s.descOf d desc with
    | (s, none) => (s, some false)
    | (s, some q) =>
      match s.uWrite d (copyPieces q (s.updTable d) desc arrs) with
      | (s, .wait) => (s, none)
      | (s, _) =>
        if s.stateDigest d q == some ((List.range 4).map fun i => BitVec.ofNat 64 (leAt (arrs.getD 7 []) (8 * i) 8)) then Dev.copyShard s l
        else (s, some false)

/-- The lowest-numbered member in service of the replica group outside a unit: a path to it is in service. -/
def Dev.admitSource (s : Dev) (unit : List Nat) : Option Nat :=
  ((s.members (s.fld updCtlRepGid)).filter fun p => !unit.contains p && p != s.ownPkg && [0, 1, 2, 3].any (s.pathUp p)).min?

/-- The residual buffers that the foreground timetable's collectives name: first byte and length (R427). -/
def Dev.residAreas (s : Dev) : Dev × List (Nat × Nat) :=
  (s.disp.fg.ents.filter fun e => eKind e == 2).foldl (fun (acc : Dev × List (Nat × Nat)) e =>
    let d := eDisp e - 32
    match acc.1.vRead (baseTlb d) (colSrc d) 0 2 (bits (eW0 e) 0 52) 64 with
    | (s, .data bs x) =>
      let q := descWords bs
      let mem := s.members (cGid q)
      if x.lost || !cHier q || !cRes q || !mem.contains s.ownPkg then (s, acc.2)
      else (s, acc.2 ++ [(cAddr q 7, 2 * residLen (32 * (lowerChunk q mem.length (rankIn mem s.ownPkg)).2))])
    | (s, _) => (s, acc.2)) (s, [])

/-- REPLICA_ADMISSION (R332): a newcomer copies every descriptor of its shard from the member that it chooses, checks it, writes its residual buffers as zero
(R428), and is to run at the next open; a member takes the unit back. A unit that the vote of the latest close has expelled waits for a later close
(R336). -/
def admissionEffect (a : Admission) (s : Dev) : Dev :=
  let admits (c : RunCmd) : Bool := match c.what with | .admits _ => true | _ => false
  let ends (s : Dev) (st : Nat) (result : W64) : Dev := ({ s with job := { s.job with copying := false } }.endCmds admits st result).colShow
  if s.job.close.isSome || s.job.opened.isSome || a.unit.any s.job.leaving.contains || a.unit.any s.job.barred.contains then s
  else if s.job.cmds.any admits then
    if s.fld sysJobStatusState ≠ 2 || !a.unit.contains s.ownPkg || s.admitSource a.unit != some a.src ||
       !s.allDescs (fun d desc => a.copies.any fun c => c.1 == d && c.2.1 == desc) then s else
    match s.copyShard a.copies with
    | (_, none) => { s with job := { s.job with copying := true } }
    | (s, some false) => ends s 0x020A 0
    | (s, some true) =>
      let t := { s with job := { s.job with expelled := s.job.expelled.filter fun p => !a.unit.contains p, joining := some a.t0 },
                        col := { s.col with zeroAt := a.step.toNat + 1 } }
      let (t, l) := t.residAreas
      if l.any fun x => s.moving x.1 x.2 then { s with job := { s.job with copying := true } } else
      let t := l.foldl (fun t x => t.zeroRange x.1 x.2) t
      (ends (t.setFld sysStepCountStep a.step.toNat) 0 a.step).count sysBlk 4 1
  else if s.running then
    { s with job := { s.job with expelled := s.job.expelled.filter fun p => !a.unit.contains p } }.colShow.count sysBlk 4 1
  else s

/-- REPLICA_ADMIT_TIMEOUT (R332). -/
def admitTimeoutEffect (s : Dev) : Dev :=
  let late (c : RunCmd) : Bool := match c.what with | .admits t => decide (t ≤ s.real) | _ => false
  if s.job.copying then s else s.endCmds late 0x0206 0

/-- CALM_ENTER_TIMEOUT (R324): 10 ms after its start a calm that is not reached is given up, and the traffic resumes. -/
def calmTimeoutEffect (s : Dev) : Dev :=
  let late (c : RunCmd) : Bool := match c.what with | .calm t _ => decide (t + 10000000 ≤ s.real) | _ => false
  let l := s.job.cmds.filter late
  let s := l.foldl (fun s c =>
    let s := match c.what with
      | .calm _ (some g) => { s with col := { s.col with calm := setDel s.col.calm g } }
      | .calm _ none => s.setBit fabCalmHost false
      | _ => s
    s.endCmd c 0x0206 0) s
  if l.isEmpty then s else s.pump

/-- STEP_OPEN (R166). -/
def execStepOpen (s : State) : Res := s.run stepOpenEffect
/-- STEP_OVERRUN (R327). -/
def execStepOverrun (s : State) : Res := s.run stepOverrunEffect
/-- STEP_CLOSE (R327). -/
def execStepClose (part : ClosePart) (s : State) : Res := s.run (stepCloseEffect part)
/-- REPLICA_ADMISSION (R332). -/
def execReplicaAdmission (a : Admission) (s : State) : Res := s.run (admissionEffect a)
/-- REPLICA_ADMIT_TIMEOUT (R332). -/
def execReplicaAdmitTimeout (s : State) : Res := s.run admitTimeoutEffect
/-- CALM_ENTER_TIMEOUT (R324). -/
def execCalmEnterTimeout (s : State) : Res := s.run calmTimeoutEffect

end Sys2Proof.Machine
end

