-- ==== Sys2Proof/Machine/CmdOps.lean ====
section
/-! DEFINITION. What the commands of the command set share (R306 to R314): the body and its reserved bytes, classes, states, buffers,
completion. -/

namespace Sys2Proof.Machine

/-! ### The body (R306, R315) -/

/-- The field of `n` bytes at offset `o` of the entry; the body begins at 0x08. -/
def bf (b : List Byte) (o n : Nat) : Nat := leAt b (o - 8) n

/-- Every body byte outside the fields (offset and size) is zero. -/
def bodyClean (fields : List (Nat × Nat)) (b : List Byte) : Bool :=
  (b.zipIdx).all fun x => x.1 == 0 || fields.any fun f => decide (f.1 ≤ x.2 + 8) && decide (x.2 + 8 < f.1 + f.2)

/-- Bits [hi:lo] of a field are zero. -/
def resv (b : List Byte) (o n lo : Nat) : Bool := bf b o n / 2 ^ lo == 0

/-! ### Classes, states, fatal faults (R307, R311 to R313) -/

/-- How a command that has started ends: at once with a status and a result, waiting for something, or not yet, to be met again. -/
inductive CmdEnd where
  | done (s : Dev) (status : Nat) (result : W64)
  | wait (s : Dev) (what : Waiting)
  | later (s : Dev)
  deriving DecidableEq, Repr

/-- Class J, F or R (R307). -/
def clsJ : Nat := 0
/-- Class F. -/
def clsF : Nat := 1
/-- Class R. -/
def clsR : Nat := 2

/-- A command of the class runs; a POWER_CAP that waits for its time does not hold its class (DESIGN CHOICE). -/
def Dev.classBusy (s : Dev) (cls : Nat) : Bool :=
  s.job.cmds.any fun c => c.cls == cls && (match c.what with | .cap _ _ => false | _ => true)

/-- The package holds a fatal fault (R311). -/
def Dev.hasFatal (s : Dev) : Bool := s.fld sysJobStatusState == 7 || s.flt.uncl.any fun r => r.msg.cls == 3

/-- The job state of R312. -/
def Dev.jobState (s : Dev) : Nat := s.fld sysJobStatusState

/-- A status of class 0x02 (R314). -/
def st2 (code : Nat) : Nat := 0x0200 + code

/-- A command that ends with a status of R314 and has changed nothing else. -/
def Dev.ends (s : Dev) (code : Nat) : CmdEnd := .done s (st2 code) 0

/-- A command that succeeds. -/
def Dev.ok (s : Dev) (result : Nat := 0) : CmdEnd := .done s 0 (BitVec.ofNat 64 result)

/-- The class of the command of opcode `op` (R313). -/
def classOf (op : Nat) : Nat :=
  if op = 0x0A ∨ op = 0x0B then clsF
  else if op = 0x01 ∨ op = 0x0C ∨ op = 0x0D ∨ op = 0x16 ∨ op = 0x17 then clsR
  else clsJ

/-- The command entry that starts next in its class: the first fetched of those not started (R307). -/
def Dev.nextCmd (s : Dev) (cls : Nat) : Option Entry :=
  s.que.run.find? fun x => !x.started && !(s.que.held.any fun h => h.sq == x.q) && (s.qctx x.q).kind == 0 && classOf (leAt x.bytes 0 1) == cls

/-- The command of opcode `op` that `e` spells has its turn: the lead is command-ready, its class is free, and the entry is the next of the
class (R307, R487). -/
def Dev.cmdTurn (s : Dev) (op : Nat) (e : SubEntry) (cls : Nat) : Bool :=
  s.on dieBootReady && !s.classBusy cls && !s.pausedUnit ⟨.complex, 0⟩ &&
  (match s.nextCmd cls with | some x => x.q == e.q && x.bytes == entryBytes op e | none => false)

/-- A command that waits for `w`, as it was issued in state `s`. -/
def Dev.runCmd (s : Dev) (e : SubEntry) (cls : Nat) (w : Waiting) : RunCmd :=
  ⟨e.q, e.cid, e.quiet, cls, w, s.disp.fg.armed, s.disp.brz.armed, s.disp.halt⟩

/-- Issue the command of opcode `op` (R306, R307, R309, R311, R313) once it has its turn: reserved bytes and bits, the fatal fault unless the
command is exempt, the job state, its effect; and its completion. One that cannot go on yet keeps its turn. -/
def Dev.command (s : Dev) (op : Nat) (e : SubEntry) (cls : Nat) (fields : List (Nat × Nat)) (clean : List Byte → Bool) (exempt : Bool)
    (states : List Nat) (f : List Byte → Dev → CmdEnd) : Dev :=
  let b := padTo 56 e.body
  if !s.cmdTurn op e cls then s
  else if !bodyClean fields b || !clean b then s.complete e.q e.cid e.quiet 0x0102 0
  else if s.hasFatal && !exempt then s.complete e.q e.cid e.quiet (st2 0xF) 0
  else if !states.contains s.jobState then s.complete e.q e.cid e.quiet (st2 2) 0
  else
    match f b s with
    | .done s st r => s.complete e.q e.cid e.quiet st r
    | .wait s' w => ({ s'.startNext e.q with job := { s'.job with cmds := s'.job.cmds ++ [s.runCmd e cls w] } } : Dev).stopSettle
    | .later s => s

/-- Every job state. -/
def anyState : List Nat := [0, 1, 2, 3, 4, 5, 6, 7]

/-! ### Buffers (R308) -/

/-- A buffer address keeps the rules of R308. -/
def bufOk (a : Nat) : Bool := a % 64 == 0 && (bit a 63 || a / 2 ^ 52 == 0)

/-- What reading or writing a buffer gives. -/
inductive Buf where
  | ok (bs : List Byte)
  | wait
  | bad
  deriving DecidableEq, Repr

/-- Read `n` bytes of a buffer; `host` is what host memory holds from its address on. A word that cannot be read counts as a buffer that
breaks R308. -/
def Dev.bufRead (s : Dev) (a n : Nat) (host : List Byte) : Dev × Buf :=
  if !bufOk a then (s, .bad)
  else if bit a 63 then (s, .ok (padTo n host))
  else
    match s.vRead (baseTlb 0) (dieSrc 0 5) 0 2 a n with
    | (s, .data bs e) => (s, if e.lost then .bad else .ok bs)
    | (s, .wait _) => (s, .wait)
    | (s, .fail) => (s, .bad)

/-- Write a buffer. -/
def Dev.bufWrite (s : Dev) (a : Nat) (bs : List Byte) : Dev × Buf :=
  if !bufOk a then (s, .bad)
  else if bit a 63 then (s.sendHost (.hostWrite (a % 2 ^ 63) bs), .ok [])
  else
    match s.vWrite (baseTlb 0) (dieSrc 0 5) 0 a bs with
    | (s, .done) => (s, .ok [])
    | (s, .wait _) => (s, .wait)
    | (s, .fail) => (s, .bad)

/-- Go on with the bytes of a buffer; without them the command ends with ADDR or is met again. -/
def Dev.withBuf (s : Dev) (a n : Nat) (host : List Byte) (f : List Byte → Dev → CmdEnd) : CmdEnd :=
  match s.bufRead a n host with
  | (s, .ok bs) => f bs s
  | (s, .wait) => .later s
  | (s, .bad) => s.ends 4

/-- Write a buffer, then end with a result. -/
def Dev.intoBuf (s : Dev) (a : Nat) (bs : List Byte) (result : Nat) : CmdEnd :=
  match s.bufWrite a bs with
  | (s, .ok _) => s.ok result
  | (s, .wait) => .later s
  | (s, .bad) => s.ends 4

/-! ### Units (R322, R315) -/

/-- A unit that FENCE and UNFENCE name. -/
inductive FUnit where
  | core (c : Nat)
  | cluster (k : Nat)
  | die (d : Nat)
  | port (p : Nat)
  | lateral (l m : Nat)
  | pc (stack pc : Nat)
  deriving DecidableEq, Repr

/-- The unit of a kind and number, when they are in range. -/
def fUnit (kind num : Nat) : Option FUnit :=
  match kind with
  | 0 => if num < 512 then some (.core num) else none
  | 1 => if num < 32 then some (.cluster num) else none
  | 2 => if num < 4 then some (.die num) else none
  | 3 => if num < 16 then some (.port num) else none
  | 4 => if num < 32 then some (.lateral (num / 8) (num % 8)) else none
  | 5 => if num < 1024 then some (.pc (num / 64) (num % 64)) else none
  | _ => none

/-- The unit is fenced. -/
def Dev.isFenced (s : Dev) : FUnit → Bool
  | .core c => s.pkg.fences.cores.contains c
  | .cluster k => s.pkg.fences.clusters.contains k
  | .die d => s.pkg.fences.dies.contains d
  | .port p => s.on (fabPortFenced.nth p)
  | .lateral l m => s.on (dieLat l m 5 1)
  | .pc st pc => bit (s.fld (memPcFencedFenced.nth st)) pc

/-- A message's source lies in the unit (R446). -/
def FUnit.sent (u : FUnit) (r : Src) : Bool :=
  match u with
  | .core c => decide (r.level ≤ 1) && 128 * r.die + 16 * r.cluster + r.core == c
  | .cluster k => r.level == 2 && 8 * r.die + r.cluster == k
  | .die d => r.level == 3 && r.unit == 0 && r.die == d
  | .port p => r.level == 4 && r.unit == 3 && r.core == p
  | .lateral l m => r.level == 3 && r.unit == 3 && r.die == l && r.cluster == m
  | .pc _ _ => false

/-- The unit that a message's source names. -/
def srcUnit (r : Src) : Option FUnit :=
  match r.level with
  | 0 | 1 => some (.core (128 * r.die + 16 * r.cluster + r.core))
  | 2 => some (.cluster (8 * r.die + r.cluster))
  | 3 => if r.unit = 0 then some (.die r.die) else if r.unit = 3 then some (.lateral r.die r.cluster) else none
  | 4 => if r.unit = 3 then some (.port r.core) else none
  | _ => none

/-- The package is in calm, or its job does not run (R322). -/
def Dev.calmOrIdle (s : Dev) : Bool := s.on fabCalmCalm || !s.running

/-- Calm of a group, or of the package (R324). -/
def Dev.tableCalm (s : Dev) (g : Nat) : Bool := s.groupCalm g || s.on fabCalmCalm

/-! ### Caps (R547) -/

/-- PWR_CAP shows the cap in force (R547, R560). -/
def Dev.capShow (s : Dev) : Dev :=
  let brown := s.on pwrStatusBrown
  (s.setFld pwrCapCapW (if brown then 1200 else Nat.min (s.fld pwrCapHostW) (s.fld pwrCapBoardW))).setBit pwrCapBrownCap brown

end Sys2Proof.Machine
end

