-- ==== Sys2Proof/Machine/JobCmds.lean ====
section
/-! DEFINITION. The commands that identify the package and prepare, start and stop a job (R316 to R321, R324, R328 to R330, R411 to R413). -/

namespace Sys2Proof.Machine

/-! ### IDENTIFY (R316) -/

/-- A set of unit numbers as bits. -/
def bitsOf (l : List Nat) : Nat := l.foldl (fun n i => n + if bit n i then 0 else 2 ^ i) 0

/-- Pseudo-channel indexes fenced on some stack of a list: each takes 1/64 of the frames of the window over those stacks (R247). -/
def Dev.pcsFenced (s : Dev) (sts : List Nat) : Nat :=
  ((List.range 64).filter fun pc => sts.any fun st => bit (s.fld (memPcFencedFenced.nth st)) pc).length

/-- HBM bytes backed, after retirement (R234, R247). -/
def Dev.hbmBacked (s : Dev) : Nat :=
  (List.range 4).foldl (fun n d => n + 4 * (62 - s.ilv) * gib / 64 * (64 - s.pcsFenced [4 * d, 4 * d + 1, 4 * d + 2, 4 * d + 3])) 0 +
  16 * s.ilv * gib / 64 * (64 - s.pcsFenced (List.range 16))

/-- The version field of a bundle (R494). -/
def bundleVersion (b : List Byte) : Nat := leAt b 8 4

/-- The 4 KiB record (R316). -/
def Dev.identity (s : Dev) : List Byte :=
  let lat := (List.range 32).filter fun i => s.on (dieLat (i / 8) (i % 8) 5 1)
  let amd := match s.sec.active with | some b => bundleVersion b | none => 0
  padTo 4096 (
    natLe 2 Config.vendorId.toNat ++ natLe 2 0x4716 ++ natLe 1 s.featLevel ++ natLe 1 s.pkg.lead ++ natLe 2 s.jobState ++
    padTo 16 s.sec.serial ++ natLe 8 (s.reg dieStepCdStep0.off).toNat ++ natLe 8 (s.fld dieCapCap) ++
    natLe 4 Config.romVersion.toNat ++ natLe 4 amd ++ natLe 4 (b2n s.sec.amdBad) ++ natLe 12 0 ++
    natLe 64 (bitsOf s.pkg.fences.cores) ++ natLe 4 (bitsOf s.pkg.fences.clusters) ++ natLe 2 (bitsOf s.pkg.fences.dies) ++
    natLe 2 (bitsOf ((List.range 16).filter s.portUp)) ++ natLe 4 (bitsOf lat) ++ natLe 4 0 ++
    ((List.range 16).flatMap fun st => natLe 1 (s.pcsFenced [st])) ++ natLe 8 s.hbmBacked ++
    natLe 2 (if s.jobState = 0 then 0xFFFF else s.fld sysJobStatusPkg) ++ natLe 6 0 ++ natLe 8 s.leadNow ++ natLe 72 0 ++
    ((List.range 16).flatMap fun st => natLe 8 (s.fld (memPcFencedFenced.nth st))))

/-- IDENTIFY: result feature level and lead. -/
def identifyEffect (e : SubEntry) (s : Dev) : Dev :=
  s.command 0x01 e clsR [(8, 8)] (fun _ => true) true anyState fun b s =>
    s.intoBuf (bf b 8 8) s.identity (s.featLevel + 2 ^ 8 * s.pkg.lead)

/-! ### JOB_OPEN and JOB_CLOSE (R318) -/

/-- Return the registers of a set to their reset values. -/
def Dev.resetRegs (s : Dev) (p : Nat → Bool) : Dev :=
  { s with regs := { s.regs with act := s.regs.act.filter fun e => !p e.1 } }

/-- Every field that JOB_OPEN returns to its reset value (R318, R373, R443, R466, R560, R561). -/
def Dev.openRegs (s : Dev) : Dev :=
  let s := s.resetRegs fun o => (decide (0x40 ≤ o) && decide (o ≤ 0x60)) || (decide (0x7000 ≤ o) && decide (o < 0x8000)) ||
    o == timTtStatusRound.off || o == timRebaseB.off || o == memAccSatAccFg.off
  let s := (s.setFld timBrzCtlYields 0).setFld timBrzCtlYieldMax 0
  let s := s.setFld timBrzCtlGapUs 4
  let s := (List.range 4).foldl (fun s d => s.resetRegs fun o => o == (colStatusSat.nth d).off) s
  (({ s with pwr := { s.pwr with held := 0 } }.setFld fltStatusRetries 0).setFld pwrStatusHoldMs 0).colShow

/-- The update units of a job that opens: their sinks stand, and a pass that a pass record holds (R217). -/
def Dev.openUnits (s : Dev) : Dev :=
  let fresh (u : Upd) : Upd := { Upd.cold with sink := u.sinkNew.getD u.sink, run := u.run }
  (List.range 4).foldl (fun s d => s.setUpd d (fresh (s.upd d))) s

/-- The job that is open has just these parameters (R310). -/
def Dev.sameJob (s : Dev) (b : List Byte) : Bool :=
  s.jobState != 0 && s.job.seed.toNat == bf b 8 8 && s.fld sysJobStatusJobId == bf b 0x18 4 && s.fld sysJobStatusPkg == bf b 0x1C 2 &&
  s.job.policy == bf b 0x1F 1 && s.job.step0.toNat == bf b 0x10 8 && s.job.flReq == bf b 0x1E 1

/-- JOB_OPEN. -/
def jobOpenEffect (e : SubEntry) (s : Dev) : Dev :=
  s.command 0x02 e clsJ [(8, 24)] (fun b => resv b 0x1C 2 13) false anyState fun b s =>
    let fl := bf b 0x1E 1
    if s.jobState ≠ 0 then (if s.sameJob b then s.ok else s.ends 2)
    else if bf b 0x18 4 = 0 ∨ 2 < fl ∨ 2 < bf b 0x1F 1 ∨ bf b 0x1C 2 ≠ s.ownPkg then s.ends 3
    else if fl ≠ 0 ∧ fl ≠ s.featLevel then s.ends 9
    else
      let s := (s.clearJob true).openRegs.openUnits
      let s := { s with disp := { s.disp with halt := false },
                        job := { s.job with seed := BitVec.ofNat 64 (bf b 8 8), policy := bf b 0x1F 1,
                                            step0 := BitVec.ofNat 64 (bf b 0x10 8), flReq := fl } }
      let s := (s.setFld sysStepCountStep (bf b 0x10 8)).setFld sysJobStatusState 1
      (((s.setFld sysJobStatusJfCause 0).setFld sysJobStatusPkg (bf b 0x1C 2)).setFld sysJobStatusJobId (bf b 0x18 4)).ok

/-- JOB_CLOSE: the breeze stops at its lulls; what it waits for ends it (Dev.stopSettle). -/
def jobCloseEffect (e : SubEntry) (s : Dev) : Dev :=
  s.command 0x03 e clsJ [] (fun _ => true) true [1, 2, 4, 5, 6, 7] fun _ s => .wait s.haltBrz .close

/-! ### JOB_LOAD (R317, R319) -/

/-- A section of a job image. -/
structure Sect where
  dst  : Nat
  off  : Nat
  len  : Nat
  kind : Nat
  deriving DecidableEq, Repr

/-- Section entry `i`. -/
def sectAt (img : List Byte) (i : Nat) : Sect :=
  let e := img.drop (64 + 32 * i)
  ⟨leAt e 0 8, leAt e 8 8, leAt e 16 8, leAt e 24 1⟩

/-- The sections of a well-formed image; none when something is malformed. -/
def Dev.sections (s : Dev) (img : List Byte) : Option (List Sect) :=
  let n := leAt img 4 4
  if img.length < 64 ∨ leAt img 0 4 ≠ 0x494A544B ∨ leNat ((img.drop 8).take 56) ≠ 0 ∨ n = 0 ∨ 4096 < n ∨ img.length < 64 + 32 * n then none
  else
    let l := (List.range n).map (sectAt img)
    let fits (x : Sect) : Bool := decide (x.off + x.len ≤ img.length) && decide (x.kind ≤ 2) &&
      (x.kind == 2 || decide (x.dst + x.len ≤ 2 ^ 52)) &&
      (x.kind != 1 || (x.dst == s.fld sysPlanBaseBase * 65536 && x.len == 32 * s.planN)) && (x.kind != 2 || x.len == 1024)
    if l.all fits && (List.range n).all (fun i => leNat ((img.drop (64 + 32 * i + 25)).take 7) == 0) &&
       (s.job.members.isSome || l.any fun x => x.kind == 2)
    then some l else none

/-- Translate every destination before anything is copied. -/
def Dev.sectsReach (s : Dev) : List Sect → Dev × Buf
  | [] => (s, .ok [])
  | x :: l =>
    if x.kind = 2 then Dev.sectsReach s l else
    match s.xlateRange (baseTlb 0) (dieSrc 0 5) 0 x.dst x.len true with
    | (s, .ok _) => Dev.sectsReach s l
    | (s, .wait _) => (s, .wait)
    | (s, .fail) => (s, .bad)

/-- Copy one section. -/
def Dev.copySect (s : Dev) (img : List Byte) (x : Sect) : Dev :=
  let bs := (img.drop x.off).take x.len
  if x.kind = 2 then { s with job := { s.job with members := some bs } }
  else if bs.isEmpty then s else (s.vWrite (baseTlb 0) (dieSrc 0 5) 0 x.dst bs).1

/-- JOB_LOAD: sections in table order; result the bytes written to memory. -/
def jobLoadEffect (e : SubEntry) (host : List Byte) (s : Dev) : Dev :=
  s.command 0x04 e clsJ [(8, 16)] (fun _ => true) false [1, 2, 4, 5] fun b s =>
    s.withBuf (bf b 8 8) (bf b 0x10 8) host fun img s =>
      match s.sections img with
      | none => s.ends 0xE
      | some l =>
        match s.sectsReach l with
        | (s, .wait) => .later s
        | (s, .bad) => s.ends 4
        | (s, .ok _) =>
          (l.foldl (fun s x => s.copySect img x) s).colShow.ok (l.foldl (fun n x => if x.kind = 2 then n else n + x.len) 0)

/-! ### GROUP_DEFINE and MAP_INSTALL (R324, R408, R411 to R413) -/

/-- Two terms match a common package number. -/
def termsMeet (a b : Nat × Nat) : Bool := (a.1 &&& b.1 &&& (a.2 ^^^ b.2)) == 0

/-- The groups that are defined. -/
def Dev.groupCount (s : Dev) : Nat := s.col.groups.length

/-- GROUP_DEFINE. -/
def groupDefineEffect (e : SubEntry) (s : Dev) : Dev :=
  s.command 0x05 e clsJ [(8, 6)] (fun b => resv b 0xA 2 13 && resv b 0xC 2 13) false [1, 2, 3, 4, 5] fun b s =>
    let g := bf b 8 1
    let op := bf b 9 1
    let t := (bf b 0xA 2, bf b 0xC 2)
    let old := s.terms g
    if 1 < op then s.ends 3
    else if !s.tableCalm g then s.ends 5
    else if op = 1 then
      { s with col := { s.col with groups := Sparse.set (always []) s.col.groups g [],
                                   seqs := Sparse.set (always 0) s.col.seqs g 0 } }.colShow.ok
    else if t.2 &&& t.1 ≠ t.2 ∨ 8 ≤ old.length ∨ old.any (termsMeet t) then s.ends 3
    else if old.isEmpty ∧ 256 ≤ s.groupCount then s.ends 0x10
    else { s with col := { s.col with groups := Sparse.set (always []) s.col.groups g (old ++ [t]) } }.colShow.ok

/-- The entries of a map image that keeps R411 and R413; none when it breaks them. -/
def parseMap (img : List Byte) : Option (List MapEnt) :=
  let m := leAt img 6 2
  if img.length < 32 ∨ leAt img 0 4 ≠ 0x4D47544B ∨ leAt img 4 2 ≠ 1 ∨ 64 < m ∨ leNat ((img.drop 8).take 24) ≠ 0 ∨ img.length ≠ 32 + 32 * m then none
  else
    let raw := (List.range m).map fun i => (img.drop (32 + 32 * i)).take 32
    let l : List MapEnt := raw.map fun e => ⟨leAt e 0 1, leAt e 1 1, leAt e 2 2, leAt e 4 2, leAt e 6 1⟩
    let one (x : MapEnt) : Bool := decide (x.alg ≤ 1) && decide (1 ≤ x.wbase) && decide (1 ≤ x.wn) && decide (x.wn ≤ 64) &&
      decide (x.wbase + x.wn ≤ 4096)
    let apart (x y : MapEnt) : Bool := x.gid != y.gid && (decide (x.wbase + x.wn ≤ y.wbase) || decide (y.wbase + y.wn ≤ x.wbase))
    let pairs := (l.zipIdx).all fun x => (l.zipIdx).all fun y => x.2 == y.2 || apart x.1 y.1
    if raw.all (fun e => leNat ((e.drop 7).take 25) == 0) && l.all one && pairs then some l else none

/-- MAP_INSTALL: calm of every group of the new image and of the slot's present map. -/
def mapInstallEffect (e : SubEntry) (host : List Byte) (s : Dev) : Dev :=
  s.command 0x06 e clsJ [(8, 1), (0x10, 8), (0x18, 4)] (fun _ => true) false [1, 2, 3, 4, 5] fun b s =>
    let slot := bf b 8 1
    if 3 < slot then s.ends 3 else
    s.withBuf (bf b 0x10 8) (bf b 0x18 4) host fun img s =>
      match parseMap img with
      | none => s.ends 0xE
      | some l =>
        let old : List MapEnt := Sparse.get (always []) s.col.maps slot
        if !(l ++ old).all fun x => s.tableCalm x.gid then s.ends 5
        else
          let s := { s with col := { s.col with maps := Sparse.set (always []) s.col.maps slot l } }
          (if bit (s.fld colMapLoaded) slot then s else s.setFld colMapLoaded (s.fld colMapLoaded + 2 ^ slot)).colShow.ok

/-! ### TIMETABLE_SUBMIT (R319, R345 to R349, R366) -/

/-- Work of the breeze timetable. -/
def Work.ofBreeze (w : Work) : Bool := w.brz && w.one.isNone

/-- What the old breeze timetable left, all of it yielded, goes (R319). -/
def Dev.dropBreeze (s : Dev) : Dev :=
  let of (w : Option Work) : Bool := match w with | some w => w.ofBreeze | none => false
  let s := s.cores.foldl (fun s (e : Nat × Core) =>
    if of (e.2.saved.map fun v => v.work) then s.onCore e.1 fun k => { k with saved := none } else s) s
  let s := s.chans.foldl (fun s (e : Nat × Chan) => if of e.2.work then s.setChan e.1 Chan.idle else s) s
  let s := (List.range 4).foldl (fun s d =>
    let u := s.upd d
    let gone := (u.run.toList ++ u.kept).filter fun p => of p.work
    let left := (u.run.toList ++ u.kept).filter fun p => !of p.work
    let s := if (u.run.filter fun p => of p.work && p.rec_.isSome).isSome then s.passFlags d 0 else s
    if gone.isEmpty then s else (s.setUpd d { s.upd d with run := left.head?, kept := left.tail }).updShow d) s
  let d := s.disp
  { s with disp := { d with insts := d.insts.filter fun i => !i.work.ofBreeze, parked := d.parked.filter fun e => !of e.2.work,
                            moved := d.moved.filter fun m => !m.work.ofBreeze, failed := d.failed.filter fun x => !x.1,
                            waits := d.waits.filter fun x => !(x.brz && !x.one) } }

/-- TIMETABLE_SUBMIT: a breeze that runs yields first and then stays stopped. -/
def timetableEffect (e : SubEntry) (host : List Byte) (s : Dev) : Dev :=
  s.command 0x07 e clsJ [(8, 1), (0x10, 16)] (fun _ => true) false [1, 2, 3, 4, 5] fun b s =>
    let tt := bf b 8 1
    if 1 < tt then s.ends 3
    else if tt = 0 ∧ s.running then s.ends 2
    else
      s.withBuf (bf b 0x10 8) (bf b 0x18 8) host fun img s =>
        match s.parseTimetable (tt == 1) img with
        | none => s.ends 0xE
        | some (ents, period) =>
          let t : Timetable := { ents, period, t0 := 0, armed := false, done := [] }
          if tt = 1 then
            if s.on timTtStatusBrzBusy then .later s.haltBrz
            else (s.haltBrz.dropBreeze.setTable true t).ok
          else
            let s := (s.setTable false t).setBit timTtStatusFgArmed false
            (if s.jobState = 1 then s.setFld sysJobStatusState 2 else s).ok

/-! ### START (R320, R329, R330) -/

/-- The modes that HELD accepts, by cause and policy. -/
def heldModes (cause pol : Nat) : List Nat :=
  match cause, pol with
  | 1, 0 => [0, 1, 2]
  | 1, 1 => [1]
  | 1, _ => [2]
  | 3, _ => [2]
  | _, _ => [0, 2]

/-- Every descriptor of the update entries has been restored to tag `step` (R329). -/
def Dev.allRestored (s : Dev) (step : Nat) : Bool :=
  s.allDescs fun d desc => (s.upd d).restored.contains (desc, step)

/-- The entry waits for the vote (R330): it depends on the vote, or on a counter at which an entry of `l` arrives. -/
def waitsOn (es : List (List Byte)) (l : List Nat) (e : List Byte) : Bool :=
  onVote e || (List.range 3).any fun i => bit (eDep e i) 14 && l.any fun j =>
    match es[j]? with
    | some x => (List.range 2).any fun k => bit (eSig x k) 14 && bits (eSig x k) 0 14 == bits (eDep e i) 0 14
    | none => false

/-- The entries that wait for the vote, by `n` rounds of the rule above. -/
def voteClosure (es : List (List Byte)) : Nat → List Nat
  | 0 => []
  | n + 1 => let l := voteClosure es n; (List.range es.length).filter fun i => waitsOn es l (es.getD i [])

/-- A descriptor of the chain from `a` on fills memory (R155); the chain is read as its dispatcher reads it. -/
def Dev.chainFills (s : Dev) (dom : Nat) : Nat → Nat → Bool
  | 0, _ => false
  | n + 1, a =>
    let bs := if dom < 32 then (s.csRead dom a 64).2
      else match (s.vRead (baseTlb (dom - 32)) (dieSrc (dom - 32) 5) 0 2 a 64).2 with
        | .data bs e => if e.lost then none else some bs
        | _ => none
    match bs with
    | none => false
    | some bs =>
      let q := descWords bs
      (dOp q == 1 && dDs q == 2) || (bit (wordAt q 0).toNat 35 && Dev.chainFills s dom n (a + 64))

/-- The first fill of a step waits for the vote of the step before (R330): the fill of the smallest release offset and index. With no fill in the timetable
any entry that depends on the vote serves (DESIGN CHOICE; log entry 128). -/
def Dev.fillsWait (s : Dev) : Bool :=
  let es := s.disp.fg.ents
  let fills := (es.zipIdx).filter fun x => eKind x.1 == 1 && s.chainFills (eDisp x.1) 4096 (bits (eW0 x.1) 0 52)
  let first := fills.foldl (fun (m : Option (List Byte × Nat)) x =>
    match m with
    | some y => if eRel x.1 < eRel y.1 then some x else m
    | none => some x) none
  match first with
  | some x => (voteClosure es es.length).contains x.2
  | none => es.any onVote

/-- Give the units descriptor ranges whose update the firmware runs, the first at once where the unit is idle. -/
def Dev.giveRanges (s : Dev) (l : List (Nat × Nat × Nat)) : Dev :=
  l.foldl (fun s x =>
    let u := s.upd x.1
    if u.run.isSome && !s.passYielded x.1 then s.setUpd x.1 { u with todo := u.todo ++ [x.2] }
    else (s.putPass x.1 (updatePass x.2.1 x.2.2 s.step)).setFld (updStatusState.nth x.1) 1) s

/-- What START makes of the state it meets, before the timetable is armed: mode 1 reruns the update and the vote of `step`, mode 2 opens
it; after a STOP that met a running update the close is taken up again (R321); otherwise an open step is discarded, and
the slice of the ordinal to open is clear (R176). -/
def Dev.startMode (s : Dev) (mode step : Nat) : Dev :=
  let restored (s : Dev) : Dev := { s with flt := { s.flt with voted := s.fld fltSeqNext } }
  if mode = 1 then
    let s := restored (s.discardStep.setFld sysStepCountStep step)
    { s with job := { s.job with close := some ⟨false, true, true, false, some false⟩ } }.giveRanges s.updateRanges
  else if mode = 2 then restored (s.discardStep.setFld sysStepCountStep step)
  else
    match s.job.close with
    | some c =>
      if !c.decided ∨ s.jobState ≠ 4 then s.discardStep
      else
        let r := s.fld timTtStatusRound
        let left := (s.disp.fg.ents.zipIdx).filter fun x => eKind x.1 == 3 && eW0 x.1 % 4 == 1 && decide (s.doneOf false x.2 ≤ r) &&
          !(List.range 4).any fun d => match (s.upd d).run with | some p => (match p.work with | some w => w.entry == x.2 && !w.brz | none => false) | none => false
        let s := { s with job := { s.job with close := some { c with redo := some true } } }
        let s := (List.range 4).foldl (fun s d =>
          match (s.upd d).run with
          | some p => if (match p.work with | some w => !w.brz | none => false) then s.setUpd d { s.upd d with run := some { p with work := none } } else s
          | none => s) s
        if c.f then s else s.giveRanges (left.map fun x => (eDisp x.1 - 32, bits (eW0 x.1) 16 12, bits (eW0 x.1) 32 12))
    | none => if s.job.opened.isSome then s.discardStep else s.clearSlice (s.fld sysStepStatusOrdinal)

/-- START: its checks of t0, mode and step hold for every START (R320); the foreground starts with map slot 0 (R367); while a page that it clears is being moved it waits (R255). -/
def startEffect (e : SubEntry) (s : Dev) : Dev :=
  s.command 0x08 e clsJ [(8, 10), (0x18, 8)] (fun b => resv b 0x10 1 2) false [2, 3, 4, 5] fun b s =>
    let t0 := bf b 8 8
    let what := bf b 0x10 1
    let mode := bf b 0x11 1
    let step := bf b 0x18 8
    let brz := bit what 1
    if what = 0 ∨ 2 < mode ∨ t0 < s.leadNow + 50000 then s.ends 3
    else if brz ∧ s.disp.brz.ents.isEmpty then s.ends 2
    else if mode = 0 ∧ step ≠ s.step.toNat then s.ends 2
    else if mode ≠ 0 ∧ !s.allRestored step then s.ends 2
    else if mode = 1 ∧ (step + 1 ≠ s.step.toNat ∨ (s.job.policy = 1 ∧ !s.fillsWait)) then s.ends 2
    else if what = 2 then (if s.jobState = 5 then s.ends 2 else (s.armBrz t0).ok t0)
    else if s.running then s.ends 2
    else if s.jobState = 5 ∧ !(heldModes (s.fld sysJobStatusJfCause) s.job.policy).contains mode then s.ends 2
    else if s.discardWaits then .later s
    else
      let s := s.startMode mode step
      let s := (if s.job.close.isSome then s else s.setNormRef).armFg t0
      let s := ({ s with disp := { s.disp with mapSw := none } }.setFld colMapSlot 0).colShow
      let s := if brz then s.armBrz t0 else s
      ((s.setFld sysJobStatusJfCause 0).setFld sysJobStatusState 3).ok t0

/-! ### STOP (R321) -/

/-- STOP: what it waits for ends it (Dev.stopAtClose, Dev.stopSettle). -/
def stopEffect (e : SubEntry) (s : Dev) : Dev :=
  s.command 0x09 e clsJ [(8, 2)] (fun b => resv b 8 1 2) false [3] fun b s =>
    let what := bf b 8 1
    let when_ := bf b 9 1
    if what = 0 ∨ 1 < when_ then s.ends 3
    else
      let s := if bit what 1 then s.haltBrz else s
      if what = 2 then .wait s .stopBreeze
      else if when_ = 0 then .wait { s with disp := { s.disp with last := some (s.fld timTtStatusRound) } } (.stop false)
      else .wait s.disarmFg (.stop true)

/-- IDENTIFY (R316). -/
def execIdentify (e : SubEntry) (s : State) : Res := s.run (identifyEffect e)
/-- JOB_OPEN (R318). -/
def execJobOpen (e : SubEntry) (s : State) : Res := s.run (jobOpenEffect e)
/-- JOB_CLOSE (R318). -/
def execJobClose (e : SubEntry) (s : State) : Res := s.run (jobCloseEffect e)
/-- JOB_LOAD (R317). -/
def execJobLoad (e : SubEntry) (host : List Byte) (s : State) : Res := s.run (jobLoadEffect e host)
/-- GROUP_DEFINE (R408). -/
def execGroupDefine (e : SubEntry) (s : State) : Res := s.run (groupDefineEffect e)
/-- MAP_INSTALL (R411). -/
def execMapInstall (e : SubEntry) (host : List Byte) (s : State) : Res := s.run (mapInstallEffect e host)
/-- TIMETABLE_SUBMIT (R319). -/
def execTimetableSubmit (e : SubEntry) (host : List Byte) (s : State) : Res := s.run (timetableEffect e host)
/-- START (R320). -/
def execStart (e : SubEntry) (s : State) : Res := s.run (startEffect e)
/-- STOP (R321). -/
def execStop (e : SubEntry) (s : State) : Res := s.run (stopEffect e)

end Sys2Proof.Machine
end

