-- ==== Sys2Proof/Machine/Services.lean ====
section
/-! DEFINITION. The commands on faults, exports, replicas, calm, paths, time, power and counters (R322 to R326, R331 to R333, R361, R385,
R386, R471, R474, R485, R547). -/

namespace Sys2Proof.Machine

/-! ### FENCE and UNFENCE (R322) -/

/-- The unit may not be fenced: none of its kind would be left (R322). -/
def Dev.lastUnit (s : Dev) : FUnit → Bool
  | .core c => (s.peerOf c).isNone
  | .cluster k => (List.range 8).all fun i => k / 8 * 8 + i == k || s.pkg.fences.cluster (k / 8 * 8 + i)
  | .die _ => s.pkg.fences.dies != []
  | _ => false

/-- Take a unit out of service as a fault fence of its level does, without a message (R17, R322, R336). -/
def Dev.fenceUnit (s : Dev) : FUnit → Dev
  | .core c => s.fenceCoreOnly c
  | .cluster k => s.fenceClusterOnly k
  | .die d => s.dieFenceOnly d
  | .port p => s.fencePort p
  | .lateral l m => s.fenceLateral l m
  | .pc st pc => s.startDrain st pc

/-- FENCE. -/
def fenceEffect (e : SubEntry) (s : Dev) : Dev :=
  s.command 0x0A e clsF [(8, 1), (0xA, 2)] (fun _ => true) false anyState fun b s =>
    match fUnit (bf b 8 1) (bf b 0xA 2) with
    | none => s.ends 3
    | some u =>
      if s.isFenced u then s.ok
      else if s.lastUnit u then s.ends 0xD
      else if (match u with | .die _ => !s.calmOrIdle | _ => false) then s.ends 5
      else match u with
        | .pc st pc => .wait (s.fenceUnit u) (.drain st pc)
        | _ => (s.fenceUnit u).ok

/-- A core reset (R485, R512): the core and its counters. -/
def Dev.coreReset (s : Dev) (c : Nat) : Dev :=
  let s := s.setCore c Core.cold
  let mine (n : Nat) : Bool := n / 128 == coreBlk c || (decide (5 * c ≤ n / 128) && decide (n / 128 < 5 * c + 5))
  { s with pmc := { s.pmc with ctr := s.pmc.ctr.filter fun e => !mine e.1,
                               samp := s.pmc.samp.filter fun e => e.1 % 512 != c,
                               issued := s.pmc.issued.filter fun e => e.1 != c,
                               zeros := Sparse.set (always s.pmc.zero) s.pmc.zeros c (3 * s.real),
                               busy := s.pmc.busy.filter fun e => e.1 != c,
                               moves := s.pmc.moves.filter fun e => e.1 % 512 != c } }

/-- A core takes its logical core back. -/
def Dev.takeBack (s : Dev) (c : Nat) : Dev :=
  { s with disp := { s.disp with lmap := Sparse.set (fun x => x) s.disp.lmap c c } }

/-- Both records and whether the module carries (R472). -/
def Dev.setWidths (s : Dev) (l m lo hi : Nat) : Dev :=
  let s := (s.setFld (dieLat l m 0 2) lo).setFld (dieLat l m 2 2) hi
  s.setBit (dieLat l m 4 1) (lo == hi && lo != 0 && !s.on (dieLat l m 5 1))

/-- Return a unit to service (R322, R472, R474). -/
def Dev.unfenceUnit (s : Dev) (t : UnitTest) (u : FUnit) : Dev :=
  let f := s.pkg.fences
  match u with
  | .core c => ({ s with pkg := { s.pkg with fences := { f with cores := setDel f.cores c } } }.takeBack c).startMoved
  | .cluster k => { s with pkg := { s.pkg with fences := { f with clusters := setDel f.clusters k }, shadows := setDel s.pkg.shadows k } }.startMoved
  | .die d =>
    let s := { s with pkg := { s.pkg with caps := Sparse.set (always 0) s.pkg.caps d t.cap, fences := { f with dies := setDel f.dies d },
                                          shadows := s.pkg.shadows.filter fun k => k / 8 != d } }
    s.startMoved
  | .port p => (s.setBit (fabPortFenced.nth p) false).portSettle p
  | .lateral l m => (((s.setBit (dieLat l m 5 1) false).setFld (dieLat l m 6 2) 0).setWidths l m t.lo t.hi)
  | .pc _ _ => s

/-- An uncleared message of the unit stands; an ide-failure ends only with the port's return and does not count (R503, R508). -/
def Dev.unitMessages (s : Dev) (u : FUnit) : Bool := s.flt.uncl.any fun r => u.sent r.msg.src && r.msg.kind != 0x65

/-- UNFENCE: a core is reset before its self-test (R479). -/
def unfenceEffect (e : SubEntry) (t : UnitTest) (s : Dev) : Dev :=
  s.command 0x0B e clsF [(8, 1), (0xA, 2)] (fun _ => true) false anyState fun b s =>
    match fUnit (bf b 8 1) (bf b 0xA 2) with
    | none => s.ends 3
    | some (.pc _ _) => s.ends 3
    | some u =>
      if !s.isFenced u then s.ok
      else if s.unitMessages u then s.ends 2
      else if (match u with | .die _ | .port _ => !s.calmOrIdle | _ => false) then s.ends 5
      else
        let s := match u with | .core c => s.coreReset c | _ => s
        if !t.ok then s.ends 0xC
        else if (match u with | .die _ => t.cap &&& s.reg dieCapCap.off != s.reg dieCapCap.off | _ => false) then s.ends 9
        else (s.unfenceUnit t u).ok

/-! ### FAULT_READ and FAULT_CLEAR (R323) -/

/-- FAULT_READ: result the number after the last message copied, or the next of the log. -/
def faultReadEffect (e : SubEntry) (s : Dev) : Dev :=
  s.command 0x0C e clsR [(8, 20)] (fun _ => true) true anyState fun b s =>
    let n := bf b 0x18 4
    if n = 0 ∨ 65536 < n then s.ends 3 else
    let l := (s.flt.log.filter fun r => decide (bf b 8 8 ≤ r.seq)).take n
    let next := match l.getLast? with | some r => r.seq + 1 | none => s.fld fltSeqNext
    s.intoBuf (bf b 0x10 8) (l.flatMap fun r => r.encode 0) next

/-- The vote or restore that a message called for has completed (R448, R462). -/
def Dev.settled (s : Dev) (r : LogRec) : Bool := decide (r.seq < s.flt.voted)

/-- The fence of a contained fault is in place, and the work has moved (R323, R448). -/
def Dev.fenceInPlace (s : Dev) (r : Src) : Bool :=
  match srcUnit r with
  | none => true
  | some u =>
    let covered : Bool := match u with
      | .core c => s.pkg.fences.core c
      | .cluster k => s.pkg.fences.cluster k
      | u => s.isFenced u
    covered && s.disp.moved.all (fun m => match u with
      | .core c => m.core != c
      | .cluster k => m.core / 16 != k
      | .die d => m.core / 128 != d
      | _ => true) &&
    s.pkg.shadows.all (fun k => match u with
      | .cluster x => x != k
      | .die d => k / 8 != d
      | _ => true)

/-- The cause of a message is gone (R323, R448, R508, R557). -/
def Dev.causeGone (s : Dev) (r : LogRec) : Bool :=
  let m := r.msg
  let arg := m.arg.toNat
  if m.cls = 3 then s.jobState == 0
  else match m.kind with
    | 0x02 | 0x03 => s.fenceInPlace m.src
    | 0x04 => s.settled r
    | 0x05 => s.settled r || (s.physBad (arg % 2 ^ 47 * 16 / 128 * 128) 128).isEmpty
    | 0x07 => bit (s.fld (memPcFencedFenced.nth (arg / 64))) (arg % 64)
    | 0x08 => m.cls == 0 || s.settled r
    | 0x10 | 0x11 | 0x12 | 0x13 | 0x17 | 0x1C => m.cls == 0 || decide (r.seq < s.flt.redone)
    | 0x14 | 0x1A => s.jobState != 5
    | 0x16 => (s.upd m.src.die).torn != some (arg % 4096)
    | 0x31 | 0x34 => s.fenceInPlace m.src
    | 0x33 => [0, 1, 2, 3].any (s.pathUp (arg % 8192))
    | 0x50 => s.pkg.fences.dies.contains m.src.die && !s.flt.retry && !s.flt.retrying
    | 0x52 => m.cls == 0 || s.fenceInPlace m.src
    | 0x65 => m.cls == 0 || s.on (fabPortInSvc.nth m.src.core)
    | _ => true

/-- Clear messages: they leave the uncleared table and are marked in the log (R450, R451). -/
def Dev.clearRecs (s : Dev) (p : LogRec → Bool) : Dev :=
  { s with flt := { s.flt with uncl := s.flt.uncl.filter fun r => !p r,
                               log := s.flt.log.map fun r => if p r then { r with cleared := true } else r } }

/-- The result of FAULT_CLEAR. -/
def Dev.clearResult (s : Dev) (n : Nat) : Nat := n % 2 ^ 32 + 2 ^ 32 * s.flt.uncl.length

/-- FAULT_CLEAR. -/
def faultClearEffect (e : SubEntry) (s : Dev) : Dev :=
  s.command 0x0D e clsR [(8, 9)] (fun _ => true) true anyState fun b s =>
    let seq := bf b 8 8
    let all := bf b 0x10 1
    if 1 < all then s.ends 3
    else if all = 1 then
      let gone := s.flt.uncl.filter s.causeGone
      let s := s.clearRecs fun r => gone.any fun g => g.seq == r.seq
      let s := if s.flt.uncl.isEmpty then s.setBit fltStatusUnclOvf false else s
      s.faultShow.ok (s.clearResult gone.length)
    else if s.fld fltSeqNext ≤ seq then s.ends 3
    else
      match (s.flt.uncl ++ s.flt.log).find? fun r => r.seq == seq with
      | none => s.ok (s.clearResult 0)
      | some r =>
        if r.cleared || r.msg.cls = 0 then s.ok (s.clearResult 0)
        else if !s.causeGone r then .done s (st2 7) (BitVec.ofNat 64 (s.clearResult 0))
        else
          let s := (s.clearRecs fun x => x.seq == seq).faultShow
          s.ok (s.clearResult 1)

/-! ### EXPORT_CONFIG (R325) -/

/-- A unit takes a sink at its next record boundary, at once while no record is on its way; a ring that it has already stands with its counts. -/
def Upd.toSink (u : Upd) (k : Sink) : Upd :=
  let same : Bool := match u.sink, k with
    | .ring p a n _ _, .ring p' a' n' _ _ => p == p' && a == a' && n == n'
    | x, y => x == y
  if same then { u with sinkNew := none } else if u.flight = 0 then { u with sink := k, sinkNew := none } else { u with sinkNew := some k }

/-- EXPORT_CONFIG. -/
def exportConfigEffect (e : SubEntry) (s : Dev) : Dev :=
  s.command 0x0E e clsJ [(8, 6), (0x10, 16)] (fun b => resv b 8 1 4 && resv b 0xC 2 13) false [1, 2, 3, 4, 5] fun b s =>
    let units := bf b 8 1
    let q := bf b 0xA 2
    let put (k : Sink) : CmdEnd :=
      ((List.range 4).foldl (fun s d => if bit units d then s.setUpd d ((s.upd d).toSink k) else s) s).ok
    match bf b 9 1 with
    | 0 => put .none
    | 1 => if (s.qctx q).kind = 4 ∧ (s.qctx q).state = 1 then put (.queue q) else s.ends 3
    | 2 => if bf b 0x18 8 ≤ 64 then s.ends 3 else put (.ring (bf b 0xC 2) (bf b 0x10 8) (bf b 0x18 8) 0 0)
    | _ => s.ends 3

/-! ### Replicas (R331 to R333) -/

/-- REPLICA_ADMIT: the package waits for a close that admits its unit. -/
def replicaAdmitEffect (e : SubEntry) (s : Dev) : Dev :=
  s.command 0x0F e clsJ [(8, 2)] (fun _ => true) false [2] fun b s =>
    let ms := bf b 8 2
    if ms = 0 then s.ends 3 else .wait s (.admits (s.real + 1000000 * ms))

/-- REPLICA_EXPEL: membership changes at the end of the close while the job runs, at once otherwise; a package that leaves with the unit
completes it at once. -/
def replicaExpelEffect (e : SubEntry) (unit : List Nat) (s : Dev) : Dev :=
  s.command 0x10 e clsJ [(8, 3)] (fun b => resv b 8 2 13) false [3, 4, 5] fun b s =>
    let p := bf b 8 2
    if s.job.expelled.contains p || s.job.leaving.contains p then s.ok s.step.toNat
    else if !s.inJob p then s.ends 3
    else
      let run := s.running
      let s := s.expelUnit p (bf b 0xA 1) unit
      if run && !s.job.leaving.contains s.ownPkg then .wait s .expel else s.applyLeaving.ok s.step.toNat

/-- PEER_RESTORE: an image is read and waits for SHARD_RESTORE, or a copy is awaited that SHARD_REPAIR brings. An image of another unit or
descriptor is of wrong form. -/
def peerRestoreEffect (e : SubEntry) (host : List Byte) (s : Dev) : Dev :=
  s.command 0x11 e clsJ [(8, 6), (0x10, 16)] (fun b => resv b 0xC 2 13) false [3, 4, 5] fun b s =>
    let src := bf b 8 1
    let d := bf b 9 1
    let desc := bf b 0xA 2
    if 1 < src ∨ 3 < d ∨ 4095 < desc then s.ends 3
    else if s.running ∧ (s.upd d).torn ≠ some desc then s.ends 2
    else if src = 0 then
      s.withBuf (bf b 0x10 8) (bf b 0x18 8) host fun img s =>
        if img.length < 64 ∨ leAt img 0 1 ≠ d ∨ leAt img 2 2 ≠ desc then s.ends 0xE
        else .wait (s.setUpd d { s.upd d with image := some (desc, img) }) (.restore d desc 8192)
    else if (s.members (s.fld updCtlRepGid)).contains (bf b 0xC 2) ∧ bf b 0xC 2 ≠ s.ownPkg then .wait s (.restore d desc (bf b 0xC 2))
    else s.ends 0xB

/-! ### Calm (R324) -/

/-- CALM_ENTER: result the time at which calm was reached. -/
def calmEnterEffect (e : SubEntry) (s : Dev) : Dev :=
  s.command 0x12 e clsJ [(8, 2)] (fun _ => true) false [1, 2, 3, 4, 5] fun b s =>
    let g := bf b 9 1
    match bf b 8 1 with
    | 0 =>
      let s := (s.setBit fabCalmHost true).fabShow
      if s.on fabCalmCalm then s.ok s.leadNow else .wait s (.calm s.real none)
    | 1 =>
      let s := { s with col := { s.col with calm := setAdd s.col.calm g } }
      if s.groupCalm g then s.ok s.leadNow else .wait s (.calm s.real (some g))
    | _ => s.ends 3

/-- CALM_EXIT: a calm that the firmware holds stays. -/
def calmExitEffect (e : SubEntry) (s : Dev) : Dev :=
  s.command 0x13 e clsJ [(8, 2)] (fun _ => true) false [1, 2, 3, 4, 5] fun b s =>
    match bf b 8 1 with
    | 0 => (s.setBit fabCalmHost false).pump.ok
    | 1 => { s with col := { s.col with calm := setDel s.col.calm (bf b 9 1) } }.ok
    | _ => s.ends 3

/-! ### PATH_INSTALL (R385, R386) -/

/-- A path word that may be installed. -/
def pathOk (w : W64) : Bool :=
  fld64 w 20 12 == 0 && pwNh w != 3 && (decide (1 ≤ pwNh w) || pwHop w 1 == 0) && (pwNh w == 2 || pwHop w 2 == 0) && (pwV w || w == 0)

/-- Install one destination's entry: its old one and every down mark of its paths go. -/
def Dev.installPaths (s : Dev) (dst : Nat) (e : List Byte) : Dev :=
  if dst = s.ownPkg then s else
  let put (m : Sparse W64) (i : Nat) : Sparse W64 := Sparse.set (always 0) m (4 * dst + i) (BitVec.ofNat 64 (leAt e (8 * i) 8))
  { s with fab := { s.fab with paths := (List.range 4).foldl put s.fab.paths,
                               down := s.fab.down.filter fun k => k / 4 != dst,
                               streakP := s.fab.streakP.filter fun x => x.1 / 4 != dst } }

/-- PATH_INSTALL. -/
def pathInstallEffect (e : SubEntry) (host : List Byte) (s : Dev) : Dev :=
  s.command 0x14 e clsJ [(8, 4), (0x10, 8)] (fun b => resv b 8 2 13) false [0, 1, 2, 3, 4, 5] fun b s =>
    let first := bf b 8 2
    let n := bf b 0xA 2
    if n = 0 ∨ 8192 < n then s.ends 3
    else if !s.on fabCalmCalm then s.ends 5
    else if 8192 < first + n then s.ends 0xE
    else
      s.withBuf (bf b 0x10 8) (32 * n) host fun bs s =>
        if (List.range (4 * n)).all fun i => pathOk (BitVec.ofNat 64 (leAt bs (8 * i) 8)) then
          ((List.range n).foldl (fun s i => s.installPaths (first + i) ((bs.drop (32 * i)).take 32)) s).pump.ok
        else s.ends 0xE

/-! ### TIME_CONFIG (R326, R343) -/

/-- TIME_CONFIG: a role-1 master reports lock at all times; a role-2 master from the first SYNC_IN edge on, which may step the count, or from
the time at which it runs as role 1 does (R339, R343; log entry 51). A follower begins to steer anew. -/
def timeConfigEffect (e : SubEntry) (s : Dev) : Dev :=
  s.command 0x15 e clsJ [(8, 1), (0xA, 4), (0x10, 8)] (fun b => resv b 0xA 2 13) false [0, 1, 2, 4, 5] fun b s =>
    let role := bf b 8 1
    if 2 < role then s.ends 3
    else
      let s := (s.setFld timStatusRole role).setFld timStatusMpkg (bf b 0xA 2)
      let s := { s with tim := { s.tim with ports := bf b 0xC 2, best := none, good := 0, first := true, slew := 0, rate := 0, sent := none,
                                            winAt := s.real, valid := s.real, edge := none, jump := role == 2 } }
      let s := (s.setBit timStatusSyncSeen false).setBit timStatusHoldover false
      let s := if role ≠ 0 ∧ bf b 0x10 8 ≠ 0 then (s.setLock false).stepTime ((bf b 0x10 8 : Nat) - (s.now 0 : Nat)) else s
      (s.setLock (role == 1)).ok

/-! ### POWER_CAP and COUNTER_GRANT (R326, R361, R547) -/

/-- A POWER_CAP that waits for its time. -/
def RunCmd.capTime (c : RunCmd) : Option (Nat × Nat) := match c.what with | .cap w t => some (w, t) | _ => none

/-- POWER_CAP; a newer one replaces one that waits, which ends with STATE (DESIGN CHOICE). -/
def powerCapEffect (e : SubEntry) (s : Dev) : Dev :=
  s.command 0x16 e clsR [(8, 2), (0x10, 8)] (fun _ => true) false anyState fun b s =>
    let w := bf b 8 2
    let t := bf b 0x10 8
    if w < 1200 ∨ 3400 < w ∨ (t ≠ 0 ∧ t < s.leadNow + 50000) then s.ends 3
    else
      let s := s.endCmds (fun c => c.capTime.isSome) (st2 2) 0
      if t = 0 then (s.setFld pwrCapHostW w).capShow.ok s.leadNow else .wait s (.cap w t)

/-- SCHEDULED_POWER_CAP_DUE: the cap waiting takes effect once its time has come. -/
def capDueEffect (s : Dev) : Dev :=
  match (s.job.cmds.filterMap RunCmd.capTime).head? with
  | none => s
  | some (w, t) =>
    if s.leadNow < t then s
    else ((s.setFld pwrCapHostW w).capShow).endCmds (fun c => c.capTime.isSome) 0 (BitVec.ofNat 64 s.leadNow)

/-- COUNTER_GRANT: cores take it at their next segment start. -/
def counterGrantEffect (e : SubEntry) (s : Dev) : Dev :=
  s.command 0x17 e clsR [(8, 1)] (fun b => resv b 8 1 2) false anyState fun b s =>
    { s with pmc := { s.pmc with grant := bf b 8 1 } }.ok

/-- FENCE (R322). -/
def execFence (e : SubEntry) (s : State) : Res := s.run (fenceEffect e)
/-- UNFENCE (R322). -/
def execUnfence (e : SubEntry) (test : UnitTest) (s : State) : Res := s.run (unfenceEffect e test)
/-- FAULT_READ (R323). -/
def execFaultRead (e : SubEntry) (s : State) : Res := s.run (faultReadEffect e)
/-- FAULT_CLEAR (R323). -/
def execFaultClear (e : SubEntry) (s : State) : Res := s.run (faultClearEffect e)
/-- EXPORT_CONFIG (R325). -/
def execExportConfig (e : SubEntry) (s : State) : Res := s.run (exportConfigEffect e)
/-- REPLICA_ADMIT (R332). -/
def execReplicaAdmit (e : SubEntry) (s : State) : Res := s.run (replicaAdmitEffect e)
/-- REPLICA_EXPEL (R331). -/
def execReplicaExpel (e : SubEntry) (unit : List Nat) (s : State) : Res := s.run (replicaExpelEffect e unit)
/-- PEER_RESTORE (R333). -/
def execPeerRestore (e : BufEntry) (s : State) : Res := s.run (peerRestoreEffect e.entry e.host)
/-- CALM_ENTER (R324). -/
def execCalmEnter (e : SubEntry) (s : State) : Res := s.run (calmEnterEffect e)
/-- CALM_EXIT (R324). -/
def execCalmExit (e : SubEntry) (s : State) : Res := s.run (calmExitEffect e)
/-- PATH_INSTALL (R385). -/
def execPathInstall (e : SubEntry) (host : List Byte) (s : State) : Res := s.run (pathInstallEffect e host)
/-- TIME_CONFIG (R326). -/
def execTimeConfig (e : SubEntry) (s : State) : Res := s.run (timeConfigEffect e)
/-- POWER_CAP (R326). -/
def execPowerCap (e : SubEntry) (s : State) : Res := s.run (powerCapEffect e)
/-- SCHEDULED_POWER_CAP_DUE (R361). -/
def execScheduledPowerCapDue (s : State) : Res := s.run capDueEffect
/-- COUNTER_GRANT (R326). -/
def execCounterGrant (e : SubEntry) (s : State) : Res := s.run (counterGrantEffect e)

end Sys2Proof.Machine
end

