-- ==== Sys2Proof/Machine/SecOps.lean ====
section
/-! DEFINITION. Bundles and their checks (R493 to R496), the debug nonce (R506), what boot takes into force (R497, R498), measurements
(R502): what the security commands, AMEND_LOAD and bring-up share. -/

namespace Sys2Proof.Machine

/-! ### Owners (R493, R505) -/

/-- The hash of a slot whose valid bit is burnt. -/
def OSlot.hash : OSlot → Option (List Byte)
  | .valid h => some h
  | _ => none

/-- The highest-numbered slot whose valid bit is burnt. -/
def Sec.topSlot (c : Sec) : Option Nat := ((List.range 8).reverse).find? fun i => (c.slots.getD i .unused).hash.isSome

/-- The active owner root: that of the latest reset (R504). -/
def Sec.ownerHash (c : Sec) : Option (List Byte) := c.root.bind fun i => (c.slots.getD i .unused).hash

/-- The next unused slot. -/
def Sec.nextSlot (c : Sec) : Nat := c.slots.findIdx fun x => x == .unused

/-! ### Bundles (R494, R495) -/

/-- "KTSB". -/
def bundleMagic : Nat := 0x4253544B
/-- Type. -/
def bType (b : List Byte) : Nat := leAt b 4 1
/-- Root: 0 vendor, 1 owner. -/
def bRoot (b : List Byte) : Nat := leAt b 5 1
/-- Payload bytes. -/
def bPlen (b : List Byte) : Nat := leAt b 0xC 4
/-- Payload. -/
def bPayload (b : List Byte) : List Byte := (b.drop 0x100).take (bPlen b)
/-- Serial field. -/
def bSerial (b : List Byte) : List Byte := (b.drop 0x10).take 16
/-- Nonce field. -/
def bNonce (b : List Byte) : List Byte := (b.drop 0x20).take 64
/-- Key. -/
def bKey (b : List Byte) : List Byte := (b.drop 0x60).take 133
/-- Signature. -/
def bSig (b : List Byte) : List Byte := (b.drop (0x100 + bPlen b)).take 132

/-- The payload length that a type allows. -/
def plenOk (type n : Nat) : Bool :=
  match type with
  | 1 => decide (n ≤ 65536)
  | 2 => decide (n ≤ 0x100000)
  | 3 | 4 => n == 64
  | _ => false

/-- The version that a type allows (R494). -/
def versionOk (type v : Nat) : Bool :=
  match type with
  | 2 => decide (1 ≤ v) && decide (v ≤ 64)
  | 3 => decide (1 ≤ v) && decide (v ≤ 8)
  | _ => v == 0

/-- Step 1 of R495, for a bundle given as `len` bytes that is to be of type `type`. -/
def bundleForm (type len : Nat) (b : List Byte) : Bool :=
  b.length == len && leAt b 0 4 == bundleMagic && bType b == type && decide (bRoot b ≤ 1) && leAt b 6 2 == 0 && plenOk type (bPlen b) &&
  len == 388 + bPlen b && versionOk type (bundleVersion b) && (type == 4 || leNat (bNonce b) == 0) &&
  leNat ((b.drop 0xE5).take 27) == 0

/-- The step of R495 at which a bundle of type `type` fails, from 1; none when the seven steps before the type's own rules pass. -/
def Sec.bundleFails (c : Sec) (type len : Nat) (b : List Byte) : Option Nat :=
  if !bundleForm type len b then some 1
  else if !(bSerial b == c.serial || (type == 2 && leNat (bSerial b) == 0)) then some 2
  else
    let h := Config.sha512 (bKey b)
    if bRoot b = 0 ∧ h ≠ c.vroot then some 4
    else if bRoot b = 1 ∧ c.ownerHash ≠ some h then some 4
    else if !Config.onCurve (bKey b) then some 5
    else if !Config.ecdsaVerify (bKey b) (Config.sha512 (b.take (0x100 + bPlen b))) (bSig b) then some 7
    else none

/-- The root that signs configurations, transfers and debug tokens: the owner's, or the vendor's while there is no owner (R496, R504,
R506). -/
def Sec.rootOk (c : Sec) (b : List Byte) : Bool := (bRoot b == 1) == c.ownerHash.isSome

/-- The rules of a configuration payload (R498): its reserved parts are zero; a shorter payload stands for zeros (DESIGN CHOICE). -/
def configOk (b : List Byte) : Bool :=
  let p := bPayload b
  decide (p.length ≤ 64) && leAt p 2 1 / 16 == 0 && leNat ((p.drop 3).take 61) == 0

/-- The step at which an amendment bundle fails, 8 for the type's own rules (R496). -/
def Sec.amendFails (c : Sec) (len : Nat) (b : List Byte) : Option Nat :=
  match c.bundleFails 2 len b with
  | some n => some n
  | none => if (bRoot b = 1 ∧ !bit c.flags 1) ∨ bundleVersion b < c.minver then some 8 else none

/-- The step at which a configuration bundle fails. -/
def Sec.configFails (c : Sec) (len : Nat) (b : List Byte) : Option Nat :=
  match c.bundleFails 1 len b with
  | some n => some n
  | none => if c.rootOk b && configOk b then none else some 8

/-! ### The nonce, the status register (R506, R510) -/

/-- Draw a new debug nonce from the device's random source: free values. -/
def Dev.newNonce (s : Dev) : Dev :=
  (List.range 8).foldl (fun s i => let (k, s) := s.fresh; s.setFld (secDbgNonceNonce.nth i) (Config.freeWord k).toNat) s

/-- The nonce as bytes. -/
def Dev.nonce (s : Dev) : List Byte := (List.range 8).flatMap fun i => natLe 8 (s.fld (secDbgNonceNonce.nth i))

/-- SEC_STATUS shows owner, minver and the amendment (R510). -/
def Dev.secShow (s : Dev) : Dev :=
  ((s.setFld secStatusOwner (match s.sec.root with | some i => i + 1 | none => 0)).setFld secStatusMinver s.sec.minver).setBit secStatusAmend
    s.sec.active.isSome

/-- A message of package level, unit 0 (R508). -/
def Dev.secDetect (s : Dev) (kind cls arg : Nat) : Dev := s.detect (pkgSrc s.pkg.lead 0) kind cls arg

/-- Debug is locked (R506, R510). -/
def Dev.lockDebug (s : Dev) : Dev := (s.setBit secStatusDbg false).setFld secStatusGrant 0

/-! ### Boot (R497) -/

/-- Take the configuration into force: that of the stored bundle, or the defaults; a stored one that is rejected is reported (step 3). -/
def Dev.bootConfig (s : Dev) : Dev :=
  let put (s : Dev) (p : List Byte) (ok : Bool) : Dev :=
    { s with sec := { s.sec with payload := p, ideFab := leAt p 0 2, flags := leAt p 2 1 } }.setBit secStatusCfgOk ok
  match s.sec.cfg with
  | none => put s [] false
  | some b =>
    match s.sec.configFails b.length b with
    | none => put s (bPayload b) true
    | some n => (put s [] false).secDetect 0x60 3 n

/-- Take the stored amendment into force, or report it (steps 4 and 5, R337, R338). -/
def Dev.bootAmend (s : Dev) : Dev :=
  let s := if s.sec.amdGone then { s with sec := { s.sec with amd := none, amdGone := false } } else s
  let s := { s with sec := { s.sec with active := none, amdBad := false } }
  match s.sec.amd with
  | none => s
  | some b =>
    match s.sec.amendFails b.length b with
    | none =>
      { s with sec := { s.sec with active := some b,
                                   minver := if Config.commitMin (bPayload b) then Nat.max s.sec.minver (bundleVersion b) else s.sec.minver } }
    | some n =>
      { s with sec := { s.sec with amdBad := true } }.secDetect 0x61 0 (n + (if n = 8 ∧ bundleVersion b < s.sec.minver then 2 ^ 47 else 0))

/-- What the boot ROM does of it (R497): the owner, configuration, amendment; debug is locked; a nonce is drawn. -/
def Dev.boot (s : Dev) : Dev :=
  let s := { s with sec := { s.sec with root := s.sec.topSlot } }
  let s := s.bootConfig.bootAmend.lockDebug
  ((s.setBit secStatusPending false).setBit secStatusCfgPending false).secShow.newNonce

/-! ### Keys and measurements (R500, R502) -/

/-- What the alias key is derived from. -/
def Dev.aliasInput (s : Dev) : List Byte :=
  Config.romDigest ++ (match s.sec.active with | some b => Config.sha512 b | none => List.replicate 64 0) ++
  (s.sec.ownerHash.getD []) ++ natLe 1 s.featLevel

/-- The certificate chain of slot 0. -/
def Dev.chain (s : Dev) : List Byte := Config.certChain s.sec.uds s.sec.serial s.aliasInput

/-- Measurement block `i`: whether it is a digest, and its value (R502). -/
def Dev.measure (s : Dev) (i : Nat) : Bool × List Byte :=
  match i with
  | 1 => (true, Config.romDigest)
  | 2 => (true, match s.sec.active with | some b => Config.sha512 b | none => List.replicate 64 0)
  | 3 => (true, Config.sha512 (padTo 64 s.sec.payload))
  | 4 => (true, Config.sha512 (s.sec.vroot ++ natLe 1 (s.fld secStatusOwner) ++ s.sec.ownerHash.getD [] ++ natLe 1 s.sec.minver))
  | 5 => (false, natLe 1 (if s.on secStatusDbg then s.fld secStatusGrant % 128 + 128 else 0))
  | 6 => (false, natLe 1 s.featLevel ++ natLe 8 (s.fld dieCapCap))
  | _ => (false, natLe 8 (s.reg dieStepCdStep0.off).toNat)

end Sys2Proof.Machine
end

