-- ==== Sys2Proof/Machine/ResetOps.lean ====
section
/-! DEFINITION. What the resets and bring-up share (R26, R468 to R487): the takeover of the lead, port, pair and package resets. -/

namespace Sys2Proof.Machine

/-- A reset request is refused (R488). -/
def Dev.refused (s : Dev) : Dev := s.setBit dieBootRstRefused true

/-! ### Lateral links (R315, R472, R492) -/

/-- The two base dies of link `l`, the lower-numbered first: 0–1, 1–3, 2–3, 0–2. -/
def linkEnds (l : Nat) : Nat × Nat :=
  match l with
  | 0 => (0, 1)
  | 1 => (1, 3)
  | 2 => (2, 3)
  | _ => (0, 2)

/-- The width record of one side of a module. -/
def widthFld (l m : Nat) : Side → Fld
  | .lo => dieLat l m 0 2
  | .hi => dieLat l m 2 2

/-- The module carries when both records hold the same width and it is in service (R472). -/
def Dev.carryShow (s : Dev) (l m : Nat) : Dev :=
  let lo := s.fld (widthFld l m .lo)
  s.setBit (dieLat l m 4 1) (lo == s.fld (widthFld l m .hi) && lo != 0 && !s.on (dieLat l m 5 1))

/-- A die reset of base die `d` takes the records of its sides. -/
def Dev.dropRecords (s : Dev) (d : Nat) : Dev :=
  (List.range 4).foldl (fun s l => (List.range 8).foldl (fun s m =>
    let s := if (linkEnds l).1 = d then s.setFld (widthFld l m .lo) 0 else s
    let s := if (linkEnds l).2 = d then s.setFld (widthFld l m .hi) 0 else s
    s.carryShow l m) s) s

/-! ### The lead (R25, R26) -/

/-- The complex that follows `c` in the order 0 to 3, among those that passed self-test. -/
def Dev.nextLead (s : Dev) : Option Nat :=
  ([1, 2, 3].map fun i => (s.pkg.lead + i) % 4).find? s.pkg.complex.contains

/-- The next complex becomes lead (R26): commands that run end, a commit not completed starts again, the services go on. -/
def Dev.takeover (s : Dev) : Dev :=
  match s.nextLead with
  | none => s
  | some n =>
    let old := s.pkg.lead
    -- an admission copy is restarted by the new lead (R336)
    let s := s.dropCmds (fun c => !(s.job.copying && (match c.what with | .admits _ => true | _ => false))) 0x0201
    let s := s.unparkRows ((s.regs.commit.map (·.stops)).getD [])
    -- the new lead starts a restore again from its first step (R217)
    let s := (List.range 4).foldl (fun s d => if (s.upd d).restore.isSome then (s.unkeep d).updShow d else s) s
    let commit := s.regs.commit.map fun c => if c.lulled then c else { c with paused := [], stops := [] }
    let s := { s with pkg := { s.pkg with lead := n, hbMissed := 0 }, regs := { s.regs with commit } }
    (s.setFld hifStatusLead n).detect (pkgSrc old 0) 0x48 1 n

/-! ### Ports (R484, R503) -/

/-- A fabric port reset: it leaves service until it has retrained and received its PBR ID; its gusts are sent again. -/
def Dev.portReset (s : Dev) (p : Nat) : Dev :=
  let s := { s with fab := { s.fab with ids := Sparse.set (always 0) s.fab.ids p 0 } }
  let s := (((s.setFld (fabPortWidth.nth p) 0).setFld (fabPortRate.nth p) 0).setBit (fabPortUp.nth p) false).setBit (fabPortIdOk.nth p) false
  (s.dropMailbox p).portSettle p

/-- A host port reset: host accesses are held from now; configuration space, doorbell cache and snoop filter empty. -/
def Dev.hostReset (s : Dev) : Dev :=
  let s := (((s.setFld hifStatusWidth 0).setFld hifStatusRate 0).setBit hifStatusCacheEn false).setBit hifStatusMemEn false
  let q := { s.que with down := some (s.now 0), lines := [], stale := [], masked := [], fnMask := false, msixPnd := [],
                         vecAddr := [], vecData := [], reads := [] }
  let s := { s with que := q, mem := { s.mem with snoop := [] } }.dropMailbox 16
  s.detect (pkgSrc 0 4) 0x35 0 0

/-! ### The package (R480 to R483) -/

/-- Every message that waits to be logged is logged. -/
def Dev.logAll (s : Dev) : Dev := (List.range s.flt.msgs.length).foldl (fun s _ => messageLogEffect s) s

/-- Every held message is logged, merge windows included (R480). -/
def Dev.flushLog (s : Dev) : Dev := ({ s with flt := { s.flt with msgs := s.flt.msgs ++ s.flt.merge, merge := [] } } : Dev).logAll

/-- The fields that a warm package reset keeps (R481, R482), but for the incarnation, which advances. -/
def warmKept : List Fld :=
  ((List.range 16).map fun i => memPcFencedFenced.nth i) ++
  [hifViolCount, hifViolLastOff, hifViolLastWr, fltSeqNext, fltOldestOldest, fltStatusFaultN, fltStatusUnclOvf, fltStatusUncleared,
   fltStatusSqualls, fabCtlInc, dieClkPref, dieClkRevert, dieBootRstRefused] ++
  ((List.range 16).map fun p => fabPortFenced.nth p) ++
  (List.range 32).map fun i => dieLat (i / 8) (i % 8) 5 1

/-- Copy fields of another device. -/
def Dev.copyFlds (s old : Dev) (l : List Fld) : Dev := l.foldl (fun s f => s.setFld f (old.fld f)) s

/-- The package-buffer share of base die `d` is cleared. -/
def Dev.clearShare (s : Dev) (d : Nat) : Dev :=
  { s with phys := s.phys.zero (0x20000000000 + 0x10000000 * d) (0x20000000000 + 0x10000000 * d + 192 * 0x100000) }

/-- The security unit through a reset of the package: fuses and configuration store stand, what is in force stands until boot forms it
anew; sessions and keys end (R481, R501, R503). -/
def Sec.restart (c : Sec) : Sec := { c with keys := [], sessions := [], shut := false }

/-- A warm package reset, once the collectors are empty (R480 to R483). -/
def Dev.warmed (s : Dev) : Dev :=
  let mem := { MemUnit.cold with moveRec := match s.mem.move with | some m => some m | none => s.mem.moveRec,
                                 splits := s.mem.splits, split := s.mem.split, spilled := s.mem.spilled }
  let flt := { FaultUnit.cold with log := s.flt.log, uncl := s.flt.uncl, voted := s.flt.voted, redone := s.flt.redone }
  let n : Dev := { Dev.cold with freeCnt := s.freeCnt, real := s.real, out := s.out, pkg := { Pkg.cold with fences := s.pkg.fences },
                                 phys := s.phys, mem, flt, disp := { DispUnit.cold with lmap := s.disp.lmap },
                                 sec := s.sec.restart, pwr := { s.pwr with held := 0, fallAt := [] },
                                 car := { s.car with reset := false },
                                 pmc := { Pmc.cold with zero := 3 * s.real } }
  let n := ((n.copyFlds s warmKept).nextIncarnation).setFld dieBootLast 1
  (List.range 4).foldl (fun s d => s.clearShare d) n

/-- A reset meets the pass of unit `d`: one with a valid record is torn, one that is paused stays as it is, another one fails (R214, R217,
R486); what the firmware keeps of the unit stands. -/
def Dev.updReset (s : Dev) (d : Nat) : Dev :=
  let u := s.upd d
  let stands (s : Dev) (l : List Pass) (torn : Option Nat) : Dev :=
    let sink := u.sinkNew.getD u.sink
    s.setUpd d { Upd.cold with run := l.head?, kept := l.tail, torn, restored := u.restored, sink, todo := u.todo, image := u.image }
  match u.run with
  | none => stands s [] u.torn
  | some p =>
    if p.paused then stands s (p :: u.kept) u.torn else
    match p.rec_ with
    | some x =>
      if p.kind = 1 ∨ p.kind = 3 then
        stands (s.detect (updSrc d) 0x16 2 x) (if p.kind = 3 then u.kept else { p with paused := true } :: u.kept) (some x)
      else stands (s.endWork p.work false) u.kept u.torn
    | none => stands (s.endWork p.work false) u.kept u.torn

/-- What a warm package reset leaves of an update unit: the passes that stand paused, whose work has gone, and what is torn (R214, R217). -/
def Upd.survives (u : Upd) : Upd :=
  { Upd.cold with run := u.run.map fun p => { p with work := none }, kept := u.kept.map fun p => { p with work := none }, torn := u.torn }

/-- A warm package reset (R479, R480). An update pass that it meets is torn, or stays paused (R214, R217). -/
def Dev.warmReset (s : Dev) : Dev :=
  let s := (List.range 4).foldl Dev.updReset s
  let keep := (List.range 4).map fun d => (d, (s.upd d).survives)
  keep.foldl (fun n e => n.setUpd e.1 e.2) s.flushLog.warmed

/-- What lies outside the module: bytes of CXL-attached memory. -/
def Store.outside (st : Store) : Store :=
  ⟨st.bytes.filter fun e => decide (0x8000000000000 ≤ e.1), st.chk.filter fun e => decide (0x8000000000000 ≤ e.1)⟩

/-- A cold reset (R481): fuses, configuration store and the carrier's controller stand, the incarnation advances (R399). -/
def Dev.chilled (s : Dev) : Dev :=
  let n : Dev := { Dev.cold with freeCnt := s.freeCnt, real := s.real, out := s.out, phys := s.phys.outside, sec := s.sec.restart,
                                 pwr := { s.pwr with held := 0, fallAt := [] },
                                 car := { s.car with board := false, fell := false, reset := false },
                                 pmc := { Pmc.cold with zero := 3 * s.real } }
  let n := (n.setFld fabCtlInc (s.fld fabCtlInc)).nextIncarnation
  if s.on fltStatusFaultN then n.send (.pin "FAULT_N" true) else n

/-! ### A pair (R481, R482, R486, R512) -/

/-- Counter block `b` is cleared by a die reset of pair `d`. -/
def pairBlock (d b : Nat) : Bool :=
  if b < 0xA00 then b / 5 / 128 == d
  else if b < 0xC00 then (b - 0xA00) / 128 == d
  else if b < 0xC20 then (b - 0xC00) / 8 == d
  else if b < 0xC24 then b - 0xC20 == d
  else if 0xC25 ≤ b ∧ b < 0xC35 then (b - 0xC25) % 4 == d
  else b == 0xC35 && d == 0

/-- Work of a channel that a die reset meets: a timetable's chain fails; a DMA queue's chain begins its descriptor again (DESIGN CHOICE);
a core's chain goes with its core. -/
def Dev.chanReset (s : Dev) (h : Nat) : Dev :=
  let ch := s.chan h
  match ch.owner with
  | .entry => (s.setChan h Chan.idle).endWork ch.work false
  | .queue _ => if ch.st = .moving ∨ ch.st = .halted then s.onChan h fun ch => { ch with st := .ready, q := [], pos := 0 } else s
  | .core _ => s.setChan h Chan.idle

/-- A channel works on base die `d`. -/
def Dev.chanOn (s : Dev) (d h : Nat) : Bool :=
  if h < 512 then false
  else if h < 576 then (h - 512) / 16 == d
  else (s.qctx (h - 1024)).die == d

/-- The series registers of pair `d` (R482). -/
def pairRegs (d : Nat) : List Nat :=
  [(updTableBaseBase.nth d).off, (updExpRingBase.nth d).off, (updStatusState.nth d).off, (colStatusSat.nth d).off] ++
  (List.range 4).map fun i => (memPcDrainDrain.nth (4 * d + i)).off

/-- Compute die `d` after its reset: cores, cluster stores, channels and TLBs are clear, its work has failed. -/
def Dev.computeReset (s : Dev) (d : Nat) : Dev :=
  let s := (List.range 8).foldl (fun s i => s.chansLeave (8 * d + i) false) s
  let s := (List.range 128).foldl (fun s i => s.coreLeaves (128 * d + i) false) s
  let dead := s.disp.moved.filter fun m => m.core / 128 == d
  let s := dead.foldl (fun s m => s.endWork (some m.work) false) s
  { s with disp := { s.disp with moved := s.disp.moved.filter fun m => m.core / 128 != d },
           pkg := { s.pkg with shadows := s.pkg.shadows.filter fun k => k / 8 != d },
           cores := Sparse.clear s.cores (128 * d) (128 * d + 128),
           cs := Sparse.clear s.cs (8 * d) (8 * d + 8),
           ev := Sparse.clear s.ev (256 * (8 * d)) (256 * (8 * d + 8)) }

/-- Base die `d` after its reset: its share of the package buffer, channels, update unit and engine are clear. -/
def Dev.baseReset (s : Dev) (d : Nat) : Dev :=
  let s := ((s.chans.map fun e => e.1).filter (s.chanOn d)).foldl Dev.chanReset s
  let s := (s.updReset d).clearShare d
  let past (c : Coll) : Bool := match c.st with | .done | .ended _ => true | _ => false
  let live := s.col.live.map fun c => if c.eng = d ∧ !past c then { c with st := .ended 0x0402 } else c
  let wait := s.ring.wait.filter fun x => x.die != d && x.path.all fun g => g.die != d
  let tlbs := (Sparse.clear s.mem.tlbs (8 * d) (8 * d + 8)).filter fun e => e.1 != 32 + d
  let pcErr := s.mem.pcErr.filter fun e => e.1 / 64 / 4 != d
  { s with ring := { s.ring with wait }, col := { s.col with live }, mem := { s.mem with tlbs, pcErr },
           ev := Sparse.clear s.ev (256 * (32 + d)) (256 * (33 + d)),
           pmc := { s.pmc with ctr := s.pmc.ctr.filter fun e => !pairBlock d (e.1 / 128),
                               samp := s.pmc.samp.filter fun e => e.1 % 512 / 128 != d,
                               issued := s.pmc.issued.filter fun e => e.1 / 128 != d,
                               zeros := Sparse.setAll (always s.pmc.zero) s.pmc.zeros
                                 ((List.range 128).map fun i => (128 * d + i, 3 * s.real)),
                               busy := s.pmc.busy.filter fun e => e.1 / 128 != d,
                               moves := s.pmc.moves.filter fun e => e.1 % 512 / 128 != d } }

/-- Messages that the collector of pair `d` holds are lost (R480). -/
def Dev.dropMessages (s : Dev) (d : Nat) : Dev :=
  let other (m : Msg) : Bool := m.src.die != d || (m.src.level == 3 && m.src.unit == 3)
  { s with flt := { s.flt with msgs := s.flt.msgs.filter other, merge := s.flt.merge.filter other,
                               events := s.flt.events.filter fun e => e.src.die != d } }

/-- Everything that a die reset of pair `d` does (R480 to R486). With a job open, a fatal message is logged first and the job fails; the
lead moves; then the pair is reset. -/
def Dev.pairReset (s : Dev) (d : Nat) : Dev :=
  let s := if s.jobState ≠ 0 then
      (s.detect (dieSrc d 1) 0x51 3 0).logAll
    else s
  let s := if s.pkg.lead = d then s.takeover else s
  let s := ((s.dropMessages d).computeReset d).baseReset d
  let s := { s with regs := { s.regs with act := s.regs.act.filter fun e => !(pairRegs d).contains e.1 } }.updShow d
  let s := (s.dropRecords d)
  let s := ([d, d + 4, d + 8, d + 12].foldl Dev.portReset s)
  let s := if d = 0 then s.hostReset else s
  let s := s.setBase d (s.base ((d + 1) % 4))
  s.setFld dieBootPairsBusy (s.fld dieBootPairsBusy ||| 2 ^ d)

end Sys2Proof.Machine
end

