-- ==== Sys2Proof/Machine/Reset.lean ====
section
/-! DEFINITION. Resets, bring-up, lateral training, reference clocks, heartbeats and the lead (R25, R26, R468 to R492). -/

namespace Sys2Proof.Machine

/-! ### Resets (R479 to R488) -/

/-- WARM_PACKAGE_RESET (R479, R488, R558): a register write is refused before command-ready, a PLDM request is held until then. -/
def warmResetEffect (by_ : ResetBy) (s : Dev) : Dev :=
  if s.on dieBootReady then s.warmReset
  else match by_ with
    | .register => s.refused
    | .pldm => { s with car := { s.car with reset := true } }
    | .flr | .tamper => s.warmReset

/-- DIE_RESET (R486, R488). -/
def dieResetEffect (d : Nat) (s : Dev) : Dev := if s.on dieBootReady then s.pairReset d else s.refused

/-- PORT_RESET (R484): a fabric port, or the host port. -/
def portResetEffect (p : Option Nat) (s : Dev) : Dev :=
  match p with
  | some p => s.portReset p
  | none => s.hostReset

/-- CORE_RESET (R485, R488). -/
def coreResetEffect (c : Nat) (s : Dev) : Dev :=
  if s.on dieBootReady && s.pkg.fences.core c then s.coreReset c else s.refused

/-- COLD_RESET (R479, R535): PWR_OK rises after it was low; by then the board has released it as well. -/
def coldResetEffect (s : Dev) : Dev := if s.car.fell && !s.car.module then s.chilled else s

/-! ### Bring-up (R25, R468 to R471, R487, R497) -/

/-- The capabilities in force: the AND over the four base dies and the compute dies whose interface trained (R469). -/
def capsInForce (bu : BringUp) : W64 :=
  let base := [4, 5, 6, 7].foldl (fun w i => w &&& wordAt bu.caps i) (BitVec.allOnes 64)
  [0, 1, 2, 3].foldl (fun w d => if bu.trained.contains d then w &&& wordAt bu.caps d else w) base

/-- Compute die `d` is fenced at bring-up with a message of kind compute-die (R468, R471); a second one out is fatal (R455). -/
def Dev.bringFence (s : Dev) (d : Nat) : Dev :=
  if s.pkg.fences.dies.contains d then s else (s.detect (dieSrc d 0) 0x50 1 0).fenceDie d

/-- Units that fail self-test are fenced (R455, R487): `p` picks the pair or pairs brought up. -/
def Dev.selfTest (s : Dev) (bu : BringUp) (p : Nat → Bool) : Dev :=
  let s := (bu.cores.filter fun c => decide (c < 512) && p (c / 128)).foldl Dev.fenceCore s
  let s := (bu.clusters.filter fun k => decide (k < 32) && p (k / 8)).foldl Dev.fenceCluster s
  (bu.dies.filter fun d => decide (d < 4) && p d).foldl Dev.fenceDie s

/-- The package reaches command-ready (R487), unless a fuse mismatch stops boot in stage 1 (R497). Where no complex passes its self-test R25 names
no lead: base die 0 is taken then, and command-ready is reached all the same (DESIGN CHOICE, log entry 75). -/
def Dev.bringPackage (s : Dev) (bu : BringUp) : Dev :=
  if bu.fuseBad then (s.setFld dieBootStage 1).secDetect 0x66 3 4
  else
    let lead := ([0, 1, 2, 3].find? bu.complexes.contains).getD 0
    let s := s.setBit dieClkInUse (!s.on dieClkAOk)
    let caps := Sparse.setAll (always 0) [] ((List.range 8).map fun d => (d, wordAt bu.caps d))
    let s := { s with pkg := { s.pkg with caps, complex := bu.complexes, lead } }
    let s := (s.setReg dieCapCap.off (capsInForce bu)).setFld hifStatusLead lead
    let s := s.setReg dieStepCdStep0.off (BitVec.ofNat 64 (leNat bu.steps))
    let s := s.setFld sysIdFeatLevel s.featLevel
    let s := s.boot
    let s := ([0, 1, 2, 3].filter fun d => !bu.trained.contains d).foldl Dev.bringFence s
    let s := s.selfTest bu (fun _ => true)
    let s := ((s.setFld dieBootStage 7).setBit dieBootReady true).setFld dieBootReadyMs (Nat.min 65535 bu.ms)
    if s.car.reset then s.warmReset else s

/-- Pair `d` is back in service (R471, R486): a compute die that did not train, or whose capability message differs, is fenced. -/
def Dev.bringPair (s : Dev) (d : Nat) (bu : BringUp) : Dev :=
  let busy := s.fld dieBootPairsBusy
  if !bit busy d then s else
  let s := s.setFld dieBootPairsBusy (busy - 2 ^ d)
  let complex := if bu.complexes.contains d then setAdd s.pkg.complex d else setDel s.pkg.complex d
  let s := { s with pkg := { s.pkg with complex } }
  let same := wordAt bu.caps d == Sparse.get (always 0) s.pkg.caps d
  let s := if bu.trained.contains d && same then s else s.bringFence d
  s.selfTest bu (· == d)

/-- COMMAND_READY (R487). Without a valid reference stage 0 waits (R488). -/
def readyEffect (pair : Option Nat) (bu : BringUp) (s : Dev) : Dev :=
  match pair with
  | some d => if s.on dieBootReady then s.bringPair d bu else s
  | none =>
    if s.on dieBootReady || s.fld dieBootStage == 1 || !(s.on dieClkAOk || s.on dieClkBOk) then s else s.bringPackage bu

/-! ### Lateral modules (R472 to R475) -/

/-- The base die of a side of a link. -/
def sideDie (l : Nat) : Side → Nat
  | .lo => (linkEnds l).1
  | .hi => (linkEnds l).2

/-- LATERAL_MODULE_TRAINING: a side trains at bring-up of the package or of its pair. A new disagreement begins without attempts. -/
def trainingEffect (l m : Nat) (side : Side) (w : Nat) (s : Dev) : Dev :=
  if s.on dieBootReady && !bit (s.fld dieBootPairsBusy) (sideDie l side) then s
  else (((s.setFld (widthFld l m side) w).setFld (dieLat l m 6 2) 0).carryShow l m)

/-- LATERAL_RETRY_FAILURE: both sides retrain, to no wider than they were (R474). -/
def retryFailureEffect (l m lo hi : Nat) (s : Dev) : Dev :=
  if !s.on (dieLat l m 4 1) then s else
  let w := s.fld (widthFld l m .lo)
  let s := (s.setFld (widthFld l m .lo) (Nat.min w lo)).setFld (widthFld l m .hi) (Nat.min w hi)
  (s.setFld (dieLat l m 6 2) 0).carryShow l m

/-- The width each side trains towards in an attempt, for the sides that train (R473). -/
def attemptSides (lo hi : Nat) : Option Nat × Option Nat :=
  if lo = 0 ∧ hi = 0 then (some 1, some 1)
  else if lo = 0 then (some hi, none)
  else if hi = 0 then (none, some lo)
  else if hi < lo then (some hi, none)
  else (none, some lo)

/-- WIDTH_ATTEMPT: one attempt to bring two differing records together; the third that fails fences the module. -/
def attemptEffect (l m lo hi : Nat) (s : Dev) : Dev :=
  let a := s.fld (widthFld l m .lo)
  let b := s.fld (widthFld l m .hi)
  if s.on (dieLat l m 5 1) || (a == b && a != 0) then s else
  let (x, y) := attemptSides a b
  let a' := match x with | some t => Nat.min t lo | none => a
  let b' := match y with | some t => Nat.min t hi | none => b
  let s := ((s.setFld (widthFld l m .lo) a').setFld (widthFld l m .hi) b').carryShow l m
  if a' = b' ∧ a' ≠ 0 then s else
  let n := s.fld (dieLat l m 6 2) + 1
  let s := s.setFld (dieLat l m 6 2) n
  if n < 3 then s else
  let failed := (x.isSome && a' == 0) || (y.isSome && b' == 0)
  (s.detect ⟨3, l, m, 0, 3⟩ 0x34 1 (if failed then 2 else 1)).fenceLateral l m

/-! ### Reference clocks (R476 to R478) -/

/-- Whether an input is valid. -/
def clkOk (b : Bool) : Fld := if b then dieClkBOk else dieClkAOk

/-- A message of the reference clock: its argument names an input. -/
def Dev.clkMessage (s : Dev) (b : Bool) : Dev := s.detect (pkgSrc 0 7) 0x41 0 (b2n b)

/-- Change over to input `b`, unless it is in use. -/
def Dev.changeover (s : Dev) (b : Bool) : Dev :=
  if s.on dieClkInUse = b then s else ((s.setBit dieClkInUse b).satFld dieClkChanges 1).clkMessage b

/-- REFCLK_LOSS: the input in use gives way to the other one while that is valid. -/
def clkLossEffect (b : Bool) (s : Dev) : Dev :=
  let s := s.setBit (clkOk b) false
  if s.on dieClkInUse = b ∧ s.on (clkOk !b) then s.changeover (!b) else s

/-- REFCLK_VALID: holdover ends; with revert the package returns to the preferred input. -/
def clkValidEffect (b : Bool) (s : Dev) : Dev :=
  let s := s.setBit (clkOk b) true
  if s.on dieClkHoldover then (s.setBit dieClkHoldover false).changeover b
  else if s.on dieClkRevert && s.on dieClkPref == b then s.changeover b
  else s

/-- REFCLK_HOLDOVER: no input is valid; the message names the input last in use. -/
def holdoverEffect (s : Dev) : Dev :=
  if s.on dieClkAOk || s.on dieClkBOk || s.on dieClkHoldover then s
  else (s.setBit dieClkHoldover true).clkMessage (s.on dieClkInUse)

/-! ### Heartbeats and the lead (R26) -/

/-- HEARTBEAT: 1 ms of system time has passed since the latest exchange, with the lead's heartbeat or without it. -/
def heartbeatEffect (got : Bool) (s : Dev) : Dev :=
  if s.now 0 < s.pkg.hbAt + 1000000 then s else
  { s with pkg := { s.pkg with hbMissed := if got then 0 else s.pkg.hbMissed + 1, hbAt := s.now 0 } }

/-- LEAD_TAKEOVER: after three heartbeats missed in a row. -/
def takeoverEffect (s : Dev) : Dev := if s.pkg.hbMissed < 3 then s else s.takeover

/-- WARM_PACKAGE_RESET (R479). -/
def execWarmPackageReset (by_ : ResetBy) (s : State) : Res := s.run (warmResetEffect by_)
/-- DIE_RESET (R486). -/
def execDieReset (d : Fin 4) (s : State) : Res := s.run (dieResetEffect d)
/-- PORT_RESET (R484). -/
def execPortReset (p : Option (Fin 16)) (s : State) : Res := s.run (portResetEffect (p.map fun i => i.val))
/-- CORE_RESET (R485). -/
def execCoreReset (core : Fin 512) (s : State) : Res := s.run (coreResetEffect core)
/-- COLD_RESET (R479). -/
def execColdReset (s : State) : Res := s.run coldResetEffect
/-- COMMAND_READY (R487). -/
def execCommandReady (pair : Option (Fin 4)) (bu : BringUp) (s : State) : Res := s.run (readyEffect (pair.map fun i => i.val) bu)
/-- LATERAL_MODULE_TRAINING (R472). -/
def execLateralModuleTraining (l : Fin 4) (m : Fin 8) (side : Side) (width : Fin 3) (s : State) : Res := s.run (trainingEffect l m side width)
/-- LATERAL_RETRY_FAILURE (R472). -/
def execLateralRetryFailure (l : Fin 4) (m : Fin 8) (lo hi : Fin 3) (s : State) : Res := s.run (retryFailureEffect l m lo hi)
/-- WIDTH_ATTEMPT (R473). -/
def execWidthAttempt (l : Fin 4) (m : Fin 8) (lo hi : Fin 3) (s : State) : Res := s.run (attemptEffect l m lo hi)
/-- REFCLK_LOSS (R476). -/
def execRefclkLoss (b : Bool) (s : State) : Res := s.run (clkLossEffect b)
/-- REFCLK_VALID (R476). -/
def execRefclkValid (b : Bool) (s : State) : Res := s.run (clkValidEffect b)
/-- REFCLK_HOLDOVER (R478). -/
def execRefclkHoldover (s : State) : Res := s.run holdoverEffect
/-- HEARTBEAT (R26). -/
def execHeartbeat (got : Bool) (s : State) : Res := s.run (heartbeatEffect got)
/-- LEAD_TAKEOVER (R26). -/
def execLeadTakeover (s : State) : Res := s.run takeoverEffect

end Sys2Proof.Machine
end

