-- ==== Sys2Proof/Machine/Power.lean ====
section
/-! DEFINITION. Power, cooling, the carrier controller and its sideband (R534 to R560). -/

namespace Sys2Proof.Machine

/-- A message of package level, unit 0 (R557). -/
def Dev.pwrDetect (s : Dev) (kind cls arg : Nat) : Dev := s.detect (pkgSrc s.pkg.lead 0) kind cls arg

/-! ### PWR_OK, shutdown (R535, R540, R542, R543, R553, R556) -/

/-- A shutdown cause is recorded, the last 16 of them; the controller's uptime is a free value. -/
def Dev.cause (s : Dev) (code : Nat) : Dev :=
  let (k, s) := s.fresh
  let l := s.car.causes ++ [Cause.mk code (Config.freeWord k).toNat false]
  { s with car := { s.car with causes := l.drop (l.length - 16) } }

/-- The module pulls PWR_OK low, and its power stages go off. -/
def Dev.shutDown (s : Dev) (latched : Bool) : Dev :=
  let s := if s.car.module then s else s.send (.pin "PWR_OK" false)
  { s with car := { s.car with module := true, stages := false, fell := true, latched := s.car.latched || latched } }

/-- THERMTRIP_N is released. -/
def Dev.tripClear (s : Dev) : Dev :=
  if s.car.trip then { s with car := { s.car with trip := false } }.send (.pin "THERMTRIP_N" true) else s

/-- POWER_UP (R540, R543, R553): the controller starts; with rails in their limits the module releases PWR_OK. A module whose stages have
stayed on rode through (R558). -/
def powerUpEffect (ok : Bool) (s : Dev) : Dev :=
  if s.car.stages then s else
  let s := s.tripClear
  let s := { s with car := { s.car with up := true, latched := false, addr := none } }
  if ok then { s with car := { s.car with stages := true, module := false, fell := true } }.send (.pin "PWR_OK" true) else s

/-- PWR_OK_LOW (R535, R556): one side has held PWR_OK low for 10 µs. -/
def pwrOkLowEffect (board : Bool) (s : Dev) : Dev :=
  if board then ({ s with car := { s.car with board := true, fell := true } } : Dev).cause 6
  else if s.car.module then { s with car := { s.car with fell := true } } else s

/-- THERMTRIP (R553): by a die, or by a stack. -/
def thermtripEffect (hbm : Bool) (s : Dev) : Dev :=
  if !s.car.stages then s else
  let s := { s with car := { s.car with trip := true } }.send (.pin "THERMTRIP_N" false)
  (s.shutDown true).cause (if hbm then 4 else 3)

/-- INPUT_LOSS_SHUTDOWN (R542, R554): below 36.0 V the endpoint leaves service as well. -/
def inputLossEffect (s : Dev) : Dev :=
  let s := if s.car.stages then (s.shutDown false).cause 1 else s
  let s := s.tripClear
  { s with car := { s.car with up := false, latched := false, addr := none } }

/-- OVERVOLTAGE_SHUTDOWN (R543). -/
def overvoltageEffect (s : Dev) : Dev := if s.car.stages then (s.shutDown true).cause 2 else s

/-- RAIL_FAULT (R543): the message is logged first. -/
def railFaultEffect (rail : Nat) (s : Dev) : Dev :=
  if s.car.stages then (((s.pwrDetect 0x5D 3 rail).logAll).shutDown true).cause 5 else s

/-! ### The issue limit (R545 to R549) -/

/-- fcap, in 64ths. -/
def Dev.fcap (s : Dev) : Nat := s.fld pwrLimitFcap

/-- PWR_LIMIT and PWR_STATUS follow the three terms; the term of a fenced die no longer applies (R545, R558, R560). -/
def Dev.limitShow (s : Dev) : Dev :=
  let s := (List.range 4).foldl (fun s d =>
    let s := s.setFld (pwrLimitFcap.nth d) s.fcap
    s.setFld (pwrLimitA.nth d) (Nat.min s.fcap (Nat.min (s.fld (pwrLimitFth.nth d)) (s.fld (pwrLimitFramp.nth d))))) s
  let therm := (List.range 4).any fun d => !s.pkg.fences.dies.contains d && decide (s.fld (pwrLimitFth.nth d) < 64)
  (s.setBit pwrStatusCapHold (decide (s.fcap < 64))).setBit pwrStatusTherm therm

/-- Set fcap, at least 1/64 and at most 1. -/
def Dev.setFcap (s : Dev) (v : Nat) : Dev := (s.setFld pwrLimitFcap (Nat.max 1 (Nat.min 64 v))).limitShow

/-- The average of the latest `n` samples in mW. -/
def Power.avg (p : Power) (n : Nat) : Nat :=
  let l := p.samples.take n
  l.foldl (· + ·) 0 / Nat.max 1 l.length

/-- POWER_MEASURE (R544, R546): a sample above 4,200 W halves fcap at once. -/
def powerMeasureEffect (mv ma : Nat) (s : Dev) : Dev :=
  let w := mv * ma / 1000
  let s := { s with pwr := { s.pwr with samples := (w :: s.pwr.samples).take 1000, vin := mv, iin := ma } }
  let s := ((s.setFld pwrInputVin (Nat.min 65535 mv)).setFld pwrInputIin (Nat.min 65535 (ma / 10))).setFld pwrInputPin
    (Nat.min 8191 (s.pwr.avg 10 / 1000))
  let s := s.setBit pwrStatusHigh (decide (60000 < mv))
  if 4200000 < w then s.setFcap (s.fcap / 2) else s

/-- CAP_ADJUST (R546, R560). -/
def capAdjustEffect (s : Dev) : Dev :=
  let p := s.pwr.avg 10
  let c := 10 * s.fld pwrCapCapW
  let s :=
    if s.on pwrStatusCapHold then
      let n := s.pwr.held + 1
      if n = 10 then { s with pwr := { s.pwr with held := 0 } }.satFld pwrStatusHoldMs 1
      else { s with pwr := { s.pwr with held := n } }
    else s
  if 110 * c < p then s.setFcap (s.fcap - 4)
  else if 100 * c < p then s.setFcap (s.fcap - 1)
  else if p < 98 * c then s.setFcap (s.fcap + 1)
  else s

/-- RAMP_STEP (R548). -/
def rampStepEffect (d u : Nat) (s : Dev) : Dev :=
  let v := if s.fld pwrRampRstepUs = 0 then 64
    else Nat.min 64 (Nat.min (s.fld (pwrLimitFramp.nth d) + 1) (u + s.fldOr pwrRampHead 1))
  (s.setFld (pwrLimitFramp.nth d) v).limitShow

/-! ### The brown state (R542), the input (R538) -/

/-- BROWN_STATE_ENTER. -/
def brownEnterEffect (mv : Nat) (s : Dev) : Dev :=
  if s.on pwrStatusBrown || !s.car.stages then s else
  let s := ((s.setBit pwrStatusBrown true).satFld pwrStatusBrowns 1).capShow
  (s.setFcap (Nat.min s.fcap 8)).pwrDetect 0x58 0 (mv % 65536)

/-- BROWN_STATE_EXIT. -/
def brownExitEffect (s : Dev) : Dev := if s.on pwrStatusBrown then (s.setBit pwrStatusBrown false).capShow else s

/-- INPUT_HIGH. -/
def inputHighEffect (mv : Nat) (s : Dev) : Dev :=
  if 60000 < mv then (s.setBit pwrStatusHigh true).pwrDetect 0x59 0 (mv % 65536) else s

/-! ### Temperatures (R550 to R553) -/

/-- A temperature as a signed byte. -/
def tempByte (t : Int) : Nat := wrap 8 (max (-128) (min 127 t))

/-- The largest of a list. -/
def maxInt (l : List Int) : Int := l.foldl max (l.headD 0)

/-- PWR_TEMP and PWR_STATUS follow the sensors. -/
def Dev.tempShow (s : Dev) : Dev :=
  let cds := s.pwr.pairT.map Prod.fst
  let s := (s.setFld pwrTempTjCd (tempByte (maxInt cds))).setFld pwrTempPair (cds.findIdx fun x => x == maxInt cds)
  let s := (s.setFld pwrTempTjBd (tempByte (maxInt (s.pwr.pairT.map Prod.snd)))).setFld pwrTempHbm (tempByte (maxInt s.pwr.stackT))
  let s := s.setFld pwrTempInlet (tempByte s.pwr.inlet)
  (s.setBit pwrStatusHbmHot (s.pwr.stackT.any fun t => decide (95 ≤ t))).setBit pwrStatusCoolHot (decide (45 < s.pwr.inlet))

/-- THERMAL_TICK (R551). -/
def thermalTickEffect (d : Nat) (cd bd : Int) (s : Dev) : Dev :=
  let s := { s with pwr := { s.pwr with pairT := setNth s.pwr.pairT d (cd, bd) } }.tempShow
  let hot := max cd bd
  let fth := s.fld (pwrLimitFth.nth d)
  if 105 ≤ hot then
    if fth ≤ 1 then s else
    let t := s.real
    let first := match Sparse.get (always 0) s.pwr.fallAt d with
      | 0 => true
      | t0 => decide (t0 - 1 + 1000000000 ≤ t)
    let s := { s with pwr := { s.pwr with fallAt := Sparse.set (always 0) s.pwr.fallAt d (t + 1) } }
    let s := if first then s.detect (dieSrc d 0) 0x5A 0 (tempByte hot + 2 ^ 8 * b2n (decide (cd < bd))) else s
    (s.setFld (pwrLimitFth.nth d) (fth - 1)).limitShow
  else if hot ≤ 103 then (s.setFld (pwrLimitFth.nth d) (Nat.min 64 (fth + 1))).limitShow
  else s

/-- HBM_TEMPERATURE (R552). -/
def hbmTemperatureEffect (stack : Nat) (t : Int) (s : Dev) : Dev :=
  let s := { s with pwr := { s.pwr with stackT := setNth s.pwr.stackT stack t } }.tempShow
  if 95 ≤ t then s.detect ⟨3, stack / 4, 0, stack, 2⟩ 0x5B 0 (tempByte t) else s

/-- COOLANT_HOT (R550): an inlet above 45 °C is reported. -/
def coolantEffect (t : Int) (s : Dev) : Dev :=
  let s := { s with pwr := { s.pwr with inlet := t } }.tempShow
  if 45 < t then s.pwrDetect 0x5C 0 (tempByte t) else s

/-! ### The sideband (R554 to R556) -/

/-- PWR_OK is high. -/
def Dev.pwrOk (s : Dev) : Bool := !s.car.module && !s.car.board

/-- Answer on the sideband. -/
def Dev.i3c (s : Dev) (r : Sideband) : Dev := s.send (.i3c r)

/-- The endpoint runs and has its address. -/
def Dev.onBus (s : Dev) (f : Dev → Dev) : Dev := if s.car.up && s.car.addr.isSome then f s else s

/-- ENTDAA (R554): the provisional ID is formed from the serial number. -/
def entdaaEffect (a : Nat) (s : Dev) : Dev :=
  if s.car.up then { s with car := { s.car with addr := some a } }.i3c (.provisionalId s.sec.serial) else s

/-- What a sensor reads (R555); voltage in mV and current in mA. -/
def Dev.sensor (s : Dev) (x : Sensor) : Sideband :=
  let pkg (r : Sideband) : Sideband := if s.pwrOk then r else .unavailable
  match x with
  | .voltage => .value s.pwr.vin
  | .current => .value s.pwr.iin
  | .power => .value (s.pwr.avg 1000 / 1000 : Nat)
  | .cap => pkg (.value (s.fld pwrCapCapW))
  | .inlet => .value s.pwr.inlet
  | .pair d => pkg (.value (let t := s.pwr.pairT.getD d (0, 0); max t.1 t.2))
  | .stack n => pkg (.value (s.pwr.stackT.getD n 0))
  | .faultN => pkg (.state (s.fld fltStatusFaultN))
  | .shutdown => .state (match s.car.causes.getLast? with | some c => c.code | none => 0)

/-- PLDM_BOARD_CAP (R547, R555). -/
def boardCapEffect (w : Nat) (s : Dev) : Dev :=
  s.onBus fun s => if 1200 ≤ w ∧ w ≤ 3400 then ((s.setFld pwrCapBoardW w).capShow).i3c .ok else s.i3c .invalidData

/-- PLDM_MODULE_RESET (R555, R558). -/
def moduleResetEffect (kind : Nat) (s : Dev) : Dev :=
  s.onBus fun s =>
    if kind = 1 then s.i3c .ok
    else if kind = 2 then warmResetEffect .pldm (s.i3c .ok)
    else s.i3c .invalidData

/-- SHUTDOWN_CAUSE_EVENT (R556): every cause not yet reported. -/
def causeEventEffect (s : Dev) : Dev :=
  if !s.car.up then s else
  let s' := (s.car.causes.filter fun c => !c.reported).foldl (fun s c => s.i3c (.event c.code c.time)) s
  { s' with car := { s'.car with causes := s'.car.causes.map fun c => { c with reported := true } } }

/-- PLDM_BASE_REQUEST (R554): the terminus ID is a free value. -/
def baseRequestEffect (s : Dev) : Dev :=
  s.onBus fun s => let (k, s) := s.fresh; s.i3c (.base (Config.freeWord k).toNat)

/-- POWER_UP (R540). -/
def execPowerUp (ok : Bool) (s : State) : Res := s.run (powerUpEffect ok)
/-- PWR_OK_LOW (R535). -/
def execPwrOkLow (board : Bool) (s : State) : Res := s.run (pwrOkLowEffect board)
/-- POWER_MEASURE (R544). -/
def execPowerMeasure (mv ma : Nat) (s : State) : Res := s.run (powerMeasureEffect mv ma)
/-- CAP_ADJUST (R546). -/
def execCapAdjust (s : State) : Res := s.run capAdjustEffect
/-- RAMP_STEP (R548). -/
def execRampStep (d : Fin 4) (u : Fin 65) (s : State) : Res := s.run (rampStepEffect d u)
/-- THERMAL_TICK (R551). -/
def execThermalTick (d : Fin 4) (cd bd : Int) (s : State) : Res := s.run (thermalTickEffect d cd bd)
/-- HBM_TEMPERATURE (R552). -/
def execHbmTemperature (stack : Fin 16) (t : Int) (s : State) : Res := s.run (hbmTemperatureEffect stack t)
/-- COOLANT_HOT (R550). -/
def execCoolantHot (t : Int) (s : State) : Res := s.run (coolantEffect t)
/-- THERMTRIP (R553). -/
def execThermtrip (hbm : Bool) (s : State) : Res := s.run (thermtripEffect hbm)
/-- BROWN_STATE_ENTER (R542). -/
def execBrownStateEnter (mv : Nat) (s : State) : Res := s.run (brownEnterEffect mv)
/-- BROWN_STATE_EXIT (R542). -/
def execBrownStateExit (s : State) : Res := s.run brownExitEffect
/-- INPUT_LOSS_SHUTDOWN (R542). -/
def execInputLossShutdown (s : State) : Res := s.run inputLossEffect
/-- INPUT_HIGH (R538). -/
def execInputHigh (mv : Nat) (s : State) : Res := s.run (inputHighEffect mv)
/-- OVERVOLTAGE_SHUTDOWN (R543). -/
def execOvervoltageShutdown (s : State) : Res := s.run overvoltageEffect
/-- RAIL_FAULT (R543). -/
def execRailFault (rail : Fin 256) (s : State) : Res := s.run (railFaultEffect rail)
/-- ENTDAA (R554). -/
def execEntdaa (addr : Fin 128) (s : State) : Res := s.run (entdaaEffect addr)
/-- PLDM_SENSOR_READ (R555). -/
def execPldmSensorRead (x : Sensor) (s : State) : Res := s.run fun s => s.onBus fun s => s.i3c (s.sensor x)
/-- PLDM_BOARD_CAP (R555). -/
def execPldmBoardCap (w : Nat) (s : State) : Res := s.run (boardCapEffect w)
/-- PLDM_MODULE_RESET (R555). -/
def execPldmModuleReset (kind : Fin 256) (s : State) : Res := s.run (moduleResetEffect kind)
/-- PLDM_FRU_READ (R554). -/
def execPldmFruRead (s : State) : Res := s.run fun s => s.onBus fun s => s.i3c (.fru s.sec.serial)
/-- SHUTDOWN_CAUSE_EVENT (R556). -/
def execShutdownCauseEvent (s : State) : Res := s.run causeEventEffect
/-- PLDM_BASE_REQUEST (R554). -/
def execPldmBaseRequest (s : State) : Res := s.run baseRequestEffect

end Sys2Proof.Machine
end

