-- ==== Sys2Proof/Machine/Counters.lean ====
section
/-! DEFINITION. Counter snapshots and samples (R511, R524 to R531). -/

namespace Sys2Proof.Machine

/-! ### Snapshots (R524, R525) -/

/-- The first whole microsecond at least 2 µs from now. -/
def Dev.snapTime (s : Dev) : Nat := ceilDiv (s.now 0 + 2000) 1000 * 1000

/-- go in PMC_SNAP_CTL (R524): `w` is the word written, its reserved bits apart. -/
def Dev.takeSnapshot (s : Dev) (w : W64) : Dev :=
  if fld64 w 0 1 = 0 then s
  else if s.on pmcSnapStatusBusy then s.setBit pmcSnapStatusRefused true
  else { s with pmc := { s.pmc with snap := some ⟨s.snapTime, fld64 w 16 12, fld64 w 28 12 + 1, []⟩ } }.setBit pmcSnapStatusBusy true

/-- SNAPSHOT (R524, R278). -/
def snapshotEffect (w : W64) (s : Dev) : Dev :=
  let s := if fld64 w 1 15 != 0 || fld64 w 40 24 != 0 then s.violation pmcSnapCtlGo.off true else s
  s.takeSnapshot w

/-- The record of a snapshot: header, then 1,024 bytes per block; block numbers that no block has read as zero. -/
def Dev.snapRecord (s : Dev) (n : Snap) (seq : Nat) : List Byte :=
  padTo 64 (natLe 8 n.t ++ natLe 2 n.first ++ natLe 2 n.n ++ natLe 4 seq) ++
  (List.range n.n).flatMap fun b => (List.range 128).flatMap fun e =>
    natLe 8 (if n.first + b ≤ 0xC36 then s.ctrRead (128 * (n.first + b) + e) else 0)

/-- SNAPSHOT_INSTANT (R524): T has come; the record is written and done rises. While a page of the buffer is being moved the record stands as it
was made (R255). -/
def snapInstantEffect (s : Dev) : Dev :=
  match s.pmc.snap with
  | none => s
  | some n =>
    if s.now 0 < n.t then s else
    let rec_ := if n.data.isEmpty then s.snapRecord n (s.fld pmcSnapStatusDone) else n.data
    match s.vWrite (baseTlb 0) (pkgSrc 0 0) 0 (s.fld pmcSnapAddrAddr * 64) rec_ with
    | (s, .wait _) => { s with pmc := { s.pmc with snap := some { n with data := rec_ } } }
    | (s, _) => ({ s with pmc := { s.pmc with snap := none } }.setBit pmcSnapStatusBusy false).addFld pmcSnapStatusDone 1

/-! ### Samples (R526, R527) -/

/-- The number of the counter that sampler `n` reads on core `c`. -/
def Dev.sampCtr (s : Dev) (n c : Nat) : Nat :=
  let k := s.fldAs ⟨.sequencer, c⟩ (pmcSamplerKind.nth n)
  128 * (if k = 0 then coreBlk c else engBlk c (k - 1)) + s.fldAs ⟨.sequencer, c⟩ (pmcSamplerEvent.nth n)

/-- Events between two samples of core `c`. -/
def Dev.sampPeriod (s : Dev) (n c : Nat) : Nat := 4096 * s.fldOrAs ⟨.sequencer, c⟩ (pmcSamplerPeriod.nth n) 1

/-- The 32 bytes of a sample. -/
def Dev.sampBytes (s : Dev) (n c pc skid : Nat) : List Byte :=
  let w := (s.core c).work
  let (entry, brz, round) := match w with | some w => (w.entry, w.brz, w.round) | none => (0, false, 0)
  natLe 8 (s.now (c / 128)) ++ natLe 8 (pc + 2 ^ 20 * c + 2 ^ 29 * n + 2 ^ 32 * (entry % 65536) + 2 ^ 48 * b2n brz) ++
  natLe 8 (s.ctrRead (s.sampCtr n c)) ++ natLe 4 round ++ natLe 4 skid

/-- Samples that the ring holds. -/
def Dev.sampCap (s : Dev) : Nat := 2048 * (s.fld pmcSampRingSizeM1 + 1)

/-- Signal samples written (R527). -/
def Dev.sampSignal (s : Dev) : Dev :=
  let k := s.pmc.sampNew + 1
  if s.fldOr pmcSampCtlAgg 1 ≤ k then
    let s := { s with pmc := { s.pmc with sampNew := 0 } }
    if s.on pmcSampCtlIntEn then s.msix (s.fld pmcSampCtlVec) else s
  else { s with pmc := { s.pmc with sampNew := k } }

/-- SAMPLE (R526, R527): a down-count has reached zero. Once the ring has been filled, whether it is full is a free value: the spec gives no
consumer index. While a page of the ring is being moved the sample waits (R255). -/
def sampleEffect (n c pc skid : Nat) (s : Dev) : Dev :=
  let s0 := s
  let key := 512 * n + c
  let got := Sparse.get (always 0) s.pmc.samp key
  if got < s.sampPeriod n c then s else
  let s := { s with pmc := { s.pmc with samp := Sparse.set (always 0) s.pmc.samp key (got - s.sampPeriod n c) } }
  let prod := s.fld pmcSampStatusProd
  let (k, s) := s.fresh
  if decide (s.sampCap ≤ prod) && (Config.freeWord k).getLsbD 0 then s.satFld pmcSampStatusLost 1
  else
    let addr := s.fld pmcSampRingBase * 65536 + 32 * (prod % s.sampCap)
    match s.vWrite (c / 16) (coreSrc c 0) 0 addr (s.sampBytes n c pc skid) with
    | (_, .wait _) => s0
    | (s, _) => (s.addFld pmcSampStatusProd 1).sampSignal

/-- SNAPSHOT (R524). -/
def execSnapshot (w : W64) (s : State) : Res := s.run (snapshotEffect w)
/-- SNAPSHOT_INSTANT (R524). -/
def execSnapshotInstant (s : State) : Res := s.run snapInstantEffect
/-- SAMPLE (R526). -/
def execSample (sampler : Fin 8) (core : Fin 512) (pc : BitVec 20) (skid : Fin 9) (s : State) : Res :=
  s.run (sampleEffect sampler core pc.toNat skid)

end Sys2Proof.Machine
end

