-- ==== Sys2Proof/Machine/QueueCmds.lean ====
section
/-! DEFINITION. The commands on queues, doorbells, completions and MSI-X (R289 to R305, R484). -/

namespace Sys2Proof.Machine

/-! ### QTB_OP (R289) -/

/-- The queue that QTB_SEL names. -/
def Dev.selQueue (s : Dev) : Nat := s.fld qtbSelQ

/-- Refuse a queue operation: set refused and leave the queue unchanged (R289). -/
def Dev.qRefuse (s : Dev) : Dev := s.setBit qtbStatusRefused true

/-- The check of enable (R289). -/
def Dev.enableOk (s : Dev) (q : Nat) : Bool :=
  let c := s.qctx q
  decide (c.kind ≤ 6) && decide (4 ≤ c.lsz) && decide (c.lsz ≤ 16) &&
  fld64 c.w0 43 5 == 0 && fld64 c.w0 52 12 == 0 && fld64 c.w3 32 32 == 0 &&
  c.w1.toNat % 4096 == 0 && c.w2.toNat % 8 == 0 &&
  (!c.isSub || ((s.qctx c.cq).kind == 6 && (s.qctx c.cq).state == 1)) &&
  c.state != 2

/-- Some enabled submission queue names completion queue `q`. -/
def Dev.cqNamed (s : Dev) (q : Nat) : Bool :=
  (s.qctx q).kind == 6 && s.que.ctx.any fun e => e.2.state == 1 && e.2.isSub && e.2.cq == q

/-- QTB_OP 1: check, enable, and read the doorbell slot, whose value is `slot` (R289, R305). -/
def queueEnableEffect (slot : W64) (s : Dev) : Dev :=
  let q := s.selQueue
  if s.on qtbStatusBusy || !s.enableOk q then s.qRefuse
  else
    let s := s.setQ q { s.qctx q with state := 1 }
    let s := if s.caching then { s with que := { s.que with lines := setAdd s.que.lines (q / 8) } } else s
    s.takeSlot q slot

/-- QTB_OP 2: fetch no more; the queue is disabled once what was fetched has completed (R289). -/
def queueDisableEffect (s : Dev) : Dev :=
  let q := s.selQueue
  if s.on qtbStatusBusy || s.cqNamed q then s.qRefuse
  else ({ s with que := { s.que with op := some (q, 2) } }.setBit qtbStatusBusy true).qSettle q

/-- Complete with ABORTED every fetched entry of `q` that has not started, collectives once those before them have completed. A DMA chain
aborts whole, with cid 0: a chain that runs stands at a 4 KiB boundary between two commands and stops there. -/
def Dev.abortUnstarted (s : Dev) (q : Nat) : Dev :=
  let mine := s.que.run.filter fun e => e.q == q
  let fail (e : Entry) : Entry := if e.q = q ∧ !e.started then { e with started := true, fail := some 0x0103 } else e
  if (s.qctx q).kind = 2 then
    if mine.isEmpty then s
    else (s.setChan (1024 + q) { Chan.idle with stream := (s.chan (1024 + q)).stream }).complete q 0 false 0x0103 0 mine.length
  else
    let s := { s with que := { s.que with run := s.que.run.map fail }, disp := { s.disp with ones := s.disp.ones.filter fun o => o.q != q } }
    s.drainBad q mine.length

/-- QTB_OP 3: as disable, but entries not started abort, a DMA chain stops, held completions of the queue are dropped, and words 4 to 6
clear (R289, R304). -/
def queueResetEffect (s : Dev) : Dev :=
  let q := s.selQueue
  if s.on qtbStatusBusy || s.cqNamed q then s.qRefuse
  else
    let s := { s with que := { s.que with held := s.que.held.filter fun m => m.sq != q && m.cq != q } }
    let s := s.abortUnstarted q
    let s := { s with que := { s.que with fresh := Sparse.set (always ⟨0, 0⟩) s.que.fresh q ⟨0, 0⟩, short := Sparse.set (always 0) s.que.short q 0 } }
    ({ s with que := { s.que with op := some (q, 3) } }.setBit qtbStatusBusy true).qSettle q

/-- QUEUE_ENABLE (R289). -/
def execQueueEnable (slot : W64) (s : State) : Res := s.run (queueEnableEffect slot)
/-- QUEUE_DISABLE (R289). -/
def execQueueDisable (s : State) : Res := s.run queueDisableEffect
/-- QUEUE_RESET (R289). -/
def execQueueReset (s : State) : Res := s.run queueResetEffect

/-! ### Doorbells (R292 to R294) -/

/-- A snoop invalidates the device's copy of a line; it is re-read (R293). -/
def doorbellSnoopEffect (line : Nat) (s : Dev) : Dev :=
  if s.que.lines.contains line then
    { s with que := { s.que with lines := setDel s.que.lines line, stale := setAdd s.que.stale line } }
  else s

/-- One poll interval: every line of an enabled queue is read, when the device does not cache them (R293). -/
def doorbellPollEffect (s : Dev) : Dev :=
  if s.caching then s else { s with que := { s.que with stale := s.heldLines } }

/-- The slots of a line, in order, each handled by its own queue (R305). -/
def Dev.takeLine (s : Dev) (line : Nat) (data : List Byte) : Dev :=
  (List.range 8).foldl (fun s i => s.takeSlot (8 * line + i) (BitVec.ofNat 64 (leAt data (8 * i) 8))) s

/-- A doorbell line arrives (R293, R294), unless the host port is paused for a commit, when it is read later (R23). -/
def doorbellLineEffect (line : Nat) (data : List Byte) (s : Dev) : Dev :=
  if s.pausedUnit ⟨.hostPort, 0⟩ then s else
  let keep := s.caching && s.lineHeld line
  let s := { s with que := { s.que with stale := setDel s.que.stale line,
                                        lines := if keep then setAdd s.que.lines line else s.que.lines } }
  s.takeLine line data

/-- DOORBELL_SNOOP (R293). -/
def execDoorbellSnoop (line : Fin 4096) (s : State) : Res := s.run (doorbellSnoopEffect line)
/-- DOORBELL_POLL (R293). -/
def execDoorbellPoll (s : State) : Res := s.run doorbellPollEffect
/-- DOORBELL_LINE_READ (R294). -/
def execDoorbellLineRead (line : Fin 4096) (data : List Byte) (s : State) : Res := s.run (doorbellLineEffect line data)

/-! ### Fetching (R295, R296, R301, R303, R304) -/

/-- The number of an execution resource, and the queue kind it serves. -/
def resourceNo : Resource → Nat
  | .lead => 0
  | .dispatchers => 1
  | .dma d => 2 + d.val
  | .engines => 6

/-- Queue context `c` feeds resource `r`. -/
def feeds (r : Resource) (c : QCtx) : Bool :=
  match r with
  | .lead => c.kind == 0
  | .dispatchers => c.kind == 1
  | .dma d => c.kind == 2 && c.die == d.val
  | .engines => c.kind == 3

/-- A queue may start an entry: it is live, nothing stops it, an entry is published, no completion of it is held, and, but
for collective queues, none of its entries runs (R303, R304); a chain found incomplete waits for further entries (R296). -/
def Dev.eligible (s : Dev) (q : Nat) (c : QCtx) : Bool :=
  c.live && (match s.que.op with | some (q', _) => q' != q | none => true) &&
  decide (c.dev.toNat + (s.que.run.filter (·.q == q)).length < c.host.toNat) &&
  !(s.que.held.any fun m => m.sq == q) && (c.kind == 3 || !s.qBusy q) && Sparse.get (always 0) s.que.short q != c.host.toNat

/-- The weight of priority class `c`; 0 is taken as 1 (R285). -/
def Dev.weight (s : Dev) (c : Nat) : Nat := Nat.max 1 (fld64 (s.reg 0x1018) (8 * c) 8)

/-- The queues of class `c` that may start on resource `r`. -/
def Dev.classQueues (s : Dev) (r : Resource) (c : Nat) : List Nat :=
  (s.que.ctx.filter fun e => feeds r e.2 && e.2.prio == c && s.eligible e.1 e.2).map (·.1)

/-- Round robin: the first after the one served last. -/
def nextAfter (last : Nat) (l : List Nat) : Option Nat :=
  match l.find? fun q => decide (last ≤ q) with
  | some q => some q
  | none => l.head?

/-- The class and queue served next: the present class while its turn has starts left, else the next class with something
published (R301). `n` bounds the classes looked at. -/
def Dev.arbitrate (s : Dev) (r : Resource) : Nat → Nat → Nat → Option (Nat × Nat × Nat)
  | 0, _, _ => none
  | n + 1, cls, used =>
    let k := resourceNo r * 8 + cls
    match nextAfter (Sparse.get (always 0) s.que.served k) (s.classQueues r cls) with
    | some q => if used < s.weight cls then some (cls, used, q) else s.arbitrate r n ((cls + 1) % 8) 0
    | none => s.arbitrate r n ((cls + 1) % 8) 0

/-- The opcodes defined for a queue kind (R313, R368, R416). -/
def opcodeDefined (kind op : Nat) : Bool :=
  match kind with
  | 0 => decide (1 ≤ op) && decide (op ≤ 0x18)
  | 1 => op == 1
  | 3 => decide (1 ≤ op) && decide (op ≤ 0x0A)
  | _ => true

/-- The flag bits of the header that are reserved: [7:1] (R295). -/
def reservedFlags (flags : Nat) : Bool := flags / 2 != 0

/-- The descriptors of a chain, up to and with the one whose chain bit (q0[35]) is 0; none when the data end first (R296). -/
def chainOf (chained : List Byte → Bool) : Nat → List Byte → Option (List (List Byte))
  | 0, _ => none
  | n + 1, bs =>
    let e := bs.take 64
    if chained e then (chainOf chained n (bs.drop 64)).map (e :: ·) else some [e]

/-- The chain bit of a DMA descriptor (R145). -/
def chainBit (e : List Byte) : Bool := bits (leAt e 0 8) 35 1 == 1

/-- The status of an entry that completes for its header (R295). -/
def headerStatus (kind : Nat) (e : List Byte) : Option Nat :=
  if !opcodeDefined kind (leAt e 0 1) then some 0x0101
  else if reservedFlags (leAt e 1 1) || leAt e 4 4 != 0 then some 0x0102
  else none

/-- Take an entry of queue `q` for execution; one with a bad header completes in ring order (R295, R303). None when its chain is
incomplete (R296). -/
def Dev.takeEntry (s : Dev) (q : Nat) (data : List Byte) : Option Dev :=
  let c := s.qctx q
  let x := c.dev.toNat + (s.que.run.filter (·.q == q)).length
  let n := c.host.toNat - c.dev.toNat
  let add (l : List Entry) : Dev := { s with que := { s.que with run := s.que.run ++ l } }
  if c.kind = 2 then
    (chainOf chainBit n (padTo (64 * n) data)).map fun l => add (l.zipIdx.map fun p => ⟨q, x + p.2, p.1, false, none⟩)
  else
    let e := padTo 64 data
    let bad := headerStatus c.kind e
    some (((add [⟨q, x, e, bad.isSome, bad⟩]).drainBad q (s.que.run.length + 1)).qSettle q)

/-- The bytes at the front of queue `q` as its ring gives them, `data` where it lies in host memory: an entry, or all that is published of a DMA
queue; none when the read waits. A failed read puts the queue in error (R290). -/
def Dev.ringRead (s : Dev) (q : Nat) (data : List Byte) (failed : Bool) : Dev × Option (List Byte) :=
  let c := s.qctx q
  let bad (s : Dev) : Dev × Option (List Byte) := (s.qError q 3, none)
  if c.loc then
    let n := if c.kind = 2 then 64 * (c.host.toNat - c.dev.toNat) else 64
    let x := c.dev.toNat + (s.que.run.filter (·.q == q)).length
    let first := Nat.min n (64 * (c.size - x % c.size))
    match s.vRead (baseTlb 0) (pkgSrc 0 4) 0 2 (c.slot x) first with
    | (s, .data a e1) =>
      match s.vRead (baseTlb 0) (pkgSrc 0 4) 0 2 c.w1.toNat (n - first) with
      | (s, .data b e2) => if e1.lost || e2.lost then bad s else (s, some (a ++ b))
      | (s, .wait _) => (s, none)
      | (s, .fail) => bad s
    | (s, .wait _) => (s, none)
    | (s, .fail) => bad s
  else if s.que.down.isSome then (s, none)
  else if failed then bad s
  else (s, some data)

/-- The resource may not fetch: the lead is not command-ready (R487), or it or the host port is paused for a commit (R23). -/
def Dev.fetchHeld (s : Dev) (r : Resource) : Bool :=
  (r == .lead && (!s.on dieBootReady || s.pausedUnit ⟨.complex, 0⟩)) || s.pausedUnit ⟨.hostPort, 0⟩

/-- A resource fetches the next submission entry by weighted round robin (R301). A pick that starts nothing uses no start. -/
def submissionFetchEffect (r : Resource) (data : List Byte) (failed : Bool) (s : Dev) : Dev :=
  if s.fetchHeld r then s else
  let rr := Sparse.get (always 0) s.que.rr (resourceNo r)
  match s.arbitrate r 9 (rr / 512) (rr % 512) with
  | none => s
  | some (cls, used, q) =>
    match s.ringRead q data failed with
    | (s, none) => s
    | (s, some bs) =>
      match s.takeEntry q bs with
      | none => { s with que := { s.que with short := Sparse.set (always 0) s.que.short q (s.qctx q).host.toNat } }
      | some s => { s with que := { s.que with
          rr := Sparse.set (always 0) s.que.rr (resourceNo r) (512 * cls + used + 1),
          served := Sparse.set (always 0) s.que.served (resourceNo r * 8 + cls) (q + 1) } }

/-- SUBMISSION_FETCH (R301). -/
def execSubmissionFetch (r : Resource) (data : List Byte) (failed : Bool) (s : State) : Res :=
  s.run (submissionFetchEffect r data failed)

/-! ### Completions and interrupts (R302, R304) -/

/-- The first held completion whose queue has room, and the rest. -/
def Dev.pickHeld (s : Dev) : List Cpl → Option (Cpl × List Cpl)
  | [] => none
  | m :: l =>
    if s.hasRoom m.cq then some (m, l)
    else (s.pickHeld l).map fun r => (r.1, m :: r.2)

/-- What queues owe is written; then a held completion is, once its queue has room (R303, R304). -/
def completionPostEffect (s : Dev) : Dev :=
  let s := s.payOwed
  match s.pickHeld s.que.held with
  | none => s
  | some (m, l) => { s with que := { s.que with held := l } }.putCpl m

/-- agg_us after the oldest unsignalled entry the queue signals (R302). -/
def msixAggregationEffect (q : Nat) (s : Dev) : Dev :=
  let c := s.qctx q
  let f := s.freshOf q
  if c.intEn ∧ c.aggUs ≠ 0 ∧ f.n ≠ 0 ∧ f.since + 1000 * c.aggUs ≤ s.now 0 then
    (s.setFresh q ⟨0, 0⟩).qMessage q c.vec
  else s

/-- Send every pending vector of `l` that is not masked. -/
def Dev.flushMsix (s : Dev) : List Nat → Dev
  | [] => s
  | v :: l =>
    if s.que.fnMask || s.que.masked.contains v then Dev.flushMsix s l
    else Dev.flushMsix ({ s with que := { s.que with msixPnd := setDel s.que.msixPnd v } }.msix v) l

/-- A write to the MSI-X table or the function mask; what it unmasks is sent if pending (R302). -/
def msixMaskEffect (op : MaskOp) (s : Dev) : Dev :=
  let s := match op with
    | .vector v m => { s with que := { s.que with
        masked := if m then setAdd s.que.masked v.val else setDel s.que.masked v.val } }
    | .entry v addr data => { s with que := { s.que with
        vecAddr := Sparse.set (always 0) s.que.vecAddr v.val addr, vecData := Sparse.set (always 0) s.que.vecData v.val data } }
    | .function m => { s with que := { s.que with fnMask := m } }
  s.flushMsix s.que.msixPnd

/-- COMPLETION_POST (R304). -/
def execCompletionPost (s : State) : Res := s.run completionPostEffect
/-- MSIX_AGGREGATION_TIMEOUT (R302). -/
def execMsixAggregationTimeout (q : Fin 32768) (s : State) : Res := s.run (msixAggregationEffect q)
/-- MSIX_MASK_CHANGE (R302). -/
def execMsixMaskChange (op : MaskOp) (s : State) : Res := s.run (msixMaskEffect op)

/-! ### The host port (R272, R293, R484) -/

/-- The widths and rates to which the link trains: x16, x8 or x4, at 16, 32 or 64 GT/s (R272, R285). -/
def linkForm (width rate : Nat) : Bool := (width == 4 || width == 8 || width == 16) && decide (rate ≤ 2)

/-- The link is up: held accesses go out in order, and the message host-link is sent (R448). -/
def hostLinkUpEffect (width rate : Nat) (mem : Bool) (s : Dev) : Dev :=
  if !linkForm width rate then s else
  let s := ((s.setFld hifStatusWidth width).setFld hifStatusRate rate).setBit hifStatusMemEn mem
  let held : List (Option Nat × Output) := s.hostOut
  let s := { s with hostOut := [], out := s.out ++ held.map Prod.snd, que := { s.que with down := none } }
  s.detect (pkgSrc 0 4) 0x35 0 1

/-- Accesses held for 1 s complete with an error, and the queues concerned enter the error state (R484). -/
def hostPortTimeoutEffect (s : Dev) : Dev :=
  match s.que.down with
  | none => s
  | some t =>
    if s.now 0 < t + 1000000000 then s else
    s.hostOut.foldl (fun s e => match e.1 with | some q => s.qError q 3 | none => s) { s with hostOut := [] }

/-- CXL.cache is enabled or disabled: the doorbell cache empties, and on enable every held line is read again (R293, R484). -/
def cxlCacheEffect (en : Bool) (s : Dev) : Dev :=
  let s := s.setBit hifStatusCacheEn en
  { s with que := { s.que with lines := [], stale := if en then s.heldLines else [] } }

/-- HOST_LINK_UP (R272). -/
def execHostLinkUp (width : Fin 32) (rate : Fin 4) (mem : Bool) (s : State) : Res := s.run (hostLinkUpEffect width rate mem)
/-- HOST_PORT_ACCESS_TIMEOUT (R484). -/
def execHostPortAccessTimeout (s : State) : Res := s.run hostPortTimeoutEffect
/-- CXL_CACHE_ENABLE (R484). -/
def execCxlCacheEnable (en : Bool) (s : State) : Res := s.run (cxlCacheEffect en)

end Sys2Proof.Machine
end

