-- ==== Sys2Proof/Machine/Security.lean ====
section
/-! DEFINITION. Bundles, debug, SPDM, IDE, tamper (R337, R493 to R510). -/

namespace Sys2Proof.Machine

/-! ### AMEND_LOAD (R337) -/

/-- AMEND_LOAD: result the bundle's amendment version. A length that no amendment has fails as a check does. -/
def amendLoadEffect (e : SubEntry) (host : List Byte) (s : Dev) : Dev :=
  s.command 0x18 e clsJ [(8, 8), (0x10, 4), (0x14, 1)] (fun _ => true) false [0] fun b s =>
    let op := bf b 0x14 1
    let len := bf b 0x10 4
    if 2 < op then s.ends 3
    else if op = 2 then { s with sec := { s.sec with amdGone := true } }.ok
    else if 388 + 0x100000 < len then s.ends 8
    else
      s.withBuf (bf b 8 8) len host fun bs s =>
        if (s.sec.amendFails len bs).isSome then s.ends 8
        else
          let s := if op = 1 then { s with sec := { s.sec with amd := some bs, amdGone := false } } else s
          s.ok (bundleVersion bs)

/-! ### Operations of SEC_BUNDLE_CTL (R499, R504 to R510) -/

/-- The result code of a failing step of R495: FORMAT, SERIAL or AUTH. -/
def bundleResult (step : Nat) : Nat := if step = 1 then 1 else if step = 2 then 3 else 2

/-- An operation has completed with a result (R510). -/
def Dev.opEnds (s : Dev) (r : Nat) : Dev := (s.setFld secBundleStatusResult r).addFld secBundleStatusOps 1

/-- Run an operation, which answers its result; `burnt` is what a reset that meets it leaves. While one runs a further one is ignored. A lead
change ends it with STATE and renews the nonce (R509). -/
def Dev.secOp (s : Dev) (how : SecEnd) (burnt : Dev → Dev) (f : Dev → Dev × Nat) : Dev :=
  if s.on secBundleStatusBusy then s.violation secBundleCtlOp.off true
  else match how with
    | .done => let (s, r) := f s; s.opEnds r
    | .leadChange => s.newNonce.opEnds 5
    | .reset b => if b then burnt s else s

/-- Read a bundle of `len` bytes and check it as type `type` (R495): its bytes, or the result code. -/
def Dev.readBundle (s : Dev) (type len : Nat) (host : List Byte) : Dev × (Nat ⊕ List Byte) :=
  if 388 + 65536 < len then (s, .inl 1) else
  match s.bufRead (s.fld secBundleAddrAddr) len host with
  | (s, .ok bs) =>
    match s.sec.bundleFails type len bs with
    | some n => (s, .inl (bundleResult n))
    | none => if s.sec.rootOk bs then (s, .inr bs) else (s, .inl 2)
  | (s, _) => (s, .inl 1)

/-- Burn the next owner slot (R504, R505). -/
def Sec.burn (c : Sec) (o : OSlot) : Sec := { c with slots := setNth c.slots c.nextSlot o }

/-- Whether a transfer bundle that has passed the checks is accepted, or the result code. -/
def Dev.transferResult (s : Dev) (bs : List Byte) : Nat :=
  if s.jobState ≠ 0 then 5 else if 8 ≤ s.sec.nextSlot then 6 else if bundleVersion bs ≠ s.sec.nextSlot + 1 then 2 else 0

/-- A transfer (R504): the new owner's hash and valid bit are burnt, the stored configuration and an owner-signed amendment go, debug is
relocked. -/
def Dev.transferDone (s : Dev) (bs : List Byte) : Dev :=
  let n := s.sec.nextSlot
  let amd := match s.sec.amd with | some a => if bRoot a = 1 then none else some a | none => none
  let s := { s with sec := { s.sec.burn (.valid (bPayload bs)) with cfg := none, amd } }
  (((s.setBit secStatusCfgPending false).setBit secStatusPending true).lockDebug).secDetect 0x62 0 n

/-- OWNERSHIP_TRANSFER (R504, R505). -/
def transferEffect (len : Nat) (host : List Byte) (how : SecEnd) (s : Dev) : Dev :=
  s.secOp how
    (fun s => match s.readBundle 3 len host with
      | (s, .inr bs) => if s.transferResult bs = 0 then { s with sec := s.sec.burn (.burnt (bPayload bs)) } else s
      | (s, .inl _) => s)
    fun s => match s.readBundle 3 len host with
      | (s, .inr bs) => if s.transferResult bs = 0 then (s.transferDone bs, 0) else (s, s.transferResult bs)
      | (s, .inl r) => (s, r)

/-- DEBUG_UNLOCK (R506): every attempt draws a new nonce. -/
def unlockEffect (len : Nat) (host : List Byte) (how : SecEnd) (s : Dev) : Dev :=
  s.secOp how (fun s => s) fun s =>
    match s.readBundle 4 len host with
    | (s, .inl r) => (s.newNonce, r)
    | (s, .inr bs) =>
      let grant := leAt (bPayload bs) 0 1
      if 3 < grant ∨ leNat ((bPayload bs).drop 1) ≠ 0 then (s.newNonce, 1)
      else if bNonce bs ≠ s.nonce then (s.newNonce, 4)
      else if !bit s.sec.flags 2 && s.sec.ownerHash.isSome then (s.newNonce, 7)
      else ((((s.setBit secStatusDbg true).setFld secStatusGrant grant).secDetect 0x64 0 grant).newNonce, 0)

/-- DEBUG_RELOCK (R510). -/
def relockEffect (how : SecEnd) (s : Dev) : Dev := s.secOp how (fun s => s) fun s => (s.lockDebug, 0)

/-- RENEW_NONCE (R510). -/
def renewEffect (how : SecEnd) (s : Dev) : Dev := s.secOp how (fun s => s) fun s => (s.newNonce, 0)

/-- STORE_CONFIGURATION (R499): a rejected bundle is reported; an empty payload removes the stored bundle. -/
def storeConfigEffect (len : Nat) (host : List Byte) (how : SecEnd) (s : Dev) : Dev :=
  s.secOp how (fun s => s) fun s =>
    let bad (s : Dev) (r : Nat) : Dev × Nat := (s.secDetect 0x63 0 (r + 2 ^ 8), r)
    match s.readBundle 1 len host with
    | (s, .inl r) => bad s r
    | (s, .inr bs) =>
      if !configOk bs then bad s 1
      else if s.jobState ≠ 0 then (s, 5)
      else if bPlen bs = 0 then ({ s with sec := { s.sec with cfg := none } }.setBit secStatusCfgPending false, 0)
      else ({ s with sec := { s.sec with cfg := some bs } }.setBit secStatusCfgPending true, 0)

/-- AMEND_LOAD (R337). -/
def execAmendLoad (e : SubEntry) (host : List Byte) (s : State) : Res := s.run (amendLoadEffect e host)
/-- OWNERSHIP_TRANSFER (R504). -/
def execOwnershipTransfer (len : W32) (host : List Byte) (how : SecEnd) (s : State) : Res := s.run (transferEffect len.toNat host how)
/-- DEBUG_UNLOCK (R506). -/
def execDebugUnlock (len : W32) (host : List Byte) (how : SecEnd) (s : State) : Res := s.run (unlockEffect len.toNat host how)
/-- DEBUG_RELOCK (R510). -/
def execDebugRelock (how : SecEnd) (s : State) : Res := s.run (relockEffect how)
/-- RENEW_NONCE (R510). -/
def execRenewNonce (how : SecEnd) (s : State) : Res := s.run (renewEffect how)
/-- STORE_CONFIGURATION (R499). -/
def execStoreConfiguration (len : W32) (host : List Byte) (how : SecEnd) (s : State) : Res := s.run (storeConfigEffect len.toNat host how)

/-! ### SPDM (R501, R502) -/

/-- Answer on a mailbox. -/
def Dev.spdm (s : Dev) (mb : Nat) (r : Spdm) : Dev := s.send (.spdm mb r)

/-- A signature by the alias key (R500). -/
def Dev.sign (s : Dev) : List Byte × Dev := let (k, s) := s.fresh; (Config.aliasSign k, s)

/-- Session `id` of mailbox `mb` has completed FINISH. -/
def Dev.sessionUp (s : Dev) (mb id : Nat) : Bool := s.sec.sessions.contains ⟨mb, id, true⟩

/-- End a session. -/
def Dev.dropSession (s : Dev) (mb id : Nat) : Dev :=
  { s with sec := { s.sec with sessions := s.sec.sessions.filter fun x => !(x.mailbox == mb && x.id == id) } }

/-- An answer in a session; without it, ERROR. -/
def Dev.inSession (s : Dev) (mb id : Nat) (f : Dev → Dev) : Dev := if s.sessionUp mb id then f s else s.spdm mb .error

/-- GET_CERTIFICATE: `len` bytes of the chain from `off`. -/
def certificateEffect (mb slot off len : Nat) (s : Dev) : Dev :=
  let c := (s.chain.drop off).take len
  if slot ≠ 0 ∨ s.chain.length ≤ off then s.spdm mb .error else s.spdm mb (.certificate c (s.chain.length - off - c.length))

/-- CHALLENGE. -/
def challengeEffect (mb slot : Nat) (s : Dev) : Dev :=
  if slot ≠ 0 then s.spdm mb .error else let (g, s) := s.sign; s.spdm mb (.challengeAuth g)

/-- GET_MEASUREMENTS: index 0 asks for the count, 0xFF for every block. -/
def measurementsEffect (mb index : Nat) (sign : Bool) (s : Dev) : Dev :=
  let (g, s) := if sign then s.sign else ([], s)
  let block (i : Nat) : Nat × Bool × List Byte := (i, s.measure i)
  if index = 0 then s.spdm mb (.measurementCount 7 g)
  else if index = 0xFF then s.spdm mb (.measurements ([1, 2, 3, 4, 5, 6, 7].map block) g)
  else if index ≤ 7 then s.spdm mb (.measurements [block index] g)
  else s.spdm mb .error

/-- KEY_EXCHANGE: up to 4 sessions at once per mailbox. -/
def keyExchangeEffect (mb : Nat) (s : Dev) : Dev :=
  if 4 ≤ (s.sec.sessions.filter fun x => x.mailbox == mb).length then s.spdm mb .error
  else
    let id := s.sec.sessNext
    let (g, s) := s.sign
    { s with sec := { s.sec with sessions := s.sec.sessions ++ [Session.mk mb id false], sessNext := id + 1 } }.spdm mb (.keyExchange id g)

/-- FINISH: one that does not verify ends the session (DESIGN CHOICE). -/
def finishEffect (mb id : Nat) (ok : Bool) (s : Dev) : Dev :=
  if !s.sec.sessions.contains ⟨mb, id, false⟩ then s.spdm mb .error
  else
    let s := s.dropSession mb id
    if ok then { s with sec := { s.sec with sessions := s.sec.sessions ++ [Session.mk mb id true] } }.spdm mb (.finish id)
    else s.spdm mb .error

/-- GET_VERSION (R501). -/
def execGetVersion (mb : Fin 17) (s : State) : Res := s.run fun s => s.spdm mb .version
/-- GET_CAPABILITIES (R501). -/
def execGetCapabilities (mb : Fin 17) (s : State) : Res := s.run fun s => s.spdm mb .capabilities
/-- NEGOTIATE_ALGORITHMS (R501): each algorithm offered that the responder supports. -/
def execNegotiateAlgorithms (mb : Fin 17) (offer : Fin 16) (s : State) : Res := s.run fun s => s.spdm mb (.algorithms offer)
/-- GET_DIGESTS (R501): that of the chain of slot 0. -/
def execGetDigests (mb : Fin 17) (s : State) : Res := s.run fun s => s.spdm mb (.digests (Config.sha512 s.chain))
/-- GET_CERTIFICATE (R501). -/
def execGetCertificate (mb : Fin 17) (slot : Fin 8) (off len : Nat) (s : State) : Res := s.run (certificateEffect mb slot off len)
/-- CHALLENGE (R501). -/
def execChallenge (mb : Fin 17) (slot : Fin 8) (s : State) : Res := s.run (challengeEffect mb slot)
/-- GET_MEASUREMENTS (R502). -/
def execGetMeasurements (mb : Fin 17) (index : Fin 256) (sign : Bool) (s : State) : Res := s.run (measurementsEffect mb index sign)
/-- KEY_EXCHANGE (R501). -/
def execKeyExchange (mb : Fin 17) (s : State) : Res := s.run (keyExchangeEffect mb)
/-- FINISH (R501). -/
def execFinish (mb : Fin 17) (session : Nat) (ok : Bool) (s : State) : Res := s.run (finishEffect mb session ok)
/-- HEARTBEAT_SPDM (R501). -/
def execHeartbeatSpdm (mb : Fin 17) (session : Nat) (s : State) : Res :=
  s.run fun s => s.inSession mb session fun s => s.spdm mb (.heartbeat session)
/-- KEY_UPDATE (R501). -/
def execKeyUpdate (mb : Fin 17) (session : Nat) (s : State) : Res :=
  s.run fun s => s.inSession mb session fun s => s.spdm mb (.keyUpdate session)
/-- END_SESSION (R501). -/
def execEndSession (mb : Fin 17) (session : Nat) (s : State) : Res :=
  s.run fun s => s.inSession mb session fun s => (s.dropSession mb session).spdm mb (.endSession session)
/-- SPDM_UNSUPPORTED (R501). -/
def execSpdmUnsupported (mb : Fin 17) (s : State) : Res := s.run fun s => s.spdm mb .unsupported

/-! ### IDE and tamper (R503, R507) -/

/-- IDE_KM (R503): inside a session of the port's own mailbox; a stream starts once its keys are programmed. -/
def ideKmEffect (mb id : Nat) (op : IdeOp) (s : Dev) : Dev :=
  s.inSession mb id fun s =>
    let s := match op with
      | .query => s
      | .program => { s with sec := { s.sec with keys := setAdd s.sec.keys mb, shut := s.sec.shut && mb != 16 } }
      | .go =>
        if !s.sec.keys.contains mb then s
        else if mb = 16 then s.setBit secIdeStatusHost true
        else (s.setFld secIdeStatusFab (s.fld secIdeStatusFab ||| 2 ^ mb)).portSettle mb
    s.spdm mb (.ideKm id)

/-- IDE_FAILURE (R503): of a port whose stream is established. A fabric port is fenced; the host port is restricted until it is keyed anew. -/
def ideFailureEffect (p : Nat) (integrity : Bool) (s : Dev) : Dev :=
  let arg := if integrity then 1 else 2
  let lose (s : Dev) : Dev := { s with sec := { s.sec with keys := setDel s.sec.keys p } }
  if p = 16 then
    if !s.on secIdeStatusHost then s else
    let s := lose ((s.detect (pkgSrc 0 4) 0x65 0 arg).setBit secIdeStatusHost false)
    { s with sec := { s.sec with shut := true } }
  else if !bit (s.fld secIdeStatusFab) p then s
  else
    let s := lose (s.detect (portSrc p) 0x65 1 arg)
    (s.setFld secIdeStatusFab (s.fld secIdeStatusFab - 2 ^ p)).fencePort p

/-- TAMPER (R507): a message and a warm package reset; during stage 1 of a bring-up it stops boot. -/
def tamperEffect (clock stage1 : Bool) (s : Dev) : Dev :=
  let s' := s.secDetect 0x66 3 (if clock then 2 else 1)
  if stage1 && !s.on dieBootReady then s'.setFld dieBootStage 1 else s'.warmReset

/-- IDE_KM (R503). -/
def execIdeKm (mb : Fin 17) (session : Nat) (op : IdeOp) (s : State) : Res := s.run (ideKmEffect mb session op)
/-- IDE_FAILURE (R503). -/
def execIdeFailure (port : Fin 17) (integrity : Bool) (s : State) : Res := s.run (ideFailureEffect port integrity)
/-- TAMPER (R507). -/
def execTamper (clock stage1 : Bool) (s : State) : Res := s.run (tamperEffect clock stage1)

end Sys2Proof.Machine
end

