-- ==== Sys2Proof/Machine/RegWrite.lean ====
section
/-! DEFINITION. A host write to BAR0 (R7, R277, R278, R281, R288, R498). -/

namespace Sys2Proof.Machine

/-- The host port serves a BAR0 write (R498, R503): its stream is established where the owner requires one, it is not restricted after a
failure, and where writes must come inside an SPDM session, `session` is one of its mailbox. -/
def Dev.hostServes (s : Dev) (session : Option Nat) : Bool :=
  !s.sec.shut && (!bit s.sec.flags 0 || s.on secIdeStatusHost) &&
  (!bit s.sec.flags 3 || match session with | some i => s.sessionUp 16 i | none => false)

/-- The reserved bits of context words 0 to 3 (R288). -/
def ctxReserved (i : Nat) : W64 :=
  match i with
  | 0 => bitMask 43 5 ||| bitMask 52 12
  | 3 => bitMask 32 32
  | _ => 0

/-- A word of the context of the selected queue is written (R288); its reserved bits are ignored, and setting one is a violation at `off`
(R278). -/
def Dev.writeCtx (s : Dev) (off i : Nat) (mask v : W64) : Dev :=
  let s := if v &&& mask &&& ctxReserved i ≠ 0 then s.violation off true else s
  let mask := mask &&& ~~~ctxReserved i
  let q := s.selQueue
  let c := s.qctx q
  let put (w : W64) : W64 := (w &&& ~~~mask) ||| (v &&& mask)
  match i with
  | 0 => s.setQ q { c with w0 := put c.w0 }
  | 1 => s.setQ q { c with w1 := put c.w1 }
  | 2 => s.setQ q { c with w2 := put c.w2 }
  | _ => s.setQ q { c with w3 := put c.w3 }

/-- Stage the bits `mask` of `v` for the register at `off` (R7, R277). -/
def Dev.stage (s : Dev) (off : Nat) (mask v : W64) : Dev :=
  if mask = 0 then s else
  let old := Sparse.get (always 0) s.regs.stg off
  let bits := Sparse.get (always 0) s.regs.stgBits off
  { s with regs := { s.regs with stg := Sparse.set (always 0) s.regs.stg off ((old &&& ~~~mask) ||| (v &&& mask)),
                                 stgBits := Sparse.set (always 0) s.regs.stgBits off (bits ||| mask) } }

/-- A write of DIE_RESET (R491); numbers out of range do nothing (DESIGN CHOICE). -/
def dieResetWrite (w : W64) (s : Dev) : Dev :=
  let n := fld64 w 4 9
  match fld64 w 0 3 with
  | 1 => warmResetEffect .register s
  | 2 => if n < 4 then dieResetEffect n s else s
  | 3 => if 16 ≤ n then s else if s.on dieBootReady then s.portReset n else s.refused
  | 4 => coreResetEffect n s
  | _ => s

/-- A write of SEC_BUNDLE_CTL (R510). -/
def bundleWrite (w : W64) (host : List Byte) (s : Dev) : Dev :=
  let len := fld64 w 16 32
  match fld64 w 0 3 with
  | 1 => transferEffect len host .done s
  | 2 => unlockEffect len host .done s
  | 3 => relockEffect .done s
  | 4 => renewEffect .done s
  | 5 => storeConfigEffect len host .done s
  | _ => s

/-- A write of QTB_OP (R289). -/
def queueOpWrite (w : W64) (host : List Byte) (s : Dev) : Dev :=
  match fld64 w 0 2 with
  | 1 => queueEnableEffect (BitVec.ofNat 64 (leAt host 0 8)) s
  | 2 => queueDisableEffect s
  | 3 => queueResetEffect s
  | _ => s

/-- A write of TIM_SCHED_CTL (R360): a write of both bits cancels, then captures (DESIGN CHOICE). -/
def schedWrite (w : W64) (s : Dev) : Dev :=
  let s := if fld64 w 1 1 = 1 then cancelEffect s else s
  if fld64 w 0 1 = 1 then scheduleEffect s else s

/-- What a register does on the value written, its reserved bits apart (R7): the WO registers, and the selectors of a status register. -/
def Dev.actOn (s : Dev) (off : Nat) (w : W64) (host : List Byte) : Dev :=
  match off with
  | 0x0010 => if fld64 w 0 1 = 1 then commitRequestEffect s else s
  | 0x2008 => queueOpWrite w host s
  | 0x3010 => tlbInvalidateEffect w s
  | 0x4018 => schedWrite w s
  | 0x5038 => s.fabShow
  | 0x6018 => s.colShow
  | 0x9018 => s.takeSnapshot w
  | 0xA018 => bundleWrite w host s
  | 0xC030 => dieResetWrite w s
  | _ => s

/-- The bits of the aligned word that a write of `size` bytes at `off` covers. -/
def coverMask (off size : Nat) : W64 := if size = 8 then BitVec.allOnes 64 else if off % 8 = 0 then bitMask 0 32 else bitMask 32 32

/-- A write that register `r` at `base` takes (R7, R278): RW set, W1C cleared, staged staged, the rest acted on. -/
def Dev.writeReg (s : Dev) (r : RegDesc) (base off : Nat) (mask v : W64) (host : List Byte) : Dev :=
  if !r.writable then s.violation off true else
  let s := if v &&& mask &&& r.reserved ≠ 0 then s.violation off true else s
  let rw := mask &&& r.mask (· == .rw)
  let clr := v &&& mask &&& r.mask (· == .w1c)
  let old := s.reg base
  let s := if rw ||| clr = 0 then s else s.setReg base (((old &&& ~~~rw) ||| (v &&& rw)) &&& ~~~clr)
  (s.stage base (mask &&& r.mask (· == .staged)) v).actOn base (v &&& mask &&& ~~~r.reserved) host

/-- REGISTER_WRITE (R277, R278): `host` is what host memory holds where the write makes the device read it. -/
def regWriteEffect (off size : Nat) (data : W64) (session : Option Nat) (host : List Byte) (s : Dev) : Dev :=
  if !s.hostServes session then s else
  let base := off / 8 * 8
  let mask := coverMask off size
  let v := if off % 8 = 4 then data <<< 32 else data
  if !(size = 4 ∨ size = 8) ∨ off % size ≠ 0 then s.violation off true
  else if 0x2040 ≤ base ∧ base < 0x2060 then
    if (s.qctx s.selQueue).state ≠ 0 then s.violation off true else s.writeCtx off ((base - 0x2040) / 8) mask v
  else if 0x2060 ≤ base ∧ base < 0x2080 then s.violation off true
  else match regAt base with
    | none => s.violation off true
    | some r => s.writeReg r base off mask v host

/-- REGISTER_WRITE (R278). -/
def execRegisterWrite (off : BitVec 16) (size : Nat) (data : W64) (session : Option Nat) (host : List Byte) (s : State) : Res :=
  s.run (regWriteEffect off.toNat size data session host)

end Sys2Proof.Machine
end

