-- ==== Sys2Proof/Machine/Dispatch.lean ====
section
/-! DEFINITION. The dispatch: one arm per command, one direct call of its meaning. -/
namespace Sys2Proof.Machine

/-- The effect of a command on everything but the queue of waiting commands. -/
def exec (i : Instr) (s : State) : Host.Outcome State Fault Refusal :=
  match i with
  | .registerWrite off size data session host => Sys2Proof.Machine.execRegisterWrite off size data session host s
  | .commitRequest => Sys2Proof.Machine.execCommitRequest s
  | .unitLullPause u => Sys2Proof.Machine.execUnitLullPause u s
  | .deviceLull => Sys2Proof.Machine.execDeviceLull s
  | .queueEnable slot => Sys2Proof.Machine.execQueueEnable slot s
  | .queueDisable => Sys2Proof.Machine.execQueueDisable s
  | .queueReset => Sys2Proof.Machine.execQueueReset s
  | .tlbInvalidate w => Sys2Proof.Machine.execTlbInvalidate w s
  | .tlbInvalidationDone => Sys2Proof.Machine.execTlbInvalidationDone s
  | .scheduleChange => Sys2Proof.Machine.execScheduleChange s
  | .scheduleCancel => Sys2Proof.Machine.execScheduleCancel s
  | .scheduledChangeDue u => Sys2Proof.Machine.execScheduledChangeDue u s
  | .snapshot w => Sys2Proof.Machine.execSnapshot w s
  | .snapshotInstant => Sys2Proof.Machine.execSnapshotInstant s
  | .warmPackageReset by_ => Sys2Proof.Machine.execWarmPackageReset by_ s
  | .dieReset d => Sys2Proof.Machine.execDieReset d s
  | .portReset p => Sys2Proof.Machine.execPortReset p s
  | .coreReset core => Sys2Proof.Machine.execCoreReset core s
  | .coldReset => Sys2Proof.Machine.execColdReset s
  | .commandReady pair bu => Sys2Proof.Machine.execCommandReady pair bu s
  | .lateralModuleTraining l m side width => Sys2Proof.Machine.execLateralModuleTraining l m side width s
  | .lateralRetryFailure l m lo hi => Sys2Proof.Machine.execLateralRetryFailure l m lo hi s
  | .widthAttempt l m lo hi => Sys2Proof.Machine.execWidthAttempt l m lo hi s
  | .refclkLoss b => Sys2Proof.Machine.execRefclkLoss b s
  | .refclkValid b => Sys2Proof.Machine.execRefclkValid b s
  | .refclkHoldover => Sys2Proof.Machine.execRefclkHoldover s
  | .heartbeat got => Sys2Proof.Machine.execHeartbeat got s
  | .leadTakeover => Sys2Proof.Machine.execLeadTakeover s
  | .sadd core w => Sys2Proof.Machine.execSadd core w s
  | .ssub core w => Sys2Proof.Machine.execSsub core w s
  | .sand core w => Sys2Proof.Machine.execSand core w s
  | .sor core w => Sys2Proof.Machine.execSor core w s
  | .sxor core w => Sys2Proof.Machine.execSxor core w s
  | .smul core w => Sys2Proof.Machine.execSmul core w s
  | .sshl core w => Sys2Proof.Machine.execSshl core w s
  | .sshr core w => Sys2Proof.Machine.execSshr core w s
  | .ssra core w => Sys2Proof.Machine.execSsra core w s
  | .sli core w => Sys2Proof.Machine.execSli core w s
  | .slui core w => Sys2Proof.Machine.execSlui core w s
  | .sld core w => Sys2Proof.Machine.execSld core w s
  | .sst core w => Sys2Proof.Machine.execSst core w s
  | .br core w => Sys2Proof.Machine.execBr core w s
  | .beq core w => Sys2Proof.Machine.execBeq core w s
  | .bne core w => Sys2Proof.Machine.execBne core w s
  | .blt core w => Sys2Proof.Machine.execBlt core w s
  | .bltu core w => Sys2Proof.Machine.execBltu core w s
  | .stime core w => Sys2Proof.Machine.execStime core w s
  | .evsig core w => Sys2Proof.Machine.execEvsig core w s
  | .evwait core w => Sys2Proof.Machine.execEvwait core w s
  | .evwaitResume core => Sys2Proof.Machine.execEvwaitResume core s
  | .dmago core w => Sys2Proof.Machine.execDmago core w s
  | .rmark core w => Sys2Proof.Machine.execRmark core w s
  | .segend core w => Sys2Proof.Machine.execSegend core w s
  | .stfold core w => Sys2Proof.Machine.execStfold core w s
  | .foldApply core => Sys2Proof.Machine.execFoldApply core s
  | .prd core w => Sys2Proof.Machine.execPrd core w s
  | .mwld core w0 w1 => Sys2Proof.Machine.execMwld core w0 w1 s
  | .mmt core w0 w1 => Sys2Proof.Machine.execMmt core w0 w1 s
  | .matrixInstructionStart core => Sys2Proof.Machine.execMatrixInstructionStart core s
  | .mmtWritesComplete core bank => Sys2Proof.Machine.execMmtWritesComplete core bank s
  | .mdrain core w0 w1 => Sys2Proof.Machine.execMdrain core w0 w1 s
  | .mrsv core w0 => Sys2Proof.Machine.execMrsv core w0 s
  | .vectorInstructionStart core => Sys2Proof.Machine.execVectorInstructionStart core s
  | .vectorBankEscalation core => Sys2Proof.Machine.execVectorBankEscalation core s
  | .vadd core w0 w1 => Sys2Proof.Machine.execVadd core w0 w1 s
  | .vsub core w0 w1 => Sys2Proof.Machine.execVsub core w0 w1 s
  | .vmul core w0 w1 => Sys2Proof.Machine.execVmul core w0 w1 s
  | .vfma core w0 w1 => Sys2Proof.Machine.execVfma core w0 w1 s
  | .vmax core w0 w1 => Sys2Proof.Machine.execVmax core w0 w1 s
  | .vmin core w0 w1 => Sys2Proof.Machine.execVmin core w0 w1 s
  | .vabs core w0 w1 => Sys2Proof.Machine.execVabs core w0 w1 s
  | .vneg core w0 w1 => Sys2Proof.Machine.execVneg core w0 w1 s
  | .vand core w0 w1 => Sys2Proof.Machine.execVand core w0 w1 s
  | .vor core w0 w1 => Sys2Proof.Machine.execVor core w0 w1 s
  | .vxor core w0 w1 => Sys2Proof.Machine.execVxor core w0 w1 s
  | .vshl core w0 w1 => Sys2Proof.Machine.execVshl core w0 w1 s
  | .vshr core w0 w1 => Sys2Proof.Machine.execVshr core w0 w1 s
  | .vcmp core w0 w1 => Sys2Proof.Machine.execVcmp core w0 w1 s
  | .vsel core w0 => Sys2Proof.Machine.execVsel core w0 s
  | .vcvt core w0 w1 => Sys2Proof.Machine.execVcvt core w0 w1 s
  | .vsfu core w0 w1 => Sys2Proof.Machine.execVsfu core w0 w1 s
  | .vbcast core w0 w1 => Sys2Proof.Machine.execVbcast core w0 w1 s
  | .viota core w0 w1 => Sys2Proof.Machine.execViota core w0 w1 s
  | .vrng core w0 => Sys2Proof.Machine.execVrng core w0 s
  | .vred core w0 w1 => Sys2Proof.Machine.execVred core w0 w1 s
  | .vpack core w0 w1 => Sys2Proof.Machine.execVpack core w0 w1 s
  | .vunpack core w0 w1 => Sys2Proof.Machine.execVunpack core w0 w1 s
  | .vtbase core w0 => Sys2Proof.Machine.execVtbase core w0 s
  | .vld core w0 w1 => Sys2Proof.Machine.execVld core w0 w1 s
  | .vst core w0 w1 => Sys2Proof.Machine.execVst core w0 w1 s
  | .vtopk core w0 w1 => Sys2Proof.Machine.execVtopk core w0 w1 s
  | .vstat core w0 => Sys2Proof.Machine.execVstat core w0 s
  | .pand core w0 => Sys2Proof.Machine.execPand core w0 s
  | .por core w0 => Sys2Proof.Machine.execPor core w0 s
  | .pxor core w0 => Sys2Proof.Machine.execPxor core w0 s
  | .vrsv core w0 => Sys2Proof.Machine.execVrsv core w0 s
  | .preemptionRequest core lag => Sys2Proof.Machine.execPreemptionRequest core lag s
  | .preemptResume core => Sys2Proof.Machine.execPreemptResume core s
  | .dmaCopy ch n => Sys2Proof.Machine.execDmaCopy ch n s
  | .dmaFill ch n => Sys2Proof.Machine.execDmaFill ch n s
  | .dmaGather ch n => Sys2Proof.Machine.execDmaGather ch n s
  | .dmaScatter ch n => Sys2Proof.Machine.execDmaScatter ch n s
  | .dmaAccumulatingWrite ch n => Sys2Proof.Machine.execDmaAccumulatingWrite ch n s
  | .dmaDescriptorComplete ch => Sys2Proof.Machine.execDmaDescriptorComplete ch s
  | .dmaChannelRestart ch ok => Sys2Proof.Machine.execDmaChannelRestart ch ok s
  | .breezeChainPause cluster => Sys2Proof.Machine.execBreezeChainPause cluster s
  | .breezeChainResume cluster => Sys2Proof.Machine.execBreezeChainResume cluster s
  | .coreFence core eng unit => Sys2Proof.Machine.execCoreFence core eng unit s
  | .clusterFence cluster f => Sys2Proof.Machine.execClusterFence cluster f s
  | .computeDieFence f => Sys2Proof.Machine.execComputeDieFence f s
  | .stepOpen => Sys2Proof.Machine.execStepOpen s
  | .stepClose part => Sys2Proof.Machine.execStepClose part s
  | .replicaAdmission a => Sys2Proof.Machine.execReplicaAdmission a s
  | .stepOverrun => Sys2Proof.Machine.execStepOverrun s
  | .normPass d n => Sys2Proof.Machine.execNormPass d n s
  | .lambPassA d n => Sys2Proof.Machine.execLambPassA d n s
  | .updatePass d n => Sys2Proof.Machine.execUpdatePass d n s
  | .digestPass d n => Sys2Proof.Machine.execDigestPass d n s
  | .updatePassPause d => Sys2Proof.Machine.execUpdatePassPause d s
  | .updatePassResume d => Sys2Proof.Machine.execUpdatePassResume d s
  | .tornShard d => Sys2Proof.Machine.execTornShard d s
  | .shardRepair d desc src arrays => Sys2Proof.Machine.execShardRepair d desc src arrays s
  | .shardRestore d desc n => Sys2Proof.Machine.execShardRestore d desc n s
  | .exportForward d => Sys2Proof.Machine.execExportForward d s
  | .sinkConsumerPoll d cons => Sys2Proof.Machine.execSinkConsumerPoll d cons s
  | .scrub pa => Sys2Proof.Machine.execScrub pa s
  | .pcDrain stack pc dsts => Sys2Proof.Machine.execPcDrain stack pc dsts s
  | .drainStalled stack pc => Sys2Proof.Machine.execDrainStalled stack pc s
  | .tableWalk tlb va wr => Sys2Proof.Machine.execTableWalk tlb va wr s
  | .pageMove va dst finish => Sys2Proof.Machine.execPageMove va dst finish s
  | .pagerSweep moves => Sys2Proof.Machine.execPagerSweep moves s
  | .hdmRead off own => Sys2Proof.Machine.execHdmRead off own s
  | .hdmWrite off data => Sys2Proof.Machine.execHdmWrite off data s
  | .cxlWindowCompletion pa data ok => Sys2Proof.Machine.execCxlWindowCompletion pa data ok s
  | .doorbellSnoop line => Sys2Proof.Machine.execDoorbellSnoop line s
  | .doorbellPoll => Sys2Proof.Machine.execDoorbellPoll s
  | .doorbellLineRead line data => Sys2Proof.Machine.execDoorbellLineRead line data s
  | .submissionFetch r data failed => Sys2Proof.Machine.execSubmissionFetch r data failed s
  | .dmaQueueChain q => Sys2Proof.Machine.execDmaQueueChain q s
  | .workEntry e => Sys2Proof.Machine.execWorkEntry e s
  | .completionPost => Sys2Proof.Machine.execCompletionPost s
  | .msixAggregationTimeout q => Sys2Proof.Machine.execMsixAggregationTimeout q s
  | .exportQueueWrite d => Sys2Proof.Machine.execExportQueueWrite d s
  | .hostPortAccessTimeout => Sys2Proof.Machine.execHostPortAccessTimeout s
  | .hostLinkUp width rate mem => Sys2Proof.Machine.execHostLinkUp width rate mem s
  | .identify e => Sys2Proof.Machine.execIdentify e s
  | .jobOpen e => Sys2Proof.Machine.execJobOpen e s
  | .jobClose e => Sys2Proof.Machine.execJobClose e s
  | .jobLoad e host => Sys2Proof.Machine.execJobLoad e host s
  | .groupDefine e => Sys2Proof.Machine.execGroupDefine e s
  | .mapInstall e host => Sys2Proof.Machine.execMapInstall e host s
  | .timetableSubmit e host => Sys2Proof.Machine.execTimetableSubmit e host s
  | .start e => Sys2Proof.Machine.execStart e s
  | .stop e => Sys2Proof.Machine.execStop e s
  | .fence e => Sys2Proof.Machine.execFence e s
  | .unfence e test => Sys2Proof.Machine.execUnfence e test s
  | .faultRead e => Sys2Proof.Machine.execFaultRead e s
  | .faultClear e => Sys2Proof.Machine.execFaultClear e s
  | .exportConfig e => Sys2Proof.Machine.execExportConfig e s
  | .replicaAdmit e => Sys2Proof.Machine.execReplicaAdmit e s
  | .replicaExpel e unit => Sys2Proof.Machine.execReplicaExpel e unit s
  | .peerRestore e => Sys2Proof.Machine.execPeerRestore e s
  | .calmEnter e => Sys2Proof.Machine.execCalmEnter e s
  | .calmExit e => Sys2Proof.Machine.execCalmExit e s
  | .pathInstall e host => Sys2Proof.Machine.execPathInstall e host s
  | .timeConfig e => Sys2Proof.Machine.execTimeConfig e s
  | .powerCap e => Sys2Proof.Machine.execPowerCap e s
  | .scheduledPowerCapDue => Sys2Proof.Machine.execScheduledPowerCapDue s
  | .counterGrant e => Sys2Proof.Machine.execCounterGrant e s
  | .amendLoad e host => Sys2Proof.Machine.execAmendLoad e host s
  | .segmentRelease r cause => Sys2Proof.Machine.execSegmentRelease r cause s
  | .dmaChainEntryRelease r cause => Sys2Proof.Machine.execDmaChainEntryRelease r cause s
  | .updatePassRelease r cause => Sys2Proof.Machine.execUpdatePassRelease r cause s
  | .mapSwitch r cause => Sys2Proof.Machine.execMapSwitch r cause s
  | .signalRelease r cause => Sys2Proof.Machine.execSignalRelease r cause s
  | .instanceCompletion r => Sys2Proof.Machine.execInstanceCompletion r s
  | .breezeYield u lag ns => Sys2Proof.Machine.execBreezeYield u lag ns s
  | .budgetWait r => Sys2Proof.Machine.execBudgetWait r s
  | .timeRequestSend => Sys2Proof.Machine.execTimeRequestSend s
  | .timeRequest port gust ns => Sys2Proof.Machine.execTimeRequest port gust ns s
  | .timeReply port gust => Sys2Proof.Machine.execTimeReply port gust s
  | .timeWindow => Sys2Proof.Machine.execTimeWindow s
  | .timeExchangeTimeout => Sys2Proof.Machine.execTimeExchangeTimeout s
  | .syncInEdge => Sys2Proof.Machine.execSyncInEdge s
  | .syncInTimeout => Sys2Proof.Machine.execSyncInTimeout s
  | .portServiceChange port width rate up pbr => Sys2Proof.Machine.execPortServiceChange port width rate up pbr s
  | .gustWrite port gust => Sys2Proof.Machine.execGustWrite port gust s
  | .gustRead port gust => Sys2Proof.Machine.execGustRead port gust s
  | .gustReplyData port gust => Sys2Proof.Machine.execGustReplyData port gust s
  | .gustCollectiveData port gust => Sys2Proof.Machine.execGustCollectiveData port gust s
  | .gustAck port gust => Sys2Proof.Machine.execGustAck port gust s
  | .gustAsk port gust => Sys2Proof.Machine.execGustAsk port gust s
  | .gustGrant port gust => Sys2Proof.Machine.execGustGrant port gust s
  | .gustReturn port gust => Sys2Proof.Machine.execGustReturn port gust s
  | .gustStale port gust => Sys2Proof.Machine.execGustStale port gust s
  | .gustRack port gust => Sys2Proof.Machine.execGustRack port gust s
  | .gustProbe port gust => Sys2Proof.Machine.execGustProbe port gust s
  | .gustProbeAnswer port gust => Sys2Proof.Machine.execGustProbeAnswer port gust s
  | .gustRelay port pbr gust => Sys2Proof.Machine.execGustRelay port pbr gust s
  | .relayForwardTimeout => Sys2Proof.Machine.execRelayForwardTimeout s
  | .relaySlotTimeout => Sys2Proof.Machine.execRelaySlotTimeout s
  | .resendTimeout => Sys2Proof.Machine.execResendTimeout s
  | .readReplyTimeout => Sys2Proof.Machine.execReadReplyTimeout s
  | .askRepeat => Sys2Proof.Machine.execAskRepeat s
  | .levelIdleReturn => Sys2Proof.Machine.execLevelIdleReturn s
  | .probeTimer => Sys2Proof.Machine.execProbeTimer s
  | .ackSend src eclass => Sys2Proof.Machine.execAckSend src eclass s
  | .barrier id => Sys2Proof.Machine.execBarrier id s
  | .endOfStepBarrier id => Sys2Proof.Machine.execEndOfStepBarrier id s
  | .scalar id parts => Sys2Proof.Machine.execScalar id parts s
  | .allreduce id parts order => Sys2Proof.Machine.execAllreduce id parts order s
  | .hierAllreduce id lower upper rest order => Sys2Proof.Machine.execHierAllreduce id lower upper rest order s
  | .redscat id parts order => Sys2Proof.Machine.execRedscat id parts order s
  | .allgather id parts => Sys2Proof.Machine.execAllgather id parts s
  | .bcast id part => Sys2Proof.Machine.execBcast id part s
  | .gather id parts => Sys2Proof.Machine.execGather id parts s
  | .alltoall id parts => Sys2Proof.Machine.execAlltoall id parts s
  | .permute id rounds => Sys2Proof.Machine.execPermute id rounds s
  | .copy id => Sys2Proof.Machine.execCopy id s
  | .collectiveEntry f => Sys2Proof.Machine.execCollectiveEntry f s
  | .rendezvousEnd id others upper cause => Sys2Proof.Machine.execRendezvousEnd id others upper cause s
  | .collectiveComplete id => Sys2Proof.Machine.execCollectiveComplete id s
  | .collectiveAbort id status => Sys2Proof.Machine.execCollectiveAbort id status s
  | .memberLeave pkg => Sys2Proof.Machine.execMemberLeave pkg s
  | .faultMessageLog => Sys2Proof.Machine.execFaultMessageLog s
  | .correctedMergeExpiry => Sys2Proof.Machine.execCorrectedMergeExpiry s
  | .squall src kind => Sys2Proof.Machine.execSquall src kind s
  | .stepRetry tb => Sys2Proof.Machine.execStepRetry tb s
  | .noticeReceive sender unit bare => Sys2Proof.Machine.execNoticeReceive sender unit bare s
  | .packageLost pkg unit bare => Sys2Proof.Machine.execPackageLost pkg unit bare s
  | .rendezvousProbe id => Sys2Proof.Machine.execRendezvousProbe id s
  | .shadowCopy cluster => Sys2Proof.Machine.execShadowCopy cluster s
  | .ownershipTransfer len host how => Sys2Proof.Machine.execOwnershipTransfer len host how s
  | .debugUnlock len host how => Sys2Proof.Machine.execDebugUnlock len host how s
  | .debugRelock how => Sys2Proof.Machine.execDebugRelock how s
  | .renewNonce how => Sys2Proof.Machine.execRenewNonce how s
  | .storeConfiguration len host how => Sys2Proof.Machine.execStoreConfiguration len host how s
  | .getVersion mb => Sys2Proof.Machine.execGetVersion mb s
  | .getCapabilities mb => Sys2Proof.Machine.execGetCapabilities mb s
  | .negotiateAlgorithms mb offer => Sys2Proof.Machine.execNegotiateAlgorithms mb offer s
  | .getDigests mb => Sys2Proof.Machine.execGetDigests mb s
  | .getCertificate mb slot off len => Sys2Proof.Machine.execGetCertificate mb slot off len s
  | .challenge mb slot => Sys2Proof.Machine.execChallenge mb slot s
  | .getMeasurements mb index sign => Sys2Proof.Machine.execGetMeasurements mb index sign s
  | .keyExchange mb => Sys2Proof.Machine.execKeyExchange mb s
  | .finish mb session ok => Sys2Proof.Machine.execFinish mb session ok s
  | .heartbeatSpdm mb session => Sys2Proof.Machine.execHeartbeatSpdm mb session s
  | .keyUpdate mb session => Sys2Proof.Machine.execKeyUpdate mb session s
  | .endSession mb session => Sys2Proof.Machine.execEndSession mb session s
  | .spdmUnsupported mb => Sys2Proof.Machine.execSpdmUnsupported mb s
  | .ideKm mb session op => Sys2Proof.Machine.execIdeKm mb session op s
  | .ideFailure port integrity => Sys2Proof.Machine.execIdeFailure port integrity s
  | .tamper clock stage1 => Sys2Proof.Machine.execTamper clock stage1 s
  | .sample sampler core pc skid => Sys2Proof.Machine.execSample sampler core pc skid s
  | .powerUp ok => Sys2Proof.Machine.execPowerUp ok s
  | .pwrOkLow board => Sys2Proof.Machine.execPwrOkLow board s
  | .powerMeasure mv ma => Sys2Proof.Machine.execPowerMeasure mv ma s
  | .capAdjust => Sys2Proof.Machine.execCapAdjust s
  | .rampStep d u => Sys2Proof.Machine.execRampStep d u s
  | .thermalTick d cd bd => Sys2Proof.Machine.execThermalTick d cd bd s
  | .hbmTemperature stack t => Sys2Proof.Machine.execHbmTemperature stack t s
  | .coolantHot t => Sys2Proof.Machine.execCoolantHot t s
  | .thermtrip hbm => Sys2Proof.Machine.execThermtrip hbm s
  | .brownStateEnter mv => Sys2Proof.Machine.execBrownStateEnter mv s
  | .brownStateExit => Sys2Proof.Machine.execBrownStateExit s
  | .inputLossShutdown => Sys2Proof.Machine.execInputLossShutdown s
  | .inputHigh mv => Sys2Proof.Machine.execInputHigh mv s
  | .overvoltageShutdown => Sys2Proof.Machine.execOvervoltageShutdown s
  | .railFault rail => Sys2Proof.Machine.execRailFault rail s
  | .entdaa addr => Sys2Proof.Machine.execEntdaa addr s
  | .pldmSensorRead x => Sys2Proof.Machine.execPldmSensorRead x s
  | .pldmBoardCap w => Sys2Proof.Machine.execPldmBoardCap w s
  | .pldmModuleReset kind => Sys2Proof.Machine.execPldmModuleReset kind s
  | .pldmFruRead => Sys2Proof.Machine.execPldmFruRead s
  | .shutdownCauseEvent => Sys2Proof.Machine.execShutdownCauseEvent s
  | .allPortsOutOfService => Sys2Proof.Machine.execAllPortsOutOfService s
  | .replicaAdmitTimeout => Sys2Proof.Machine.execReplicaAdmitTimeout s
  | .calmEnterTimeout => Sys2Proof.Machine.execCalmEnterTimeout s
  | .pldmBaseRequest => Sys2Proof.Machine.execPldmBaseRequest s
  | .cxlCacheEnable en => Sys2Proof.Machine.execCxlCacheEnable en s
  | .msixMaskChange op => Sys2Proof.Machine.execMsixMaskChange op s

end Sys2Proof.Machine
end

