-- ==== Sys2Proof/Machine/HostRead.lean ====
section
/-! DEFINITION. Host reads (R7, R273, R274, R277 to R279, R281, R522): what configuration space and the three BARs return. No command brings a
read: reads wait in the queue unit and are served in the order of their arrival once every command before them has been applied. -/

namespace Sys2Proof.Machine

/-! ### BAR0 (R7, R277, R278, R281) -/

/-- What the fields of the register at `base` hold for a read: with stg_rd = 1 the staged values in place of the active ones, those that wait
for a close among them (R191, R281). -/
def Dev.shownWord (s : Dev) (base : Nat) : W64 :=
  let put (m v : Sparse W64) (w : W64) : W64 :=
    let b := Sparse.get (always 0) m base
    (w &&& ~~~b) ||| (Sparse.get (always 0) v base &&& b)
  if s.on sysStageCtlStgRd then put s.regs.stgBits s.regs.stg (put s.regs.waitBits s.regs.wait (s.reg base)) else s.reg base

/-- Word `i` of the context of the selected queue (R288). -/
def Dev.ctxWord (s : Dev) (i : Nat) : W64 :=
  let c := s.qctx s.selQueue
  match i with
  | 0 => c.w0
  | 1 => c.w1
  | 2 => c.w2
  | 3 => c.w3
  | 4 => c.dev
  | 5 => c.host
  | 6 => BitVec.ofNat 64 (c.state.toNat + 2 ^ 8 * c.err.toNat + 2 ^ 16 * c.lost.toNat)
  | _ => 0

/-- The bits that read as zero without a debug grant: the enables of the trace (R528, R531). -/
def Dev.hiddenBits (s : Dev) (base : Nat) : W64 :=
  if base = pmcTraceCtlRelEn.off ∧ !s.traceGrant then bitMask 0 2 else 0

/-- The word that a read of the register at `base` gives: WO fields and reserved bits read as zero (R7, R278); none where no register lies. -/
def Dev.readWord (s : Dev) (base : Nat) : Option W64 :=
  if 0x2040 ≤ base ∧ base < 0x2080 then some (s.ctxWord ((base - 0x2040) / 8))
  else (regAt base).map fun r => s.shownWord base &&& r.mask (· != .wo) &&& ~~~s.hiddenBits base

/-- A read of BAR0: one that breaks the register rules is a violation and returns zero (R277, R278). -/
def Dev.readBar0 (s : Dev) (off size : Nat) : Dev × List Byte :=
  let none_ : Dev × List Byte := (s.violation off false, natLe size 0)
  if !(size = 4 ∨ size = 8) ∨ off % size ≠ 0 then none_
  else match s.readWord (off / 8 * 8) with
    | some w => (s, ((natLe 8 w.toNat).drop (off % 8)).take size)
    | none => none_

/-! ### The other spaces -/

/-- A byte of BAR2: the MSI-X table, 16 bytes a vector in the layout of the PCI Express base specification, and the pending bits (R274, R302). -/
def Dev.bar2Byte (s : Dev) (off : Nat) : Byte :=
  let v := off / 16
  if off < 0x8000 then
    BitVec.ofNat 8 (leAt (natLe 8 (Sparse.get (always 0) s.que.vecAddr v).toNat ++ natLe 4 (Sparse.get (always 0) s.que.vecData v).toNat ++
      natLe 4 (b2n (s.que.masked.contains v))) (off % 16) 1)
  else if off < 0x8100 then
    BitVec.ofNat 8 ((List.range 8).foldl (fun n i => n + if s.que.msixPnd.contains (8 * (off - 0x8000) + i) then 2 ^ i else 0) 0)
  else 0

/-- The counter at an offset of BAR4 (R522): the privileged view reads every counter; the user view those of cores and clusters under grant
bit 1, the others under a debug grant with bit 0; blocks above 0xC36 read as zero. -/
def Dev.windowCtr (s : Dev) (off : Nat) : Nat :=
  let user := decide (0x80000 ≤ off)
  let b := off % 0x80000 / 1024 + if user then s.fld pmcUviewUfirst else s.fld pmcViewVfirst
  let may := !user || (if b < 0xC20 then bit s.pmc.grant 1 else s.on secStatusDbg && bit (s.fld secStatusGrant) 0)
  if 0xC36 < b ∨ !may then 0 else s.ctrRead (128 * b + off % 1024 / 8)

/-- A byte of configuration space, at the places of the PCI Express base specification: vendor, device, revision, class code (R273); the others
are free values. -/
def Dev.configByte (s : Dev) (k off : Nat) : Byte :=
  if off < 2 then BitVec.ofNat 8 (leAt (natLe 2 Config.vendorId.toNat) off 1)
  else if off < 4 then BitVec.ofNat 8 (leAt (natLe 2 0x4716) (off - 2) 1)
  else if off = 8 then BitVec.ofNat 8 s.featLevel
  else if 9 ≤ off ∧ off < 12 then BitVec.ofNat 8 (leAt (natLe 3 0x120000) (off - 9) 1)
  else Config.freeByte k off

/-- The bytes that a read returns, and what it leaves. A read of BAR4 other than an aligned one of 8 bytes returns free values. -/
def Dev.readData (s : Dev) (r : HostRead) : Dev × List Byte :=
  let (k, free) := s.fresh
  match r.space with
  | .config => (free, (List.range r.size).map fun i => s.configByte k (r.off + i))
  | .bar0 => s.readBar0 r.off r.size
  | .bar2 => (s, (List.range r.size).map fun i => s.bar2Byte (r.off + i))
  | .bar4 =>
    if r.size = 8 ∧ r.off % 8 = 0 then (s, natLe 8 (s.windowCtr r.off))
    else (free, (List.range r.size).map fun i => Config.freeByte k (r.off + i))

/-- The host port carries a read of a space: configuration traffic always, the BARs unless it is restricted (R498, R503). -/
def Dev.readServed (s : Dev) (sp : HostSpace) : Bool :=
  sp == .config || (!s.sec.shut && (!bit s.sec.flags 0 || s.on secIdeStatusHost))

/-- Serve the oldest host read, if one waits and the port is up and not paused for a commit (R279); one that the port does not carry is dropped
(DESIGN CHOICE, log entry 42). -/
def Dev.serveRead (s : Dev) : Option Dev :=
  match s.que.reads with
  | [] => none
  | r :: l =>
    if s.que.down.isSome || s.pausedUnit ⟨.hostPort, 0⟩ then none else
    let s := { s with que := { s.que with reads := l } }
    if !s.readServed r.space then some s else
    let (s, bs) := s.readData r
    some (s.sendHost (.readData r bs))

end Sys2Proof.Machine
end

