-- ==== Sys2Proof/Machine/Slots.lean ====
section
/-! DEFINITION. The six issue slots of a core, cycle by cycle, and what else passes with time: top-down accounting and cycle counts (R88, R514 to
R521), the issue limit's hold (R545), calm and moving chains (R515), samples of events that no other definition counts (R526). -/

namespace Sys2Proof.Machine

/-! ### The issue limit (R545) -/

/-- Of the cycles of a tick from `t` on, those in which a core of a die with allowed fraction `a`/64 neither issues nor feeds: in every 64 cycles
the last 64 - `a` (DESIGN CHOICE, log entry 26). -/
def heldIn (a t : Nat) : Nat := ((List.range lookAhead).filter fun i => decide (a ≤ (t + i) % 64)).length

/-- The allowed fraction of the die of core `c`. -/
def Dev.allowed (s : Dev) (c : Nat) : Nat := s.fld (pwrLimitA.nth (c / 128))

/-- Core `c` has something to issue or to feed. -/
def Dev.active (s : Dev) (c : Nat) : Bool :=
  !s.coreDown c && ((s.core c).work.isSome || !(s.core c).mmts.isEmpty || s.vecBusy c)

/-- The cycles of the present tick that the limit holds core `c`. -/
def Dev.held (s : Dev) (c : Nat) : Nat := if s.active c then heldIn (s.allowed c) (s.cycle c) else 0

/-- What would go on at cycle `e` or later goes on `h` cycles later: feeds that remain, and the running vector instruction. -/
def Core.hold (k : Core) (e h : Nat) : Core :=
  if h = 0 then k else
  let row (p : RowPlan) : RowPlan := if e < p.stop ∨ e ≤ p.start then { p with start := p.start + h } else p
  { k with mmts := k.mmts.map fun r => { r with first := if e ≤ r.first then r.first + h else r.first, rows := r.rows.map row },
           vrun := k.vrun.map fun r => if e < r.stop then { r with stop := r.stop + h } else r,
           vdone := k.vdone.map fun d => if e < d.2 then (d.1, d.2 + h) else d }

/-! ### Matrix slots (R88, R518) -/

/-- Some chunk is fed in cycle `i`. -/
def Core.fedAt (k : Core) (i : Nat) : Bool := k.mmts.any fun r => r.rows.any fun p => decide (p.start ≤ i) && decide (i < p.stop)

/-- The oldest MMT that has been issued by cycle `i` and is not through its feeds. -/
def Core.issuedMmt (k : Core) (i : Nat) : Option QEnt :=
  ((k.mmts.filter fun r => decide (i ≤ r.last)).map (·.ent) ++ (match k.rest with | some (x, _) => [x] | none => []) ++
    k.mq.filter fun x => vop x.w0 == 0x40).find? fun x => decide (x.cyc ≤ i)

/-- What an MMT waits for in a cycle without a feed (R87, R88): the fill of its first strip for 20 cycles in column orientation, its operand line
for 4 in row orientation, else an interlock. -/
def waitCause (x : QEnt) (i : Nat) : Nat :=
  if (mmtOf x.w0 x.w1).col then (if i < x.cyc + 20 then 16 else 14) else if i < x.cyc + 4 then 15 else 14

/-- The matrix slots of core `c` in the cycles `[t, e)`: chunks fed, pairs skipped, cycles in which an MMT waits. What is left is starved-front;
between a fault and its fence no chunk is fed (R100). -/
def matSlots (c t e : Nat) (s : Dev) : Dev :=
  if s.coreDown c then s else
  let k := s.core c
  let s := k.mmts.foldl (fun s r => r.tally c t e 128 s) s
  ((List.range (e - t)).map (t + ·)).foldl (fun s i =>
    if k.fedAt i then s else
    match k.issuedMmt i with
    | some x => (List.range 4).foldl (fun s u => (s.count (engBlk c u) 3 1).count (engBlk c u) (waitCause x i) 1) s
    | none => s) s

/-! ### The vector and move slots (R519) -/

/-- The vector slot of core `c` in the cycles `[t, e)`. -/
def vecSlots (c t e : Nat) (s : Dev) : Dev :=
  let k := s.core c
  let b := engBlk c 4
  let (runs, live) := match k.vrun with
    | some r => (Nat.min r.stop e - Nat.max r.start t, r.live)
    | none => (0, false)
  let waits := ((List.range (e - t)).filter fun i =>
    (match k.vrun with | some r => !(decide (r.start ≤ t + i) && decide (t + i < r.stop)) | none => true) &&
    k.vq.any fun x => decide (x.cyc ≤ t + i)).length
  let s := (s.count b 3 waits).count b 11 waits
  if !live then s.count b 1 runs
  else if k.redo = 0 then s.count b 0 runs
  else (s.count b 1 runs).count b 15 runs

/-- The move slot of core `c` in `n` cycles: it takes the accesses made, one a cycle, those of redone instructions first. -/
def moveSlots (c n : Nat) (s : Dev) : Dev :=
  let owed (key : Nat) : Nat := Sparse.get (always 0) s.pmc.moves key
  let redo := Nat.min n (owed (512 + c))
  let used := Nat.min (n - redo) (owed c)
  let left := Sparse.set (always 0) (Sparse.set (always 0) s.pmc.moves (512 + c) (owed (512 + c) - redo)) c (owed c - used)
  let s := { s with pmc := { s.pmc with moves := left } }
  (s.count (coreBlk c) 7 used).count (coreBlk c) 8 redo

/-! ### A core's tick -/

/-- The next instruction of core `c` needs a queue that is full (R135, R514). -/
def Dev.queueStops (s : Dev) (c : Nat) : Bool :=
  let k := s.core c
  let op := (k.lsByte k.pc).toNat
  k.run == .issuing &&
  (if op = 0x40 ∨ op = 0x42 ∨ op = 0x43 then decide (4 ≤ s.mqLen c)
   else (op == 0x41 || (decide (0x50 ≤ op) && decide (op ≤ 0x6F))) && decide (8 ≤ k.vq.length))

/-- The cycles of a tick on core `c`, which is in service: its slots, its cycle counts, the hold of the issue limit. -/
def Dev.coreTick (s : Dev) (c : Nat) : Dev :=
  let k := s.core c
  let t := s.cycle c
  let h := s.held c
  let e := t + lookAhead - h
  let b := coreBlk c
  let all (p : Bool) : Nat := if p then lookAhead else 0
  let full := s.queueStops c
  let s := moveSlots c (lookAhead - h) (vecSlots c t e (matSlots c t e s))
  let s := (((s.count b 2 h).count b 13 (all (match k.run with | .waiting _ _ => true | _ => false))).count b 14 (all full)).count b 19
    (all (match k.work with | some w => w.brz | none => false))
  let s := if k.work.isSome then
    { s with pmc := { s.pmc with busy := Sparse.set (always 0) s.pmc.busy c (Sparse.get (always 0) s.pmc.busy c + lookAhead) } } else s
  s.onCore c (·.hold e h)

/-- The cores out of service. -/
def Fences.allCores (f : Fences) : List Nat :=
  (f.cores ++ f.clusters.flatMap (fun k => (List.range 16).map (16 * k + ·)) ++ f.dies.flatMap fun d => (List.range 128).map (128 * d + ·)).eraseDups

/-- The cycles in which fcap holds back issue on some core (R549). -/
def Dev.capHeld (s : Dev) : Nat :=
  s.cores.foldl (fun n e => if s.allowed e.1 = s.fcap then Nat.max n (s.held e.1) else n) 0

/-- Every core's cycles of a tick: those that hold something, and those out of service (R517). -/
def Dev.slotTick (s : Dev) : Dev :=
  let gone := s.pkg.fences.allCores
  let s := s.count pkgBlk 6 s.capHeld
  let s := gone.foldl (fun s c => s.count (coreBlk c) 1 lookAhead) s
  (s.cores.map (·.1)).foldl (fun s c => if gone.contains c then s else s.coreTick c) s

/-! ### Clusters and ports (R515) -/

/-- Cycles with a foreground and with a breeze chain moving. -/
def Dev.clusterTick (s : Dev) (k : Nat) : Dev :=
  let moving (brz : Bool) : Bool := (s.chansOf k).any fun e => e.2.brz == brz && e.2.st == .moving && s.chanMay e.1
  (s.count (clusterBlk k) 8 (if moving false then lookAhead else 0)).count (clusterBlk k) 9 (if moving true then lookAhead else 0)

/-- A microsecond in calm. -/
def Dev.calmTick (s : Dev) : Dev :=
  if s.on fabCalmCalm && s.real / 1000 != (s.real + 8) / 1000 then (List.range 16).foldl (fun s p => s.count (portBlk p) 7 1) s else s

/-! ### Samples of derived counts (R526) -/

/-- The counters whose value a read derives (R516), which no event adds to. -/
def derivedCtr (kind event : Nat) : Bool := if kind = 0 then event == 0 || event == 9 || event == 15 else event == 2

/-- An armed sampler counts what a derived counter gained since the state `old`. -/
def Dev.sampDerived (s old : Dev) : Dev :=
  (List.range 8).foldl (fun s n =>
    (List.range 512).foldl (fun s c =>
      let u : UnitId := ⟨.sequencer, c⟩
      let kind := s.fldAs u (pmcSamplerKind.nth n)
      let event := s.fldAs u (pmcSamplerEvent.nth n)
      if !derivedCtr kind event || decide (5 < kind) || !s.sampled n c kind event then s else
      let gain := s.ctrRead (s.sampCtr n c) - old.ctrRead (s.sampCtr n c)
      { s with pmc := { s.pmc with samp := Sparse.set (always 0) s.pmc.samp (512 * n + c) (Sparse.get (always 0) s.pmc.samp (512 * n + c) + gain) } }) s) s

end Sys2Proof.Machine
end

