-- ==== Sys2Proof/Machine/Idle.lean ====
section
/-! DEFINITION. What the block does when no command waits: it serves a host read that has arrived (R279), or 8 ns pass (log entry 5). -/

namespace Sys2Proof.Machine

/-- What happens in the course of a tick, from the time `old` on: the ring moves, samples of derived counts fall due, what waits for a page goes on, the job holds at
an entry that depends on a failed vote, a calm of the firmware ends, packages that have shown a new incarnation leave their collectives. -/
def Dev.tickWork (s old : Dev) : Dev := (((s.ringTick.sampDerived old).payOwed).voteHoldDue.stopSettle).fwCalmEnd.settleLeave

/-- A tick: the dispatchers note what holds instances back, every slot of every core is accounted for, moving chains and calm are counted; then
8 ns pass. -/
def Dev.tick (s : Dev) : Dev :=
  let s' := (List.range 32).foldl Dev.clusterTick s.noteWaits.noteRooms.slotTick.calmTick
  let s' := { tickEffect s' with real := s.real + 8 }
  s'.tickWork s

/-- What the block does on an empty queue. -/
def idleEffect (s : Dev) : Dev :=
  match s.serveRead with
  | some s => s
  | none => s.tick

end Sys2Proof.Machine
end

