-- ==== Sys2Proof/WellFormed.lean ====
section
/-! DEFINITION. Well-formed commands: the sizes of fixed-length operands and the ranges of unit numbers that the types leave open. A meaning
answers for an ill-formed command too (log entry 40). -/

namespace Sys2Proof

/-- How far the numbers of a kind of unit go (R9, R10, R233). -/
def UnitKind.bound : UnitKind → Nat
  | .matrix => 2048
  | .vector | .sequencer | .clusterDma => 512
  | .baseDma => 64
  | .update | .collective | .memCtl | .collector | .complex | .timeUnit => 4
  | .port => 16
  | .hostPort => 1
  | .dispatcher => 36

/-- A unit that exists. -/
def UnitId.wf (u : UnitId) : Bool := decide (u.ix < u.kind.bound)

/-- Source fields within their bits of a message (R446). -/
def Src.wf (r : Src) : Bool :=
  decide (r.level < 6) && decide (r.die < 4) && decide (r.cluster < 8) && decide (r.core < 16) && decide (r.unit < 8)

/-- The unit of a base die's hard fault is a source. -/
def DieFault.wf : DieFault → Bool
  | .compute _ => true
  | .base unit => unit.wf

/-- A submission entry's body: the 56 bytes at 0x08 to 0x3F (R295). -/
def SubEntry.wf (e : SubEntry) : Bool := e.body.length == 56

/-- Eight dies have bitmaps and steppings; the units named exist. -/
def BringUp.wf (b : BringUp) : Bool :=
  b.caps.length == 8 && b.steps.length == 8 && b.trained.all (· < 4) && b.complexes.all (· < 4) && b.cores.all (· < 512) &&
  b.clusters.all (· < 32) && b.dies.all (· < 4)

/-- A queued collective's entry. -/
def CollFrom.wf : CollFrom → Bool
  | .rel _ _ => true
  | .queued _ e => e.wf

/-- Packages are numbered to 8,191 (R12). -/
def Admission.wf (a : Admission) : Bool := a.unit.all (· < 8192) && decide (a.src < 8192)

/-- A vote names packages. -/
def ClosePart.wf : ClosePart → Bool
  | .decide _ _ _ _ => true
  | .finish votes => votes.all fun v => Decidable.decide (v.pkg < 8192) && v.digest.length == 32

/-- A well-formed command. -/
def Instr.wf : Instr → Bool
  | .registerWrite _ _ _ _ _ => true
  | .commitRequest => true
  | .unitLullPause u => u.wf
  | .deviceLull => true
  | .queueEnable _ => true
  | .queueDisable => true
  | .queueReset => true
  | .tlbInvalidate _ => true
  | .tlbInvalidationDone => true
  | .scheduleChange => true
  | .scheduleCancel => true
  | .scheduledChangeDue u => u.wf
  | .snapshot _ => true
  | .snapshotInstant => true
  | .warmPackageReset _ => true
  | .dieReset _ => true
  | .portReset _ => true
  | .coreReset _ => true
  | .coldReset => true
  | .commandReady _ bu => bu.wf
  | .lateralModuleTraining _ _ _ _ => true
  | .lateralRetryFailure _ _ _ _ => true
  | .widthAttempt _ _ _ _ => true
  | .refclkLoss _ => true
  | .refclkValid _ => true
  | .refclkHoldover => true
  | .heartbeat _ => true
  | .leadTakeover => true
  | .sadd _ _ => true
  | .ssub _ _ => true
  | .sand _ _ => true
  | .sor _ _ => true
  | .sxor _ _ => true
  | .smul _ _ => true
  | .sshl _ _ => true
  | .sshr _ _ => true
  | .ssra _ _ => true
  | .sli _ _ => true
  | .slui _ _ => true
  | .sld _ _ => true
  | .sst _ _ => true
  | .br _ _ => true
  | .beq _ _ => true
  | .bne _ _ => true
  | .blt _ _ => true
  | .bltu _ _ => true
  | .stime _ _ => true
  | .evsig _ _ => true
  | .evwait _ _ => true
  | .evwaitResume _ => true
  | .dmago _ _ => true
  | .rmark _ _ => true
  | .segend _ _ => true
  | .stfold _ _ => true
  | .foldApply _ => true
  | .prd _ _ => true
  | .mwld _ _ _ => true
  | .mmt _ _ _ => true
  | .matrixInstructionStart _ => true
  | .mmtWritesComplete _ _ => true
  | .mdrain _ _ _ => true
  | .mrsv _ _ => true
  | .vectorInstructionStart _ => true
  | .vectorBankEscalation _ => true
  | .vadd _ _ _ => true
  | .vsub _ _ _ => true
  | .vmul _ _ _ => true
  | .vfma _ _ _ => true
  | .vmax _ _ _ => true
  | .vmin _ _ _ => true
  | .vabs _ _ _ => true
  | .vneg _ _ _ => true
  | .vand _ _ _ => true
  | .vor _ _ _ => true
  | .vxor _ _ _ => true
  | .vshl _ _ _ => true
  | .vshr _ _ _ => true
  | .vcmp _ _ _ => true
  | .vsel _ _ => true
  | .vcvt _ _ _ => true
  | .vsfu _ _ _ => true
  | .vbcast _ _ _ => true
  | .viota _ _ _ => true
  | .vrng _ _ => true
  | .vred _ _ _ => true
  | .vpack _ _ _ => true
  | .vunpack _ _ _ => true
  | .vtbase _ _ => true
  | .vld _ _ _ => true
  | .vst _ _ _ => true
  | .vtopk _ _ _ => true
  | .vstat _ _ => true
  | .pand _ _ => true
  | .por _ _ => true
  | .pxor _ _ => true
  | .vrsv _ _ => true
  | .preemptionRequest _ lag => decide (lag < 24)
  | .preemptResume _ => true
  | .dmaCopy _ _ => true
  | .dmaFill _ _ => true
  | .dmaGather _ _ => true
  | .dmaScatter _ _ => true
  | .dmaAccumulatingWrite _ _ => true
  | .dmaDescriptorComplete _ => true
  | .dmaChannelRestart _ _ => true
  | .breezeChainPause _ => true
  | .breezeChainResume _ => true
  | .coreFence _ _ _ => true
  | .clusterFence _ _ => true
  | .computeDieFence f => f.wf
  | .stepOpen => true
  | .stepClose part => part.wf
  | .replicaAdmission a => a.wf
  | .stepOverrun => true
  | .normPass _ _ => true
  | .lambPassA _ _ => true
  | .updatePass _ _ => true
  | .digestPass _ _ => true
  | .updatePassPause _ => true
  | .updatePassResume _ => true
  | .tornShard _ => true
  | .shardRepair _ _ _ _ => true
  | .shardRestore _ _ _ => true
  | .exportForward _ => true
  | .sinkConsumerPoll _ _ => true
  | .scrub _ => true
  | .pcDrain _ _ _ => true
  | .drainStalled _ _ => true
  | .tableWalk _ _ _ => true
  | .pageMove _ _ _ => true
  | .pagerSweep _ => true
  | .hdmRead _ _ => true
  | .hdmWrite _ data => data.length == 64
  | .cxlWindowCompletion _ data _ => data.length != 0
  | .doorbellSnoop _ => true
  | .doorbellPoll => true
  | .doorbellLineRead _ data => data.length == 64
  | .submissionFetch _ _ _ => true
  | .dmaQueueChain _ => true
  | .workEntry e => e.wf
  | .completionPost => true
  | .msixAggregationTimeout _ => true
  | .exportQueueWrite _ => true
  | .hostPortAccessTimeout => true
  | .hostLinkUp width rate _ => (width.val == 4 || width.val == 8 || width.val == 16) && decide (rate.val ≤ 2)
  | .identify e => e.wf
  | .jobOpen e => e.wf
  | .jobClose e => e.wf
  | .jobLoad e _ => e.wf
  | .groupDefine e => e.wf
  | .mapInstall e _ => e.wf
  | .timetableSubmit e _ => e.wf
  | .start e => e.wf
  | .stop e => e.wf
  | .fence e => e.wf
  | .unfence e _ => e.wf
  | .faultRead e => e.wf
  | .faultClear e => e.wf
  | .exportConfig e => e.wf
  | .replicaAdmit e => e.wf
  | .replicaExpel e unit => e.wf && unit.all (· < 8192)
  | .peerRestore e => e.entry.wf
  | .calmEnter e => e.wf
  | .calmExit e => e.wf
  | .pathInstall e _ => e.wf
  | .timeConfig e => e.wf
  | .powerCap e => e.wf
  | .scheduledPowerCapDue => true
  | .counterGrant e => e.wf
  | .amendLoad e _ => e.wf
  | .segmentRelease _ _ => true
  | .dmaChainEntryRelease _ _ => true
  | .updatePassRelease _ _ => true
  | .mapSwitch _ _ => true
  | .signalRelease _ _ => true
  | .instanceCompletion _ => true
  | .breezeYield _ lag _ => decide (lag < 24)
  | .budgetWait _ => true
  | .timeRequestSend => true
  | .timeRequest _ _ _ => true
  | .timeReply _ _ => true
  | .timeWindow => true
  | .timeExchangeTimeout => true
  | .syncInEdge => true
  | .syncInTimeout => true
  | .portServiceChange _ _ _ _ _ => true
  | .gustWrite _ _ => true
  | .gustRead _ _ => true
  | .gustReplyData _ _ => true
  | .gustCollectiveData _ _ => true
  | .gustAck _ _ => true
  | .gustAsk _ _ => true
  | .gustGrant _ _ => true
  | .gustReturn _ _ => true
  | .gustStale _ _ => true
  | .gustRack _ _ => true
  | .gustProbe _ _ => true
  | .gustProbeAnswer _ _ => true
  | .gustRelay _ _ _ => true
  | .relayForwardTimeout => true
  | .relaySlotTimeout => true
  | .resendTimeout => true
  | .readReplyTimeout => true
  | .askRepeat => true
  | .levelIdleReturn => true
  | .probeTimer => true
  | .ackSend _ _ => true
  | .barrier _ => true
  | .endOfStepBarrier _ => true
  | .scalar _ _ => true
  | .allreduce _ _ _ => true
  | .hierAllreduce _ _ _ _ _ => true
  | .redscat _ _ _ => true
  | .allgather _ _ => true
  | .bcast _ _ => true
  | .gather _ _ => true
  | .alltoall _ _ => true
  | .permute _ _ => true
  | .copy _ => true
  | .collectiveEntry f => f.wf
  | .rendezvousEnd _ _ _ _ => true
  | .collectiveComplete _ => true
  | .collectiveAbort _ _ => true
  | .memberLeave _ => true
  | .faultMessageLog => true
  | .correctedMergeExpiry => true
  | .squall src _ => src.wf
  | .stepRetry _ => true
  | .noticeReceive _ unit _ => unit.all (· < 8192)
  | .packageLost _ unit _ => unit.all (· < 8192)
  | .rendezvousProbe _ => true
  | .shadowCopy _ => true
  | .ownershipTransfer _ _ _ => true
  | .debugUnlock _ _ _ => true
  | .debugRelock _ => true
  | .renewNonce _ => true
  | .storeConfiguration _ _ _ => true
  | .getVersion _ => true
  | .getCapabilities _ => true
  | .negotiateAlgorithms _ _ => true
  | .getDigests _ => true
  | .getCertificate _ _ _ _ => true
  | .challenge _ _ => true
  | .getMeasurements _ _ _ => true
  | .keyExchange _ => true
  | .finish _ _ _ => true
  | .heartbeatSpdm _ _ => true
  | .keyUpdate _ _ => true
  | .endSession _ _ => true
  | .spdmUnsupported _ => true
  | .ideKm _ _ _ => true
  | .ideFailure _ _ => true
  | .tamper _ _ => true
  | .sample _ _ _ _ => true
  | .powerUp _ => true
  | .pwrOkLow _ => true
  | .powerMeasure _ _ => true
  | .capAdjust => true
  | .rampStep _ _ => true
  | .thermalTick _ _ _ => true
  | .hbmTemperature _ _ => true
  | .coolantHot _ => true
  | .thermtrip _ => true
  | .brownStateEnter _ => true
  | .brownStateExit => true
  | .inputLossShutdown => true
  | .inputHigh _ => true
  | .overvoltageShutdown => true
  | .railFault _ => true
  | .entdaa _ => true
  | .pldmSensorRead _ => true
  | .pldmBoardCap _ => true
  | .pldmModuleReset _ => true
  | .pldmFruRead => true
  | .shutdownCauseEvent => true
  | .allPortsOutOfService => true
  | .replicaAdmitTimeout => true
  | .calmEnterTimeout => true
  | .pldmBaseRequest => true
  | .cxlCacheEnable _ => true
  | .msixMaskChange _ => true

end Sys2Proof
end

