-- ==== Sys2Proof/Safety.lean ====
section
/-! DEFINITION. The terms in which claims speak: what a command does to the device, what an access leaves alone, what holds in every
state that a step answers. -/

namespace Sys2Proof.Machine

/-- Command `c` completes in state `s` and makes the device `d`, of which registers store no reserved bit and fuses only burn; the
commands waiting are as before. -/
def Runs (c : Instr) (s : State) (d : Dev) : Prop := exec c s = .next { s with dev := s.dev.wired d }

/-- Command `c` completes in state `s` and changes nothing. -/
def Idles (c : Instr) (s : State) : Prop := Runs c s s.dev

/-- Everything of the device but memory, registers, fault collection, counters, free values drawn, transfers on the ring and what has left
the block. -/
def Dev.beside (s : Dev) :=
  (s.pkg, s.cores, s.cs, s.ev, s.chans, s.bases, s.que, s.job, s.disp, s.upds, s.col, s.fab, s.tim, s.sec, s.pwr, s.car, s.real)

/-- No register holds a reserved bit (R278). -/
def ReservedZero (d : Dev) : Prop := ∀ o, d.reg o &&& ~~~fieldBits o = 0

/-- There are 8 owner slots (R493). -/
def EightSlots (d : Dev) : Prop := d.sec.slots.length = 8

/-- The invariant that every step keeps. -/
def Inv (d : Dev) : Prop := ReservedZero d ∧ EightSlots d

/-- From `a` to `b` fuses were only burnt: the device secret, serial number and vendor root stay, minver does not fall, a used owner slot
stays as it is (R493, R505). -/
def FusesKept (a b : Sec) : Prop :=
  b.uds = a.uds ∧ b.serial = a.serial ∧ b.vroot = a.vroot ∧ a.minver ≤ b.minver ∧
  ∀ i, i < a.slots.length → a.slots.getD i .unused ≠ .unused → b.slots.getD i .unused = a.slots.getD i .unused

/-- Core `c` issues word `w` as an instruction of opcode `op`: it issues, the fetch is readable and leaves the device `d` (corrected words
mended and reported), and the instruction lies before the end of the local store. -/
def Fetches (s d : Dev) (c : Nat) (w : W64) (op : Nat) : Prop :=
  s.issuing c = true ∧ fld64 w 0 8 = op ∧ s.lsCheck c [((s.core c).pc, instrLen w)] = (d, true) ∧
  (d.core c).pc + instrLen w < lsSize

/-- What an instruction of `n` bytes leaves: core `c` is `k` with its PC behind the instruction and the instruction counted, every other
core and everything beside memory, registers, faults, counters and outputs is as in `d`; without a debug trace all the rest is too, but for
the counters. -/
def Stepped (d t : Dev) (c n : Nat) (k : Core) : Prop :=
  t.core c = { k with pc := (d.core c).pc + n, since := (d.core c).since + 1, redo := (d.core c).redo - 1 } ∧
  (∀ j, j ≠ c → t.core j = d.core j) ∧ t.beside = ({ d with cores := t.cores } : Dev).beside ∧
  (d.traceGrant = false → t = { d with cores := t.cores, pmc := t.pmc, regs := t.regs, sec := t.sec } ∧
    t.regs = { d.regs with act := t.regs.act } ∧ ∀ o, t.reg o = d.reg o &&& fieldBits o)

/-- The instructions that write vector elements, with their opcodes: all of the table but VCMP, VRED and those of memory and set-up. -/
def elementwise (c : Fin 512) (w0 w1 : W64) : List (Instr × Nat) :=
  [(.vadd c w0 w1, 0x50), (.vsub c w0 w1, 0x51), (.vmul c w0 w1, 0x52), (.vfma c w0 w1, 0x53), (.vmax c w0 w1, 0x54), (.vmin c w0 w1, 0x55),
   (.vabs c w0 w1, 0x56), (.vneg c w0 w1, 0x57), (.vand c w0 w1, 0x58), (.vor c w0 w1, 0x59), (.vxor c w0 w1, 0x5A), (.vshl c w0 w1, 0x5B),
   (.vshr c w0 w1, 0x5C), (.vsel c w0, 0x5E), (.vcvt c w0 w1, 0x5F), (.vsfu c w0 w1, 0x60), (.vbcast c w0 w1, 0x61), (.viota c w0 w1, 0x62),
   (.vrng c w0, 0x63)]

/-- The type of the elements it writes. -/
def elemTy (w0 : W64) : Nat :=
  if vop w0 = 0x5F then fld64 w0 18 4 else if vop w0 = 0x62 ∨ vop w0 = 0x63 then 0xB else tyOf w0

/-- What its operation makes of element `e` of its sources on core `k` (R34, R45, R108, R112, R119, R122); sums of BI16 apart. -/
def elemRes (d : Dev) (k : Core) (x : QEnt) (e : Nat) : Nat :=
  let w := x.w0
  let ty := tyOf w
  let a := k.vsrc x 0 e
  let b := k.vsrc x 1 e
  match vop w with
  | 0x50 | 0x51 | 0x52 | 0x54 | 0x55 => arithElem (vop w) ty (rndOf w) (satOf w) (d.vrand x e) a b 0
  | 0x53 => arithElem 0x53 ty (rndOf w) (satOf w) (d.vrand x e) a b (k.vsrc x 2 e)
  | 0x56 | 0x57 => signElem (vop w) ty (satOf w) a
  | 0x58 | 0x59 | 0x5A | 0x5B | 0x5C => bitElem (vop w) ty a b
  | 0x5E =>
    if ty ≠ 0xC then (if k.pbit (fld64 w 23 3) e then a else b)
    else
      let slot := if k.pbit (fld64 w 23 3) e then 0 else 1
      bi16Clean (k.vsrc x slot e % 65536) + bits (k.vsrc x slot (e / 32 * 32)) 16 8 * 65536
  | 0x5F =>
    let dst := fld64 w 18 4
    if dst ≠ 0xC then convElem ty dst (rndOf w) (satOf w) (d.vrand x e) (srcVal k x e)
    else
      let blk := ((k.actives w x.w1).filter fun i => i / 32 == e / 32).map fun i => (i, srcVal k x i)
      (((toBi16Block ((wordAt x.lat 0).toNat % 256) (rndOf w) blk (d.vrand x)).1.find? fun r => r.1 == e).map Prod.snd).getD 0
  | 0x60 =>
    let y := sfu d.featLevel (fld64 w 18 3) (rne32 (tyVal ty a))
    if ty = 0xA then y else (fmtOf ty).encode (rndOf w) (satOf w) (d.vrand x e) (f32 y)
  | 0x61 => if ty = 0xC then bi16Clean ((wordAt x.lat 0).toNat % 2 ^ 32) else (wordAt x.lat 0).toNat % 2 ^ 32
  | 0x62 => ((wordAt x.lat 0).toNat + e) % 2 ^ 32
  | _ => randAt (d.tensor (wordAt x.lat 0)) (wordAt x.lat 1 + BitVec.ofNat 64 e).toNat

/-- Core `c`, whose vector engine is idle and whose vector queue is empty, issues a legal vector instruction (`own`: what its own rule asks)
with no register awaited and no coded line of the core in error: it starts at once, as entry `x`. -/
def VectorRuns (s d : Dev) (c : Nat) (op : Nat) (w0 w1 : W64) (own : Bool) (x : QEnt) : Prop :=
  Fetches s d c w0 op ∧ vecLegal op w0 w1 = true ∧ own = true ∧
  d.regsFree c (vregs w0 w1 ++ (⟨w0, w1, [], 0, 0, 0⟩ : QEnt).dst.toList) = true ∧ (d.core c).vq = [] ∧ (d.core c).code = [] ∧ d.vecBusy c = false ∧
  d.vecHeld c ⟨w0, w1, [], 0, 0, 0⟩ = false ∧ x = ⟨w0, w1, vlatch (d.core c) w0 w1, (d.core c).seq, (d.core c).pc, d.cycle c⟩

/-- The commands of R313 on an entry, each with its class; `host` is what host memory holds at a buffer, `unit` a norm group, `test` what a
unit's tests give. -/
def commandSet (e : SubEntry) (host : List Byte) (unit : List Nat) (test : UnitTest) : List (Instr × Nat) :=
  [(.identify e, clsR), (.jobOpen e, clsJ), (.jobClose e, clsJ), (.jobLoad e host, clsJ), (.groupDefine e, clsJ), (.mapInstall e host, clsJ),
   (.timetableSubmit e host, clsJ), (.start e, clsJ), (.stop e, clsJ), (.fence e, clsF), (.unfence e test, clsF), (.faultRead e, clsR),
   (.faultClear e, clsR), (.exportConfig e, clsJ), (.replicaAdmit e, clsJ), (.replicaExpel e unit, clsJ), (.peerRestore ⟨e, host⟩, clsJ),
   (.calmEnter e, clsJ), (.calmExit e, clsJ), (.pathInstall e host, clsJ), (.timeConfig e, clsJ), (.powerCap e, clsR),
   (.counterGrant e, clsR), (.amendLoad e host, clsJ)]

/-- The command of opcode `op` and entry `e`, of class `cls`, is taken up: it has its turn (the device is command-ready, no command of the
class runs, the entry is the oldest of the class that has not started), no fatal fault is held or the command is exempt from it, the body is
zero outside the command's fields, and the job state is one it accepts (R306, R307, R311, R312). -/
def Taken (d : Dev) (op : Nat) (e : SubEntry) (cls : Nat) (fields : List (Nat × Nat)) (states : List Nat) (exempt : Bool) :
    Prop :=
  d.cmdTurn op e cls = true ∧ (exempt = true ∨ d.hasFatal = false) ∧ bodyClean fields (padTo 56 e.body) = true ∧ d.jobState ∈ states

/-- The command's completion: status OK with a result. -/
def Dev.okay (d : Dev) (e : SubEntry) (result : Nat) : Dev := d.complete e.q e.cid e.quiet 0 (BitVec.ofNat 64 result)

/-- The command of entry `e`, issued in state `s`, has made `d` and runs on, waiting for `w`. -/
def Dev.holds (s d : Dev) (e : SubEntry) (cls : Nat) (w : Waiting) : Dev :=
  ({ d.startNext e.q with job := { d.job with cmds := d.job.cmds ++ [s.runCmd e cls w] } } : Dev).stopSettle

end Sys2Proof.Machine
end

