-- ==== Sys2Proof/Certificates/Slice0/Obligations.lean ====
section
/-! DEFINITION. The statements about the block. `Runs c s d` (Safety.lean): command `c` completes in state `s` and the device becomes
`d`; what `d` does not change is unchanged, and the waiting commands are. -/

open Sys2Proof Sys2Proof.Machine

/-- A step runs the command at the front of the queue with the rest of the queue. (95_what_each_step_holds) -/
def Obligations.StepRunsTheFrontCommand : Prop :=
  ∀ (c : Instr) (s : State), step { s with pending := c :: s.pending } = exec c s

/-- On an empty queue a waiting host read is served; with none 8 ns pass on every base die, and TIM_NOW shows the time of base die 0. (R7, R12, R14, R277, R278, R279, R281, R339, R342, R522) -/
def Obligations.EmptyQueueLetsTimePass : Prop :=
  (∀ (s : State), s.pending = [] → s.dev.que.reads = [] → s.dev.tim.slew = 0 → s.dev.que.owed = [] → s.dev.job.cmds = [] →
    s.dev.jobState ≠ 5 → s.dev.job.hold ≠ some 1 → s.dev.fab.fwCalm = [] → s.dev.fab.leave = [] → (∀ n, n < 8 → s.dev.on (pmcSamplerEn.nth n) = false) →
    ∃ t, step s = .next t ∧ t.pending = [] ∧ t.dev.real = s.dev.real + 8 ∧
      (∀ d, d < 4 → t.dev.now d = ((s.dev.now d : Int) + (8 + rateDue s.dev.tim.rate s.dev.real)).toNat % 2 ^ 64 ∧ (t.dev.base d).sub = (s.dev.base d).sub) ∧
      (∀ d, 4 ≤ d → t.dev.base d = s.dev.base d) ∧
      t.dev.fld timNowNow = t.dev.now 0 ∧
      (∀ o, o ≠ timNowNow.off → o ≠ timStatusHoldover.off → t.dev.reg o = s.dev.reg o &&& fieldBits o) ∧
      t.dev.ring = s.dev.ringTick.ring ∧
      (∀ c, s.dev.held c = 0 → t.dev.core c = s.dev.core c) ∧
      t.dev = { s.dev with regs := t.dev.regs, bases := t.dev.bases, cores := t.dev.cores, pmc := t.dev.pmc, ring := t.dev.ring,
                           real := t.dev.real, sec := t.dev.sec, disp := { s.dev.disp with waits := t.dev.disp.waits } }) ∧
  (∀ (s : State) (r : HostRead) (l : List HostRead), s.pending = [] → s.dev.que.reads = r :: l → s.dev.que.down = none →
    s.dev.pausedUnit ⟨.hostPort, 0⟩ = false → s.dev.readServed r.space = true →
    let d := { s.dev with que := { s.dev.que with reads := l } }
    step s = .next { s with dev := s.dev.wired ((d.readData r).1.sendHost (.readData r (d.readData r).2)) } ∧
    (∀ w, r.space = .bar0 → r.size = 4 ∨ r.size = 8 → r.off % r.size = 0 → d.readWord (r.off / 8 * 8) = some w →
      d.readData r = (d, ((natLe 8 w.toNat).drop (r.off % 8)).take r.size)) ∧
    (r.space = .bar0 → ¬(r.size = 4 ∨ r.size = 8) ∨ r.off % r.size ≠ 0 ∨ d.readWord (r.off / 8 * 8) = none →
      d.readData r = (d.violation r.off false, natLe r.size 0)) ∧
    (r.space = .bar4 → r.size = 8 → r.off % 8 = 0 → d.readData r = (d, natLe 8 (d.windowCtr r.off)))) ∧
  (∀ (d : Dev) (base : Nat) (r : RegDesc), regAt base = some r → ¬(0x2040 ≤ base ∧ base < 0x2080) → base ≠ pmcTraceCtlRelEn.off →
    (d.on sysStageCtlStgRd = false → d.readWord base = some (d.reg base &&& r.mask (· != .wo))) ∧
    (d.on sysStageCtlStgRd = true → Sparse.get (always 0) d.regs.waitBits base = 0 →
      let b := Sparse.get (always 0) d.regs.stgBits base
      d.readWord base = some (((d.reg base &&& ~~~b) ||| (Sparse.get (always 0) d.regs.stg base &&& b)) &&& r.mask (· != .wo))))

/-- After a cold reset every register reads its Reset value, memory reads zero, nothing runs and no command waits. (R8, R479, R481, R487) -/
def Obligations.ResetState : Prop :=
  State.reset.pending = [] ∧ (∀ o, State.reset.dev.reg o = regReset o) ∧ (∀ a, State.reset.dev.phys.byte a = 0) ∧
  State.reset.dev.phys.chk = [] ∧ (∀ k a, (State.reset.dev.cstore k).byte a = 0 ∧ (State.reset.dev.cstore k).chk = []) ∧
  (∀ c a, (State.reset.dev.core c).lsByte a = 0 ∧ (State.reset.dev.core c).ls.chk = [] ∧ (State.reset.dev.core c).run = .idle) ∧
  (∀ h, (State.reset.dev.chan h).st = .idle) ∧ (∀ n, State.reset.dev.ctr n = 0) ∧ (∀ d, State.reset.dev.now d = 0) ∧
  State.reset.dev.on dieBootReady = false ∧ State.reset.dev.jobState = 0

/-- No command ends in a fault or a refusal, and none touches the queue of waiting commands. (R278, 95_what_each_step_holds) -/
def Obligations.EveryCommandAnswers : Prop :=
  ∀ (c : Instr) (s : State), ∃ t, exec c s = .next t ∧ t.pending = s.pending

/-- What a command does to the device does not depend on the commands that wait behind it. (95_what_each_step_holds) -/
def Obligations.WaitingCommandsDoNotShow : Prop :=
  ∀ (c : Instr) (d : Dev) (p q : List Instr),
    ∃ d', exec c { dev := d, pending := p } = .next { dev := d', pending := p } ∧
          exec c { dev := d, pending := q } = .next { dev := d', pending := q }

/-- A queue of n commands is done after n steps, first in, first out, whatever the commands and the state. (95_what_each_step_holds) -/
def Obligations.QueueDrains : Prop :=
  ∀ (s : State), ∃ t, Host.Core.run core s.pending.length s = .next t ∧ t.pending = [] ∧
    (s.pending.foldl (fun o c => match o with
        | .next u => exec c { u with pending := [] }
        | x => x) (.next { s with pending := [] } : Res)) = .next t

/-- Every step keeps: no register holds a reserved bit, and the device has 8 owner slots. (R278) -/
def Obligations.EveryStepKeepsInv : Prop :=
  ∀ (s t : State), Inv s.dev → step s = .next t → Inv t.dev

/-- The state after a cold reset holds no reserved bit and has 8 owner slots. (R8, R278, R493) -/
def Obligations.ResetHasInv : Prop :=
  Inv State.reset.dev

/-- No step undoes a fuse: secret, serial number and vendor root stay, minver does not fall, a used owner slot stays as it is. (R493, R504, R505) -/
def Obligations.FusesOnlyBurn : Prop :=
  ∀ (s t : State), step s = .next t → FusesKept s.dev.sec t.dev.sec

/-- Before command-ready, and while a command of its class runs, no command of the command set has any effect. (R306, R307, R487) -/
def Obligations.CommandsWaitForReady : Prop :=
  ∀ (s : State) (e : SubEntry) (host : List Byte) (unit : List Nat) (test : UnitTest) (x : Instr × Nat),
    x ∈ commandSet e host unit test → 
    (s.dev.on dieBootReady = false ∨ s.dev.classBusy x.2 = true ∨ s.dev.nextCmd x.2 = none) → Idles x.1 s

/-- A register write sets RW fields, clears W1C bits written 1, stages staged fields, and ignores RO fields and reserved bits. (R7, R277, R278) -/
def Obligations.RegisterWriteSetsFields : Prop :=
  ∀ (s : State) (off : BitVec 16) (size : Nat) (data : W64) (session : Option Nat) (host : List Byte) (r : RegDesc),
    s.dev.hostServes session = true → size = 4 ∨ size = 8 → off.toNat % size = 0 → regAt (off.toNat / 8 * 8) = some r →
    r.writable = true → off.toNat / 8 * 8 ∉ [0x10, 0x2008, 0x3010, 0x4018, 0x5038, 0x6018, 0x9018, 0xA018, 0xC030] →
    ¬(0x2040 ≤ off.toNat / 8 * 8 ∧ off.toNat / 8 * 8 < 0x2080) →
    let o := off.toNat / 8 * 8
    let m := coverMask off.toNat size
    let v := if off.toNat % 8 = 4 then data <<< 32 else data
    let rw := m &&& r.mask (· == .rw)
    let st := m &&& r.mask (· == .staged)
    ∃ t, exec (.registerWrite off size data session host) s = .next t ∧
      t.dev.reg o = (((s.dev.reg o &&& ~~~rw) ||| (v &&& rw)) &&& ~~~(v &&& m &&& r.mask (· == .w1c))) &&& fieldBits o ∧
      Sparse.get (always 0) t.dev.regs.stg o = (Sparse.get (always 0) s.dev.regs.stg o &&& ~~~st) ||| (v &&& st) ∧
      Sparse.get (always 0) t.dev.regs.stgBits o = Sparse.get (always 0) s.dev.regs.stgBits o ||| st ∧
      (∀ p, p ≠ o → p ≠ hifViolCount.off → t.dev.reg p = s.dev.reg p &&& fieldBits p) ∧
      t.dev.fld hifViolCount = (s.dev.fld hifViolCount + b2n (v &&& m &&& r.reserved != 0)) % 2 ^ 32 ∧
      t.dev = { s.dev with regs := t.dev.regs, sec := t.dev.sec } ∧
      t.dev.regs = { s.dev.regs with act := t.dev.regs.act, stg := t.dev.regs.stg, stgBits := t.dev.regs.stgBits }

/-- A write that breaks the register rules changes nothing but HIF_VIOL, and one that the owner's rules bar changes nothing. (R278, R288, R498) -/
def Obligations.RegisterWriteViolations : Prop :=
  ∀ (s : State) (off : BitVec 16) (size : Nat) (data : W64) (session : Option Nat) (host : List Byte),
    (s.dev.hostServes session = false → Idles (.registerWrite off size data session host) s) ∧
    (s.dev.hostServes session = true →
      (¬(size = 4 ∨ size = 8) ∨ off.toNat % size ≠ 0 ∨
        (0x2060 ≤ off.toNat / 8 * 8 ∧ off.toNat / 8 * 8 < 0x2080) ∨
        (0x2040 ≤ off.toNat / 8 * 8 ∧ off.toNat / 8 * 8 < 0x2060 ∧ (s.dev.qctx s.dev.selQueue).state ≠ 0) ∨
        (¬(0x2040 ≤ off.toNat / 8 * 8 ∧ off.toNat / 8 * 8 < 0x2060) ∧
          (regAt (off.toNat / 8 * 8) = none ∨ ∃ r, regAt (off.toNat / 8 * 8) = some r ∧ r.writable = false))) →
      Runs (.registerWrite off size data session host) s (s.dev.violation off.toNat true)) ∧
    (s.dev.violation off.toNat true).fld hifViolCount = (s.dev.fld hifViolCount + 1) % 2 ^ 32 ∧
    (s.dev.violation off.toNat true).fld hifViolLastOff = off.toNat ∧ (s.dev.violation off.toNat true).on hifViolLastWr = true

/-- A whole write to a register that acts on it is the command that the write asks for. (R7, R280, R289, R253, R360, R524, R510, R491) -/
def Obligations.RegisterWriteActs : Prop :=
  ∀ (s : State) (session : Option Nat) (host : List Byte) (w : W64) (len : W32) (d : Fin 4) (c : Fin 512),
    s.dev.hostServes session = true →
    let wr (off : BitVec 16) (v : W64) := exec (.registerWrite off 8 v session host) s
    wr 0x10 1 = exec .commitRequest s ∧
    wr 0x2008 1 = exec (.queueEnable (BitVec.ofNat 64 (leAt host 0 8))) s ∧ wr 0x2008 2 = exec .queueDisable s ∧
    wr 0x2008 3 = exec .queueReset s ∧
    (w &&& ~~~fieldBits 0x3010 = 0 → wr 0x3010 w = exec (.tlbInvalidate w) s) ∧
    (w &&& ~~~fieldBits 0x9018 = 0 → wr 0x9018 w = exec (.snapshot w) s) ∧
    wr 0x4018 1 = exec .scheduleChange s ∧ wr 0x4018 2 = exec .scheduleCancel s ∧
    wr 0xA018 3 = exec (.debugRelock .done) s ∧ wr 0xA018 4 = exec (.renewNonce .done) s ∧
    wr 0xA018 (1 + len.setWidth 64 <<< 16) = exec (.ownershipTransfer len host .done) s ∧
    wr 0xA018 (2 + len.setWidth 64 <<< 16) = exec (.debugUnlock len host .done) s ∧
    wr 0xA018 (5 + len.setWidth 64 <<< 16) = exec (.storeConfiguration len host .done) s ∧
    wr 0xC030 1 = exec (.warmPackageReset .register) s ∧
    wr 0xC030 (2 + BitVec.ofNat 64 d <<< 4) = exec (.dieReset d) s ∧
    wr 0xC030 (4 + BitVec.ofNat 64 c <<< 4) = exec (.coreReset c) s

/-- Commits: counted, coalesced, paused at unit lulls, activated at the device lull; scheduled changes: captured, refused, cancelled, applied. (R23, R24, R191, R226, R280, R360, R372) -/
def Obligations.CommitsAndScheduledChanges : Prop :=
  ∀ (s : State) (c : Commit) (u : UnitId) (k : Sched),
    (s.dev.regs.commit = some c →
      Runs .commitRequest s
        (let d := s.dev.addFld sysLullStatusReq 1
         { d with regs := { d.regs with again := true } })) ∧
    (s.dev.regs.commit = none → s.dev.regs.stgBits ≠ [] →
      Runs .commitRequest s
        (let d := s.dev.addFld sysLullStatusReq 1
         let n : Commit := ⟨BitVec.ofNat 32 (d.fld sysLullStatusReq), [], d.pkg.fences, false,
           (List.range 16).filter fun p => d.on (fabPortFenced.nth p), []⟩
         { d with regs := { d.regs with commit := some n } })) ∧
    (s.dev.regs.commit = none → s.dev.regs.stgBits = [] →
      Runs .commitRequest s
        (let d := s.dev.addFld sysLullStatusReq 1
         (d.commitDone (d.fld sysLullStatusReq)).count pkgBlk 0 1)) ∧
    (s.dev.regs.commit = some c → c.lulled = false → u ∈ s.dev.participants c → u ∉ c.paused →
      (s.dev.atLull s.dev.regs.stgBits u = false → Idles (.unitLullPause u) s) ∧
      (s.dev.atLull s.dev.regs.stgBits u = true →
        let first := u.kind = .matrix ∧ u.ix / 4 ∉ c.stops
        Runs (.unitLullPause u) s
          (let d := if first then s.dev.parkRows (u.ix / 4) else s.dev
           { d with regs := { d.regs with commit := some { c with
               paused := c.paused ++ [u], stops := if first then c.stops ++ [u.ix / 4] else c.stops } } }))) ∧
    (s.dev.regs.commit = some c → c.lulled = false → (∀ v ∈ s.dev.participants c, v ∈ c.paused) → s.dev.mem.hdmWait = [] →
      (s.dev.running = true → ∀ e ∈ s.dev.regs.stgBits, deferred e.1 = false) →
      Runs .deviceLull s
        (let d := (s.dev.activateAll s.dev.regs.stg s.dev.regs.stgBits).unparkRows c.stops
         let d := ({ d with regs := { d.regs with stg := [], stgBits := [] } }.count pkgBlk 0 1).commitDone c.req.toNat
         (if c.paused.any (fun v => v.kind == .port) then d.pump else d).commitNext)) ∧
    (s.dev.regs.commit = some c → c.lulled = false → (∀ v ∈ s.dev.participants c, v ∈ c.paused) → s.dev.mem.hdmWait = [] →
      s.dev.running = true → (∃ e ∈ s.dev.regs.stgBits, deferred e.1 = true) →
      ∃ t, exec .deviceLull s = .next t ∧ t.dev.regs.commit = some { c with paused := [], stops := [], lulled := true } ∧ t.dev.regs.stg = [] ∧
        t.dev.regs.stgBits = []) ∧
    (s.dev.now 0 + 50000 ≤ s.dev.fld timSchedTT → s.dev.on timSchedStatusPending = false →
      Runs .scheduleChange s
        (let n : Sched := ⟨s.dev.fld timSchedTT, s.dev.regs.stg, s.dev.regs.stgBits, []⟩
         let d := { s.dev with regs := { s.dev.regs with sched := some n, stg := [], stgBits := [] } }
         ((d.setBit timSchedStatusPending true).setFld timSchedStatusApplied 0).setFld timSchedStatusExpected (s.dev.schedUnits n).length)) ∧
    (s.dev.fld timSchedTT < s.dev.now 0 + 50000 ∨ s.dev.on timSchedStatusPending = true →
      Runs .scheduleChange s (s.dev.setBit timSchedStatusRefused true)) ∧
    (s.dev.regs.sched = some k → s.dev.now 0 < k.t →
      Runs .scheduleCancel s
        ((({ s.dev with regs := { s.dev.regs with sched := none } }.setBit timSchedStatusPending false).setFld timSchedStatusApplied 0).setFld
          timSchedStatusExpected 0)) ∧
    (s.dev.regs.sched = some k → k.t ≤ s.dev.now 0 → u ∈ s.dev.schedUnits k → u ∉ k.applied → s.dev.atLull k.bits u = true →
      Runs (.scheduledChangeDue u) s
        (let n := { k with applied := k.applied ++ [u] }
         let d := s.dev.activateAll k.vals (k.bits.filter fun (e : Nat × W64) =>
           (unitsOf e.1).contains u && (unitsOf e.1).all fun x => n.applied.contains x || s.dev.unitFenced s.dev.pkg.fences x)
         let d := { d with regs := { d.regs with sched := some n } }
         (if u.kind = .matrix then d.unparkRows [u.ix / 4] else d).schedSettle))

/-- At the device lull every staged bit takes its staged value, every other bit keeps its value, and no staged change is left. (R7, R23, R280) -/
def Obligations.DeviceLullActivatesStagedBits : Prop :=
  ∀ (s : State) (c : Commit),
    s.dev.regs.commit = some c → c.lulled = false → (∀ v ∈ s.dev.participants c, v ∈ c.paused) → s.dev.running = false →
    s.dev.mem.hdmWait = [] →
    ((∃ v ∈ c.paused, v.kind = .port) → s.dev.fab.sent = [] ∧ s.dev.fab.relays = [] ∧ s.dev.fab.queue = [] ∧ s.dev.job.cmds = []) →
    (s.dev.regs.stgBits.map (·.1)).Nodup → (∀ e ∈ s.dev.regs.stgBits, e.1 ∉ [0x18, 0x58, 0x60, 0x68, 0x1020, 0x3028, 0x5000]) →
    ∃ t, exec .deviceLull s = .next t ∧
      (∀ o, o ≠ 0x18 → (o = fabCalmCalm.off ∨ o = fabPathStatValid.off → ∀ v ∈ c.paused, v.kind ≠ .port) →
        let b := Sparse.get (always 0) s.dev.regs.stgBits o
        t.dev.reg o = ((s.dev.reg o &&& ~~~b) ||| (Sparse.get (always 0) s.dev.regs.stg o &&& b)) &&& fieldBits o) ∧
      t.dev.regs.stg = [] ∧ t.dev.regs.stgBits = [] ∧
      (s.dev.regs.again = false → t.dev.regs.commit = none ∧ t.dev.fld sysLullStatusDone = c.req.toNat)

/-- Enable, disable and reset of a queue: checked, refused whole, and carried out when nothing of the queue runs. (R288, R289, R304) -/
def Obligations.QueueOperations : Prop :=
  ∀ (s : State) (slot : W64),
    let q := s.dev.selQueue
    (s.dev.on qtbStatusBusy = false → s.dev.enableOk q = true →
      Runs (.queueEnable slot) s
        ((let d := s.dev.setQ q { s.dev.qctx q with state := 1 }
          if d.caching then { d with que := { d.que with lines := setAdd d.que.lines (q / 8) } } else d).takeSlot q slot)) ∧
    (s.dev.on qtbStatusBusy = true ∨ s.dev.enableOk q = false →
      Runs (.queueEnable slot) s (s.dev.setBit qtbStatusRefused true)) ∧
    (s.dev.on qtbStatusBusy = true ∨ s.dev.cqNamed q = true →
      Runs .queueDisable s (s.dev.setBit qtbStatusRefused true) ∧ Runs .queueReset s (s.dev.setBit qtbStatusRefused true)) ∧
    (s.dev.on qtbStatusBusy = false → s.dev.cqNamed q = false → s.dev.qBusy q = false → s.dev.owes q = false →
      (∃ t, exec .queueDisable s = .next t ∧ t.dev.que.op = none ∧
        ((s.dev.qctx q).state ≠ 2 → (s.dev.qctx q).err = 0 → t.dev.qctx q = { s.dev.qctx q with state := 0 }) ∧
        ((s.dev.qctx q).state = 2 → t.dev.qctx q = s.dev.qctx q) ∧
        t.dev.on qtbStatusBusy = false ∧ (∀ p, p ≠ q → t.dev.qctx p = s.dev.qctx p) ∧ t.dev.que.held = s.dev.que.held ∧
        t.dev = { s.dev with regs := t.dev.regs, que := t.dev.que, sec := t.dev.sec, out := t.dev.out, hostOut := t.dev.hostOut }) ∧
      (∃ t, exec .queueReset s = .next t ∧ t.dev.qctx q = (s.dev.qctx q).afterReset ∧ t.dev.que.op = none ∧
        t.dev.on qtbStatusBusy = false ∧ (∀ p, p ≠ q → t.dev.qctx p = s.dev.qctx p) ∧
        t.dev.que.held = s.dev.que.held.filter (fun m => m.sq != q && m.cq != q) ∧
        t.dev = { s.dev with regs := t.dev.regs, que := t.dev.que, disp := t.dev.disp, sec := t.dev.sec })) ∧
    (s.dev.on qtbStatusBusy = false → s.dev.cqNamed q = false → s.dev.qBusy q = true →
      Runs .queueDisable s ({ s.dev with que := { s.dev.que with op := some (q, 2) } }.setBit qtbStatusBusy true))

/-- A doorbell line that arrives gives each live queue of the line its new host count, or puts it in error. (R287, R290, R293, R294, R305) -/
def Obligations.DoorbellLineReachesItsQueue : Prop :=
  ∀ (s : State) (line : Fin 4096) (data : List Byte) (i : Fin 8), data.length = 64 →
    s.dev.pausedUnit ⟨.hostPort, 0⟩ = false →
    let q := 8 * line.val + i.val
    let v := BitVec.ofNat 64 (leAt data (8 * i.val) 8)
    let c := s.dev.qctx q
    ∃ t, exec (.doorbellLineRead line data) s = .next t ∧
      (c.live = true → c.host.toNat ≤ v.toNat →
        (if c.isSub then v.toNat ≤ c.dev.toNat + c.size else v.toNat ≤ c.dev.toNat) → t.dev.qctx q = { c with host := v }) ∧
      (c.live = false → t.dev.qctx q = c) ∧
      (c.live = true → v.toNat < c.host.toNat → (t.dev.qctx q).host = c.host ∧ (t.dev.qctx q).err = 2) ∧
      (∀ p, p / 8 ≠ line.val → t.dev.qctx p = s.dev.qctx p)

/-- Doorbell snoop and poll, the fetch of an entry, posting a held completion, the MSI-X delay and mask. (R293, R295, R301, R302, R303, R304) -/
def Obligations.QueueCommands : Prop :=
  ∀ (s : State) (line : Fin 4096) (r : Resource) (data : List Byte) (cls used q : Nat) (m : Cpl) (l : List Cpl) (n : Fin 32768)
    (op : MaskOp),
    (line.val ∈ s.dev.que.lines →
      Runs (.doorbellSnoop line) s { s.dev with que := { s.dev.que with
        lines := setDel s.dev.que.lines line, stale := setAdd s.dev.que.stale line } }) ∧
    (s.dev.caching = false → Runs .doorbellPoll s { s.dev with que := { s.dev.que with stale := s.dev.heldLines } }) ∧
    (s.dev.fetchHeld r = false →
      s.dev.arbitrate r 9 (Sparse.get (always 0) s.dev.que.rr (resourceNo r) / 512)
        (Sparse.get (always 0) s.dev.que.rr (resourceNo r) % 512) = some (cls, used, q) →
      (s.dev.qctx q).loc = false → (s.dev.qctx q).kind ≠ 2 → s.dev.que.down = none →
      opcodeDefined (s.dev.qctx q).kind (leAt (padTo 64 data) 0 1) = true → reservedFlags (leAt (padTo 64 data) 1 1) = false →
      leAt (padTo 64 data) 4 4 = 0 → (∀ x ∈ s.dev.que.run, x.q = q → x.fail = none) →
      Runs (.submissionFetch r data false) s { s.dev with que := { s.dev.que with
        rr := Sparse.set (always 0) s.dev.que.rr (resourceNo r) (512 * cls + used + 1),
        served := Sparse.set (always 0) s.dev.que.served (resourceNo r * 8 + cls) (q + 1),
        run := s.dev.que.run ++
          [⟨q, (s.dev.qctx q).dev.toNat + (s.dev.que.run.filter (·.q == q)).length, padTo 64 data, false, none⟩] } }) ∧
    (∀ (d y : Dev) (bs : List Byte) (failed : Bool), s.dev.fetchHeld r = false →
      s.dev.arbitrate r 9 (Sparse.get (always 0) s.dev.que.rr (resourceNo r) / 512)
        (Sparse.get (always 0) s.dev.que.rr (resourceNo r) % 512) = some (cls, used, q) →
      s.dev.ringRead q data failed = (d, some bs) → d.takeEntry q bs = some y →
      Runs (.submissionFetch r data failed) s { y with que := { y.que with
        rr := Sparse.set (always 0) y.que.rr (resourceNo r) (512 * cls + used + 1),
        served := Sparse.set (always 0) y.que.served (resourceNo r * 8 + cls) (q + 1) } }) ∧
    (s.dev.que.owed = [] → s.dev.pickHeld s.dev.que.held = some (m, l) →
      Runs .completionPost s ({ s.dev with que := { s.dev.que with held := l } }.putCpl m)) ∧
    ((s.dev.qctx n).intEn = true → (s.dev.qctx n).aggUs ≠ 0 → (s.dev.freshOf n).n ≠ 0 →
      (s.dev.freshOf n).since + 1000 * (s.dev.qctx n).aggUs ≤ s.dev.now 0 →
      Runs (.msixAggregationTimeout n) s ((s.dev.setFresh n ⟨0, 0⟩).qMessage n (s.dev.qctx n).vec)) ∧
    (∃ t, exec (.msixMaskChange op) s = .next t ∧
      (∀ v ∈ t.dev.que.msixPnd, t.dev.que.fnMask = true ∨ v ∈ t.dev.que.masked) ∧
      (∀ v m, op = .vector v m → (v.val ∈ t.dev.que.masked ↔ m = true)) ∧ (∀ m, op = .function m → t.dev.que.fnMask = m) ∧
      (∀ v a x, op = .entry v a x → Sparse.get (always 0) t.dev.que.vecAddr v.val = a ∧ Sparse.get (always 0) t.dev.que.vecData v.val = x))

/-- Link up sends what was held, the 1 s bound puts its queues in error, CXL.cache is switched. (R262, R272, R293, R484) -/
def Obligations.HostPortCommands : Prop :=
  ∀ (s : State) (width : Fin 32) (rate : Fin 4) (mem en : Bool) (t : Nat),
    (linkForm width rate = false → Idles (.hostLinkUp width rate mem) s) ∧
    (linkForm width rate = true → Runs (.hostLinkUp width rate mem) s
      (let d := ((s.dev.setFld hifStatusWidth width).setFld hifStatusRate rate).setBit hifStatusMemEn mem
       { d with hostOut := [], out := d.out ++ s.dev.hostOut.map Prod.snd, que := { d.que with down := none } }.detect
         (pkgSrc 0 4) 0x35 0 1)) ∧
    (linkForm width rate = true ↔ width.val ∈ [4, 8, 16] ∧ rate.val ∈ [0, 1, 2]) ∧
    (s.dev.que.down = some t → t + 1000000000 ≤ s.dev.now 0 →
      Runs .hostPortAccessTimeout s
        (s.dev.hostOut.foldl (fun d e => match e.1 with
          | some q => d.qError q 3
          | none => d) { s.dev with hostOut := [] })) ∧
    (∃ u, exec (.cxlCacheEnable en) s = .next u ∧ u.dev.on hifStatusCacheEn = en ∧ u.dev.que.lines = [] ∧
      u.dev.que.stale = (if en then s.dev.heldLines else []) ∧
      u.dev = { s.dev with regs := u.dev.regs, que := u.dev.que, sec := u.dev.sec })

/-- Home and interleaved addresses lie on the stack and at the stack-local address of R235 and R236, and no two share a byte. (R235, R236) -/
def Obligations.AddressMap : Prop :=
  ∀ (d : Dev) (pa : Nat),
    (∀ k o, d.window pa = some (.home k, o) →
      d.stackAddr pa = some (4 * k + (o >>> 12) % 4, ((o >>> 14) <<< 12) ||| (o % 2 ^ 12))) ∧
    (∀ o, d.window pa = some (.inter, o) →
      d.stackAddr pa = some ((o >>> 12) % 16, (62 - d.ilv) * gib + (((o >>> 16) <<< 12) ||| (o % 2 ^ 12)))) ∧
    (∀ pb x, d.stackAddr pa = some x → d.stackAddr pb = some x → pa = pb)

/-- A host read of an HDM line after a host write of it answers the line written, without poison. (R252, R262) -/
def Obligations.HdmReadReturnsWhatWasWritten : Prop :=
  ∀ (s : State) (off : W64) (data : List Byte) (own : Bool) (va : Nat) (e : TlbEnt), data.length = 64 →
    s.dev.on hifStatusMemEn = true → s.dev.on memPtRootEn = true → s.dev.hdmVa off.toNat = some va →
    (s.dev.tlb 32).find? (fun x => decide (x.va ≤ va) && decide (va < x.va + x.size)) = some e → e.w = true → e.d = true →
    (e.leaf + 8 ≤ e.frame + (va - e.va) ∨ e.frame + (va - e.va) + 64 ≤ e.leaf) →
    s.dev.phys.chk = [] → s.dev.mem.cxlErr = [] → s.dev.que.down = none →
    ∃ t, exec (.hdmWrite off data) s = .next t ∧
      ∃ u, exec (.hdmRead off own) t = .next u ∧ u.dev.out = (t.dev.cxlAsk (e.frame + (va - e.va)) fun via tgt => .cxlRead via tgt 64).out ++ [.memData data false] ∧ u.dev.beside = s.dev.beside ∧
        (∀ a, (a < e.frame + (va - e.va) ∨ e.frame + (va - e.va) + 64 ≤ a) → (a < e.leaf ∨ e.leaf + 8 ≤ a) →
          u.dev.phys.byte a = s.dev.phys.byte a)

/-- TLB invalidation and its completion, scrub, table walk, HDM and CXL accesses. (R244, R245, R250, R251, R252, R253, R261, R262, R265) -/
def Obligations.MemoryCommands : Prop :=
  ∀ (s d : State) (w : W64) (pa : BitVec 52) (T : Fin 36) (va : BitVec 52) (wr own ok : Bool) (off : W64) (data : List Byte),
    (w &&& ~~~fieldBits 0x3010 = 0 →
      ∃ t, exec (.tlbInvalidate w) s = .next t ∧ t.dev.mem.invs = s.dev.mem.invs + 1 ∧
        (∀ k, k < 36 → ∀ e, e ∈ t.dev.tlb k ↔ e ∈ s.dev.tlb k ∧
          (let z := invSize (fld64 w 0 2)
           let lo := fld64 w 16 36 * 65536 / z * z
           if fld64 w 0 2 = 3 then ¬(e.va < 2 ^ 52 ∧ 0 < e.va + e.size) else ¬(e.va < lo + z ∧ lo < e.va + e.size))) ∧
        t.dev = { s.dev with mem := t.dev.mem, regs := t.dev.regs, sec := t.dev.sec }) ∧
    (s.dev.mem.invs ≠ 0 →
      Runs .tlbInvalidationDone s
        ({ s.dev with mem := { s.dev.mem with invs := s.dev.mem.invs - 1 } }.addFld memTlbDoneDone 1)) ∧
    (∀ cw p x l, cw = pa.toNat / 128 * 128 → s.dev.fld memHealthCtlScrubH ≠ 0 → s.dev.inHbm cw = true →
      s.dev.phys.bad 128 cw 128 = (cw, .corrected p x) :: l →
      Runs (.scrub pa) s
        ({ s.dev.snoopBack cw 128 with phys := s.dev.phys.write 128 cw (s.dev.physRead cw 128) }.noteWord 0 cw (.corrected p x))) ∧
    (∀ cw l, cw = pa.toNat / 128 * 128 → s.dev.fld memHealthCtlScrubH ≠ 0 → s.dev.inHbm cw = true →
      s.dev.phys.bad 128 cw 128 = (cw, .uncorr) :: l →
      (cw ∉ s.dev.mem.scrubLog → Runs (.scrub pa) s
        ({ s.dev with mem := { s.dev.mem with scrubLog := setAdd s.dev.mem.scrubLog cw } }.noteWord 2 cw .uncorr)) ∧
      (cw ∈ s.dev.mem.scrubLog → Idles (.scrub pa) s)) ∧
    (∀ a frame size x, s.dev.walk va.toNat wr = .leaf a frame size x →
      ∃ t, exec (.tableWalk T va wr) s = .next t ∧
        ⟨va.toNat / size * size, size, frame, fld64 x 2 1 == 1, wr || fld64 x 5 1 == 1, a⟩ ∈ t.dev.tlb T ∧
        t.dev.beside = s.dev.beside) ∧
    (∀ v p, s.dev.on hifStatusMemEn = true → s.dev.hdmVa off.toNat = some v →
      (s.dev.xlate (baseTlb 0) (pkgSrc 0 4) 0 v false = (d.dev, .ok p) →
        Runs (.hdmRead off own) s
          (let b := ((d.dev.noteAll 0 (d.dev.physBad p 64)).countBytes 0 15 p 64).carry (baseTlb 0) (pkgSrc 0 4) false p 64
           let b := b.cxlAsk p fun via tgt => .cxlRead via tgt 64
           let b := b.sendHost (.memData (b.physRead p 64) (worst (d.dev.physBad p 64)).lost)
           if own then { b with mem := { b.mem with snoop := setAdd b.mem.snoop (p / 64 * 64) } } else b)) ∧
      (s.dev.xlate (baseTlb 0) (pkgSrc 0 4) 0 v true = (d.dev, .ok p) →
        Runs (.hdmWrite off data) s
          (({ d.dev with mem := { d.dev.mem with snoop := setDel d.dev.mem.snoop (p / 64 * 64) } }.carry (baseTlb 0) (pkgSrc 0 4) true p
            64).physWriteC 0 p (padTo 64 data)))) ∧
    (∀ n o, s.dev.window pa.toNat = some (.cxl n, o) →
      Runs (.cxlWindowCompletion pa data ok) s
        (let ls := linesOf pa.toNat data.length
         if ok then { s.dev with phys := s.dev.phys.write 64 pa.toNat data,
                                 mem := { s.dev.mem with cxlErr := s.dev.mem.cxlErr.filter (!ls.contains ·) } }
         else { s.dev with mem := { s.dev.mem with cxlErr := ls.foldl setAdd s.dev.mem.cxlErr } }))

/-- PC_DRAIN retires a pseudo-channel once its pages have moved, DRAIN_STALLED reports once, PAGE_MOVE and PAGER_SWEEP move pages. (R247, R248, R255, R256, R257) -/
def Obligations.PagerCommands : Prop :=
  ∀ (s d : State) (stack : Fin 16) (pc : Fin 64) (dsts : List Nat) (va dst : BitVec 52) (moves : List (Nat × Nat)),
    (bit (s.dev.fld (memPcDrainDrain.nth stack)) pc = true → s.dev.on memPagerCtlEn = true →
      s.dev.mem.move = none → s.dev.drainBehind stack pc = false →
      (let b := s.dev.pagerReads.drainPool stack pc
       b.drainMoves stack pc (b.pagesOn stack pc) dsts = (d.dev, true)) →
      Runs (.pcDrain stack pc dsts) s
        (let b := d.dev.setFld (memPcFencedFenced.nth stack) (d.dev.fld (memPcFencedFenced.nth stack) + 2 ^ pc.val)
         let b := b.setFld (memPcDrainDrain.nth stack) (b.fld (memPcDrainDrain.nth stack) - 2 ^ pc.val)
         let mine (c : RunCmd) : Bool := c.what == .drain stack pc
         (b.job.cmds.filter mine).foldl (fun y c => y.complete c.q c.cid c.quiet 0 0)
           (({ b with job := { b.job with cmds := b.job.cmds.filter fun c => !mine c } } : Dev).drainGoes stack pc))) ∧
    (bit (s.dev.fld (memPcDrainDrain.nth stack)) pc = true → 64 * stack.val + pc.val ∉ s.dev.mem.stalled →
      (∃ v ∈ s.dev.pagesOn stack pc, ∃ f w, s.dev.frameAt v = some f ∧ s.dev.frameWindow f = some w ∧
        ∀ g ∈ s.dev.poolFrames, s.dev.frameOn stack pc g = false → s.dev.frameWindow g ≠ some w) →
      Runs (.drainStalled stack pc) s
        ({ s.dev with mem := { s.dev.mem with stalled := setAdd s.dev.mem.stalled (64 * stack.val + pc.val) } }.detect
          (pkgSrc s.dev.pkg.lead 6) 0x07 2 (pc.val + 64 * stack.val))) ∧
    (∀ l m z org, s.dev.mem.move = none → s.dev.on memPagerCtlEn = true →
      let v := va.toNat / 65536 * 65536
      let to_ := dst.toNat / 65536 * 65536
      let y := s.dev.undoMove.pagerReads
      s.dev.poolFree to_ = true → y.leaves.find? (fun x => decide (x.va ≤ v) && decide (v < x.va + x.size)) = some z →
      (if y.drainOk z v to_ then some 0 else y.spillOk z v to_) = some org →
      let w := (if y.drainOk z v to_ then y.drainsOf (z.frameOf v) else []).foldl (fun y t => (y.drainPool t.1 t.2).drainGoes t.1 t.2) y
      w.smallLeaf v = (m, some l) → fld64 l.ent 6 1 = 0 → Runs (.pageMove va dst false) s (m.moveBegin l to_ org)) ∧
    (∀ m, s.dev.mem.move = some m →
      Runs (.pageMove va dst true) s ((s.dev.moveEnd m (s.dev.onDraining m.src)).hdmResume)) ∧
    (s.dev.on memPagerCtlEn = true → s.dev.on memPagerCtlSpillEn = true → s.dev.mem.move = none →
      Runs (.pagerSweep moves) s
        (let b := moves.foldl Dev.sweepMove s.dev.undoMove.pagerReads
         b.leaves.foldl (fun x l => if l.pinned || !l.accessed then x else x.putLeaf l.addr (putBits l.ent 4 1 0)) b))

/-- SADD to SSRA write s[sd] from s[sa] and s[sb] or imm, modulo 2^64, and change no other register, core or byte. (R134, R135, R136) -/
def Obligations.ScalarArithmetic : Prop :=
  ∀ (s : State) (d : Dev) (c : Fin 512) (w : W64) (x : (Fin 512 → W64 → Instr) × Nat × Nat × (W64 → W64 → W64)),
    x ∈ ([(.sadd, 0x01, 40, fun a b => a + b), (.ssub, 0x02, 40, fun a b => a - b), (.sand, 0x03, 40, fun a b => a &&& b),
        (.sor, 0x04, 40, fun a b => a ||| b), (.sxor, 0x05, 40, fun a b => a ^^^ b), (.smul, 0x06, 40, fun a b => a * b),
        (.sshl, 0x07, 6, fun a b => a <<< (b.toNat % 64)), (.sshr, 0x08, 6, fun a b => a >>> (b.toNat % 64)),
        (.ssra, 0x09, 6, fun a b => a.sshiftRight (b.toNat % 64))] :
        List ((Fin 512 → W64 → Instr) × Nat × Nat × (W64 → W64 → W64))) →
    Fetches s.dev d c w x.2.1 → legalAlu w x.2.2.1 = true → d.regsFree c (aluRegs w) = true →
    let k := d.core c
    let b := if imOf w then immOf w else k.sreg (sbOf w)
    ∃ t, exec (x.1 c w) s = .next t ∧ Stepped d t.dev c 8 (k.setS (sdOf w) (x.2.2.2 (k.sreg (saOf w)) b)) ∧
      ∀ r, (t.dev.core c).sreg r = if r = sdOf w then x.2.2.2 (k.sreg (saOf w)) b else k.sreg r

/-- SLI, SLUI, SLD, STIME and PRD write s[sd] as their rules say and change no other register, core or byte. (R134, R136, R339, R523) -/
def Obligations.ScalarImmediatesLoadsCounters : Prop :=
  ∀ (s : State) (d e : Dev) (c : Fin 512) (w : W64),
    let k := d.core c
    let done (i : Instr) (d : Dev) (v : W64) : Prop :=
      ∃ t, exec i s = .next t ∧ Stepped d t.dev c 8 ((d.core c).setS (sdOf w) v) ∧
        ∀ r, (t.dev.core c).sreg r = if r = sdOf w then v else (d.core c).sreg r
    (Fetches s.dev d c w 0x0A → (imOf w && onlyBits w (scalarMask true false false true 40)) = true → d.regsFree c [sdOf w] = true →
      done (.sli c w) d (immOf w)) ∧
    (Fetches s.dev d c w 0x0B → (imOf w && onlyBits w (scalarMask true false false true 24)) = true → d.regsFree c [sdOf w] = true →
      done (.slui c w) d (putBits (k.sreg (sdOf w)) 40 24 (immLow w 24))) ∧
    (Fetches s.dev d c w 0x10 → (imOf w && onlyBits w (scalarMask true true false true 40)) = true →
      d.regsFree c [sdOf w, saOf w] = true → lsAddr k w % 8 = 0 → lsAddr k w < lsSize → d.lsCheck c [(lsAddr k w, 8)] = (e, true) →
      done (.sld c w) e (BitVec.ofNat 64 ((e.core c).lsNat (lsAddr k w) 8))) ∧
    (Fetches s.dev d c w 0x20 → onlyBits w (scalarMask true false false false 0) = true → d.regsFree c [sdOf w] = true →
      done (.stime c w) d (BitVec.ofNat 64 (d.now (c / 128)))) ∧
    (Fetches s.dev d c w 0x36 → (imOf w && onlyBits w (scalarMask true true false true 40)) = true →
      d.regsFree c [sdOf w, saOf w] = true →
      done (.prd c w) d ((d.countIssue c 0).prdRead k.grant ((k.sreg (saOf w) + immOf w).toNat % 2 ^ 19)))

/-- SST stores 8 bytes at s[sa] + imm; BR, BEQ, BNE, BLT and BLTU go to PC + imm when they are taken and to the next instruction when not. (R134, R136, R140) -/
def Obligations.ScalarStoresAndBranches : Prop :=
  ∀ (s : State) (d : Dev) (c : Fin 512) (w : W64),
    let k := d.core c
    let a := lsAddr k w
    let tgt := branchTarget k w
    let goTo (n : Nat) : Dev := (d.countIssue c 0).onCore c fun x => { x with pc := n }
    let taken : Dev := ((goTo tgt.toNat).count (coreBlk c) 11 1).moves c 1
    (Fetches s.dev d c w 0x11 → (!imOf w && onlyBits w (scalarMask false true true false 40)) = true →
      d.regsFree c [saOf w, sbOf w] = true → a % 8 = 0 → a < lsSize → k.ls.chk = [] →
      ∃ t, exec (.sst c w) s = .next t ∧ (t.dev.core c).pc = k.pc + 8 ∧ (∀ r, (t.dev.core c).sreg r = k.sreg r) ∧
        (t.dev.core c).lsNat a 8 = (k.sreg (sbOf w)).toNat ∧
        (∀ b, b < a ∨ a + 8 ≤ b → (t.dev.core c).lsByte b = k.lsByte b) ∧ ∀ j, j ≠ c.val → t.dev.core j = d.core j) ∧
    (Fetches s.dev d c w 0x18 → (imOf w && onlyBits w (scalarMask false false false true 40)) = true → 0 ≤ tgt → tgt < lsSize →
      tgt % 8 = 0 → Runs (.br c w) s taken) ∧
    (∀ x ∈ ([(.beq, 0x19, fun a b => a == b), (.bne, 0x1A, fun a b => a != b), (.blt, 0x1B, fun a b => decide (a.toInt < b.toInt)),
        (.bltu, 0x1C, fun a b => decide (a.toNat < b.toNat))] : List ((Fin 512 → W64 → Instr) × Nat × (W64 → W64 → Bool))),
      Fetches s.dev d c w x.2.1 → (!imOf w && onlyBits w (scalarMask false true true false 40)) = true →
      d.regsFree c [saOf w, sbOf w] = true →
      (x.2.2 (k.sreg (saOf w)) (k.sreg (sbOf w)) = true → 0 ≤ tgt → tgt < lsSize → tgt % 8 = 0 →
        Runs (x.1 c w) s taken) ∧
      (x.2.2 (k.sreg (saOf w)) (k.sreg (sbOf w)) = false → Runs (x.1 c w) s ((goTo (k.pc + 8)).moves c (fetchLines k.pc 8))))

/-- EVSIG adds an arrival, EVWAIT passes or waits, EVWAIT_RESUME goes on when the counter is reached, DMAGO starts a chain. (R138, R139, R144) -/
def Obligations.EventsAndChains : Prop :=
  ∀ (s : State) (d : Dev) (c : Fin 512) (w : W64) (n : Nat) (v : W32),
    let k := d.core c
    let next (x : Dev) : Dev := ((x.countIssue c 0).onCore c fun y => { y with pc := y.pc + 8 }).moves c (fetchLines k.pc 8)
    (Fetches s.dev d c w 0x30 → (imOf w && onlyBits w (scalarMask false false false true 8)) = true → d.storesDone c = true →
      d.foldsDone c = true → Runs (.evsig c w) s (next (d.arrive (d.dom c) (immLow w 8))) ∧
        (d.arrive (d.dom c) (immLow w 8)).evGet (d.dom c) (immLow w 8) = d.evGet (d.dom c) (immLow w 8) + 1) ∧
    (Fetches s.dev d c w 0x31 → (imOf w && onlyBits w (scalarMask false true false true 8)) = true → d.regsFree c [saOf w] = true →
      (reaches (d.evGet (d.dom c) (immLow w 8)) ((k.sreg (saOf w)).setWidth 32) = true → d.traceGrant = false → Runs (.evwait c w) s (next d)) ∧
      (reaches (d.evGet (d.dom c) (immLow w 8)) ((k.sreg (saOf w)).setWidth 32) = false → d.traceGrant = false → Runs (.evwait c w) s
        ((d.countIssue c 0).onCore c fun y => { y with pc := y.pc + 8, run := .waiting (immLow w 8) ((k.sreg (saOf w)).setWidth 32) }))) ∧
    (∀ a b : W32, reaches a b = true ↔ (a.toNat + 2 ^ 32 - b.toNat) % 2 ^ 32 < 2 ^ 31) ∧
    (s.dev.coreDown c = false → (s.dev.core c).run = .waiting n v → reaches (s.dev.evGet (s.dev.dom c) n) v = true →
      (s.dev.core c).pc < lsSize → Runs (.evwaitResume c) s (s.dev.onCore c fun y => { y with run := .issuing })) ∧
    (Fetches s.dev d c w 0x32 → (imOf w && onlyBits w (scalarMask false true false true 4)) = true → d.regsFree c [saOf w] = true →
      d.storesDone c = true → (d.chan (16 * (c.val / 16) + immLow w 4)).st = .idle →
      Runs (.dmago c w) s (next (d.startChain (16 * (c.val / 16) + immLow w 4) (k.sreg (saOf w)).toNat (d.isBrz c) (some c.val)
        (.core c.val) k.work)))

/-- RMARK writes the restart record, SEGEND ends the segment, STFOLD queues a fold and clears its slot, FOLD_APPLY adds it to its record. (R137, R153, R159, R172, R174, R175) -/
def Obligations.SegmentInstructions : Prop :=
  ∀ (s : State) (d e f g : Dev) (c : Fin 512) (w : W64) (o bs : List Byte) (ecc : Ecc),
    let k := d.core c
    (Fetches s.dev d c w 0x33 → onlyBits w 0xFF = true → d.quiet c = true → d.csRead (c.val / 16) (d.ctxSlot c + 8) 4 = (e, some o) →
      Runs (.rmark c w) s
        (let x := e.csWrite (c.val / 16) (cellsAt (d.ctxSlot c) (natLe 8 ((e.core c).pc + 8) ++ natLe 4 (leNat o + 1) ++ [1]))
         let x := (x.csWrite (c.val / 16) (cellsAt (d.ctxSlot c + 0x40) (e.core c).sBytes)).countIssue c 0
         let x := (x.onCore c fun y => { y with since := 0 }).count (coreBlk c) 17 1
         x.advance c 8)) ∧
    (s.dev.issuing c = true → fld64 w 0 8 = 0x34 → s.dev.lsCheck c [((s.dev.core c).pc, instrLen w)] = (d, true) → k.pc + 8 ≤ lsSize →
      onlyBits w 0xFF = true → d.segDone c = true →
      Runs (.segend c w) s
        (((d.countIssue c 0).onCore c fun y => { y with run := .idle, work := none }).endWork k.work true)) ∧
    (Fetches s.dev d c w 0x35 → (imOf w && onlyBits w (scalarMask false true false true 19)) = true → d.isBrz c = false →
      d.regsFree c [saOf w] = true → d.statsBusy c = false → (k.sreg (saOf w)).toNat % 32 = 0 → (k.sreg (saOf w)).toNat < 2 ^ 52 →
      d.mappedOutside (k.sreg (saOf w)).toNat = false →
      ∃ t, exec (.stfold c w) s = .next t ∧
        (t.dev.core c).folds = k.folds ++ [⟨k.slot (fld64 w 40 3), (k.sreg (saOf w)).toNat, BitVec.ofNat 32 (0x80000000 + fld64 w 24 16)⟩] ∧
        (∀ i, (t.dev.core c).slot i = if i = fld64 w 40 3 then Stat.cleared else k.slot i) ∧ (t.dev.core c).accs = true ∧
        (∀ j, j ≠ c.val → t.dev.core j = d.core j)) ∧
    (∀ q l a fr size x, (s.dev.core c).folds = q :: l → s.dev.mappedOutside q.addr = false → s.dev.walk q.addr true = .leaf a fr size x →
      s.dev.on memLedgerBaseEn = false →
      s.dev.vRead (c.val / 16) (clusterSrc (c.val / 16) 1) 2 2 q.addr 32 = (f, .data bs ecc) → ecc.lost = false →
      (f.dropFold c).on memLedgerBaseEn = false →
      (f.dropFold c).vWrite (c.val / 16) (clusterSrc (c.val / 16) 1) 2 q.addr ((Stat.decode bs).fold q.stat).encode = (g, .done) →
      g.on memLedgerBaseEn = false → Runs (.foldApply c) s g) ∧
    (∀ a b : Stat, (a.fold b).pmax = max a.pmax b.pmax ∧ (a.fold b).sat = min (2 ^ 32 - 1) (a.sat + b.sat) ∧
      (a.fold b).nfb = min (2 ^ 32 - 1) (a.nfb + b.nfb) ∧ (a.fold b).nz = min (2 ^ 64 - 1) (a.nz + b.nz) ∧
      (a.fold b).uf = min (2 ^ 64 - 1) (a.uf + b.uf))

/-- An illegal form or an undefined opcode stops the segment and sends an illegal-instruction message with the PC; nothing else happens. (R79, R136) -/
def Obligations.IllegalInstructionStopsTheSegment : Prop :=
  ∀ (s : State) (d : Dev) (c : Fin 512) (w : W64), s.dev.issuing c = true →
    s.dev.lsCheck c [((s.dev.core c).pc, instrLen w)] = (d, true) →
    let stop := ((d.detect (coreSrc c 0) 0x10 2 (d.core c).pc).onCore c fun k => { k with run := .stopped, mq := [], vq := [] }).endWork
      ((d.detect (coreSrc c 0) 0x10 2 (d.core c).pc).core c).work false
    (fld64 w 0 8 = 0x01 → legalAlu w 40 = false → Runs (.sadd c w) s stop) ∧
    (opDefined (fld64 w 0 8) = false →
      ∀ i ∈ ([.sadd c w, .sli c w, .sld c w, .br c w, .evsig c w, .segend c w, .prd c w, .mmt c w 0, .vadd c w 0, .vsel c w] : List Instr),
        Runs i s stop)

/-- MWLD, MMT, MRSV and MDRAIN take a place in their queue with their scalar registers latched, and start at once when alone and clear. (R76, R77, R79, R90, R91, R95, R128, R135, R173) -/
def Obligations.MatrixInstructionsEnterTheirQueues : Prop :=
  ∀ (s : State) (d : Dev) (c : Fin 512) (w0 w1 : W64),
    let k := d.core c
    let ent (l : List W64) : QEnt := ⟨w0, w1, l, k.seq, k.pc, d.cycle c⟩
    let put (rec_ : Core → Core) (l : List W64) : Dev := (d.countIssue c 1).onCore c fun y =>
      { rec_ y with mq := y.mq ++ [ent l], seq := y.seq + 1 }
    let go (x : Dev) (n : Nat) : Dev := (if k.mq = [] then x.matStart c else x).advance c n
    let m := mwldOf w0 w1
    (Fetches s.dev d c w0 0x42 → mwldLegal w0 w1 = true → d.mqLen c < 4 →
      Runs (.mwld c w0 w1) s (go (put (fun y => { y with wrec := Sparse.set (always 0) y.wrec m.key (2 * m.fmt + b2n m.sp) }) []) 16)) ∧
    (Fetches s.dev d c w0 0x40 → mmtLegal k w0 w1 = true → d.regsFree c (mmtRegs w1) = true → d.mqLen c < 4 →
      Runs (.mmt c w0 w1) s ((List.range 4).foldl (fun x e => if (mmtOf w0 w1).on e then x.count (engBlk c e) 6 1 else x)
        (go (put id ((mmtRegs w1).map k.sreg)) 16))) ∧
    (Fetches s.dev d c w0 0x43 → onlyBits w0 0x1FFF = true → d.regsFree c [fld64 w0 8 5] = true → d.mqLen c < 4 →
      (mrsvFits c w0 d = true → w1 = 0 → Runs (.mrsv c w0) s (go (put id [k.sreg (fld64 w0 8 5)]) 8)) ∧
      (mrsvFits c w0 d = true → k.mq = [] → k.rest = none → d.matPaused c = false →
        let base := if (k.sreg (fld64 w0 8 5)).msb then none else some (k.sreg (fld64 w0 8 5)).toNat
        ∃ t, exec (.mrsv c w0) s = .next t ∧ Stepped d t.dev c 8 { k with seq := k.seq + 1, mrsv := base }) ∧
      (mrsvFits c w0 d = false → Runs (.mrsv c w0) s (d.illegal c))) ∧
    (Fetches s.dev d c w0 0x41 → mdrainLegal (d.isBrz c) w0 w1 = true → d.regsFree c (mdrainRegs w0) = true → k.vq.length < 8 →
      (k.vq ≠ [] ∨ d.vecBusy c = true) →
      Runs (.mdrain c w0 w1) s (((d.countIssue c 1).vpush c w0 w1 ((mdrainRegs w0).map k.sreg)).advance c 16)) ∧
    (Fetches s.dev d c w0 0x41 → mdrainLegal (d.isBrz c) w0 w1 = true → d.regsFree c (mdrainRegs w0) = true → k.vq = [] →
      d.vecBusy c = false →
      let x := ent ((mdrainRegs w0).map k.sreg)
      let y := (d.countIssue c 1).vpush c w0 w1 x.lat
      let n := mdrainOf w0 w1
      Runs (.mdrain c w0 w1) s ((if y.vecReady c x then y.drainStart c x else y).advance c 16) ∧
      (d.vecReady c x = true → k.ls.chk = [] → k.code = [] → n.chan = none → n.rnd ≠ 2 → (n.pr = true → x.lat.getLastD 0 ≠ 0) →
        let cells := (List.range n.rows).map fun r => (n.row d.featLevel k x.lat (fun _ => 0) r).cells
        (cells.flatten.map (·.1)).Nodup →
        ∃ t, exec (.mdrain c w0 w1) s = .next t ∧ (t.dev.core c).pc = k.pc + 16 ∧ (t.dev.core c).vq = [] ∧
          (∀ z ∈ cells.flatten, (t.dev.core c).lsByte z.1 = z.2) ∧
          (∀ a, a < lsSize → a ∉ cells.flatten.map (·.1) → (t.dev.core c).lsByte a = k.lsByte a) ∧
          (t.dev.core c).acc = k.acc ∧ (t.dev.core c).s = k.s ∧ (t.dev.core c).v = k.v ∧ ∀ j, j ≠ c.val → t.dev.core j = d.core j))

/-- The heads of the two queues start when their interlocks are clear; a tile's writes to a bank complete 12 cycles after its last feed. (R80, R87, R91, R95, R128, R135) -/
def Obligations.MatrixEngineEvents : Prop :=
  ∀ (s : State) (c : Fin 512) (b : Fin 2) (x : QEnt) (q : List QEnt) (r : MmtRun) (l : List MmtRun) (v : VecRun) (lo : Nat),
    let k := s.dev.core c
    let rest : Dev := s.dev.onCore c fun y => { y with mq := q }
    (s.dev.coreDown c = false → k.rest = none → k.mq = x :: q → s.dev.matReady c x = true →
      (vop x.w0 = 0x42 → Runs (.matrixInstructionStart c) s (mwldBody c x.w0 x.w1 rest)) ∧
      (vop x.w0 = 0x40 → (mmtOf x.w0 x.w1).removed x.lat = false → Runs (.matrixInstructionStart c) s (tileBody c x 0 true rest)) ∧
      (vop x.w0 = 0x40 → (mmtOf x.w0 x.w1).removed x.lat = true →
        Runs (.matrixInstructionStart c) s (((mmtOf x.w0 x.w1).countRemoved c rest).onCore c fun y =>
          { y with mfree := Nat.max (rest.cycle c) y.mfree + 1 })) ∧
      (vop x.w0 = 0x43 → Runs (.matrixInstructionStart c) s
        (rest.onCore c fun y => { y with mrsv := if (wordAt x.lat 0).msb then none else some (wordAt x.lat 0).toNat }))) ∧
    (k.rest = none → k.mq = x :: q → s.dev.matReady c x = false → Idles (.matrixInstructionStart c) s) ∧
    (s.dev.coreDown c = false → k.rest = some (x, lo) → s.dev.matPaused c = false → s.dev.tileReady c x lo = true →
      Runs (.matrixInstructionStart c) s (tileBody c x lo true s.dev)) ∧
    (k.mmts = r :: l → r.banks = [b.val] → r.bankLast b + 12 ≤ s.dev.cycle c →
      Runs (.mmtWritesComplete c b) s (s.dev.onCore c fun y =>
        { y with mmts := l, bdone := Sparse.set (always 0) y.bdone b (r.bankLast b + 12) })) ∧
    (s.dev.coreDown c = false → s.dev.vecBusy c = false → k.vq = x :: q → s.dev.vecReady c x = true → s.dev.vecHeld c x = false →
      let on (t cost : Nat) (bank : Option Nat) (live : Bool) : Dev := (s.dev.onCore c fun y =>
        { y with vq := q, vrun := some ⟨x, t, t + cost, x.dst, bank, false, live, vPlaces k x⟩,
                 vdone := Sparse.setAll (always 0) (k.vdone.filter fun d => decide (s.dev.cycle c < d.2 + 6))
                   ((vMakes k x).map fun n => (n, t + cost)) }).count (engBlk c 4) 4 1
      let m := mdrainOf x.w0 x.w1
      let first := s.dev.cycle c + (if m.pr = true ∧ x.lat.getLastD 0 = 0 then 0 else Sparse.get (always 0) k.bdone m.bank + 4 - s.dev.cycle c)
      (vop x.w0 = 0x41 → Runs (.vectorInstructionStart c) s
        (mdrainBody c x (on first (m.cost x.lat) (some m.bank) (m.acts k x.lat)))) ∧
      (vop x.w0 ≠ 0x41 → vop x.w0 ≠ 0x68 → vop x.w0 ≠ 0x69 →
        Runs (.vectorInstructionStart c) s (vecBodyOf c (vop x.w0) x (on (s.dev.cycle c) (vcost x.w0 x.w1) none (vecActs k x)))) ∧
      (vop x.w0 = 0x68 ∨ vop x.w0 = 0x69 → Runs (.vectorInstructionStart c) s
        (vecBodyOf c (vop x.w0) x (on (s.dev.cycle c) (memCycles x.w0 x.w1 (k.actives x.w0 0)) none (vecActs k x))))) ∧
    (k.vrun = some v → s.dev.vecBusy c = true → v.start + 512 ≤ s.dev.cycle c →
      Runs (.vectorBankEscalation c) s (s.dev.onCore c fun y => { y with vrun := some { v with first := true } }))

/-- An MWLD that starts gives each lane of its buffer its elements, scale codes or indices and its gate bit, and leaves every other buffer as it was. (R71, R74, R76, R79, R89, R135) -/
def Obligations.WeightLoadFillsItsBuffer : Prop :=
  ∀ (s : State) (d : Dev) (c : Fin 512) (x : QEnt) (q : List QEnt),
    let m := mwldOf x.w0 x.w1
    let k := d.core c
    let loaded (t : Core) : Prop :=
      (∀ key i j, i < 128 → j < 256 → Sparse.get (always (0 : Byte)) t.wb ((key * 128 + i) * 256 + j) =
        if key = m.key ∧ j < (m.lane k i).length then (m.lane k i).getD j 0
        else Sparse.get (always 0) k.wb ((key * 128 + i) * 256 + j)) ∧
      (∀ key i, i < 128 → t.gateOf key i =
        if key = m.key then (match m.gate with | some g => bit (k.lsByte (g + i / 8)).toNat (i % 8) | none => true)
        else k.gateOf key i) ∧
      t.acc = k.acc
    vop x.w0 = 0x42 → mwldLegal x.w0 x.w1 = true →
    (s.dev.coreDown c = false → (s.dev.core c).rest = none → (s.dev.core c).mq = x :: q → s.dev.matReady c x = true →
      (s.dev.core c).code = [] →
      ((s.dev.onCore c fun y => { y with mq := q }).moves c m.cycles).lsCheck c m.ranges = (d, true) →
      ∃ t, exec (.matrixInstructionStart c) s = .next t ∧ loaded (t.dev.core c) ∧ (t.dev.core c).mq = q ∧
        ∀ j, j ≠ c.val → t.dev.core j = s.dev.core j) ∧
    (Fetches s.dev d c x.w0 0x42 → k.mq = [] → k.rest = none → d.mqLen c < 4 → k.code = [] → k.ls.chk = [] →
      x = ⟨x.w0, x.w1, [], k.seq, k.pc, d.cycle c⟩ → d.matReady c x = true →
      ∃ t, exec (.mwld c x.w0 x.w1) s = .next t ∧ loaded (t.dev.core c) ∧ (t.dev.core c).mq = [] ∧ (t.dev.core c).pc = k.pc + 16 ∧
        (∀ y, (t.dev.core c).wrecOf y = if y = m.key then 2 * m.fmt + b2n m.sp else k.wrecOf y) ∧ (t.dev.core c).s = k.s ∧
        (t.dev.core c).v = k.v ∧ (t.dev.core c).ls = k.ls ∧ ∀ j, j ≠ c.val → t.dev.core j = d.core j)

/-- An MMT that starts adds its chunks, in order, to the accumulators of its live rows on its running engines, and leaves every other one alone. (R66, R69, R77, R79, R80, R81, R84, R87, R135) -/
def Obligations.TileAddsToItsAccumulators : Prop :=
  ∀ (s : State) (d : Dev) (c : Fin 512) (x : QEnt) (q : List QEnt),
    let m := mmtOf x.w0 x.w1
    let added (k t : Core) : Prop :=
      let start (e i a : Nat) : Nat :=
        if m.init ∧ m.on e = true ∧ 64 * m.half ≤ a ∧ a < 64 * m.half + m.rows then 0 else k.accOf e i a
      (∀ e i a, e < 4 → i < 128 → a < 128 → t.accOf e i a =
        if m.on e = true ∧ m.idle x.lat e = false ∧ 64 * m.half ≤ a ∧ a - 64 * m.half < m.rows ∧ m.live k (a - 64 * m.half) = true then
          m.laneRow x.lat k (m.fedRow x.lat k (a - 64 * m.half)) e i (start e i a)
        else start e i a) ∧
      t.s = k.s ∧ t.v = k.v ∧ t.ls = k.ls
    vop x.w0 = 0x40 → m.removed x.lat = false →
    (∀ e, s.dev.coreDown c = false → (s.dev.core c).rest = none → (s.dev.core c).mq = x :: q → mmtLegal (s.dev.core c) x.w0 x.w1 = true →
      s.dev.matReady c x = true → s.dev.drainAhead c x.seq 1 = false → (s.dev.core c).code = [] →
      let rest := s.dev.onCore c fun y => { y with mq := q }
      rest.lsCheck c (m.maps (rest.core c)) = (d, true) →
      d.lsCheck c (m.ranges (d.core c) (m.rowPlans x.lat (d.core c) 0 128 (d.firstFeed c x 0 128) (d.ocSkip c)
        (d.bmSkip c))) = (e, true) →
      ∃ t, exec (.matrixInstructionStart c) s = .next t ∧ added (e.core c) (t.dev.core c) ∧ ∀ j, j ≠ c.val → t.dev.core j = s.dev.core j) ∧
    (let k := d.core c
     Fetches s.dev d c x.w0 0x40 → mmtLegal k x.w0 x.w1 = true → d.regsFree c (mmtRegs x.w1) = true → k.mq = [] → k.rest = none →
      d.mqLen c < 4 → k.code = [] → k.ls.chk = [] → x = ⟨x.w0, x.w1, (mmtRegs x.w1).map k.sreg, k.seq, k.pc, d.cycle c⟩ →
      d.matReady c x = true → d.drainAhead c x.seq 1 = false →
      ∃ t, exec (.mmt c x.w0 x.w1) s = .next t ∧ added k (t.dev.core c) ∧ (t.dev.core c).mq = [] ∧ (t.dev.core c).pc = k.pc + 16 ∧
        ∀ j, j ≠ c.val → t.dev.core j = d.core j)

/-- Each vector instruction behind others takes a place at the end of the vector queue with its scalar registers latched, whatever it computes. (R106, R128, R133, R135) -/
def Obligations.VectorInstructionsEnterTheirQueue : Prop :=
  ∀ (s : State) (d : Dev) (c : Fin 512) (w0 w1 : W64) (x : Instr × Nat × W64 × Bool),
    x ∈ ([(.vadd c w0 w1, 0x50, w1, true), (.vsub c w0 w1, 0x51, w1, true), (.vmul c w0 w1, 0x52, w1, true),
      (.vfma c w0 w1, 0x53, w1, true), (.vmax c w0 w1, 0x54, w1, true), (.vmin c w0 w1, 0x55, w1, true), (.vabs c w0 w1, 0x56, w1, true),
      (.vneg c w0 w1, 0x57, w1, true), (.vand c w0 w1, 0x58, w1, true), (.vor c w0 w1, 0x59, w1, true), (.vxor c w0 w1, 0x5A, w1, true),
      (.vshl c w0 w1, 0x5B, w1, true), (.vshr c w0 w1, 0x5C, w1, true), (.vcmp c w0 w1, 0x5D, w1, cmpLegal w0 d), (.vsel c w0, 0x5E, 0, true),
      (.vcvt c w0 w1, 0x5F, w1, isVty (fld64 w0 18 4)), (.vsfu c w0 w1, 0x60, w1, fld64 w0 18 3 != 7), (.vbcast c w0 w1, 0x61, w1, true),
      (.viota c w0 w1, 0x62, w1, true), (.vrng c w0, 0x63, 0, true), (.vred c w0 w1, 0x64, w1, redLegal w0 d),
      (.vpack c w0 w1, 0x65, w1, packLegal w0 w1 d), (.vunpack c w0 w1, 0x66, w1, packLegal w0 w1 d), (.vtbase c w0, 0x67, 0, tbaseLegal c w0 d),
      (.vld c w0 w1, 0x68, w1, memLegal w0 w1 d), (.vst c w0 w1, 0x69, w1, memLegal w0 w1 d), (.vtopk c w0 w1, 0x6A, w1, topkLegal w0 w1 d),
      (.vstat c w0, 0x6B, 0, true), (.pand c w0, 0x6C, 0, true), (.por c w0, 0x6D, 0, true), (.pxor c w0, 0x6E, 0, true),
      (.vrsv c w0, 0x6F, 0, rsvLegal c w0 d)] : List (Instr × Nat × W64 × Bool)) →
    let k := d.core c
    Fetches s.dev d c w0 x.2.1 → vecLegal x.2.1 w0 x.2.2.1 = true → x.2.2.2 = true →
    d.regsFree c (vregs w0 x.2.2.1 ++ (⟨w0, x.2.2.1, [], 0, 0, 0⟩ : QEnt).dst.toList) = true → k.vq.length < 8 →
    (k.vq ≠ [] ∨ d.vecBusy c = true) →
    ∃ t, exec x.1 s = .next t ∧ Stepped d t.dev c (instrLen w0)
      { k with vq := k.vq ++ [⟨w0, x.2.2.1, vlatch k w0 x.2.2.1, k.seq, k.pc, d.cycle c⟩], seq := k.seq + 1 }

/-- A vector instruction on an idle engine writes each active element of vd with the result of its operands' elements, and no other element. (R45, R103, R108, R109, R110, R112, R119, R122) -/
def Obligations.VectorElements : Prop :=
  ∀ (s : State) (d : Dev) (c : Fin 512) (w0 w1 : W64) (x : QEnt), ∀ y ∈ elementwise c w0 w1,
    let k := d.core c
    VectorRuns s.dev d c y.2 w0 w1 (!(y.2 == 0x5F && !isVty (fld64 w0 18 4)) && !(y.2 == 0x60 && fld64 w0 18 3 == 7)) x →
    tbOf w0 = false → (y.2 = 0x5E ∨ y.2 = 0x63 → w1 = 0) → (y.2 = 0x50 ∨ y.2 = 0x51 → tyOf w0 ≠ 0xC) →
    ∃ t, exec y.1 s = .next t ∧
      (∀ n e, n < 32 → e < 2048 → (t.dev.core c).velem n e =
        if n = vdOf w0 ∧ e ∈ k.actives w0 w1 then elemRes d k x e % 2 ^ tyBits (elemTy w0) else k.velem n e) ∧
      (t.dev.core c).s = k.s ∧ (t.dev.core c).p = k.p ∧ (t.dev.core c).ls = k.ls ∧ (t.dev.core c).pc = k.pc + instrLen w0 ∧
      (y.2 ≠ 0x5F → (t.dev.core c).vstat = k.vstat) ∧ ∀ j, j ≠ c.val → t.dev.core j = d.core j

/-- The tile-buffer form writes the active elements of its destination tile, VCMP its packed mask, and no other byte of the local store. (R107, R108, R117, R118) -/
def Obligations.TileBufferForms : Prop :=
  ∀ (s : State) (d : Dev) (c : Fin 512) (w0 w1 : W64) (x : QEnt),
    let k := d.core c
    let dst := k.tb + 65536 * fld64 w1 6 2
    let regs (t : Core) : Prop := t.s = k.s ∧ t.p = k.p ∧ t.v = k.v ∧ t.pc = k.pc + 16
    k.ls.chk = [] → k.tb + 262144 ≤ lsSize → tbOf w0 = true →
    (∀ y ∈ elementwise c w0 w1,
      VectorRuns s.dev d c y.2 w0 w1 (!(y.2 == 0x5F && !isVty (fld64 w0 18 4)) && !(y.2 == 0x60 && fld64 w0 18 3 == 7)) x →
      (y.2 = 0x50 ∨ y.2 = 0x51 → tyOf w0 ≠ 0xC) → y.2 ≠ 0x5E → y.2 ≠ 0x63 →
      ∃ t, exec y.1 s = .next t ∧ regs (t.dev.core c) ∧
        (∀ e ∈ k.actives w0 w1, (t.dev.core c).telem (fld64 w1 6 2) e = elemRes d k x e % 2 ^ tyBits (elemTy w0)) ∧
        (∀ a, a < lsSize → (∀ e ∈ k.actives w0 w1, a < dst + 4 * e ∨ dst + 4 * e + 4 ≤ a) → (t.dev.core c).lsByte a = k.lsByte a) ∧
        ∀ j, j ≠ c.val → t.dev.core j = d.core j) ∧
    (VectorRuns s.dev d c 0x5D w0 w1 (cmpLegal w0 d) x →
      ∃ t, exec (.vcmp c w0 w1) s = .next t ∧ regs (t.dev.core c) ∧
        (∀ e, e < 8 * ceilDiv (vcount w0 w1) 8 → (t.dev.core c).maskBit (maskAddr w1) e =
          if e < vcount w0 w1 then cmpElem (fld64 w0 23 3) (tyOf w0) (k.vsrc x 0 e) (k.vsrc x 1 e) else k.maskBit (maskAddr w1) e) ∧
        (∀ a, a < lsSize → (a < maskAddr w1 ∨ maskAddr w1 + ceilDiv (vcount w0 w1) 8 ≤ a) → (t.dev.core c).lsByte a = k.lsByte a) ∧
        ∀ j, j ≠ c.val → t.dev.core j = d.core j)

/-- VADD and VSUB of BI16 add blocks of equal scale codes and keep the code; a block with other codes or code 0xFF becomes a non-finite block. (R39, R48, R104, R111, R127) -/
def Obligations.BlockIntegerSums : Prop :=
  ∀ (s : State) (d : Dev) (c : Fin 512) (w0 w1 : W64) (x : QEnt) (sub : Bool),
    let k := d.core c
    let op := if sub then 0x51 else 0x50
    let code (slot e : Nat) : Nat := bits (k.vsrc x slot (e / 32 * 32)) 16 8
    let z (e : Nat) : Int := if sub then (bi16Int (k.vsrc x 0 e)).1 - (bi16Int (k.vsrc x 1 e)).1 else (bi16Int (k.vsrc x 0 e)).1 + (bi16Int (k.vsrc x 1 e)).1
    VectorRuns s.dev d c op w0 w1 true x → tbOf w0 = false → tyOf w0 = 0xC →
    ∃ t, exec (if sub then .vsub c w0 w1 else .vadd c w0 w1) s = .next t ∧
      (∀ n e, n < 32 → e < 2048 → (t.dev.core c).velem n e =
        if n = vdOf w0 ∧ e < vcount w0 w1 then
          (if code 0 e = code 1 e ∧ code 0 e ≠ 0xFF then wrap 16 (max (-32767) (min 32767 (z e))) + code 0 e * 65536 else 0xFF0000)
        else k.velem n e) ∧ ∀ j, j ≠ c.val → t.dev.core j = d.core j

/-- VCMP, PAND, POR, PXOR and VUNPACK write the elements they name of one predicate register and change no other register or byte. (R108, R109, R110, R121) -/
def Obligations.VectorPredicates : Prop :=
  ∀ (s : State) (d : Dev) (c : Fin 512) (w0 w1 : W64) (x : QEnt),
    let k := d.core c
    let run (i : Instr) (op : Nat) (own : Bool) (els : List Nat) (res : Nat → Bool) : Prop :=
      VectorRuns s.dev d c op w0 w1 own x →
      ∃ t, exec i s = .next t ∧
        (∀ n e, n < 8 → e < 2048 → (t.dev.core c).pbit n e = if n = fld64 w0 8 3 ∧ e ∈ els then res e else k.pbit n e) ∧
        (t.dev.core c).s = k.s ∧ (t.dev.core c).v = k.v ∧ (t.dev.core c).ls = k.ls ∧ (t.dev.core c).pc = k.pc + instrLen w0 ∧
        ∀ j, j ≠ c.val → t.dev.core j = d.core j
    (tbOf w0 = false → run (.vcmp c w0 w1) 0x5D (cmpLegal w0 d) (k.actives w0 w1) fun e =>
      cmpElem (fld64 w0 23 3) (tyOf w0) (k.vsrc x 0 e) (k.vsrc x 1 e)) ∧
    (w1 = 0 → ∀ y ∈ ([(.pand c w0, 0x6C, and), (.por c w0, 0x6D, or), (.pxor c w0, 0x6E, xor)] : List (Instr × Nat × (Bool → Bool → Bool))),
      run y.1 y.2.1 true (List.range (vcount w0 0)) fun e => y.2.2 (k.pbit (fld64 w0 13 3) e) (k.pbit (fld64 w0 18 3) e)) ∧
    (k.ls.chk = [] → run (.vunpack c w0 w1) 0x66 (packLegal w0 w1 d) (List.range (vcount w0 0)) fun e => k.maskBit (fld64 w1 0 20) e)

/-- VRED, VSTAT, VTBASE and VRSV write the scalar register, tile-buffer base or reserve they name, and change no vector register or predicate. (R95, R115, R116, R117, R127, R131) -/
def Obligations.VectorScalars : Prop :=
  ∀ (s : State) (d : Dev) (c : Fin 512) (w0 w1 : W64) (x : QEnt),
    let k := d.core c
    let run (i : Instr) (op : Nat) (legal : Bool) (f : Core → Core) : Prop :=
      VectorRuns s.dev d c op w0 w1 legal x → (tbOf w0 = true → k.ls.chk = []) →
      ∃ t, exec i s = .next t ∧ (∀ r, (t.dev.core c).sreg r = (f k).sreg r) ∧ (t.dev.core c).vstat = (f k).vstat ∧
        (t.dev.core c).tb = (f k).tb ∧ (t.dev.core c).vrsv = (f k).vrsv ∧ (t.dev.core c).vlive = (f k).vlive ∧
        (t.dev.core c).v = k.v ∧ (t.dev.core c).p = k.p ∧ (t.dev.core c).ls = k.ls ∧ (t.dev.core c).pc = k.pc + instrLen w0 ∧
        ∀ j, j ≠ c.val → t.dev.core j = d.core j
    let r := redValue (fld64 w0 23 3) (tyOf w0) (k.actives w0 w1) (k.vsrc x 0)
    run (.vred c w0 w1) 0x64 (redLegal w0 d) (fun y => { y.setS (vdOf w0) (BitVec.ofNat 64 (r.getD (redIdentity (fld64 w0 23 3) (tyOf w0)))) with
      vstat := putBits y.vstat 0 1 (b2n r.isNone) }) ∧
    (w1 = 0 → run (.vstat c w0) 0x6B true fun y => { y.setS (vdOf w0) y.vstat with
      vstat := if fld64 w0 23 1 = 1 then y.vstat &&& 1 else y.vstat }) ∧
    (w1 = 0 → run (.vtbase c w0) 0x67 (tbaseLegal c w0 d) fun y => { y with tb := (y.sreg (scOf w0)).toNat }) ∧
    (w1 = 0 → run (.vrsv c w0) 0x6F (rsvLegal c w0 d) fun y => { y with
      vrsv := if (y.sreg (scOf w0)).msb then none else some (y.sreg (scOf w0)).toNat, vlive := (y.sreg (scOf w0 + 1)).setWidth 32 })

/-- VLD and VST move each active element between its register and its address, VPACK packs a predicate, VTOPK writes each token's choices. (R39, R104, R112, R113, R121, R124) -/
def Obligations.VectorMemory : Prop :=
  ∀ (s : State) (d : Dev) (c : Fin 512) (w0 w1 : W64) (x : QEnt),
    let k := d.core c
    let ty := tyOf w0
    let mt := mtOf w1
    let act := k.actives w0 0
    let held (e : Nat) : Nat := k.lsNat (memAddr w1 e) (mtBytes mt)
    let code (e : Nat) : Nat := k.lsNat (memScl w1 (e / 32)) 1
    let loaded (e : Nat) : Nat :=
      if mt = 0xC then
        (if ty = 0xC then wrap 16 (bi16Int (held e)).1 + code e * 65536
         else convElem 0xC ty (rndOf w0) (satOf w0) (d.vrand x e) (bi16Val (wrap 16 (bi16Int (held e)).1) (code e)))
      else if mt = ty then held e else convElem mt ty (rndOf w0) (satOf w0) (d.vrand x e) (tyVal mt (held e))
    let reg (e : Nat) : Nat := k.velem (vaOf w0) e
    let stored (e : Nat) : Nat :=
      if mt = ty then reg e
      else convElem ty mt (rndOf w0) (satOf w0) (d.vrand x e)
        (if ty = 0xC then bi16Val (reg e) (bits (reg (e / 32 * 32)) 16 8) else tyVal ty (reg e))
    let run (i : Instr) (op : Nat) (own : Bool) (post : Core → Prop) : Prop :=
      VectorRuns s.dev d c op w0 w1 own x → k.ls.chk = [] →
      ∃ t, exec i s = .next t ∧ post (t.dev.core c) ∧ (t.dev.core c).s = k.s ∧ (t.dev.core c).p = k.p ∧
        (t.dev.core c).pc = k.pc + instrLen w0 ∧ ∀ j, j ≠ c.val → t.dev.core j = d.core j
    let fits : Prop := ∀ r ∈ memRanges w1 act, r.1 + r.2 ≤ lsSize
    let others (t : Core) (lo n : Nat) : Prop := ∀ a, a < lsSize → (a < lo ∨ lo + n ≤ a) → t.lsByte a = k.lsByte a
    ((ty = 0xC → mt = 0xC) → fits → run (.vld c w0 w1) 0x68 (memLegal w0 w1 d) fun t => t.ls = k.ls ∧
      ∀ r e, r < 32 → e < 2048 → t.velem r e = if r = vdOf w0 ∧ e ∈ act then loaded e % 2 ^ tyBits ty else k.velem r e) ∧
    (mt ≠ 0xC → fld64 w1 20 12 ≠ 0 → fits → run (.vst c w0 w1) 0x69 (memLegal w0 w1 d) fun t => t.v = k.v ∧
      (∀ e ∈ act, t.lsNat (memAddr w1 e) (mtBytes mt) = stored e % 2 ^ elemBits mt) ∧
      ∀ a, a < lsSize → (∀ e ∈ act, a < memAddr w1 e ∨ memAddr w1 e + mtBytes mt ≤ a) → t.lsByte a = k.lsByte a) ∧
    (run (.vpack c w0 w1) 0x65 (packLegal w0 w1 d) fun t => t.v = k.v ∧
      (∀ e, e < vcount w0 0 → t.maskBit (fld64 w1 0 20) e = k.pbit (fld64 w0 13 3) e) ∧
      others t (fld64 w1 0 20) (ceilDiv (vcount w0 0) 8)) ∧
    ((∀ e, e < vcount w0 0 → e ∉ act ∨ tyVal ty (k.velem (vaOf w0) e) = .nan) → run (.vtopk c w0 w1) 0x6A (topkLegal w0 w1 d) fun t =>
      t.v = k.v ∧ (∀ i, i < 64 * (vcount w0 0 / topE w1) → t.lsByte (topSel w1 + i) = 0) ∧
      others t (topSel w1) (64 * (vcount w0 0 / topE w1)))

/-- A pre-emption takes breeze work off its core into its context and reserves, counts and leaves the core idle; a resumption brings it back. (R95, R96, R97, R98, R131, R161) -/
def Obligations.PreemptionSavesAndRestores : Prop :=
  ∀ (s : State) (c : Fin 512) (lag : Nat) (w : Work) (v : Saved) (d : Dev) (bs : List Byte),
    let k := s.dev.core c
    let at_ := s.dev.lagged c lag
    let saved : Option Saved := some ⟨w, k.vrsv, k.vlive, k.mrsv, k.tb, k.since, k.accs, (k.mq ++ k.vq).map fun x => (x.seq, x.pc), k.wrec, k.bank, at_ + saveCycles k false⟩
    let off (x : Dev) : Dev := ((ctxSave c x).onCore c fun y => { y with
      run := .idle, work := none, mq := [], vq := [], mmts := [], rest := none, saved := saved }).count (coreBlk c) 18 1
    let a := s.dev.ctxSlot c + 0x400
    (k.work = some w → w.brz = true → s.dev.coreDown c = false → k.run = .issuing →
      (s.dev.tile c at_ = none → k.vrsv = none → (ctxSave c s.dev).coreDown c = false → Runs (.preemptionRequest c lag) s (off s.dev)) ∧
      (∀ b, s.dev.tile c at_ = none → k.vrsv = some b → b % 4096 = 0 → b + 266240 ≤ lsSize → k.ls.chk = [] → k.code = [] →
        (ctxSave c (vecSave c b s.dev)).coreDown c = false → ∃ t, exec (.preemptionRequest c lag) s = .next t ∧
        (t.dev.core c).run = .idle ∧ (t.dev.core c).work = none ∧ (t.dev.core c).saved = saved ∧
        (t.dev.core c).lsNat b 8 = k.vlive.toNat ∧
        ∀ n e, n < 32 → e < 2048 → bit k.vlive.toNat n = true → (t.dev.core c).lsNat (b + 0x1000 + 8192 * n + 4 * e) 4 = k.velem n e) ∧
      (∀ x b, s.dev.tile c at_ = some x → k.mrsv = some b → k.vrsv = none → b + 256 + 262144 ≤ lsSize → b % 256 = 0 →
        (k.rest.isSome && s.dev.drainAhead c x.seq 1) = false → k.ls.chk = [] → k.code = [] →
        let stop := Nat.min (s.dev.stopRow c x.seq lag) (mmtOf x.w0 x.w1).rows
        (ctxSave c (matSave c b stop x (s.dev.onCore c (·.recall x.seq)))).coreDown c = false →
        ∃ t, exec (.preemptionRequest c lag) s = .next t ∧ (t.dev.core c).run = .idle ∧ (t.dev.core c).work = none ∧
          (t.dev.core c).mmts = [] ∧ (t.dev.core c).saved.isSome = true ∧
          (t.dev.core c).lsNat b 8 = x.w0.toNat ∧ (t.dev.core c).lsNat (b + 8) 8 = x.w1.toNat ∧ (t.dev.core c).lsNat (b + 16) 1 = stop ∧
          (t.dev.core c).lsNat (b + 17) 1 = 1) ∧
      (∀ x, s.dev.tile c at_ = some x → k.mrsv = none → Idles (.preemptionRequest c lag) s)) ∧
    (k.work = some w → w.brz = false → Idles (.preemptionRequest c lag) s) ∧
    (s.dev.disp.brz.armed = true → s.dev.breezeHalt = false → s.dev.breezeMay (.core c) = true →
      k.saved = some v → s.dev.coreDown c = false → k.run = .idle → k.work = none →
      s.dev.csRead (c.val / 16) a 0x600 = (d, some bs) → bit (leAt bs 8 1) 0 = true → leAt bs 0xA 1 = 0 → leAt bs 0xB 1 = 0 →
      ∃ t, exec (.preemptResume c) s = .next t ∧ (t.dev.core c).work = some v.work ∧ (t.dev.core c).pc = leAt bs 0 8 ∧
        (t.dev.core c).run = (if bit (leAt bs 8 1) 1 then .waiting (leAt bs 9 1) (BitVec.ofNat 32 (leAt bs 0xC 4)) else .issuing) ∧
        (t.dev.core c).mq = [] ∧ (t.dev.core c).vq = [] ∧ (t.dev.core c).saved = none ∧ (t.dev.core c).wrec = v.wrec ∧
        ∀ r, r < 32 → (t.dev.core c).sreg r = BitVec.ofNat 64 (leAt bs (0x40 + 8 * r) 8)) ∧
    (s.dev.disp.brz.armed = true → s.dev.breezeHalt = false → s.dev.breezeMay (.core c) = true →
      k.saved = some v → s.dev.coreDown c = false → k.run = .idle → k.work = none →
      s.dev.csRead (c.val / 16) a 0x600 = (d, some bs) → bit (leAt bs 8 1) 0 = false → Runs (.preemptResume c) s d.noteBreeze)

/-- COPY, FILL, GATHER and SCATTER of one unit without conversion put each row's bytes at its destination row and write no other byte. (R145, R147, R151, R152, R155) -/
def Obligations.RowsAreMoved : Prop :=
  ∀ (s : State) (k : Fin 32) (ch : Fin 16) (bs : List Byte) (c n : Nat),
    let h := 16 * k.val + ch.val
    let q := descWords bs
    let x : Chan := { s.dev.chan h with q := q, pos := 0 }
    let ls := s.dev.core c
    let lb := ls.lsNat (dList q) 4
    let rows := if dLists q then Nat.min (ls.lsNat (dList q + 8) 2) (dRows q) else dRows q
    let row (r : Nat) : Nat := ls.lsNat ((lb + 8 * r) % lsSize) 4
    let rank (r : Nat) : Nat := bits (ls.lsNat ((lb + 8 * r) % lsSize) 8) 32 3
    let from_ (r : Nat) : Nat := if dOp q = 2 then rowAt (dSrc q) (row r) (qf q 6 32 32) (dSp q) else dSrc q + r * dSp q
    let dstAt (r : Nat) : Nat :=
      if dOp q = 4 then (rowAt (dDst q) (row r) (qf q 6 32 32) (dDp q) + rank r * qf q 5 0 32) % 2 ^ 52 else dDst q + r * dDp q
    let byte (r i : Nat) : Byte :=
      if dOp q = 1 then BitVec.ofNat 8 ((wordAt q 6).toNat / 2 ^ (8 * (i % 8))) else (s.dev.cstore k).byte (from_ r + i)
    s.dev.chanMay h = true → s.dev.chanTurn h = true → x.st = .ready → x.work = none → (∀ j, x.owner ≠ .queue j) → s.dev.dFetch h = (s.dev, .ok bs) →
    s.dev.dCheck h x = 0 → dDs q = 0 → (dOp q ≠ 1 → dSs q = 1) → (dOp q ≠ 1 → dSf q = dDf q) → isBlock (dDf q) = false →
    (dRm q || dOc q || dSkew q || dXpose q) = false → dCore h x = some c → (dLists q = true → dListCore h x = some c) →
    c < 512 → s.dev.pkg.fences.core c = false → ls.ls.chk = [] → (s.dev.cstore k).chk = [] →
    (dLists q = true → s.dev.listRanges h { x with lbase := lb, lcount := ls.lsNat (dList q + 8) 2 } = true) →
    0 < rows → 0 < dDb q → rows * dDb q ≤ 4096 → 0 < n →
    (∀ i j, i < rows → j < rows → i ≠ j → dstAt i + dDb q ≤ dstAt j ∨ dstAt j + dDb q ≤ dstAt i) →
    ∀ y ∈ ([(.dmaCopy (.cluster k ch) n, 0), (.dmaFill (.cluster k ch) n, 1), (.dmaGather (.cluster k ch) n, 2),
      (.dmaScatter (.cluster k ch) n, 4)] : List (Instr × Nat)), dOp q = y.2 →
    ∃ t, exec y.1 s = .next t ∧ (t.dev.chan h).st = .finished 0 ∧
      (∀ r i, r < rows → i < dDb q → (t.dev.core c).lsByte (dstAt r + i) = byte r i) ∧
      (∀ a, a < lsSize → (∀ r, r < rows → a < dstAt r ∨ dstAt r + dDb q ≤ a) → (t.dev.core c).lsByte a = ls.lsByte a) ∧
      ∀ j, j ≠ c → t.dev.core j = s.dev.core j

/-- An accumulating write adds a unit's blocks, descriptors complete and restart, breeze chains pause and go on, a queue's chain starts. (R48, R144, R152, R153, R156, R296) -/
def Obligations.DmaChainEvents : Prop :=
  ∀ (s : State) (id : ChanId) (d e f : Dev) (lost : Bool) (st : Nat) (k : Fin 32) (kb : Fin 36) (q : Fin 32768) (bl : List (Nat × List Byte)) (ok : Bool) (n : Nat),
    let h := chanKey id
    let ch := s.dev.chan h
    let w := ch.q
    let t := s.dev.chanTlb h
    let tag : W32 := BitVec.ofNat 32 (qf w 6 0 32)
    let lo := 64 * ch.pos
    let places := (List.range bl.length).flatMap fun i =>
      [((accPlace w (lo + i)).1, List.replicate 64 (0 : Byte)), ((accPlace w (lo + i)).2, [0])]
    let next (x : Dev) : Dev := x.onChan h fun c => { c with pos := c.pos + 1, stream := c.stream.drop bl.length }
    (s.dev.chanMay h = true → s.dev.chanTurn h = true → ch.st = .moving → dOp w = 3 → dSs w = 3 → dUnits ch = ch.pos + 1 →
      bl = ch.stream.take (Nat.min 64 (dTotal ch / 64 - lo)) → bl.length = Nat.min 64 (dTotal ch / 64 - lo) → 0 < n →
      (s.dev.chanServed h).dReady h 2 places = (d, .ok lost) →
      (d.ledgerAsk t tag ch.pos = (e, .apply) → e.accLost h places = (f, false) → (∀ c, ch.owner ≠ .core c) →
        let g := ((bl.zipIdx.foldl (fun x p => x.accApply h ch (lo + p.2) p.1) f).ledgerPut t tag (ch.pos + 1)).dTally h 5 1
        dUnits ((next g).chan h) = ((next g).chan h).pos → Runs (.dmaAccumulatingWrite id n) s ((next g).dFinish h 0)) ∧
      (d.ledgerAsk t tag ch.pos = (e, .apply) → e.accLost h places = (f, true) →
        Runs (.dmaAccumulatingWrite id n) s (f.dFinish h 2)) ∧
      (d.ledgerAsk t tag ch.pos = (e, .skip) → dUnits ((next (e.dTally h 6 1)).chan h) = ((next (e.dTally h 6 1)).chan h).pos →
        Runs (.dmaAccumulatingWrite id n) s ((next (e.dTally h 6 1)).dFinish h 0))) ∧
    (∀ (ca cb : Nat) (a b : List Byte), (ca = cb → ca ≠ 0xFF → (bi16Add ca a cb b).1 = ca) ∧
      ((ca ≠ cb ∨ ca = 0xFF) → bi16Add ca a cb b = (0xFF, List.replicate 64 0, 0, true))) ∧
    (ch.st = .finished 0 → dFlag w 35 = true → (∀ j, ch.owner ≠ .queue j) →
      let x := s.dev.dTally h 0 1
      let x := if dFlag w 26 then x.arrive (x.chanDom h) (qf w 0 27 8) else x
      Runs (.dmaDescriptorComplete id) s (x.onChan h fun c => { c with st := .ready, addr := c.addr + 64, q := [], pos := 0 })) ∧
    (ch.st = .finished 0 → dFlag w 35 = false → dFlag w 26 = false → ch.owner = .entry → ch.hush = false →
      Runs (.dmaDescriptorComplete id) s ((((s.dev.dTally h 0 1).chanFree h).endWork ch.work true).takeChain h)) ∧
    (ch.st = .finished st → st = 3 ∨ st = 4 → ch.owner = .entry →
      ((s.dev.detect (s.dev.chanSrc h) (if st = 3 then 0x11 else 0x12) 2 (s.dev.descAddr h / 16)).chan h) = ch → ch.hush = false →
      Runs (.dmaDescriptorComplete id) s
        ((((s.dev.detect (s.dev.chanSrc h) (if st = 3 then 0x11 else 0x12) 2 (s.dev.descAddr h / 16)).chanFree h).endWork ch.work false).takeChain h)) ∧
    (ch.st = .halted → ok = true → ch.pos ≠ 0 →
      Runs (.dmaChannelRestart id ok) s (s.dev.onChan h fun c => { c with st := .moving })) ∧
    (s.dev.fgReady k = true → ∃ u, exec (.breezeChainPause k) s = .next u ∧
      (∀ c : Fin 16, (u.dev.chan (16 * k.val + c.val)).pause =
        (((s.dev.chan (16 * k.val + c.val)).brz && (s.dev.chan (16 * k.val + c.val)).st != .idle) || (s.dev.chan (16 * k.val + c.val)).pause)) ∧
      ∀ j, j < 16 * k.val ∨ 16 * k.val + 16 ≤ j → u.dev.chan j = s.dev.chan j) ∧
    (decide (kb.val < 32) && s.dev.fgReady kb = false → s.dev.breezeHalt = false → ∃ u, exec (.breezeChainResume kb) s = .next u ∧
      (s.dev.disp.parked = [] → ∀ c : Fin 16, let y := s.dev.chan (16 * kb.val + c.val)
        y.brz = true → y.st ≠ .idle → y.pause = true → y.lent = false →
        u.dev.chan (16 * kb.val + c.val) = { y with pause := false }) ∧
      (∀ (c : Fin 16) (y : Chan), let z := 16 * kb.val + c.val
        s.dev.disp.parked = [(z, y)] → y ≠ Chan.idle → (s.dev.chan z).st = .idle → s.dev.breezeMay (.chan z) = true →
        u.dev.chan z = { y with pause := false, lent := false })) ∧
    ((s.dev.chan (1024 + q)).st = .idle → (s.dev.qctx q).kind = 2 → s.dev.qBusy q = true →
      Runs (.dmaQueueChain q) s
        (let x : Dev := { s.dev with que := { s.dev.que with run := s.dev.que.run.map fun (y : Entry) => if y.q = q then { y with started := true } else y } }
         x.startChain (1024 + q) 0 false none (.queue q) none))

/-- What IDENTIFY, JOB_OPEN, JOB_CLOSE, JOB_LOAD, GROUP_DEFINE, MAP_INSTALL, TIMETABLE_SUBMIT, START and STOP do when they are accepted. (R310, R316, R317, R318, R319, R320, R321, R324, R408, R411) -/
def Obligations.JobCommands : Prop :=
  ∀ (s : State) (e : SubEntry) (host img : List Byte) (d f : Dev) (l : List Sect) (m : List MapEnt) (ents : List (List Byte)) (period : Nat) (u : List Byte),
    let b := padTo 56 e.body
    let x := s.dev
    (Taken x 0x01 e clsR [(8, 8)] anyState true → x.bufWrite (bf b 8 8) x.identity = (d, .ok u) →
      Runs (.identify e) s (d.okay e (x.featLevel + 2 ^ 8 * x.pkg.lead))) ∧
    (Taken x 0x02 e clsJ [(8, 24)] [0] false → resv b 0x1C 2 13 = true → bf b 0x18 4 ≠ 0 → bf b 0x1E 1 ≤ 2 → bf b 0x1F 1 ≤ 2 →
      bf b 0x1C 2 = x.ownPkg → (bf b 0x1E 1 = 0 ∨ bf b 0x1E 1 = x.featLevel) →
      ∃ t, exec (.jobOpen e) s = .next t ∧ t.dev.jobState = 1 ∧ t.dev.job.seed = BitVec.ofNat 64 (bf b 8 8) ∧
        t.dev.job.policy = bf b 0x1F 1 ∧ t.dev.job.step0 = BitVec.ofNat 64 (bf b 0x10 8) ∧ t.dev.step = BitVec.ofNat 64 (bf b 0x10 8) ∧
        t.dev.fld sysJobStatusJobId = bf b 0x18 4 ∧ t.dev.fld sysJobStatusPkg = bf b 0x1C 2 ∧ t.dev.fld sysJobStatusJfCause = 0 ∧
        t.dev.disp.halt = false) ∧
    (Taken x 0x02 e clsJ [(8, 24)] anyState false → resv b 0x1C 2 13 = true → x.sameJob b = true → Runs (.jobOpen e) s (x.okay e 0)) ∧
    (Taken x 0x03 e clsJ [] [1, 2, 4, 5, 6, 7] true → Runs (.jobClose e) s (x.holds x.haltBrz e clsJ .close) ∧
      (x.job.cmds = [] → x.jobState ≠ 5 → (x.haltBrz.startNext e.q).closeReady = true →
        ∃ t, exec (.jobClose e) s = .next t ∧ t.dev.jobState = 0 ∧ t.dev.job.cmds = [])) ∧
    (Taken x 0x04 e clsJ [(8, 16)] [1, 2, 4, 5] false → x.bufRead (bf b 8 8) (bf b 0x10 8) host = (d, .ok img) → d.sections img = some l →
      d.sectsReach l = (f, .ok u) →
      Runs (.jobLoad e host) s ((l.foldl (fun y z => y.copySect img z) f).colShow.okay e (l.foldl (fun n z => if z.kind = 2 then n else n + z.len) 0))) ∧
    (Taken x 0x05 e clsJ [(8, 6)] [1, 2, 3, 4, 5] false → (resv b 0xA 2 13 && resv b 0xC 2 13) = true → x.tableCalm (bf b 8 1) = true →
      let g := bf b 8 1
      let term := (bf b 0xA 2, bf b 0xC 2)
      (bf b 9 1 = 1 → Runs (.groupDefine e) s (({ x with col := { x.col with
        groups := Sparse.set (always []) x.col.groups g [], seqs := Sparse.set (always 0) x.col.seqs g 0 } } : Dev).colShow.okay e 0)) ∧
      (bf b 9 1 = 0 → term.2 &&& term.1 = term.2 → (x.terms g).length < 8 → (x.terms g).any (termsMeet term) = false → (x.terms g ≠ [] ∨ x.groupCount < 256) →
        Runs (.groupDefine e) s (({ x with col := { x.col with groups := Sparse.set (always []) x.col.groups g (x.terms g ++ [term]) } } :
          Dev).colShow.okay e 0))) ∧
    (Taken x 0x06 e clsJ [(8, 1), (0x10, 8), (0x18, 4)] [1, 2, 3, 4, 5] false → bf b 8 1 ≤ 3 → x.bufRead (bf b 0x10 8) (bf b 0x18 4) host = (d, .ok img) →
      parseMap img = some m → ((m ++ Sparse.get (always []) d.col.maps (bf b 8 1)).all fun z => d.tableCalm z.gid) = true →
      let y : Dev := { d with col := { d.col with maps := Sparse.set (always []) d.col.maps (bf b 8 1) m } }
      Runs (.mapInstall e host) s
        ((if bit (d.fld colMapLoaded) (bf b 8 1) then y else y.setFld colMapLoaded (d.fld colMapLoaded + 2 ^ bf b 8 1)).colShow.okay e 0)) ∧
    (Taken x 0x07 e clsJ [(8, 1), (0x10, 16)] [1, 2, 3, 4, 5] false → x.bufRead (bf b 0x10 8) (bf b 0x18 8) host = (d, .ok img) →
      let t : Timetable := { ents, period, t0 := 0, armed := false, done := [] }
      (bf b 8 1 = 0 → x.running = false → d.parseTimetable false img = some (ents, period) →
        Runs (.timetableSubmit e host) s
          (let y := (d.setTable false t).setBit timTtStatusFgArmed false
           (if y.jobState = 1 then y.setFld sysJobStatusState 2 else y).okay e 0)) ∧
      (bf b 8 1 = 1 → d.parseTimetable true img = some (ents, period) →
        (d.on timTtStatusBrzBusy = true → Runs (.timetableSubmit e host) s d.haltBrz) ∧
        (d.on timTtStatusBrzBusy = false → Runs (.timetableSubmit e host) s ((d.haltBrz.dropBreeze.setTable true t).okay e 0)))) ∧
    (let t0 := bf b 8 8
     let what := bf b 0x10 1
     let mode := bf b 0x11 1
     let step := bf b 0x18 8
     Taken x 0x08 e clsJ [(8, 10), (0x18, 8)] [2, 3, 4, 5] false → resv b 0x10 1 2 = true → what ≠ 0 → mode ≤ 2 → x.leadNow + 50000 ≤ t0 →
      (bit what 1 = true → x.disp.brz.ents ≠ []) → (mode = 0 → step = x.step.toNat) → (mode ≠ 0 → x.allRestored step = true) →
      (mode = 1 → step + 1 = x.step.toNat ∧ (x.job.policy = 1 → x.fillsWait = true)) →
      (what = 2 → x.jobState ≠ 5 → Runs (.start e) s ((x.armBrz t0).okay e t0)) ∧
      (what ≠ 2 → x.running = false → (x.jobState = 5 → mode ∈ heldModes (x.fld sysJobStatusJfCause) x.job.policy) → x.discardWaits = false →
        let y := x.startMode mode step
        let y := (if y.job.close.isSome then y else y.setNormRef).armFg t0
        let y := ({ y with disp := { y.disp with mapSw := none } }.setFld colMapSlot 0).colShow
        let y := if bit what 1 then y.armBrz t0 else y
        Runs (.start e) s (((y.setFld sysJobStatusJfCause 0).setFld sysJobStatusState 3).okay e t0))) ∧
    (Taken x 0x09 e clsJ [(8, 2)] [3] false → resv b 8 1 2 = true →
      (bf b 8 1 = 2 → bf b 9 1 ≤ 1 → Runs (.stop e) s (x.holds x.haltBrz e clsJ .stopBreeze)) ∧
      (bf b 8 1 = 1 → bf b 9 1 = 0 →
        Runs (.stop e) s (x.holds { x with disp := { x.disp with last := some (x.fld timTtStatusRound) } } e clsJ (.stop false))) ∧
      (bf b 8 1 = 1 → bf b 9 1 = 1 → Runs (.stop e) s (x.holds x.disarmFg e clsJ (.stop true))))

/-- What FENCE, UNFENCE, FAULT_READ, FAULT_CLEAR, EXPORT_CONFIG, REPLICA_ADMIT, REPLICA_EXPEL and PEER_RESTORE do when they are accepted. (R322, R323, R325, R331, R332, R333, R450, R451) -/
def Obligations.UnitAndReplicaCommands : Prop :=
  ∀ (s : State) (e : SubEntry) (test : UnitTest) (unit : List Nat) (host : List Byte) (d : Dev) (u : List Byte) (n : FUnit) (r : LogRec),
    let b := padTo 56 e.body
    let x := s.dev
    let unitIs : Prop := fUnit (bf b 8 1) (bf b 0xA 2) = some n
    (Taken x 0x0A e clsF [(8, 1), (0xA, 2)] anyState false → unitIs →
      (x.isFenced n = true → Runs (.fence e) s (x.okay e 0)) ∧
      (x.isFenced n = false → x.lastUnit n = false → (∀ i, n = .die i → x.calmOrIdle = true) →
        ((∀ i j, n ≠ .pc i j) → Runs (.fence e) s ((x.fenceUnit n).okay e 0)) ∧
        (∀ i j, n = .pc i j → Runs (.fence e) s (x.holds (x.startDrain i j) e clsF (.drain i j))))) ∧
    (Taken x 0x0B e clsF [(8, 1), (0xA, 2)] anyState false → unitIs → (∀ i j, n ≠ .pc i j) →
      (x.isFenced n = false → Runs (.unfence e test) s (x.okay e 0)) ∧
      (x.isFenced n = true → x.unitMessages n = false → test.ok = true →
        (∀ i, n = .port i ∨ n = .cluster i ∨ (∃ j, n = .lateral i j) → (n = .port i → x.calmOrIdle = true) →
          Runs (.unfence e test) s ((x.unfenceUnit test n).okay e 0)) ∧
        (∀ i, n = .core i → Runs (.unfence e test) s (((x.coreReset i).unfenceUnit test n).okay e 0)) ∧
        (∀ i, n = .die i → x.calmOrIdle = true → test.cap &&& x.reg dieCapCap.off = x.reg dieCapCap.off →
          Runs (.unfence e test) s ((x.unfenceUnit test n).okay e 0)))) ∧
    (Taken x 0x0C e clsR [(8, 20)] anyState true → 0 < bf b 0x18 4 → bf b 0x18 4 ≤ 65536 →
      let l := (x.flt.log.filter fun m => decide (bf b 8 8 ≤ m.seq)).take (bf b 0x18 4)
      x.bufWrite (bf b 0x10 8) (l.flatMap fun m => m.encode 0) = (d, .ok u) →
      Runs (.faultRead e) s (d.okay e (match l.getLast? with
        | some m => m.seq + 1
        | none => x.fld fltSeqNext))) ∧
    (Taken x 0x0D e clsR [(8, 9)] anyState true → bf b 0x10 1 = 1 →
      let gone := x.flt.uncl.filter x.causeGone
      let y := x.clearRecs fun m => gone.any fun g => g.seq == m.seq
      let z := (if y.flt.uncl.isEmpty = true then y.setBit fltStatusUnclOvf false else y).faultShow
      Runs (.faultClear e) s (z.okay e (z.clearResult gone.length))) ∧
    (Taken x 0x0D e clsR [(8, 9)] anyState true → bf b 0x10 1 = 0 → bf b 8 8 < x.fld fltSeqNext →
      (x.flt.uncl ++ x.flt.log).find? (fun m => m.seq == bf b 8 8) = some r →
      ((r.cleared = true ∨ r.msg.cls = 0) → Runs (.faultClear e) s (x.okay e (x.clearResult 0))) ∧
      (r.cleared = false → r.msg.cls ≠ 0 → x.causeGone r = true →
        let y := (x.clearRecs fun m => m.seq == bf b 8 8).faultShow
        Runs (.faultClear e) s (y.okay e (y.clearResult 1)))) ∧
    (Taken x 0x0E e clsJ [(8, 6), (0x10, 16)] [1, 2, 3, 4, 5] false → (resv b 8 1 4 && resv b 0xC 2 13) = true →
      let put (k : Sink) : Dev := (List.range 4).foldl (fun y i => if bit (bf b 8 1) i then y.setUpd i ((y.upd i).toSink k) else y) x
      (bf b 9 1 = 0 → Runs (.exportConfig e) s ((put .none).okay e 0)) ∧
      (bf b 9 1 = 1 → (x.qctx (bf b 0xA 2)).kind = 4 → (x.qctx (bf b 0xA 2)).state = 1 →
        Runs (.exportConfig e) s ((put (.queue (bf b 0xA 2))).okay e 0)) ∧
      (bf b 9 1 = 2 → 64 < bf b 0x18 8 →
        Runs (.exportConfig e) s ((put (.ring (bf b 0xC 2) (bf b 0x10 8) (bf b 0x18 8) 0 0)).okay e 0))) ∧
    (Taken x 0x0F e clsJ [(8, 2)] [2] false → bf b 8 2 ≠ 0 →
      Runs (.replicaAdmit e) s (x.holds x e clsJ (.admits (x.real + 1000000 * bf b 8 2)))) ∧
    (Taken x 0x10 e clsJ [(8, 3)] [3, 4, 5] false → resv b 8 2 13 = true → (x.job.expelled.contains (bf b 8 2) || x.job.leaving.contains (bf b 8 2)) = false →
      x.inJob (bf b 8 2) = true →
      let y := x.expelUnit (bf b 8 2) (bf b 0xA 1) unit
      (x.running = true → y.job.leaving.contains y.ownPkg = false → Runs (.replicaExpel e unit) s (x.holds y e clsJ .expel)) ∧
      ((x.running = false ∨ y.job.leaving.contains y.ownPkg = true) →
        Runs (.replicaExpel e unit) s (y.applyLeaving.okay e y.applyLeaving.step.toNat))) ∧
    (Taken x 0x11 e clsJ [(8, 6), (0x10, 16)] [3, 4, 5] false → resv b 0xC 2 13 = true → bf b 9 1 ≤ 3 → bf b 0xA 2 ≤ 4095 →
      (x.running = true → (x.upd (bf b 9 1)).torn = some (bf b 0xA 2)) →
      (bf b 8 1 = 0 → x.bufRead (bf b 0x10 8) (bf b 0x18 8) host = (d, .ok u) → 64 ≤ u.length → leAt u 0 1 = bf b 9 1 → leAt u 2 2 = bf b 0xA 2 →
        Runs (.peerRestore ⟨e, host⟩) s
          (x.holds (d.setUpd (bf b 9 1) { d.upd (bf b 9 1) with image := some (bf b 0xA 2, u) }) e clsJ (.restore (bf b 9 1) (bf b 0xA 2) 8192))) ∧
      (bf b 8 1 = 1 → (x.members (x.fld updCtlRepGid)).contains (bf b 0xC 2) = true → bf b 0xC 2 ≠ x.ownPkg →
        Runs (.peerRestore ⟨e, host⟩) s (x.holds x e clsJ (.restore (bf b 9 1) (bf b 0xA 2) (bf b 0xC 2)))))

/-- What CALM_ENTER, CALM_EXIT, PATH_INSTALL, TIME_CONFIG, POWER_CAP, COUNTER_GRANT and AMEND_LOAD do when accepted, and their time bounds. (R324, R326, R332, R361, R385, R386, R497, R523, R547) -/
def Obligations.CalmTimeAndPowerCommands : Prop :=
  ∀ (s : State) (e : SubEntry) (host bs : List Byte) (d : Dev) (w t : Nat),
    let b := padTo 56 e.body
    let x := s.dev
    (Taken x 0x12 e clsJ [(8, 2)] [1, 2, 3, 4, 5] false →
      let g := bf b 9 1
      let host := (x.setBit fabCalmHost true).fabShow
      let grp : Dev := { x with col := { x.col with calm := setAdd x.col.calm g } }
      (bf b 8 1 = 0 → (host.on fabCalmCalm = true → Runs (.calmEnter e) s (host.okay e host.leadNow)) ∧
        (host.on fabCalmCalm = false → Runs (.calmEnter e) s (x.holds host e clsJ (.calm host.real none)))) ∧
      (bf b 8 1 = 1 → (grp.groupCalm g = true → Runs (.calmEnter e) s (grp.okay e grp.leadNow)) ∧
        (grp.groupCalm g = false → Runs (.calmEnter e) s (x.holds grp e clsJ (.calm grp.real (some g)))))) ∧
    (Taken x 0x13 e clsJ [(8, 2)] [1, 2, 3, 4, 5] false →
      (bf b 8 1 = 0 → Runs (.calmExit e) s ((x.setBit fabCalmHost false).pump.okay e 0)) ∧
      (bf b 8 1 = 1 → Runs (.calmExit e) s (({ x with col := { x.col with calm := setDel x.col.calm (bf b 9 1) } } : Dev).okay e 0))) ∧
    (Taken x 0x14 e clsJ [(8, 4), (0x10, 8)] [0, 1, 2, 3, 4, 5] false → resv b 8 2 13 = true →
      let n := bf b 0xA 2
      0 < n → n ≤ 8192 → x.on fabCalmCalm = true → bf b 8 2 + n ≤ 8192 → x.bufRead (bf b 0x10 8) (32 * n) host = (d, .ok bs) →
      (List.range (4 * n)).all (fun i => pathOk (BitVec.ofNat 64 (leAt bs (8 * i) 8))) = true →
      Runs (.pathInstall e host) s
        (((List.range n).foldl (fun y i => y.installPaths (bf b 8 2 + i) ((bs.drop (32 * i)).take 32)) d).pump.okay e 0)) ∧
    (Taken x 0x15 e clsJ [(8, 1), (0xA, 4), (0x10, 8)] [0, 1, 2, 4, 5] false → resv b 0xA 2 13 = true → bf b 8 1 ≤ 2 →
      ∃ u, exec (.timeConfig e) s = .next u ∧ u.dev.fld timStatusRole = bf b 8 1 ∧ u.dev.fld timStatusMpkg = bf b 0xA 2 ∧
        u.dev.tim.ports = bf b 0xC 2 ∧ u.dev.on timStatusLock = (bf b 8 1 == 1) ∧ u.dev.tim.slew = 0 ∧
        (bf b 8 1 ≠ 0 → bf b 0x10 8 ≠ 0 → u.dev.now 0 = bf b 0x10 8)) ∧
    (Taken x 0x16 e clsR [(8, 2), (0x10, 8)] anyState false → 1200 ≤ bf b 8 2 → bf b 8 2 ≤ 3400 →
      let y := x.endCmds (fun c => c.capTime.isSome) (st2 2) 0
      (bf b 0x10 8 = 0 → Runs (.powerCap e) s (let z := (y.setFld pwrCapHostW (bf b 8 2)).capShow; z.okay e z.leadNow)) ∧
      (x.leadNow + 50000 ≤ bf b 0x10 8 → Runs (.powerCap e) s (x.holds y e clsR (.cap (bf b 8 2) (bf b 0x10 8))))) ∧
    ((x.job.cmds.filterMap RunCmd.capTime).head? = some (w, t) → t ≤ x.leadNow →
      Runs .scheduledPowerCapDue s
        (((x.setFld pwrCapHostW w).capShow).endCmds (fun c => c.capTime.isSome) 0 (BitVec.ofNat 64 x.leadNow))) ∧
    (Taken x 0x17 e clsR [(8, 1)] anyState false → resv b 8 1 2 = true →
      Runs (.counterGrant e) s (({ x with pmc := { x.pmc with grant := bf b 8 1 } } : Dev).okay e 0)) ∧
    (Taken x 0x18 e clsJ [(8, 8), (0x10, 4), (0x14, 1)] [0] false →
      (bf b 0x14 1 = 2 → Runs (.amendLoad e host) s (({ x with sec := { x.sec with amdGone := true } } : Dev).okay e 0)) ∧
      (bf b 0x14 1 ≤ 1 → bf b 0x10 4 ≤ 388 + 0x100000 → x.bufRead (bf b 8 8) (bf b 0x10 4) host = (d, .ok bs) →
        Runs (.amendLoad e host) s
          (if (d.sec.amendFails (bf b 0x10 4) bs).isSome then d.complete e.q e.cid e.quiet (st2 8) 0
           else if bf b 0x14 1 = 1 then
             ({ d with sec := { d.sec with amd := some bs, amdGone := false } } : Dev).okay e (bundleVersion bs)
           else d.okay e (bundleVersion bs)))) ∧
    (x.job.copying = false → Runs .replicaAdmitTimeout s (x.endCmds (fun c => match c.what with
      | .admits t => decide (t ≤ x.real)
      | _ => false) 0x0206 0)) ∧ (x.job.copying = true → Idles .replicaAdmitTimeout s) ∧
    (let late := x.job.cmds.filter fun c => match c.what with
       | .calm t _ => decide (t + 10000000 ≤ x.real)
       | _ => false
     let free (y : Dev) (c : RunCmd) : Dev := match c.what with
       | .calm _ (some g) => { y with col := { y.col with calm := setDel y.col.calm g } }
       | .calm _ none => y.setBit fabCalmHost false
       | _ => y
     late ≠ [] → Runs .calmEnterTimeout s (late.foldl (fun y c => (free y c).endCmd c 0x0206 0) x).pump)

/-- A core, cluster or compute die with a fault is fenced: it stops, its logical cores go to a peer, its work moves or fails; limits escalate. (R19, R154, R160, R356, R454, R455, R456, R457) -/
def Obligations.FencesTakeUnitsOut : Prop :=
  ∀ (s : State) (c : Fin 512) (k : Fin 32) (d : Fin 4) (unit : Fin 5) (cu : Fin 4) (eng : Bool) (p : Nat) (r : Src) (arg : BitVec 48),
    let x := s.dev
    let src : Src := if eng then ⟨0, c.val / 128, c.val / 16 % 8, c.val % 16, unit⟩ else coreSrc c unit
    let y := (x.detect src 0x02 1 0).markFault c
    (x.pkg.faulted.contains c.val = false → x.coreDown c = false → (eng = true ∨ (unit ≠ 0 ∧ unit ≠ 4)) →
      (y.peerOf c = some p → ∃ t, exec (.coreFence c eng unit) s = .next t ∧ t.dev.pkg.fences.cores.contains c.val = true ∧
        (∀ j, j ≠ c.val → t.dev.pkg.fences.cores.contains j = x.pkg.fences.cores.contains j) ∧
        (∀ l, l < 16 → Sparse.get (fun i => i) t.dev.disp.lmap (16 * (c.val / 16) + l) =
          if Sparse.get (fun i => i) x.disp.lmap (16 * (c.val / 16) + l) = c.val then p
          else Sparse.get (fun i => i) x.disp.lmap (16 * (c.val / 16) + l)) ∧
        (t.dev.core c).run = .idle ∧ (t.dev.core c).work = none ∧ (t.dev.core c).mq = [] ∧ (t.dev.core c).vq = []) ∧
      (y.peerOf c = none → y.pkg.fences.cluster (c.val / 16) = false →
        ((List.range 8).all fun i => c.val / 16 / 8 * 8 + i == c.val / 16 || y.pkg.fences.cluster (c.val / 16 / 8 * 8 + i)) = false →
        Runs (.coreFence c eng unit) s (y.fenceClusterOnly (c.val / 16)))) ∧
    (x.pkg.faulted.contains (512 + k.val) = false → x.clusterDown k = false →
      let z := (x.detect (clusterSrc k cu) 0x03 1 arg.toNat).markFault (512 + k)
      let last := (List.range 8).all fun i => k.val / 8 * 8 + i == k.val || z.pkg.fences.cluster (k.val / 8 * 8 + i)
      (last = false → ∃ t, exec (.clusterFence k (.hard cu arg)) s = .next t ∧ t.dev = x.wired (z.fenceClusterOnly k) ∧
        t.dev.pkg.fences.clusters.contains k.val = true ∧ (x.on dieShadowBaseEn = true → t.dev.pkg.shadows.contains k.val = true)) ∧
      (last = true → z.pkg.fences.dies = [] → Runs (.clusterFence k (.hard cu arg)) s (z.dieFaultOnly (k.val / 8)))) ∧
    (x.pkg.fences.dies.contains d.val = false → x.pkg.faulted.contains (544 + d.val) = false →
      let z := x.detect (dieSrc d 0) 0x50 1 0
      (x.pkg.fences.dies = [] → Runs (.computeDieFence (.compute d)) s (z.dieFaultOnly d) ∧ (z.dieFaultOnly d).pkg.fences.dies.contains d.val = true ∧
        (x.running = true → (z.dieFaultOnly d).flt.retry = true)) ∧
      (x.pkg.fences.dies ≠ [] → Runs (.computeDieFence (.compute d)) s ((z.detect (dieSrc d 1) 0x51 3 0).markFault (544 + d.val)))) ∧
    Runs (.clusterFence k (.corrected arg)) s (x.detect (clusterSrc k 3) 0x01 0 arg.toNat) ∧
    (unfenceable r = true → Runs (.computeDieFence (.base r)) s (x.detect r 0x51 3 0)) ∧
    (x.pkg.shadows.contains k.val = true → (x.pkg.shadows.any fun j => j != k.val) = true →
      ∃ t, exec (.shadowCopy k) s = .next t ∧ t.dev.cs = x.cs ∧ t.dev.cores = x.cores ∧ ∀ j, t.dev.pkg.shadows.contains j = (x.pkg.shadows.contains j && j != k.val))

/-- Messages are merged, logged and counted; squalls fence; a step retry begins and ends; packages are lost; FAULT_N follows the table. (R449, R450, R451, R453, R454, R458, R459, R460, R461) -/
def Obligations.FaultLogAndRetry : Prop :=
  ∀ (s : State) (m : Msg) (rest : List Msg) (r : Src) (kind : Fin 256) (tb n : Nat) (p : Fin 8192) (unit : List Nat) (bare : Bool) (bs : List Byte)
    (d : Dev) (e : Ecc) (c : Coll) (id : Nat),
    let x := s.dev
    let new : LogRec := ⟨m, x.fld fltSeqNext, false⟩
    (x.flt.msgs = m :: rest → m.cls ≠ 3 → x.fld fltSeqNext + 1 < 2 ^ 64 → ∃ t, exec .faultMessageLog s = .next t ∧
      t.dev.flt.log = (x.flt.log ++ [new]).drop (x.flt.log.length + 1 - 65536) ∧
      t.dev.fld fltSeqNext = x.fld fltSeqNext + 1 ∧
      t.dev.flt.uncl = (if m.cls = 0 ∨ 4096 ≤ x.flt.uncl.length then x.flt.uncl else x.flt.uncl ++ [new]) ∧
      t.dev.on fltStatusFaultN = (!t.dev.flt.uncl.isEmpty || t.dev.on fltStatusUnclOvf) ∧
      (m.cls ≠ 0 → 4096 ≤ x.flt.uncl.length → t.dev.on fltStatusUnclOvf = true)) ∧
    (x.flt.msgs = m :: rest → m.cls = 3 → x.jobState ≠ 0 → ∃ t, exec .faultMessageLog s = .next t ∧
      t.dev.jobState = if m.kind = 0x1D then 6 else 7) ∧
    (let old (q : Msg) : Bool := decide (q.born + 1000000 ≤ x.real)
     Runs .correctedMergeExpiry s { x with flt := { x.flt with
       msgs := x.flt.msgs ++ x.flt.merge.filter old, merge := x.flt.merge.filter fun q => !old q } }) ∧
    (x.fldOrAs ⟨.collector, r.die⟩ fltCtlSqCnt 1 ≤ x.squallSum r → (r.level == 3 && r.unit == 2) = false → x.srcFenced r = false →
      x.flt.silent.contains (r, kind.val) = false → fenceable r = true →
      Runs (.squall r kind) s ((let y := (x.satFld fltStatusSqualls 1).detect r 0x52 1 kind; if r.level = 4 then y.detect r 0x31 1 2 else y).fenceSource r)) ∧
    (x.flt.retrying = false → x.flt.retry = true → x.running = true → x.closeDecided = false → x.job.hold ≠ some 1 →
      x.job.retries < x.fld fltCtlRetryMax →
      Runs (.stepRetry none) s
        (({ x.notice 1 0 with flt := { (x.notice 1 0).flt with retrying := true } } : Dev).disarmFg.abortAll)) ∧
    (x.flt.retrying = true → x.fgRunning = false → x.running = true → x.discardWaits = false → ∃ t, exec (.stepRetry (some tb)) s = .next t ∧
      t.dev.job.retries = x.job.retries + 1 ∧ t.dev.flt.retrying = false ∧ t.dev.flt.retry = false ∧ t.dev.flt.noticed = false ∧
      t.dev.job.opened = none ∧ t.dev.disp.fg.armed = true ∧ t.dev.disp.fg.t0 = ceil8 (tb + 500000) ∧ t.dev.disp.fg.done = []) ∧
    (x.on fltNoticeEn = true → x.vRead (baseTlb x.pkg.lead) x.sysSrc 0 2 (x.fld fltNoticeBase * 65536 + 64 * p.val) 64 = (d, .data bs e) →
      e.lost = false → leAt bs 4 4 = d.fld sysJobStatusJobId → leAt bs 8 8 = d.fld sysStepStatusOrdinal → d.running = true →
      (leAt bs 0 1 = 1 → leAt bs 0x10 4 = d.fld timTtStatusRound → d.closeDecided = false →
        Runs (.noticeReceive p unit bare) s { d with flt := { d.flt with noticed := true } }) ∧
      (leAt bs 0 1 = 2 → Runs (.noticeReceive p unit bare) s (d.loseUnit (leAt bs 2 2 % 8192) unit bare))) ∧
    (x.running = true → x.isLost p = true → p.val ≠ x.ownPkg → x.inJob p = true → x.job.leaving.contains p.val = false →
      Runs (.packageLost p unit bare) s
        (let y := ((x.notice 2 p).detect x.sysSrc 0x1F 0 p).loseUnit p unit bare
         { y with fab := { y.fab with reborn := setDel y.fab.reborn p } })) ∧
    (x.coll id = some c → c.st = .entered → c.since + 1000000 ≤ x.real →
      Runs (.rendezvousProbe id) s
        ((((c.mem ++ c.umem).filter fun q => q != x.ownPkg && !c.gone.contains q).eraseDups.foldl
          (fun y q => (List.range 4).foldl (fun y i => y.probePath q i) y) x).pump)) ∧
    (x.fab.deaf = some n → x.running = true → n + 1000000 * x.fldOr fltCtlLostMs 1 ≤ x.real →
      Runs .allPortsOutOfService s (({ x with fab := { x.fab with deaf := some x.real } } : Dev).detect (dieSrc x.pkg.lead 1) 0x51 3 0))

/-- A step opens, overruns, is decided and finished: step counter, ordinal, round, counters 252 to 255, skip run, clip and membership. (R166, R183, R210, R327, R331, R332, R352) -/
def Obligations.StepOpensAndCloses : Prop :=
  ∀ (s : State) (t0 : Nat) (c : Close) (rest : List Byte) (err : Bool) (lo hi : Nat) (votes : List Ballot) (a : Admission) (d : Dev) (q : RunCmd),
    let x := s.dev
    let ev (y : Dev) (n i : Nat) : W32 := y.evGet (32 + i) n
    (x.job.joining = none → x.running = true → x.job.opened = none → x.job.close = none → (x.job.hold = none ∨ x.job.hold = some 1) →
      x.flt.retrying = false →
      ∃ t, exec .stepOpen s = .next t ∧ t.dev.job.opened = some x.leadNow ∧ t.dev.job.overrun = false ∧
        t.dev.fld memAccSatAccFg = 0 ∧ t.dev.fld memAccSatAccBrz = 0 ∧ (∀ i, i < 4 → t.dev.fld (colStatusSat.nth i) = 0) ∧
        t.dev.disp = x.disp ∧ t.dev.ev = x.ev ∧ t.dev.phys = x.phys) ∧
    (x.job.joining = some t0 → x.fld sysJobStatusState = 2 → x.sliceMoving (x.fld sysStepStatusOrdinal) = false → x.planMoving = false →
      ∃ t, exec .stepOpen s = .next t ∧ t.dev.fld sysJobStatusState = 3 ∧
        t.dev.job.joining = none ∧ t.dev.disp.fg.armed = true ∧ t.dev.disp.fg.t0 = t0) ∧
    (x.job.opened = some t0 → x.fld sysSupvCtlStepToMs ≠ 0 → x.job.overrun = false → t0 + 1000000 * x.fld sysSupvCtlStepToMs < x.leadNow →
      Runs .stepOverrun s
        (({ x with job := { x.job with overrun := true } } : Dev).detect x.sysSrc 0x19 0 (x.fld sysStepStatusOrdinal))) ∧
    (x.job.close = some c → c.decided = false → x.running = true → x.flt.retrying = false →
      let y := x.applyWaiting
      y.on sysStatBaseEn = false → y.on sysStepCtlPlanEn = false → (c.f = true → y.ledgerMoving = false) →
      ∃ t, exec (.stepClose (.decide rest err lo hi)) s = .next t ∧ t.dev.job.close = some { c with decided := true, err := err } ∧
        t.dev.job.decided = some (y.fld timTtStatusRound, c.f) ∧
        (y.on updCtlNormEn = false → t.dev.fld updNormStatClip = 0x3F800000) ∧
        (∀ i, i < 4 → ev t.dev 252 i = ev x 252 i + 1 ∧ ev t.dev 254 i = ev x 254 i + 1 ∧ ev t.dev 255 i = ev x 255 i + 1 ∧
          ev t.dev 253 i = ev x 253 i) ∧
        t.dev.fld sysStepStatusSkipRun = (if c.f then Nat.min (y.fld sysStepStatusSkipRun + 1) 255 else y.fld sysStepStatusSkipRun) ∧
        (err = true → t.dev.job.hold.isSome = true)) ∧
    (x.job.close = some c → c.decided = true → c.redo = none → x.running = true → (∀ i, i < 4 → (x.upd i).torn = none) →
      x.passesLeft (x.fld timTtStatusRound) = false → x.on updCtlDgEn = false → x.on updCtlNormEn = false → x.on sysStatBaseEn = false →
      x.on updCtlExpEn = false → (∀ i, i < 4 → (x.upd i).tag = none) → x.job.hold = none → x.job.cmds = [] → x.planMoving = false →
      ∃ t, exec (.stepClose (.finish votes)) s = .next t ∧ t.dev.job.close = none ∧ t.dev.job.opened = none ∧
        t.dev.step = (if c.f then x.step else x.step + 1) ∧
        t.dev.fld sysStepStatusOrdinal = (x.fld sysStepStatusOrdinal + 1) % 2 ^ 32 ∧
        t.dev.fld timTtStatusRound = (x.fld timTtStatusRound + 1) % 2 ^ 32 ∧
        (c.f = false → t.dev.fld sysStepStatusSkipRun = 0 ∧ t.dev.on sysStepStatusLastSkip = false) ∧
        (∀ i, i < 4 → ev t.dev 253 i = ev x 253 i + 1 ∧ ev t.dev 254 i = ev x 254 i ∧ (t.dev.upd i).sum = 0 ∧ (t.dev.upd i).dig = [0, 0, 0, 0]) ∧
        t.dev.job.expelled = x.job.leaving.foldl setAdd x.job.expelled ∧ t.dev.job.leaving = [] ∧ t.dev.fld sysJobStatusState = 3) ∧
    (x.job.close = none → x.job.opened = none → a.unit.any x.job.leaving.contains = false → a.unit.any x.job.barred.contains = false →
      (x.job.cmds.any (fun r => match r.what with
          | .admits _ => true
          | _ => false) = false → x.running = true →
        ∃ t, exec (.replicaAdmission a) s = .next t ∧ t.dev.job.expelled = x.job.expelled.filter (fun p => !a.unit.contains p)) ∧
      (x.job.cmds = [q] → q.what = .admits t0 → x.fld sysJobStatusState = 2 → a.unit.contains x.ownPkg = true → x.admitSource a.unit = some a.src →
        x.allDescs (fun n desc => a.copies.any fun k => k.1 == n && k.2.1 == desc) = true → x.copyShard a.copies = (d, some true) →
        ((({ d with job := { d.job with expelled := d.job.expelled.filter fun p => !a.unit.contains p, joining := some a.t0 },
                    col := { d.col with zeroAt := a.step.toNat + 1 } } : Dev).residAreas).2.any fun z => d.moving z.1 z.2) = false →
        ∃ t, exec (.replicaAdmission a) s = .next t ∧ t.dev.step = a.step ∧ t.dev.job.joining = some a.t0 ∧ t.dev.col.zeroAt = a.step.toNat + 1 ∧
          t.dev.job.cmds = []))

/-- One turn of each pass: the norm sums, the update writes state and tag of a block, LAMB sums, the digest joins; pauses, resumptions, tears. (R193, R197, R202, R207, R208, R211, R212, R213, R214, R216, R224) -/
def Obligations.UpdatePasses : Prop :=
  ∀ (s : State) (d : Fin 4) (m : Nat) (p : Pass) (d1 d2 d3 d4 d5 d6 : Dev) (ty t : Nat) (w : Bool) (bs set g c f : List Byte) (old : UBlk) (e1 e2 : Ecc),
    let x := s.dev
    let u := x.upd d
    let q := (List.range 16).map fun i => BitVec.ofNat 64 (leAt bs (8 * i) 8)
    let n := Nat.min 1024 (uCount q - 1024 * p.blk)
    let next (y : Dev) (r : Pass) : Dev := if uBlocks q ≤ r.blk then (y.endDesc d q r).getD x else y.setPass d r
    let more (y : Dev) : Dev := Dev.passTurns d p.kind m y
    let runs : Prop := u.run = some p ∧ p.paused = false ∧ x.pausedUnit ⟨.update, d⟩ = false
    let reads : Prop := runs ∧ p.begun = true ∧ p.fresh = false ∧ p.desc ≤ p.last ∧
      x.uRead d (x.updTable d + 0x10000 + 128 * p.desc) 128 = (d1, .ok bs) ∧ qualifies p.kind q = true ∧ d1.setOf d p (uHp q) = (d2, .ok set)
    (reads → p.kind = 0 → d2.vRead (baseTlb d) (updSrc d) 0 2 (uAddr q 4 + 2048 * p.blk) (2 * n) = (d3, .data g e1) →
      d3.vRead (baseTlb d) (updSrc d) 0 2 (uAddr q 5 + 32 * p.blk) (ceilDiv n 32) = (d4, .data c e2) →
      let lost (va k : Nat) : Bool := match (d2.vRead (baseTlb d) (updSrc d) 0 2 va k).2 with
        | .data _ e => e.lost
        | _ => false
      let size (i : Nat) : Nat := Nat.min 32 (n - 32 * i)
      let code (i : Nat) : Nat :=
        if lost (uAddr q 4 + 2048 * p.blk + 64 * i) (2 * size i) || lost (uAddr q 5 + 32 * p.blk + i) 1 then 0xFF else (c.getD i 0).toNat
      Runs (.normPass d (m + 1)) s (more (next ((List.range (ceilDiv n 32)).foldl (fun y i =>
        y.normGroup d p.brz (code i) ((List.range (size i)).map fun j => (bi16Int (leAt g (64 * i + 2 * j) 2)).1)) d4).normShow
        { p with blk := p.blk + 1 }))) ∧
    (reads → d2.readGrad d q p.blk n = (d3, some (g, c, f), false) → d3.readBlk d q p.blk n = (d4, some old, false) →
      let pars := newPars q (hypOf q set p.n.toNat p.lp) (some (d4.fld updNormStatClip)) d4.job.seed p.n p.blk n g c f old
      let new := storedBlk q old pars
      let tag := p.n.toNat + 1
      let dig (y : Dev) (b : UBlk) : Pass := { p with blk := p.blk + 1, dig := xorLanes p.dig (blockDigest y.job.seed q p.blk b) }
      let out : Dev := if d6.exports d q then d6.exportBlock d tag (blockRecord q ty p.blk (tag % 2 ^ 32) old new) else d6
      let mark : Dev := if uWc q && (workingCopy (uWcFmt q) new.mas).2.contains 0xFF then out.nonFinite p.brz else out
      let done : Dev := mark.count (dieBlk d) 17 1
      let kept : Dev := ((((d5.satFld (updStatusHeld.nth d) 1).detect (updSrc d) 0x15 0 (p.desc + p.blk * 2 ^ 12))).count (dieBlk d) 17 1).count (dieBlk d) 18 1
      (p.kind = 1 → (d2.exports d q && d2.ringMoving d) = false →
        (heldBlk q pars = false → d4.uWrite d (blockWrites q p.blk new new.mas (some tag)) = (d5, .done) →
          (if d5.exports d q then d5.recordType d p.desc p.blk tag else (d5, some 0, false)) = (d6, some ty, w) →
          Runs (.updatePass d (m + 1)) s (more (next done (dig done new)))) ∧
        (heldBlk q pars = true → d4.uWrite d [(uAddr q 13 + 8 * p.blk, natLe 8 tag)] = (d5, .done) →
          Runs (.updatePass d (m + 1)) s (more (next kept (dig kept old))))) ∧
      (p.kind = 2 →
        let tree (v : Nat → Nat) : Nat := (treeOf fAdd 10 ((List.range 1024).map v)).headD 0
        let sq (get : Nat → Par → Nat) (i : Nat) : Nat := match pars[i]? with
          | some (false, z) => fMul (get i z) (get i z)
          | _ => 0
        let sw := BitVec.ofNat 32 (fAdd p.sw.toNat (tree (sq fun i _ => (old.par q i).w)))
        let sr := BitVec.ofNat 32 (fAdd p.sr.toNat (tree (sq fun _ z => z.r)))
        Runs (.lambPassA d (m + 1)) s (more (next d4 { p with blk := p.blk + 1, sw, sr })))) ∧
    (reads → p.kind = 3 → d2.readBlk d q p.blk n = (d3, some old, false) →
      Runs (.digestPass d (m + 1)) s (more (next d3 { p with blk := p.blk + 1, dig := xorLanes p.dig (blockDigest d3.job.seed q p.blk old) }))) ∧
    (∀ y ∈ ([(.normPass d (m + 1), 0), (.updatePass d (m + 1), 1), (.lambPassA d (m + 1), 2), (.digestPass d (m + 1), 3)] : List (Instr × Nat)), runs → p.kind = y.2 →
      (p.fresh = false → p.last < p.desc → x.recMoving d p = false → Runs y.1 s (more (x.endPass d p true))) ∧
      (p.fresh = true → p.kind ≠ 1 → p.work.isSome = true → x.tableOk d = false → Runs y.1 s (more (x.passIllegal d p 4096)))) ∧
    (∀ y ∈ [Instr.normPass d 0, .updatePass d 0, .lambPassA d 0, .digestPass d 0], Idles y s) ∧
    (u.run = some p → p.paused = false → p.kind = 1 → p.work = none → x.stopping false = true →
      Runs (.updatePassPause d) s ((x.pausePass d).stopSettle)) ∧
    (u.run = some p → p.paused = true → x.passHeld d p = false → x.uRead d (x.updTable d + 0x4000) 16 = (d1, .ok bs) →
      leAt bs 0 8 = p.n.toNat → leAt bs 0xA 1 = 1 → leAt bs 0xB 1 % 4 = 3 → d1.uWrite d [(x.updTable d + 0x400B, natLe 1 1)] = (d2, .done) →
      Runs (.updatePassResume d) s (((d2.setPass d { p with
        desc := leAt bs 8 2, blk := leAt bs 0xC 4, begun := leAt bs 8 2 == p.desc && p.begun, paused := false, rec_ := some (leAt bs 8 2) }).updShow d).noteBreeze)) ∧
    (u.run = some p → p.paused = false → p.rec_ = some t → p.kind = 1 ∨ p.kind = 3 →
      let run := if p.kind = 3 then u.kept.head? else some { p with paused := true }
      let dig := if p.kind = 1 ∧ t < p.desc then xorLanes u.dig p.dig else u.dig
      Runs (.tornShard d) s
        (((x.setUpd d { u with
          run, kept := if p.kind = 3 then u.kept.tail else u.kept, dig, restore := none, torn := some t }).updShow d).detect (updSrc d) 0x16 2 t))

/-- An eligible instance is released and its work starts on its unit; a completed one arrives and returns charges; yields, budget waits, one-offs. (R197, R321, R346, R347, R353, R354, R355, R357, R363, R365, R367, R368) -/
def Obligations.ReleasesStartWork : Prop :=
  ∀ (s : State) (r : Rel) (cause : Fin 6) (y : Cand) (i : Inst) (e : SubEntry) (u : YieldUnit) (lag ns : Nat) (h : Held) (since : Nat),
    let x := s.dev
    let w := y.workOf
    let z := x.released r y cause
    let ready : Prop := x.cand r = some y ∧ x.eligibleNow y = true
    let bytes := oneBytes e.body
    (ready → eKind y.e = 0 → ∃ t, exec (.segmentRelease r cause) s = .next t ∧ ∀ (d : Dev),
      let c := x.physCore (eDisp y.e) w.lcore
      let z1 := ((z.csWrite (c / 16) (cellsAt (z.ctxSlot c + 0xC) [0])).onCore c fun k => { k with slots := [] }).clearLocal w.dom
        (bits w.w1.toNat 32 8) (bits w.w1.toNat 40 4)
      z.physCore (eDisp y.e) w.lcore = c → z1.loadSegment c w = (d, true) →
      t.dev.core c = { d.core c with pc := bits w.w0.toNat 40 20, run := .issuing, work := some w, grant := d.pmc.grant, since := 0, accs := false }) ∧
    (ready → eKind y.e = 1 → ∀ h, z.need y.e = .chan h →
      let core := if eDisp y.e < 32 then some (z.physCore (eDisp y.e) w.lcore) else none
      ((z.chan h).st = .idle →
        Runs (.dmaChainEntryRelease r cause) s (z.startChain h (bits (eW0 y.e) 0 52) y.brz core .entry (some w)).noteBreeze) ∧
      ((z.chan h).st ≠ .idle →
        Runs (.dmaChainEntryRelease r cause) s
          (({ z with disp := { z.disp with parked := Sparse.set (always Chan.idle) z.disp.parked h (z.chan h) } } : Dev).startChain h
            (bits (eW0 y.e) 0 52) y.brz core .entry (some w)).noteBreeze)) ∧
    (ready → eKind y.e = 3 →
      let d := eDisp y.e - 32
      let p := passOf w z.step
      let skip : Prop := (p.kind = 1 ∨ p.kind = 2) ∧ y.brz = false ∧ z.skippedRound y.round = true
      (skip → Runs (.updatePassRelease r cause) s (z.endWork (some w) true).noteBreeze) ∧
      (¬ skip → Runs (.updatePassRelease r cause) s
        ((z.setUpd d { z.upd d with run := some p, kept := (z.upd d).run.toList ++ (z.upd d).kept }).setFld (updStatusState.nth d) 1).noteBreeze)) ∧
    (ready → eKind y.e = 4 → x.disp.mapSw = none →
      let slot := bits w.w0.toNat 0 2
      (bit (z.fld colMapLoaded) slot = false → Runs (.mapSwitch r cause) s (z.endWork (some w) false).noteBreeze) ∧
      (bit (z.fld colMapLoaded) slot = true → z.col.live = [] →
        Runs (.mapSwitch r cause) s
          ((({ z with disp := { z.disp with mapSw := none } } : Dev).setFld colMapSlot slot).endWork (some w) true).noteBreeze) ∧
      (bit (z.fld colMapLoaded) slot = true → z.col.live ≠ [] →
        Runs (.mapSwitch r cause) s ({ z with disp := { z.disp with mapSw := some (slot, w, z.liveColls) } } : Dev).noteBreeze)) ∧
    (ready → eKind y.e = 5 → Runs (.signalRelease r cause) s (completionEffect r (z.endWork (some w) true).noteBreeze)) ∧
    (x.instOf r = some i →
      let w := i.work
      let y := ({ x with disp := { x.disp with insts := x.disp.insts.filter fun j => !(j == i) } } : Dev).freeCore w
      let on (d : Dev) : Dev := d.startMoved.noteBreeze.stopSettle
      (i.ended = some true → w.one = none →
        let d := (y.entryArrivals i.bytes).returnCharges w
        let t := d.table w.brz
        let d : Dev := { d with disp := { d.disp with
          doneAt := Sparse.set (always 0) d.disp.doneAt (if w.brz then 65536 + w.entry else w.entry) (d.now (d.domDie w.disp)) } }
        (d.doneOf w.brz w.entry = w.round →
          Runs (.instanceCompletion r) s (on (d.setTable w.brz { t with done := Sparse.set (always 0) t.done w.entry (w.round + 1) }))) ∧
        (d.doneOf w.brz w.entry ≠ w.round → Runs (.instanceCompletion r) s (on (d.setTable w.brz t)))) ∧
      (∀ q cid, i.ended = some true → w.one = some (q, cid) →
        Runs (.instanceCompletion r) s
          (on (((y.entryArrivals i.bytes).returnCharges w).complete q cid i.quiet 0 (BitVec.ofNat 64 i.start)))) ∧
      (i.ended = some false → w.one = none →
        let d := if i.hush then y else y.detect (dispSrc w.disp) 0x17 2 w.arg
        Runs (.instanceCompletion r) s (on { d with disp := { d.disp with failed := d.disp.failed ++ [(w.brz, w.entry)] } })) ∧
      (∀ q cid, i.ended = some false → w.one = some (q, cid) →
        Runs (.instanceCompletion r) s
          (on ((if i.hush then y else y.detect (dispSrc w.disp) 0x17 2 (w.entry % 65536 + 65536 * b2n w.brz)).complete q cid i.quiet 0x0503
            (BitVec.ofNat 64 i.start))))) ∧
    (∀ c : Fin 512, u = .core c → x.heldByBreeze (.core c) = true → x.wanted (· == .core c.val) = true →
      Runs (.breezeYield u lag ns) s ((preemptEffect c lag x).countYield ns).startMoved) ∧
    (∀ c, u = .dma c → x.heldByBreeze (.chan c) = true → x.wanted (· == .chan c.val) = true →
      Runs (.breezeYield u lag ns) s ((x.onChan c fun q => { q with pause := true, lent := true }).countYield ns)) ∧
    (∀ d, u = .update d → x.heldByBreeze (.update d) = true → x.wanted (· == .update d.val) = true →
      (x.pausePass d).heldByBreeze (.update d) = false →
      Runs (.breezeYield u lag ns) s ((x.pausePass d).countYield ns)) ∧
    (x.cand r = some y → x.heldOf y = some h → h.told = false → h.since = some since → x.chargeFits y = false → since + 1000000 < x.real →
      Runs (.budgetWait r) s
        (({ x with disp := { x.disp with waits := x.disp.waits.map fun g => if g = h then { h with told := true } else g } } : Dev).detect
          (dispSrc (eDisp y.e)) 0x18 0 (y.work 0).arg)) ∧
    (x.fetched 1 1 e = true → (x.disp.ones.any fun o => o.q == e.q) = false → x.oneStatus bytes = 0 → Runs (.workEntry e) s
      { x with disp := { x.disp with ones := x.disp.ones ++ [⟨x.disp.oneNext, bytes, e.q, e.cid, e.quiet⟩], oneNext := x.disp.oneNext + 1 } }) ∧
    (x.fetched 1 1 e = true → (x.disp.ones.any fun o => o.q == e.q) = false → x.oneStatus bytes ≠ 0 → Runs (.workEntry e) s (x.complete e.q e.cid e.quiet (x.oneStatus bytes) 0))

/-- SHARD_REPAIR and SHARD_RESTORE put a descriptor's bytes in place and let its pass go on; records leave to a sink ring or a host queue. (R215, R216, R218, R221, R300, R325, R328, R333, R392) -/
def Obligations.ShardsAndExports : Prop :=
  ∀ (s : State) (d : Fin 4) (desc : Fin 4096) (src : Fin 8192) (arrs : List (List Byte)) (img bs old : List Byte) (d1 d2 d3 e : Dev) (q : List W64)
      (m : Nat) (cons : W64) (p : Pass) (r : Restore),
    let x := s.dev
    let u := x.upd d
    let found : Prop := x.descOf d desc = (d1, some q)
    let ends (y : Dev) : Dev := y.restoreDone d desc 0 ((copyPieces q (y.updTable d) desc arrs).foldl (fun n z => n + z.2.length) 0)
    let tags := nums 8 (uBlocks q) (padTo (8 * uBlocks q) (arrs.getD 6 []))
    let tag := tags.headD 0
    (x.restoreWanted d desc src = true → found → tags.all (· == tag) = true →
      d1.uWrite d (copyPieces q (d1.updTable d) desc arrs) = (d2, .done) → d2.restoreKeys d q tag = (d3, .done) →
      let dig := (List.range 4).map fun l => BitVec.ofNat 64 (leAt (arrs.getD 7 []) (8 * l) 8)
      ((d1.upd d).torn = some desc.val → tag = d1.step.toNat + 1 →
        Runs (.shardRepair d desc src arrs) s
          (ends ((d3.setUpd d { d3.upd d with dig := xorLanes (d3.upd d).dig dig }).mended d (desc + 1) dig))) ∧
      ((d1.upd d).torn ≠ some desc.val → Runs (.shardRepair d desc src arrs) s (ends (d3.noteRestored d desc tag)))) ∧
    (u.image = some (desc.val, img) → u.restore = none →
      (u.torn = some desc.val ∨ (u.torn = none ∧ ∀ z, u.run = some z → z.paused = true)) → found →
      let tag := leAt img 0x10 8
      let serves : Dev × UWrite := if u.torn = some desc.val then (if imageCovers q (uExp q) then d1.gradReadable d q else (d1, .bad)) else (d1, .done)
      (serves = (e, .bad) → Runs (.shardRestore d desc m) s ((e.holdJob 3).restoreDone d desc 0x020E 0)) ∧
      (serves = (e, .done) → (u.torn = some desc.val → tag = e.step.toNat) → imageCovers q (leAt img 4 1) = true → leAt img 8 8 = uCount q →
        e.uRead d (uAddr q 13) (8 * uBlocks q) = (d2, .ok old) →
        d2.uWrite d (imagePieces q img ++ [(uAddr q 13, (List.range (uBlocks q)).flatMap fun _ => natLe 8 tag)]) = (d3, .done) →
        let want := (List.range 4).map fun l => BitVec.ofNat 64 (leAt img (0x20 + 8 * l) 8)
        let n := (imagePieces q img).foldl (fun n z => n + z.2.length) 0
        let v := d3.upd d
        let run : Pass := { updatePass desc desc d3.step with kind := 3, fresh := false }
        let w := d3.setUpd d { v with run := some run, kept := v.run.toList ++ v.kept, restore := some ⟨desc, tag, want, old, n⟩ }
        Runs (.shardRestore d desc m) s (Dev.passTurns d 3 m (w.setFld (updStatusState.nth d) 1)))) ∧
    (p.kind = 3 → u.restore = some r →
      (p.dig ≠ r.want → x.uWrite d [(uAddr q 13, r.old), (x.updTable d + 0x400B, natLe 1 0)] = (d1, .done) →
        x.endDesc d q p = some (((d1.unkeep d).updShow d).restoreDone d r.desc 0x020A 0)) ∧
      (p.dig = r.want → x.uWrite d [(x.updTable d + 0x90000 + 32 * r.desc, digestBytes r.want), (x.updTable d + 0x400B, natLe 1 0)] = (d1, .done) →
        (d1.unkeep d).restoreKeys d q r.tag = (d2, .done) → (d2.upd d).torn = some r.desc → (d2.upd d).run.isSome = true →
        x.endDesc d q p = some ((d2.mended d r.desc [0, 0, 0, 0]).restoreDone d r.desc 0 r.n))) ∧
    (∀ pkg addr size prod c, u.sink = .ring pkg addr size prod c →
      Runs (.sinkConsumerPoll d cons) s (x.setUpd d { u with sink := .ring pkg addr size prod cons.toNat }) ∧
      (x.exportBusy d = false → 0 < u.flight →
        Runs (.exportForward d) s
          ((x.setUpd d { u with fwd := u.fwd + u.flight, flight := 0, sink := u.sinkNew.getD (.ring pkg addr size (prod + u.flight) c), sinkNew := none }).pushBytes pkg addr (2 + d)
            (natLe 8 (prod + u.flight))).pump) ∧
      (x.exportBusy d = false → u.flight = 0 → x.nextRecord d = (d1, some bs) →
        (prod - c + bs.length ≤ size - 64 →
          Runs (.exportForward d) s
            ((ringPieces (size - 64) prod bs).foldl (fun y p => y.pushBytes pkg (addr + 64 + p.1) (2 + d) p.2)
              (d1.setUpd d { d1.upd d with flight := bs.length })).pump) ∧
        (size - 64 < prod - c + bs.length → Runs (.exportForward d) s d1))) ∧
    (∀ k, u.sink = .queue k → x.nextRecord d = (d1, some bs) →
      let n := ceilDiv bs.length 64
      ((d1.qctx k).live = true → n ≤ (d1.qctx k).room →
        Runs (.exportQueueWrite d) s
          (let y := d1.qAppend k ((List.range n).map fun i => padTo 64 ((bs.drop (64 * i)).take 64))
           y.setUpd d { y.upd d with fwd := (y.upd d).fwd + bs.length })) ∧
      ((d1.qctx k).room < n → Runs (.exportQueueWrite d) s d1))

/-- The time exchange, its 16 ms window and timeout, SYNC_IN, the reference clocks and heartbeats set time, lock and the in-use input. (R26, R339, R341, R342, R343, R344, R371, R476, R477, R478, R537) -/
def Obligations.TimeTransferAndClocks : Prop :=
  ∀ (s : State) (port : Fin 16) (g : List Byte) (ns : Fin 2001) (b : Bool) (d : Dev) (p rtt : Nat) (th2 : Int),
    let x := s.dev
    let now := x.now 0
    let pay := gPayload g
    (x.follower = true → (∀ u, x.tim.sent = some u → u + 1000000 ≤ now) → x.timePort = some p →
      let seq := (x.tim.seq + 1) % 65536
      Runs .timeRequestSend s
        (({ x with tim := { x.tim with seq, sent := some now, port := p } } : Dev).timeGust p (x.fld timStatusMpkg)
          (timePayload 1 (x.on timStatusLock) seq x.ownPkg now 0 0))) ∧
    (x.timeTake port g = (d, true) → d.follower = false → leAt pay 0 1 = 1 →
      Runs (.timeRequest port g ns) s
        (d.timeGust port (gSrc g) (timePayload 2 (d.on timStatusLock) (leAt pay 2 2) d.ownPkg (leAt pay 8 8) (d.now 0) (d.now 0 + ns)))) ∧
    (x.timeTake port g = (d, true) → d.follower = true → leAt pay 0 1 = 2 → leAt pay 2 2 = d.tim.seq → d.tim.sent ≠ none → leAt pay 1 1 % 2 = 1 →
      let th2 : Int := ((leAt pay 0x10 8 : Int) - leAt pay 8 8) - ((d.now 0 : Int) - leAt pay 0x18 8)
      let rtt := (((d.now 0 : Int) - leAt pay 8 8) - ((leAt pay 0x18 8 : Int) - leAt pay 0x10 8)).toNat
      ((∀ z, d.tim.best = some z → rtt < z.2) →
        Runs (.timeReply port g) s (({ d with tim := { d.tim with best := some (th2, rtt), valid := d.real } } : Dev).setBit timStatusHoldover false)) ∧
      (∀ z, d.tim.best = some z → z.2 ≤ rtt →
        Runs (.timeReply port g) s (({ d with tim := { d.tim with valid := d.real } } : Dev).setBit timStatusHoldover false))) ∧
    (x.follower = true → x.tim.winAt + 16000000 ≤ x.real → x.tim.best = none →
      Runs .timeWindow s { x with tim := { x.tim with winAt := x.real, good := 0 } }) ∧
    (x.follower = true → x.tim.winAt + 16000000 ≤ x.real → x.tim.best = some (th2, rtt) →
      let sat : Int := max (-32767) (min 32767 (th2 / 2))
      let good := if th2.natAbs ≤ 20 then x.tim.good + 1 else 0
      let steps : Prop := x.tim.first = true ∧ x.on timStatusLock = false ∧ x.running = false ∧ 2000 < th2.natAbs
      let y : Dev := { ((x.setFld timStatusOffset (wrap 16 sat)).setFld timStatusRtt (Nat.min 65535 rtt)) with
        tim := { x.tim with best := none, winAt := x.real, first := false, good, rate := max (-1600) (min 1600 th2) } }
      (¬ steps → (40 < th2.natAbs → Runs .timeWindow s (y.setLock false)) ∧
        (th2.natAbs ≤ 40 → 4 ≤ good → Runs .timeWindow s (y.setLock true)) ∧ (th2.natAbs ≤ 40 → good < 4 → Runs .timeWindow s y)) ∧
      (steps → Runs .timeWindow s ((y.stepTime (th2 / 2)).setLock false))) ∧
    (x.follower = true → x.on timStatusLock = true → x.tim.valid + 100000000 ≤ x.real → Runs .timeExchangeTimeout s (x.setLock false)) ∧
    (x.follower = false → (∀ u, x.tim.edge = some u → u + 900000000 ≤ x.real) →
      let k := toSecond now
      let seen (y : Dev) : Dev := (({ y with tim := { y.tim with edge := some y.real, jump := false } } : Dev).setBit timStatusSyncSeen true).setLock true
      (x.fld timStatusRole = 2 → x.tim.jump = true → 1000000 < k.natAbs → Runs .syncInEdge s (seen (x.stepTime k))) ∧
      (x.fld timStatusRole = 2 → ¬ (x.tim.jump = true ∧ 1000000 < k.natAbs) → Runs .syncInEdge s (seen { x with tim := { x.tim with slew := k } })) ∧
      (x.fld timStatusRole ≠ 2 → Runs .syncInEdge s (seen x))) ∧
    (x.follower = false → x.tim.edge.getD x.tim.winAt + 3000000000 ≤ x.real →
      Runs .syncInTimeout s ((({ x with tim := { x.tim with edge := none, slew := 0, jump := false } } : Dev).setBit timStatusSyncSeen false).setLock true)) ∧
    (x.on dieClkInUse = b → x.on (clkOk !b) = true → ∃ u, exec (.refclkLoss b) s = .next u ∧ u.dev.on (clkOk b) = false ∧
      u.dev.on dieClkInUse = !b ∧ u.dev.fld dieClkChanges = (x.satFld dieClkChanges 1).fld dieClkChanges) ∧
    ((x.on dieClkInUse ≠ b ∨ x.on (clkOk !b) = false) → Runs (.refclkLoss b) s (x.setBit (clkOk b) false)) ∧
    (x.on dieClkHoldover = true → ∃ u, exec (.refclkValid b) s = .next u ∧ u.dev.on dieClkHoldover = false ∧ u.dev.on dieClkInUse = b ∧
      u.dev.on (clkOk b) = true) ∧
    (x.on dieClkHoldover = false → (x.on dieClkRevert = true ∧ x.on dieClkPref = b) → ∃ u, exec (.refclkValid b) s = .next u ∧
      u.dev.on dieClkInUse = b ∧ u.dev.on (clkOk b) = true) ∧
    (x.on dieClkHoldover = false → ¬ (x.on dieClkRevert = true ∧ x.on dieClkPref = b) →
      Runs (.refclkValid b) s (x.setBit (clkOk b) true)) ∧
    (x.on dieClkAOk = false → x.on dieClkBOk = false → x.on dieClkHoldover = false →
      Runs .refclkHoldover s ((x.setBit dieClkHoldover true).detect (pkgSrc 0 7) 0x41 0 (b2n (x.on dieClkInUse)))) ∧
    (x.pkg.hbAt + 1000000 ≤ now →
      Runs (.heartbeat b) s { x with pkg := { x.pkg with hbMissed := if b then 0 else x.pkg.hbMissed + 1, hbAt := now } }) ∧
    (now < x.pkg.hbAt + 1000000 → Idles (.heartbeat b) s)

/-- Each kind of gust for this package that passes the checks of R391 has its effect; one for elsewhere is staged and forwarded; a bad CRC is counted. (R382, R384, R388, R390, R391, R392, R393, R394, R395, R398, R399, R422) -/
def Obligations.GustsAreTaken : Prop :=
  ∀ (s : State) (port : Fin 16) (pbr : Fin 4096) (g bs : List Byte) (d z : Dev) (c : Coll) (pr : Nat × Nat × Nat) (e : Ecc),
    let x := s.dev
    let src := gSrc g
    let takes (eclass op : Nat) (held : Dev → Bool) : Prop := x.take port g (isGust eclass op) held = (d, true)
    let free (_ : Dev) : Bool := true
    let ends (i : Instr) (v : Dev) : Prop := Runs i s v.settleLeave
    let y := d.newSource src (gSinc g)
    let k := d.controlSource src (gSinc g)
    let dup := (y.rxOf src (gEclass g)).dup (gSeq g)
    (x.on fabCtlEn = true → x.portUp port = true → x.pausedUnit ⟨.port, port⟩ = false → gustCrcOk g = false →
      ∀ i ∈ [Instr.gustWrite port g, .gustRead port g, .gustReplyData port g, .gustCollectiveData port g, .gustAck port g, .gustAsk port g,
        .gustGrant port g, .gustReturn port g, .gustStale port g, .gustRack port g, .gustProbe port g, .gustProbeAnswer port g, .gustRelay port pbr g],
        ends i ((((x.count (portBlk port) 1 (gLen g)).count (portBlk port) 3 1).satFld fabErrCrcBad 1).count (portBlk port) 5 1)) ∧
    (takes 0 0 (fun v => gWin g == 0 && decide (0 < v.grantedTo src 0)) → gEclass g = 0 →
      (dup = true → ends (.gustWrite port g) (y.noteRx g).pump) ∧
      (dup = false → (y.intoPool port 0 (gPayload g)).vWrite (baseTlb (port.val % 4)) (portSrc port) 0 (gAddr g) (gPayload g) = (z, .done) →
        ends (.gustWrite port g) (z.noteRx g).pump)) ∧
    (takes 0 1 (fun v => decide (1 ≤ gAseq g) && decide (gAseq g ≤ 4032) && decide (0 < v.grantedTo src 0)) →
      y.vRead (baseTlb (port.val % 4)) (portSrc port) 0 2 (gAddr g) (gAseq g) = (z, .data bs e) → e.lost = false →
      ends (.gustRead port g) ((z.noteRx g).reply g bs).pump) ∧
    (takes 1 0 (fun v => v.fab.reads.any (replyTo g)) →
      let mine (r : Read) : Bool := replyTo g r && r.data.isNone && gLen g == r.len
      let v := if y.fab.reads.any mine = true then y.intoSlot port (y.replySlot (gWin g)) (gPayload g) else y
      let fill (r : Read) : Read := if mine r = true then { r with data := some (gPayload g) } else r
      ends (.gustReplyData port g) ({ v with fab := { v.fab with reads := v.fab.reads.map fill } } : Dev).pump) ∧
    (takes 3 0 (fun v => match v.posted (gWin g) with | some c => c.fits v.ownPkg (gAddr g) (gLen g) | none => false) →
      gEclass g = 3 → dup = false → y.posted (gWin g) = some c →
      let q (v : Dev) : Dev :=
        let n := (v.noteRx g).ringSend 4 0 16 (port.val % 4) c.eng (gSeq g % 2) (gPayload g).length
        { n with col := { n.col with live := n.col.live.map fun l => if l.id = c.id then { c with got := c.got ++ [(src, gAddr g, gPayload g)] } else l } }
      let n := (c.region y.ownPkg).1
      let code : Prop := n ≤ gAddr g ∧ 0 < gLen g
      (c.moves = false → ends (.gustCollectiveData port g) (q y).pump) ∧
      (c.moves = true → ¬ code → y.vWrite (baseTlb c.eng) (dieSrc c.eng 6) 2 ((wordAt c.q 4).toNat + gAddr g) (gPayload g) = (z, .done) →
        ends (.gustCollectiveData port g) (q z).pump) ∧
      (c.moves = true → code → y.vWrite (baseTlb c.eng) (dieSrc c.eng 6) 2 ((wordAt c.q 6).toNat + (gAddr g - n)) (gPayload g) = (z, .done) →
        ends (.gustCollectiveData port g) (if (gPayload g).contains 0xFF = true then (q z).nonFinite false else q z).pump)) ∧
    (takes 1 1 free → ends (.gustAck port g)
      (let l := k.fab.sent.filter (acked g)
       let a := l.foldl (fun (a : Dev) (t : TxGust) => a.clearStreak t.dst t.path) { k with fab := { k.fab with sent := k.fab.sent.filter fun t => !acked g t } }
       (a.usedNow src (gWin g)).levelComes src (gWin g) (gSeq g)).pump) ∧
    (takes 1 2 free →
      (poolWin (gWin g) || (k.posted (gWin g)).isSome) = true →
        let a : Ask := ⟨src, gWin g, gSeq g, k.real⟩
        let old : Prop := (k.fab.askers.any fun b => b.pkg == src && b.win == gWin g) = true
        (old → ends (.gustAsk port g)
          ({ k with fab := { k.fab with askers := k.fab.askers.map fun b => if b.pkg = a.pkg ∧ b.win = a.win then a else b } } : Dev).serveAsks.pump) ∧
        (¬ old → ends (.gustAsk port g) ({ k with fab := { k.fab with askers := k.fab.askers ++ [a] } } : Dev).serveAsks.pump)) ∧
    (takes 1 2 free → (poolWin (gWin g) || (k.posted (gWin g)).isSome) = false → ends (.gustAsk port g) (k.satFld fabErrMisroute 1).pump) ∧
    (takes 1 3 free → ends (.gustGrant port g) (k.levelComes src (gWin g) (gSeq g)).pump) ∧
    (takes 1 4 free →
      let n := Nat.min (k.grantedTo src (gWin g)) (gSeq g)
      ends (.gustReturn port g) ((k.setGranted src (gWin g) n).control src 3 1 (gWin g) n 0 0).serveAsks.pump) ∧
    (takes 1 5 free → ends (.gustStale port g) (k.forget src).pump) ∧
    (takes 1 6 free →
      let mine (t : Slot) : Bool := t.eddy == src && t.eclass == gEclass g && t.seq == gAseq g && t.src == gAddr g % 8192
      ends (.gustRack port g) ((k.fab.slots.filter mine).foldl (fun (a : Dev) (t : Slot) => a.usedNow t.eddy t.stage)
        { k with fab := { k.fab with slots := k.fab.slots.filter fun t => !mine t } }).pump) ∧
    (takes 1 7 free → ends (.gustProbe port g) (k.control src 8 1 0 0 (gAseq g) 0).pump) ∧
    (takes 1 8 free → (k.fab.probes.find? fun p => p.1 == gAseq g && p.2.1 / 4 == src) = some pr →
      ends (.gustProbeAnswer port g)
        ((({ k with fab := { k.fab with
            probes := k.fab.probes.filter fun p => p.1 != pr.1, down := setDel k.fab.down pr.2.1,
            eddies := k.fab.eddies.filter fun t => !(k.pathEddies (k.pathWord (pr.2.1 / 4) (pr.2.1 % 4))).contains t } } : Dev).clearStreak
          (pr.2.1 / 4) (pr.2.1 % 4)).pump)) ∧
    (x.on fabCtlEn = true → x.portUp port = true → x.pausedUnit ⟨.port, port⟩ = false → gustCrcOk g = true → gustForm g = true →
      64 + gLen g ≤ g.length → gDst g ≠ x.ownPkg → gHi g < gNh g →
      let a := (x.count (portBlk port) 1 (gLen g)).count (portBlk port) 3 1
      let b := g.set 3 (BitVec.ofNat 8 (leAt g 3 1 + 4))
      let stage := if gHi b < gNh b then stageA else stageB
      let up := pkgOn (x.plane port) pbr
      let held := (x.fab.relays.filter fun r => r.up == up && r.stage == stage && !relayedControl r.bytes).length
      (relayedControl b = true → ends (.gustRelay port pbr g) (a.forward ⟨b, up, stage, x.real⟩).pump) ∧
      (relayedControl b = false → held < x.grantedTo up stage →
        ends (.gustRelay port pbr g) ((a.intoPool port stage b).forward ⟨b, up, stage, x.real⟩).pump) ∧
      (relayedControl b = false → x.grantedTo up stage ≤ held → ends (.gustRelay port pbr g) (a.satFld fabErrMisroute 1)))

/-- The transport's timers drop, free, resend, ask again, return and probe exactly what is due, an owed ack is sent, and a port change is reported. (R374, R375, R388, R390, R392, R393, R394, R395, R397, R405, R448, R503) -/
def Obligations.FabricTimersAndPorts : Prop :=
  ∀ (s : State) (src : Fin 8192) (eclass : Fin 5) (p : Fin 16) (width : Fin 32) (rate : Fin 4) (pbr : Option (Fin 4096)),
    let x := s.dev
    let t := x.real
    let due (g : TxGust) : Bool := g.eclass != 1 && decide (g.time + 1000 * Nat.max 4 (x.fld fabTimeoutToUs) ≤ t)
    Runs .relayForwardTimeout s
      (({ x with fab := { x.fab with relays := x.fab.relays.filter fun r => !decide (r.time + 5000 ≤ t) } } : Dev).satFld fabErrMisroute
        (x.fab.relays.filter fun r => decide (r.time + 5000 ≤ t)).length).pump ∧
    Runs .relaySlotTimeout s ({ x with fab := { x.fab with slots := x.fab.slots.filter fun l => !decide (l.time + 10000 ≤ t) } } : Dev).pump ∧
    (let b := (x.fab.sent.filter fun g => due g && g.port != 16).foldl (fun b g => b.streak g.dst g.path) x
     Runs .resendTimeout s (b.resendAll due).pump) ∧
    (let late (r : Read) : Bool := r.data.isNone && r.seq.isSome && decide (r.time + 1000 * Nat.max 4 (x.fld fabTimeoutToUs) ≤ t) &&
        !(x.fab.sent.any fun g => g.eclass == 0 && g.op == 1 && g.dst == r.dst && g.win == r.slot)
     let again (r : Read) : TxGust := { dst := r.dst, eclass := 0, op := 1, win := r.slot, seq := r.seq.getD 0, aseq := r.len, addr := r.addr,
                                        payload := [], path := 4, port := 16, time := 0, user := 8 }
     Runs .readReplyTimeout s
       (((x.fab.reads.filter late).foldl (fun (b : Dev) r => b.resend (again r))
         { x with fab := { x.fab with reads := x.fab.reads.map fun r => if late r then { r with time := t } else r } }).pump)) ∧
    (let a := x.fab.asks.filter fun k => decide (k.time + 10000 ≤ t)
     let r := x.fab.rets.filter fun k => decide (k.time + 10000 ≤ t)
     let b := a.foldl (fun b k => b.control k.pkg 2 1 k.win k.want 0 0) x
     let b := r.foldl (fun b k => b.control k.pkg 4 1 k.win k.kept 0 0) b
     Runs .askRepeat s
       { b with fab := { b.fab with asks := b.fab.asks.map fun k => if a.contains k then { k with time := t } else k,
                                    rets := b.fab.rets.map fun k => if r.contains k then { k with time := t } else k } }) ∧
    (let busy (pkg win : Nat) : Bool :=
       if win = 0 then x.fab.sent.any fun g => g.dst == pkg && g.eclass == 0 else x.fab.slots.any fun l => l.eddy == pkg && l.stage == win
     let l := x.fab.levels.filter fun e => (e.1 % 65536 == 0 || e.1 % 65536 == stageA || e.1 % 65536 == stageB) &&
       !busy (e.1 / 65536) (e.1 % 65536) && decide (Sparse.get (always 0) x.fab.idle e.1 + 50000 ≤ t)
     let back (b : Dev) (e : Nat × Nat) : Dev :=
       let b := b.setLevel (e.1 / 65536) (e.1 % 65536) 0
       ({ b with fab := { b.fab with rets := b.fab.rets ++ [Ret.mk (e.1 / 65536) (e.1 % 65536) 0 t] } } : Dev).control (e.1 / 65536) 4 1
         (e.1 % 65536) 0 0 0
     Runs .levelIdleReturn s (l.foldl back x).fabShow.calmReached) ∧
    (let marked (k : Nat) : Bool :=
       let w := x.pathWord (k / 4) (k % 4)
       pwV w && x.portUp (pwPort w) && (x.fab.down.contains k || (x.pathEddies w).any x.fab.eddies.contains)
     let probe (b : Dev) (k : Nat) : Dev :=
       let n := (b.fab.probe + 1) % 2 ^ 32
       ({ b with fab := { b.fab with probe := n, probes := b.fab.probes.filter (fun q => q.2.1 != k) ++ [(n, k, b.real)] } } : Dev).controlOn
         (b.pathWord (k / 4) (k % 4)) (k / 4) 7 1 0 0 n 0
     (x.fab.probeAt + 1000000 * x.fldOr fabTimeoutProbeMs 1 ≤ x.leadNow →
       Runs .probeTimer s (((x.fab.paths.map Prod.fst).filter marked).foldl probe { x with fab := { x.fab with probeAt := x.leadNow } })) ∧
     (x.leadNow < x.fab.probeAt + 1000000 * x.fldOr fabTimeoutProbeMs 1 → Idles .probeTimer s)) ∧
    (let r := x.rxOf src eclass
     (r.due = true → x.controlPath src ≠ none →
       Runs (.ackSend src eclass) s
         ((x.setRx src eclass { r with due := false }).control src 1 eclass r.win (x.grantedTo src r.win) r.point
           r.mask)) ∧
     (r.due = false ∨ x.controlPath src = none → Idles (.ackSend src eclass) s)) ∧
    (let id := pbr.map Fin.val
     let good := id == some (pbrOn (x.plane p) x.ownPkg)
     let y (up : Bool) : Dev :=
       let z : Dev := { x with fab := { x.fab with ids := Sparse.set (always 0) x.fab.ids p (match id with
         | some i => i + 1
         | none => 0) } }
       (((((z.setFld (fabPortWidth.nth p) (if up then width else 0)).setFld (fabPortRate.nth p) (if up then rate else 0)).setBit
         (fabPortUp.nth p) up).judgePort p).setFld (fabPortPbrId.nth p) (id.getD 0))
     (good = true → Runs (.portServiceChange p width rate true pbr) s ((y true).portSettle p)) ∧
     (good = false → Runs (.portServiceChange p width rate true pbr) s
       (((y true).detect (portSrc p) 0x30 0 (match pbr with
         | some i => i.val
         | none => 4096)).portSettle p)) ∧
     ((x.on (fabPortUp.nth p) && !x.on (fabPortFenced.nth p)) = true →
       Runs (.portServiceChange p width rate false pbr) s
         (((((y false).detect (portSrc p) 0x31 1 1).setBit (fabPortFenced.nth p) true).leaveCommit.dropMailbox p).portSettle p)) ∧
     ((x.on (fabPortUp.nth p) && !x.on (fabPortFenced.nth p)) = false →
       Runs (.portServiceChange p width rate false pbr) s (((y false).dropMailbox p).portSettle p)))

/-- A collective enters, meets its rendezvous, reduces or moves its data into dst, completes, and is aborted or goes on when a member leaves. (R413, R416, R420, R421, R423, R424, R426, R430, R431, R432, R433, R438) -/
def Obligations.CollectivesMoveAndReduce : Prop :=
  ∀ (s : State) (id : Nat) (c : Coll) (d d1 d2 z : Dev) (bs cs own rb rc : List Byte) (parts upper : List Part) (rest : Part) (order : List Nat)
      (rounds : List Moves) (others up : List Contrib) (cause : Fin 7) (op : Fin 256) (e : SubEntry) (st : Fin 256) (pkg : Fin 8192)
      (r : Rel) (k : Fin 6) (y : Cand) (ecc : Ecc) (zero : Bool),
    let x := s.dev
    let q := c.q
    let n := c.mem.length
    let rank := rankIn c.mem x.ownPkg
    let runs (o : Nat) : Prop := x.coll id = some c ∧ c.st = .exchanging ∧ c.op = o ∧ x.pausedUnit ⟨.collective, c.eng⟩ = false
    let done (y : Dev) : Dev := (((y.freeOverlap c).setColl { c with st := .done }).colSettle).pumpFor c
    let each (y : Dev) (f : Nat → Dev → Dev) : Dev := (List.range n).foldl (fun v j => f j v) y
    let peer (j : Nat) : Nat := c.mem.getD j 0
    let src (k : Nat) (off : Nat) : Prop :=
      x.readSrc c (cAddr q 3 + cBytes q (cType q) off) (cAddr q 5 + cCodes (cType q) off) k = (d, .ok bs cs)
    let all := partsWith parts n rank (bs, cs)
    (x.fetched 3 op e = true → x.firstOfGroup e.q = true → x.mayEnter (cf (entryWords op e) 1 16 2) op (entryWords op e) = true →
      Runs (.collectiveEntry (.queued op e)) s
        ((x.startNext e.q).enterColl (cf (entryWords op e) 1 16 2) op (entryWords op e) (.queue e.q e.cid e.quiet))) ∧
    (x.cand r = some y → eKind y.e = 2 → x.eligibleNow y = true →
      let eng := (eDisp y.e - 32) % 4
      let a := bits (eW0 y.e) 0 52
      ∀ b : List Byte, ∀ ec : Ecc, (x.vRead (baseTlb eng) (colSrc eng) 0 2 a 64).2 = .data b ec → ec.lost = false →
        x.mayEnter eng (leAt b 0 1) (descWords b) = true →
        (x.released r y k).vRead (baseTlb eng) (colSrc eng) 0 2 a 64 = (d, .data bs ecc) → ecc.lost = false →
        Runs (.collectiveEntry (.rel r k)) s (d.enterColl eng (leAt bs 0 1) (descWords bs) (.work y.workOf)).noteBreeze) ∧
    (x.coll id = some c → c.st = .entered → x.nextRdv c = true → x.allIn c.mem c.gone others = true → x.allIn c.umem c.gone up = true →
      let l := contribsOf c.mem c.gone others
      let u := contribsOf c.umem c.gone up
      let upOff := cHier q && u.any fun t => t.sig != x.ownSig c || t.n != c.umem.length || t.blocks != (lowerChunk q n rank).2 || t.err.val != 0
      let upBad := cHier q && (c.err != 0 || upOff)
      let y := if upBad ∧ c.err ≠ 3 then (x.mismatchMsg c (cUgid q) u).recover (cUgid q) (Sparse.get (always 0) x.col.seqs (cUgid q)) u else x
      let y := if cHier q then y.contribute c (cGid q) n (if c.err ≠ 0 then c.err else if upOff then 1 else 0) else y
      let good := c.err == 0 && !upBad && l.all fun t => t.sig == x.ownSig c && t.n == n && t.err.val == 0
      (good = false → Runs (.rendezvousEnd id others up cause) s (y.mismatch c l)) ∧
      (good = true → (c.gone = [] ∨ c.op = 1 ∨ c.op = 2) → Runs (.rendezvousEnd id others up cause) s (y.exchange c l cause)) ∧
      (good = true → c.gone ≠ [] → c.op ≠ 1 → c.op ≠ 2 →
        Runs (.rendezvousEnd id others up cause) s ((y.setColl { c with st := .ended 0x0402, rdv := rdvOf c l }).colSettle))) ∧
    (runs 1 → (cEos q = false → Runs (.barrier id) s (done x)) ∧
      (cEos q = true → Runs (.endOfStepBarrier id) s (done { x with job := { x.job with close := some ⟨c.flag, c.vote, false, false, none⟩ } }))) ∧
    (runs 2 → x.readBytes c.eng (cAddr q 3) (8 * cCount q) = (d, .ok own []) →
      let w := cBits q (cType q)
      let ps := ((List.range n).filter fun i => !c.gone.contains (c.mem.getD i 0)).map fun i => ((partsWith parts n rank (own, [])).getD i ([], [])).1
      let val (i : Nat) : Nat := (treeOf (redTwo (cType q) w (cRed q)) ps.length (ps.map fun p => leAt p (8 * i) 8 % 2 ^ w)).headD 0
      let ext (v : Nat) : Nat := if cType q = 0xB ∧ w = 32 then wrap 64 (signed 32 v) else v
      rankIn c.mem d.ownPkg = rank →
      (c.mem.foldl (fun v p => v.gustsTo c p 0 own) d).writeDst c.eng (cAddr q 4) ((List.range (cCount q)).flatMap fun i => natLe 8 (ext (val i))) 0 [] = (z, .done) →
      Runs (.scalar id parts) s (done z)) ∧
    (runs 3 → cHier q = false → src (cCount q) 0 → rankIn c.mem d.ownPkg = rank →
      let part (j : Nat) : Nat × Nat := sliceOf q n j
      (each d fun j v => v.elemsTo c (peer j) (cCount q) (part j).1 (slicePart q (bs, cs) (part j).1 (part j).2)).reduceInto c order all (cCount q)
        (lowerChunk q n rank).1 ((lowerChunk q n rank).1 + (lowerChunk q n rank).2) = (z, .done) →
      Runs (.allreduce id parts order) s (done (z.elemsToAll c (cCount q) (part rank).1 (z.ownSlice c (part rank).1 (part rank).2)))) ∧
    (runs 4 → src (n * cCount q) 0 →
      let k := cCount q
      (each d fun j v => v.elemsTo c (peer j) k 0 (slicePart q (bs, cs) (j * k) k)).reduceInto c order
        (partsWith parts n rank (slicePart q (bs, cs) (rank * k) k)) k 0 (k / 32) = (z, .done) →
      Runs (.redscat id parts order) s (done z)) ∧
    (runs 3 → cHier q = true → (cCount q / 32 = 0 → Runs (.hierAllreduce id parts upper rest order) s (done x)) ∧
      (cCount q / 32 ≠ 0 →
        let b := cCount q / 32
        let lo := (lowerChunk q n rank).1
        let nb := (lowerChunk q n rank).2
        let chunk (j : Nat) : Part := slicePart q (bs, cs) (32 * splitAt b n j) (32 * (splitAt b n (j + 1) - splitAt b n j))
        x.readBlocks c.eng (cAddr q 3) (cAddr q 5) 64 b true = (d, .ok bs cs) →
        let v := each d fun j v => v.elemsTo c (peer j) (cCount q) (32 * splitAt b n j) (chunk j)
        let acc := (List.range nb).map (reduceBlk 0xC order (partsWith parts n rank (chunk rank)))
        (cRes q = false → v.hierFinish c lo nb acc false [] [] upper rest = (z, .done) →
          Runs (.hierAllreduce id parts upper rest order) s (done z)) ∧
        (cRes q = true → v.noteResid (cAddr q 7) (32 * nb) = (d1, zero) → d1.readResid c nb zero = (d2, .ok rb rc) →
          d2.hierFinish c lo nb acc zero rb rc upper rest = (z, .done) → Runs (.hierAllreduce id parts upper rest order) s (done z)))) ∧
    (runs 5 → src (cCount q) 0 → rankIn c.mem d.ownPkg = rank →
      (d.elemsToAll c (n * cCount q) (rank * cCount q) (bs, cs)).writeChunks c (cCount q) all = (z, .done) →
      Runs (.allgather id parts) s (done z)) ∧
    (runs 6 → (rank = cRoot q → src (cCount q) 0 →
        (d.elemsToAll c (cCount q) 0 (bs, cs)).writeChunks c (cCount q) [(bs, cs)] = (z, .done) → Runs (.bcast id rest) s (done z)) ∧
      (rank ≠ cRoot q → x.writeChunks c (cCount q) [rest] = (z, .done) → Runs (.bcast id rest) s (done z))) ∧
    (runs 7 → src (cCount q) 0 → rankIn c.mem d.ownPkg = rank →
      (rank = cRoot q → d.writeChunks c (cCount q) all = (z, .done) → Runs (.gather id parts) s (done z)) ∧
      (rank ≠ cRoot q → Runs (.gather id parts) s (done (d.elemsTo c (peer (cRoot q)) (n * cCount q) (rank * cCount q) (bs, cs))))) ∧
    (runs 8 → src (n * cCount q) 0 →
      let k := cCount q
      (each d fun j v => v.elemsTo c (peer j) (n * k) (rank * k) (slicePart q (bs, cs) (j * k) k)).writeChunks c k
        (partsWith parts n rank (slicePart q (bs, cs) (rank * k) k)) = (z, .done) → Runs (.alltoall id parts) s (done z)) ∧
    (runs 9 → x.readBytes c.eng (cAddr q 5) (16 * cCount q) = (d, .ok bs own) → rankIn c.mem d.ownPkg = rank →
      let room := 0x100000 * Nat.min 768 (Nat.max 1 (d.fldAs ⟨.collective, c.eng⟩ colStageSizeMib))
      let ms := movesOf (cCount q) bs
      let incoming := rounds ++ List.replicate (ceilDiv (ms.foldl (fun n m => n + m.len) 0) room - rounds.length) []
      (d.permuteRounds c rank room c.pos (laterMoves room c.pos ms) (incoming.drop c.pos) = (z, .done) → Runs (.permute id rounds) s (done z)) ∧
      (d.permuteRounds c rank room c.pos (laterMoves room c.pos ms) (incoming.drop c.pos) = (z, .more) → Runs (.permute id rounds) s (z.pumpFor c))) ∧
    (runs 10 → (cRoot q = x.ownPkg → x.readBytes c.eng (cAddr q 3) (cCount q) = (d, .ok bs own) →
        d.writeDst c.eng (cAddr q 4) bs 0 [] = (z, .done) → Runs (.copy id) s (done z)) ∧
      (cRoot q ≠ x.ownPkg → x.copyIn c (x.fab.reads.filter fun t => t.coll == id) = (d, .done) →
        let slots := (List.range (x.fld fabCreditReplySlots)).filter fun k => !d.fab.reads.any fun t => t.slot == k
        let pos := (d.copyOut c slots c.pos).2
        let y := ((d.copyOut c slots c.pos).1.setColl { c with pos }).pump
        ((cCount q ≤ pos ∧ (y.fab.reads.any fun t => t.coll == id) = false) →
          Runs (.copy id) s ((y.setColl { c with pos, st := .done }).colSettle)) ∧
        (¬ (cCount q ≤ pos ∧ (y.fab.reads.any fun t => t.coll == id) = false) → Runs (.copy id) s y))) ∧
    (x.coll id = some c → x.collBehind c = false → x.sending c = false →
      (c.st = .done → Runs (.collectiveComplete id) s (x.endColl c 0)) ∧
      (∀ k, c.st = .ended k → Runs (.collectiveComplete id) s (x.endColl c k)) ∧
      (c.st = .recovering → Runs (.collectiveComplete id) s (x.endColl c (0x0400 + c.err)))) ∧
    (x.coll id = some c → c.st = .exchanging →
      Runs (.collectiveAbort id st) s (((((x.noteRetry false).undefine c).stopSends c).setColl { c with st := .ended (0x0400 + st) }).colSettle)) ∧
    (let leave (y : Dev) (c : Coll) : Dev :=
       if (!(c.mem.contains pkg.val || c.umem.contains pkg.val) || pkg.val == y.ownPkg) = true then y
       else match c.st with
         | .entered => ((if c.op = 1 ∨ c.op = 2 then y
             else (y.detect (colSrc c.eng) 0x1C 0 (cGid c.q + 2 * 2 ^ 8 + c.seq * 2 ^ 16)).noteRetry false).setColl { c with gone := setAdd c.gone pkg.val }).colSettle
         | .exchanging => if c.op = 1 ∨ c.op = 2 then (y.setColl { c with gone := setAdd c.gone pkg.val }).colSettle
           else y.abortColl c 2 (some 0)
         | _ => y
     Runs (.memberLeave pkg) s (x.col.live.foldl leave x))

/-- What each reset leaves, what bring-up and takeover do, how a module's widths settle, and what a snapshot and a sample write. (R26, R399, R472, R473, R479, R480, R481, R484, R485, R486, R487, R488) -/
def Obligations.ResetsAndBringUp : Prop :=
  ∀ (s : State) (c : Fin 512) (d : Fin 4) (p : Fin 16) (by_ : ResetBy) (bu : BringUp) (l : Fin 4) (m : Fin 8) (side : Side) (w lo hi : Fin 3) (k : Nat)
      (n : Snap) (i : Fin 8) (pc : BitVec 20) (skid : Fin 9) (snp : W64),
    let x := s.dev
    let ready : Prop := x.on dieBootReady = true
    let torn := (List.range 4).foldl Dev.updReset x
    let met := torn.flushLog
    (ready → ∃ t, exec (.warmPackageReset by_) s = .next t ∧ t.dev.cores = [] ∧ t.dev.cs = [] ∧ t.dev.ev = [] ∧ t.dev.chans = [] ∧
      t.dev.job = Dev.cold.job ∧ t.dev.que = Dev.cold.que ∧ t.dev.col = Dev.cold.col ∧ t.dev.ring = Dev.cold.ring ∧ t.dev.car.reset = false ∧
      (∀ e : Fin 4, t.dev.upd e = (torn.upd e).survives) ∧
      t.dev.flt.log = met.flt.log ∧ t.dev.pkg = { Pkg.cold with fences := met.pkg.fences } ∧ FusesKept x.sec t.dev.sec) ∧
    (x.on dieBootReady = false → Runs (.warmPackageReset .register) s (x.setBit dieBootRstRefused true) ∧
      Runs (.warmPackageReset .pldm) s { x with car := { x.car with reset := true } } ∧
      Runs (.warmPackageReset .flr) s x.warmReset) ∧
    (x.car.fell = true → x.car.module = false → ∃ t, exec .coldReset s = .next t ∧ t.dev.cores = [] ∧ t.dev.phys = x.phys.outside ∧
      t.dev.job = Dev.cold.job ∧ t.dev.que = Dev.cold.que ∧ t.dev.flt = Dev.cold.flt ∧ t.dev.car.fell = false ∧ t.dev.pkg = Pkg.cold ∧
      FusesKept x.sec t.dev.sec) ∧
    (ready → Runs (.dieReset d) s (x.pairReset d) ∧ ∃ t, exec (.dieReset d) s = .next t ∧ bit (t.dev.fld dieBootPairsBusy) d = true) ∧
    (x.on dieBootReady = false → Runs (.dieReset d) s (x.setBit dieBootRstRefused true)) ∧
    (ready → x.pkg.fences.core c = true → ∃ t, exec (.coreReset c) s = .next t ∧ t.dev.core c = Core.cold ∧
      (∀ j, j ≠ c.val → t.dev.core j = x.core j) ∧ ∀ a, a / 128 = coreBlk c → t.dev.ctr a = 0) ∧
    (¬ (ready ∧ x.pkg.fences.core c = true) → Runs (.coreReset c) s (x.setBit dieBootRstRefused true)) ∧
    Runs (.portReset (some p)) s
      (((((((({ x with fab := { x.fab with ids := Sparse.set (always 0) x.fab.ids p 0 } } : Dev).setFld (fabPortWidth.nth p) 0).setFld (fabPortRate.nth p) 0).setBit (fabPortUp.nth p) false).setBit (fabPortIdOk.nth p) false)).dropMailbox
        p).portSettle p) ∧
    (let y := (((x.setFld hifStatusWidth 0).setFld hifStatusRate 0).setBit hifStatusCacheEn false).setBit hifStatusMemEn false
     let que : QueueUnit := { y.que with down := some (y.now 0), lines := [], stale := [], masked := [], fnMask := false, msixPnd := [] }
     let que : QueueUnit := { que with vecAddr := [], vecData := [], reads := [] }
     Runs (.portReset none) s
       ((({ y with que, mem := { y.mem with snoop := [] } } : Dev).dropMailbox 16).detect (pkgSrc 0 4) 0x35 0 0)) ∧
    (x.on dieBootReady = false → x.fld dieBootStage ≠ 1 → (x.on dieClkAOk || x.on dieClkBOk) = true → x.car.reset = false →
      (bu.fuseBad = false → ∃ t, exec (.commandReady none bu) s = .next t ∧ t.dev.on dieBootReady = true ∧ t.dev.fld dieBootStage = 7 ∧
        t.dev.fld dieBootReadyMs = Nat.min 65535 bu.ms) ∧
      (bu.fuseBad = true → Runs (.commandReady none bu) s ((x.setFld dieBootStage 1).secDetect 0x66 3 4))) ∧
    (ready → bit (x.fld dieBootPairsBusy) d = true →
      let y := x.setFld dieBootPairsBusy (x.fld dieBootPairsBusy - 2 ^ d.val)
      let z : Dev := { y with pkg := { y.pkg with
        complex := if bu.complexes.contains d.val then setAdd y.pkg.complex d.val else setDel y.pkg.complex d.val } }
      let same := wordAt bu.caps d == Sparse.get (always 0) z.pkg.caps d
      ((bu.trained.contains d.val && same) = true → Runs (.commandReady (some d) bu) s (z.selfTest bu (· == d.val))) ∧
      ((bu.trained.contains d.val && same) = false → Runs (.commandReady (some d) bu) s ((z.bringFence d).selfTest bu (· == d.val)))) ∧
    (x.on dieBootReady = false ∨ bit (x.fld dieBootPairsBusy) (sideDie l side) = true →
      Runs (.lateralModuleTraining l m side w) s (((x.setFld (widthFld l m side) w).setFld (dieLat l m 6 2) 0).carryShow l m)) ∧
    (x.on (dieLat l m 4 1) = true →
      let v := x.fld (widthFld l m .lo)
      Runs (.lateralRetryFailure l m lo hi) s
        ((((x.setFld (widthFld l m .lo) (Nat.min v lo)).setFld (widthFld l m .hi) (Nat.min v hi)).setFld (dieLat l m 6 2) 0).carryShow l m)) ∧
    (x.on (dieLat l m 5 1) = false → (x.fld (widthFld l m .lo) = x.fld (widthFld l m .hi) → x.fld (widthFld l m .lo) = 0) →
      let a := x.fld (widthFld l m .lo)
      let b := x.fld (widthFld l m .hi)
      let g := attemptSides a b
      let a' := match g.1 with
        | some t => Nat.min t lo
        | none => a
      let b' := match g.2 with
        | some t => Nat.min t hi
        | none => b
      let y := ((x.setFld (widthFld l m .lo) a').setFld (widthFld l m .hi) b').carryShow l m
      let tries := y.fld (dieLat l m 6 2) + 1
      let z := y.setFld (dieLat l m 6 2) tries
      (a' = b' → a' ≠ 0 → Runs (.widthAttempt l m lo hi) s y) ∧
      (¬ (a' = b' ∧ a' ≠ 0) → tries < 3 → Runs (.widthAttempt l m lo hi) s z) ∧
      (¬ (a' = b' ∧ a' ≠ 0) → 3 ≤ tries →
        Runs (.widthAttempt l m lo hi) s
          ((z.detect ⟨3, l, m, 0, 3⟩ 0x34 1 (if (g.1.isSome && a' == 0) || (g.2.isSome && b' == 0) then 2 else 1)).fenceLateral l m))) ∧
    (3 ≤ x.pkg.hbMissed → x.nextLead = some k →
      let w := x.dropCmds (fun c => !(x.job.copying && (match c.what with
        | .admits _ => true
        | _ => false))) 0x0201
      let y := w.unparkRows ((w.regs.commit.map (·.stops)).getD [])
      let back (z : Dev) (e : Nat) : Dev := if (z.upd e).restore.isSome then (z.unkeep e).updShow e else z
      let z := (List.range 4).foldl back y
      let commit := z.regs.commit.map fun c => if c.lulled then c else { c with paused := [], stops := [] }
      Runs .leadTakeover s
        ((({ z with pkg := { z.pkg with lead := k, hbMissed := 0 }, regs := { z.regs with commit } } : Dev).setFld hifStatusLead k).detect
          (pkgSrc x.pkg.lead 0) 0x48 1 k)) ∧
    (fld64 snp 0 1 = 1 →
      let v := if fld64 snp 1 15 != 0 || fld64 snp 40 24 != 0 then x.violation pmcSnapCtlGo.off true else x
      let n : Snap := ⟨ceilDiv (v.now 0 + 2000) 1000 * 1000, fld64 snp 16 12, fld64 snp 28 12 + 1, []⟩
      (v.on pmcSnapStatusBusy = false → Runs (.snapshot snp) s (({ v with pmc := { v.pmc with snap := some n } } : Dev).setBit pmcSnapStatusBusy true)) ∧
      (v.on pmcSnapStatusBusy = true → Runs (.snapshot snp) s (v.setBit pmcSnapStatusRefused true))) ∧
    (x.pmc.snap = some n → n.t ≤ x.now 0 →
      let made := if n.data.isEmpty then x.snapRecord n (x.fld pmcSnapStatusDone) else n.data
      let put := x.vWrite (baseTlb 0) (pkgSrc 0 0) 0 (x.fld pmcSnapAddrAddr * 64) made
      let y := put.1
      (put.2 = .done ∨ put.2 = .fail → Runs .snapshotInstant s
        ((({ y with pmc := { y.pmc with snap := none } } : Dev).setBit pmcSnapStatusBusy false).addFld pmcSnapStatusDone 1)) ∧
      (∀ m, put.2 = .wait m → Runs .snapshotInstant s { y with pmc := { y.pmc with snap := some { n with data := made } } })) ∧
    (let key := 512 * i.val + c.val
     let got := Sparse.get (always 0) x.pmc.samp key
     let y : Dev := { x with pmc := { x.pmc with samp := Sparse.set (always 0) x.pmc.samp key (got - x.sampPeriod i c) }, freeCnt := x.freeCnt + 1 }
     let prod := y.fld pmcSampStatusProd
     let put := y.vWrite (c.val / 16) (coreSrc c 0) 0 (y.fld pmcSampRingBase * 65536 + 32 * (prod % y.sampCap)) (y.sampBytes i c pc.toNat skid)
     let full := decide (y.sampCap ≤ prod) && (Config.freeWord x.freeCnt).getLsbD 0
     x.sampPeriod i c ≤ got →
       (full = true → Runs (.sample i c pc skid) s (y.satFld pmcSampStatusLost 1)) ∧
       (full = false → put.2 = .done ∨ put.2 = .fail → Runs (.sample i c pc skid) s (put.1.addFld pmcSampStatusProd 1).sampSignal) ∧
       (∀ m, full = false → put.2 = .wait m → Idles (.sample i c pc skid) s))

/-- Operations on bundles, SPDM requests, IDE key management and failures, and tamper events do what chapter 13 says. (R493, R495, R498, R499, R501, R502, R503, R504, R506, R507, R509, R510) -/
def Obligations.SecurityOperations : Prop :=
  ∀ (s : State) (len : W32) (host : List Byte) (d : Dev) (r : Nat ⊕ List Byte) (how : SecEnd) (mb : Fin 17) (slot : Fin 8) (off n : Nat)
      (index : Fin 256) (sign ok : Bool) (id : Nat) (p : Fin 16) (offer : Fin 16) (clock stage1 : Bool),
    let x := s.dev
    let idle : Prop := x.on secBundleStatusBusy = false
    let answer (y : Dev) (a : Spdm) : Dev := y.send (.spdm mb a)
    let ops : List Instr := [.ownershipTransfer len host how, .debugUnlock len host how, .debugRelock how, .renewNonce how, .storeConfiguration len host how]
    (idle → x.readBundle 3 len.toNat host = (d, r) → Runs (.ownershipTransfer len host .done) s (match r with
      | .inr b => if d.transferResult b = 0 then (d.transferDone b).opEnds 0 else d.opEnds (d.transferResult b)
      | .inl k => d.opEnds k)) ∧
    (idle → x.readBundle 4 len.toNat host = (d, r) → Runs (.debugUnlock len host .done) s (match r with
      | .inr b =>
        let g := leAt (bPayload b) 0 1
        if 3 < g ∨ leNat ((bPayload b).drop 1) ≠ 0 then d.newNonce.opEnds 1
        else if bNonce b ≠ d.nonce then d.newNonce.opEnds 4
        else if (!bit d.sec.flags 2 && d.sec.ownerHash.isSome) = true then d.newNonce.opEnds 7
        else (((d.setBit secStatusDbg true).setFld secStatusGrant g).secDetect 0x64 0 g).newNonce.opEnds 0
      | .inl k => d.newNonce.opEnds k)) ∧
    (idle → x.readBundle 1 len.toNat host = (d, r) → Runs (.storeConfiguration len host .done) s (match r with
      | .inr b =>
        if configOk b = false then (d.secDetect 0x63 0 (1 + 2 ^ 8)).opEnds 1
        else if d.jobState ≠ 0 then d.opEnds 5
        else if bPlen b = 0 then (({ d with sec := { d.sec with cfg := none } } : Dev).setBit secStatusCfgPending false).opEnds 0
        else (({ d with sec := { d.sec with cfg := some b } } : Dev).setBit secStatusCfgPending true).opEnds 0
      | .inl k => (d.secDetect 0x63 0 (k + 2 ^ 8)).opEnds k)) ∧
    (idle → Runs (.debugRelock .done) s (x.lockDebug.opEnds 0) ∧ Runs (.renewNonce .done) s (x.newNonce.opEnds 0)) ∧
    (idle → how = .leadChange → ∀ i ∈ ops, Runs i s (x.newNonce.opEnds 5)) ∧
    (x.on secBundleStatusBusy = true → ∀ i ∈ ops, Runs i s (x.violation secBundleCtlOp.off true)) ∧
    (Runs (.getVersion mb) s (answer x .version) ∧ Runs (.getCapabilities mb) s (answer x .capabilities) ∧
      Runs (.negotiateAlgorithms mb offer) s (answer x (.algorithms offer)) ∧ Runs (.getDigests mb) s (answer x (.digests (Config.sha512 x.chain))) ∧
      Runs (.spdmUnsupported mb) s (answer x .unsupported)) ∧
    (slot.val = 0 → Runs (.getCertificate mb slot off n) s
      (if x.chain.length ≤ off then answer x .error
       else answer x (.certificate ((x.chain.drop off).take n) (x.chain.length - off - ((x.chain.drop off).take n).length)))) ∧
    (slot.val ≠ 0 → Runs (.getCertificate mb slot off n) s (answer x .error) ∧ Runs (.challenge mb slot) s (answer x .error)) ∧
    (let sig := Config.aliasSign x.freeCnt
     let drawn : Dev := { x with freeCnt := x.freeCnt + 1 }
     let y := if sign then drawn else x
     let g := if sign then sig else []
     let live := x.sec.sessions.filter fun t => t.mailbox == mb.val
     (slot.val = 0 → Runs (.challenge mb slot) s (answer drawn (.challengeAuth sig))) ∧
     (index.val = 0 → Runs (.getMeasurements mb index sign) s (answer y (.measurementCount 7 g))) ∧
     (index.val = 0xFF → Runs (.getMeasurements mb index sign) s
       (answer y (.measurements ([1, 2, 3, 4, 5, 6, 7].map fun i => (i, y.measure i)) g))) ∧
     (1 ≤ index.val → index.val ≤ 7 → Runs (.getMeasurements mb index sign) s (answer y (.measurements [(index.val, y.measure index)] g))) ∧
     (7 < index.val → index.val < 0xFF → Runs (.getMeasurements mb index sign) s (answer y .error)) ∧
     (live.length < 4 → Runs (.keyExchange mb) s
       (answer { drawn with sec := { x.sec with sessions := x.sec.sessions ++ [Session.mk mb x.sec.sessNext false], sessNext := x.sec.sessNext + 1 } }
         (.keyExchange x.sec.sessNext sig))) ∧
     (4 ≤ live.length → Runs (.keyExchange mb) s (answer x .error))) ∧
    (let opening := x.sec.sessions.contains ⟨mb, id, false⟩
     let y := x.dropSession mb id
     (opening = true → ok = true →
       Runs (.finish mb id ok) s (answer { y with sec := { y.sec with sessions := y.sec.sessions ++ [Session.mk mb id true] } } (.finish id))) ∧
     (opening = true → ok = false → Runs (.finish mb id ok) s (answer y .error)) ∧ (opening = false → Runs (.finish mb id ok) s (answer x .error))) ∧
    (x.sessionUp mb id = true →
      Runs (.heartbeatSpdm mb id) s (answer x (.heartbeat id)) ∧ Runs (.keyUpdate mb id) s (answer x (.keyUpdate id)) ∧
      Runs (.endSession mb id) s (answer (x.dropSession mb id) (.endSession id)) ∧ Runs (.ideKm mb id .query) s (answer x (.ideKm id)) ∧
      Runs (.ideKm mb id .program) s
        (answer { x with sec := { x.sec with keys := setAdd x.sec.keys mb.val, shut := x.sec.shut && mb.val != 16 } } (.ideKm id)) ∧
      (x.sec.keys.contains mb.val = false → Runs (.ideKm mb id .go) s (answer x (.ideKm id))) ∧
      (x.sec.keys.contains mb.val = true → mb.val = 16 → Runs (.ideKm mb id .go) s (answer (x.setBit secIdeStatusHost true) (.ideKm id))) ∧
      (x.sec.keys.contains mb.val = true → mb.val ≠ 16 →
        Runs (.ideKm mb id .go) s (answer ((x.setFld secIdeStatusFab (x.fld secIdeStatusFab ||| 2 ^ mb.val)).portSettle mb) (.ideKm id)))) ∧
    (x.sessionUp mb id = false →
      ∀ i ∈ [Instr.heartbeatSpdm mb id, .keyUpdate mb id, .endSession mb id, .ideKm mb id .go], Runs i s (answer x .error)) ∧
    (let arg := if ok then 1 else 2
     (x.on secIdeStatusHost = true → ∃ t, exec (.ideFailure 16 ok) s = .next t ∧ t.dev.on secIdeStatusHost = false ∧ t.dev.sec.shut = true ∧
       16 ∉ t.dev.sec.keys) ∧
     (bit (x.fld secIdeStatusFab) p = true →
       let y := x.detect (portSrc p) 0x65 1 arg
       let z : Dev := { y with sec := { y.sec with keys := setDel y.sec.keys p.val } }
       Runs (.ideFailure p.castSucc ok) s ((z.setFld secIdeStatusFab (z.fld secIdeStatusFab - 2 ^ p.val)).fencePort p)) ∧
     (bit (x.fld secIdeStatusFab) p = false → Idles (.ideFailure p.castSucc ok) s)) ∧
    (let y := x.secDetect 0x66 3 (if clock then 2 else 1)
     (stage1 = true → x.on dieBootReady = false → Runs (.tamper clock stage1) s (y.setFld dieBootStage 1)) ∧
     (stage1 = false ∨ x.on dieBootReady = true → Runs (.tamper clock stage1) s y.warmReset))

/-- Power samples, the cap controller, the ramp, thermal ticks and hot or brown inputs move the three terms, of which the issue limit is the least. (R538, R542, R544, R545, R546, R548, R550, R551, R552, R553) -/
def Obligations.PowerAndTemperatures : Prop :=
  ∀ (s : State) (mv ma : Nat) (d : Fin 4) (u : Fin 65) (cd bd t : Int) (k : Fin 16),
    let x := s.dev
    let f := x.fcap
    let least (y : Dev) : Prop := ∀ j, j < 4 → y.fld (pwrLimitA.nth j) =
      Nat.min y.fcap (Nat.min (y.fld (pwrLimitFth.nth j)) (y.fld (pwrLimitFramp.nth j)))
    (let w := mv * ma / 1000
     ∃ r, exec (.powerMeasure mv ma) s = .next r ∧ r.dev.pwr = { x.pwr with samples := (w :: x.pwr.samples).take 1000, vin := mv, iin := ma } ∧
       r.dev.fld pwrInputVin = Nat.min 65535 mv ∧ r.dev.fld pwrInputIin = Nat.min 65535 (ma / 10) ∧
       r.dev.fld pwrInputPin = Nat.min 8191 (r.dev.pwr.avg 10 / 1000) ∧ r.dev.on pwrStatusHigh = decide (60000 < mv) ∧
       (4200000 < w → r.dev.fcap = Nat.max 1 (Nat.min 64 (f / 2)) ∧ least r.dev) ∧ (w ≤ 4200000 → r.dev.fcap = f)) ∧
    (let p := x.pwr.avg 10
     let c := 10 * x.fld pwrCapCapW
     let step (n : Nat) : Prop := ∃ r, exec .capAdjust s = .next r ∧ r.dev.fcap = Nat.max 1 (Nat.min 64 n) ∧ least r.dev ∧
       (r.dev.on pwrStatusCapHold = decide (Nat.max 1 (Nat.min 64 n) < 64))
     (110 * c < p → step (f - 4)) ∧ (100 * c < p → p ≤ 110 * c → step (f - 1)) ∧ (p < 98 * c → step (f + 1)) ∧
     (98 * c ≤ p → p ≤ 100 * c → ∃ r, exec .capAdjust s = .next r ∧ r.dev.fcap = f ∧
       r.dev.pwr.held = (if x.on pwrStatusCapHold = true then (if x.pwr.held + 1 = 10 then 0 else x.pwr.held + 1) else x.pwr.held))) ∧
    (let v := if x.fld pwrRampRstepUs = 0 then 64
       else Nat.min 64 (Nat.min (x.fld (pwrLimitFramp.nth d) + 1) (u.val + x.fldOr pwrRampHead 1))
     ∃ r, exec (.rampStep d u) s = .next r ∧ r.dev.fld (pwrLimitFramp.nth d) = v ∧ least r.dev ∧
       ∀ j, j < 4 → r.dev.fld (pwrLimitFth.nth j) = x.fld (pwrLimitFth.nth j)) ∧
    (let hot := max cd bd
     let fth := x.fld (pwrLimitFth.nth d)
     ∃ r, exec (.thermalTick d cd bd) s = .next r ∧ r.dev.pwr.pairT = setNth x.pwr.pairT d (cd, bd) ∧
       (105 ≤ hot → 1 < fth → r.dev.fld (pwrLimitFth.nth d) = fth - 1 ∧ least r.dev) ∧
       (105 ≤ hot → fth ≤ 1 → r.dev.fld (pwrLimitFth.nth d) = fth) ∧
       (103 < hot → hot < 105 → r.dev.fld (pwrLimitFth.nth d) = fth) ∧
       (hot ≤ 103 → r.dev.fld (pwrLimitFth.nth d) = Nat.min 64 (fth + 1) ∧ least r.dev)) ∧
    (let y : Dev := ({ x with pwr := { x.pwr with stackT := setNth x.pwr.stackT k t } } : Dev).tempShow
     (95 ≤ t → Runs (.hbmTemperature k t) s (y.detect ⟨3, k.val / 4, 0, k, 2⟩ 0x5B 0 (tempByte t))) ∧ (t < 95 → Runs (.hbmTemperature k t) s y)) ∧
    (let y : Dev := ({ x with pwr := { x.pwr with inlet := t } } : Dev).tempShow
     (45 < t → Runs (.coolantHot t) s (y.detect (pkgSrc y.pkg.lead 0) 0x5C 0 (tempByte t))) ∧ (t ≤ 45 → Runs (.coolantHot t) s y)) ∧
    (x.on pwrStatusBrown = false → x.car.stages = true → ∃ r, exec (.brownStateEnter mv) s = .next r ∧ r.dev.on pwrStatusBrown = true ∧
      r.dev.fld pwrStatusBrowns = (x.satFld pwrStatusBrowns 1).fld pwrStatusBrowns ∧ r.dev.fcap = Nat.max 1 (Nat.min f 8) ∧ least r.dev) ∧
    (x.on pwrStatusBrown = true → Idles (.brownStateEnter mv) s ∧ Runs .brownStateExit s (x.setBit pwrStatusBrown false).capShow) ∧
    (60000 < mv → Runs (.inputHigh mv) s ((x.setBit pwrStatusHigh true).detect (pkgSrc x.pkg.lead 0) 0x59 0 (mv % 65536))) ∧
    (mv ≤ 60000 → Idles (.inputHigh mv) s)

/-- Power up and down: PWR_OK, THERMTRIP_N, the latch and the recorded causes; what the carrier controller answers on the sideband. (R535, R540, R542, R543, R547, R553, R554, R555, R556, R558) -/
def Obligations.ShutdownsAndSideband : Prop :=
  ∀ (s : State) (ok hbm : Bool) (rail kind : Fin 256) (addr : Fin 128) (sen : Sensor) (w : Nat),
    let x := s.dev
    let caused (y : Dev) (code : Nat) : Dev :=
      let l := y.car.causes ++ [Cause.mk code (Config.freeWord y.freeCnt).toNat false]
      { y with freeCnt := y.freeCnt + 1, car := { y.car with causes := l.drop (l.length - 16) } }
    let low (y : Dev) (latched : Bool) : Dev :=
      let z := if y.car.module then y else y.send (.pin "PWR_OK" false)
      { z with car := { z.car with module := true, stages := false, fell := true, latched := z.car.latched || latched } }
    let released : Dev := if x.car.trip then ({ x with car := { x.car with trip := false } } : Dev).send (.pin "THERMTRIP_N" true) else x
    let onBus : Prop := x.car.up = true ∧ x.car.addr ≠ none
    (x.car.stages = false →
      let y : Dev := { released with car := { released.car with up := true, latched := false, addr := none } }
      (ok = true → Runs (.powerUp ok) s
        (({ y with car := { y.car with stages := true, module := false, fell := true } } : Dev).send (.pin "PWR_OK" true))) ∧
      (ok = false → Runs (.powerUp ok) s y)) ∧
    Runs (.pwrOkLow true) s (caused { x with car := { x.car with board := true, fell := true } } 6) ∧
    (x.car.module = true → Runs (.pwrOkLow false) s { x with car := { x.car with fell := true } }) ∧
    (x.car.module = false → Idles (.pwrOkLow false) s) ∧
    (x.car.stages = true →
      Runs (.thermtrip hbm) s
        (caused (low (({ x with car := { x.car with trip := true } } : Dev).send (.pin "THERMTRIP_N" false)) true) (if hbm then 4 else 3)) ∧
      Runs .overvoltageShutdown s (caused (low x true) 2) ∧
      Runs (.railFault rail) s (caused (low (x.detect (pkgSrc x.pkg.lead 0) 0x5D 3 rail).logAll true) 5) ∧
      ∃ t, exec .inputLossShutdown s = .next t ∧ t.dev.car.module = true ∧ t.dev.car.stages = false ∧ t.dev.car.up = false ∧
        t.dev.car.latched = false ∧ t.dev.car.addr = none ∧ t.dev.car.trip = false ∧ t.dev.car.causes = (caused x 1).car.causes) ∧
    (x.car.stages = false → Idles (.thermtrip hbm) s ∧ Idles .overvoltageShutdown s ∧ Idles (.railFault rail) s ∧
      Runs .inputLossShutdown s { released with car := { released.car with up := false, latched := false, addr := none } }) ∧
    (x.car.up = true →
      Runs (.entdaa addr) s (({ x with car := { x.car with addr := some addr.val } } : Dev).send (.i3c (.provisionalId x.sec.serial))) ∧
      Runs .shutdownCauseEvent s
        (let y := (x.car.causes.filter fun c => !c.reported).foldl (fun (y : Dev) c => y.send (.i3c (.event c.code c.time))) x
         { y with car := { y.car with causes := y.car.causes.map fun c => { c with reported := true } } })) ∧
    (onBus → Runs (.pldmSensorRead sen) s (x.send (.i3c (x.sensor sen))) ∧ Runs .pldmFruRead s (x.send (.i3c (.fru x.sec.serial))) ∧
      Runs .pldmBaseRequest s (({ x with freeCnt := x.freeCnt + 1 } : Dev).send (.i3c (.base (Config.freeWord x.freeCnt).toNat))) ∧
      (1200 ≤ w → w ≤ 3400 → Runs (.pldmBoardCap w) s (((x.setFld pwrCapBoardW w).capShow).send (.i3c .ok))) ∧
      (w < 1200 ∨ 3400 < w → Runs (.pldmBoardCap w) s (x.send (.i3c .invalidData))) ∧
      (kind.val = 1 → Runs (.pldmModuleReset kind) s (x.send (.i3c .ok))) ∧
      (kind.val = 2 → x.on dieBootReady = true → Runs (.pldmModuleReset kind) s (x.send (.i3c .ok)).warmReset) ∧
      (kind.val = 2 → x.on dieBootReady = false → Runs (.pldmModuleReset kind) s
        (({ x with car := { x.car with reset := true } } : Dev).send (.i3c .ok))) ∧
      (kind.val ≠ 1 → kind.val ≠ 2 → Runs (.pldmModuleReset kind) s (x.send (.i3c .invalidData)))) ∧
    (¬ onBus → ∀ c ∈ [Instr.pldmSensorRead sen, .pldmFruRead, .pldmBaseRequest, .pldmBoardCap w, .pldmModuleReset kind], Idles c s)
end

