-- ==== Sys2Proof/Laws/Sparse.lean ====
section
/-! SUPPORT. The laws of sparse maps: read after write, and that every operation keeps the canonical form. -/

namespace Sys2Proof.Machine

@[simp] theorem Sparse.get_nil {α : Type} (d : Nat → α) (k : Nat) : Sparse.get d [] k = d k := rfl

theorem Sparse.get_cons {α : Type} (d : Nat → α) (e : Nat × α) (m : Sparse α) (k : Nat) :
    Sparse.get d (e :: m) k = if k = e.1 then e.2 else Sparse.get d m k := rfl

theorem Sparse.get_erase_same {α : Type} (d : Nat → α) (m : Sparse α) (k : Nat) :
    Sparse.get d (Sparse.erase m k) k = d k := by
  induction m with
  | nil => rfl
  | cons e m ih =>
    by_cases h : e.1 = k
    · simpa [Sparse.erase, h] using ih
    · have h' : ¬ k = e.1 := fun x => h x.symm
      simpa [Sparse.erase, h, Sparse.get_cons, h'] using ih

theorem Sparse.get_erase_other {α : Type} (d : Nat → α) (m : Sparse α) (k j : Nat) (hj : j ≠ k) :
    Sparse.get d (Sparse.erase m k) j = Sparse.get d m j := by
  induction m with
  | nil => rfl
  | cons e m ih =>
    by_cases h : e.1 = k
    · have h' : ¬ j = e.1 := fun x => hj (x.trans h)
      simpa [Sparse.erase, h, Sparse.get_cons, h', hj] using ih
    · by_cases h2 : j = e.1
      · simp [Sparse.erase, h, Sparse.get_cons, h2]
      · simpa [Sparse.erase, h, Sparse.get_cons, h2] using ih

theorem Sparse.get_insert {α : Type} (d : Nat → α) (m : Sparse α) (k j : Nat) (v : α) (hk : ∀ e ∈ m, e.1 ≠ k) :
    Sparse.get d (Sparse.insert m k v) j = if j = k then v else Sparse.get d m j := by
  induction m with
  | nil => rfl
  | cons e m ih =>
    have he : e.1 ≠ k := hk e (by simp)
    have ih' := ih fun x hx => hk x (by simp [hx])
    by_cases h : k < e.1
    · simp [Sparse.insert, h, Sparse.get_cons]
    · by_cases h2 : j = e.1
      · have h3 : ¬ j = k := fun x => he (h2.symm.trans x)
        simp [Sparse.insert, h, Sparse.get_cons, h2, he]
      · simp [Sparse.insert, h, Sparse.get_cons, h2, ih']

theorem Sparse.key_of_mem_erase {α : Type} (m : Sparse α) (k : Nat) : ∀ e ∈ Sparse.erase m k, e.1 ≠ k := by
  intro e he
  simpa using (List.mem_filter.mp he).2

/-- Reading after a write, at any key. -/
theorem Sparse.get_set {α : Type} [DecidableEq α] (d : Nat → α) (m : Sparse α) (k j : Nat) (v : α) :
    Sparse.get d (Sparse.set d m k v) j = if j = k then v else Sparse.get d m j := by
  unfold Sparse.set
  by_cases hv : v = d k
  · rw [if_pos hv]
    by_cases hj : j = k
    · subst hj; simp [Sparse.get_erase_same, hv]
    · simp [Sparse.get_erase_other d m k j hj, hj]
  · rw [if_neg hv, Sparse.get_insert d _ k j v (Sparse.key_of_mem_erase m k)]
    by_cases hj : j = k
    · simp [hj]
    · simp [hj, Sparse.get_erase_other d m k j hj]

/-- Reading back what was just written. -/
@[simp] theorem Sparse.get_set_same {α : Type} [DecidableEq α] (d : Nat → α) (m : Sparse α) (k : Nat) (v : α) :
    Sparse.get d (Sparse.set d m k v) k = v := by simp [Sparse.get_set]

/-- A write leaves every other key alone. -/
theorem Sparse.get_set_other {α : Type} [DecidableEq α] (d : Nat → α) (m : Sparse α) (k j : Nat) (v : α) (hj : j ≠ k) :
    Sparse.get d (Sparse.set d m k v) j = Sparse.get d m j := by simp [Sparse.get_set, hj]

theorem Sparse.wfFrom_mono {α : Type} [DecidableEq α] (d : Nat → α) (m : Sparse α) (lo lo' : Nat)
    (h : Sparse.wfFrom d lo m = true) (hl : lo' ≤ lo) : Sparse.wfFrom d lo' m = true := by
  cases m with
  | nil => rfl
  | cons e m =>
    simp only [Sparse.wfFrom, Bool.and_eq_true, decide_eq_true_eq] at h ⊢
    exact ⟨⟨by omega, h.1.2⟩, h.2⟩

theorem Sparse.wfFrom_filter {α : Type} [DecidableEq α] (d : Nat → α) (p : Nat × α → Bool) (m : Sparse α) :
    ∀ lo, Sparse.wfFrom d lo m = true → Sparse.wfFrom d lo (m.filter p) = true := by
  induction m with
  | nil => intro lo _; rfl
  | cons e m ih =>
    intro lo h
    simp only [Sparse.wfFrom, Bool.and_eq_true, decide_eq_true_eq] at h
    by_cases hp : p e = true
    · simp only [List.filter_cons, hp, if_true, Sparse.wfFrom, Bool.and_eq_true, decide_eq_true_eq]
      exact ⟨h.1, ih _ h.2⟩
    · simp only [List.filter_cons, hp, Bool.false_eq_true, if_false]
      exact ih _ (Sparse.wfFrom_mono d m (e.1 + 1) lo h.2 (by omega))

theorem Sparse.wfFrom_insert {α : Type} [DecidableEq α] (d : Nat → α) (m : Sparse α) (k : Nat) (v : α) (hv : v ≠ d k)
    (hk : ∀ e ∈ m, e.1 ≠ k) :
    ∀ lo, lo ≤ k → Sparse.wfFrom d lo m = true → Sparse.wfFrom d lo (Sparse.insert m k v) = true := by
  induction m with
  | nil => intro lo hl _; simp [Sparse.insert, Sparse.wfFrom, hv, hl]
  | cons e m ih =>
    intro lo hl h
    have he : e.1 ≠ k := hk e (by simp)
    simp only [Sparse.wfFrom, Bool.and_eq_true, decide_eq_true_eq] at h
    by_cases hlt : k < e.1
    · simp only [Sparse.insert, hlt, if_true, Sparse.wfFrom, Bool.and_eq_true, decide_eq_true_eq]
      exact ⟨⟨hl, hv⟩, ⟨by omega, h.1.2⟩, h.2⟩
    · simp only [Sparse.insert, hlt, if_false, Sparse.wfFrom, Bool.and_eq_true, decide_eq_true_eq]
      exact ⟨h.1, ih (fun x hx => hk x (by simp [hx])) _ (by omega) h.2⟩

/-- A write keeps the canonical form. -/
theorem Sparse.wf_set {α : Type} [DecidableEq α] (d : Nat → α) (m : Sparse α) (k : Nat) (v : α)
    (h : Sparse.wf d m = true) : Sparse.wf d (Sparse.set d m k v) = true := by
  have he : Sparse.wfFrom d 0 (Sparse.erase m k) = true := Sparse.wfFrom_filter d _ m 0 h
  unfold Sparse.set Sparse.wf
  by_cases hv : v = d k
  · rwa [if_pos hv]
  · rw [if_neg hv]
    exact Sparse.wfFrom_insert d _ k v hv (Sparse.key_of_mem_erase m k) 0 (Nat.zero_le _) he

/-- Clearing a range keeps the canonical form. -/
theorem Sparse.wf_clear {α : Type} [DecidableEq α] (d : Nat → α) (m : Sparse α) (lo hi : Nat)
    (h : Sparse.wf d m = true) : Sparse.wf d (Sparse.clear m lo hi) = true :=
  Sparse.wfFrom_filter d _ m 0 h

/-- Writing a list of entries keeps the canonical form. -/
theorem Sparse.wf_setAll {α : Type} [DecidableEq α] (d : Nat → α) (es : List (Nat × α)) :
    ∀ m : Sparse α, Sparse.wf d m = true → Sparse.wf d (Sparse.setAll d m es) = true := by
  induction es with
  | nil => intro m h; exact h
  | cons e es ih => intro m h; exact ih _ (Sparse.wf_set d m e.1 e.2 h)

end Sys2Proof.Machine
end

