-- ==== Sys2Proof/Laws/State.lean ====
section
/-! SUPPORT. The laws of the state's accessors: for each update, what every other field reads; reading back after a write. -/

namespace Sys2Proof.Machine

variable (s : Dev)

/-! setReg changes regs alone. -/
@[simp] theorem Dev.setReg_freeCnt (off : Nat) (v : W64) : (s.setReg off v).freeCnt = s.freeCnt := rfl
@[simp] theorem Dev.setReg_real (off : Nat) (v : W64) : (s.setReg off v).real = s.real := rfl
@[simp] theorem Dev.setReg_out (off : Nat) (v : W64) : (s.setReg off v).out = s.out := rfl
@[simp] theorem Dev.setReg_hostOut (off : Nat) (v : W64) : (s.setReg off v).hostOut = s.hostOut := rfl
@[simp] theorem Dev.setReg_pkg (off : Nat) (v : W64) : (s.setReg off v).pkg = s.pkg := rfl
@[simp] theorem Dev.setReg_phys (off : Nat) (v : W64) : (s.setReg off v).phys = s.phys := rfl
@[simp] theorem Dev.setReg_mem (off : Nat) (v : W64) : (s.setReg off v).mem = s.mem := rfl
@[simp] theorem Dev.setReg_cores (off : Nat) (v : W64) : (s.setReg off v).cores = s.cores := rfl
@[simp] theorem Dev.setReg_cs (off : Nat) (v : W64) : (s.setReg off v).cs = s.cs := rfl
@[simp] theorem Dev.setReg_ev (off : Nat) (v : W64) : (s.setReg off v).ev = s.ev := rfl
@[simp] theorem Dev.setReg_chans (off : Nat) (v : W64) : (s.setReg off v).chans = s.chans := rfl
@[simp] theorem Dev.setReg_bases (off : Nat) (v : W64) : (s.setReg off v).bases = s.bases := rfl
@[simp] theorem Dev.setReg_que (off : Nat) (v : W64) : (s.setReg off v).que = s.que := rfl
@[simp] theorem Dev.setReg_flt (off : Nat) (v : W64) : (s.setReg off v).flt = s.flt := rfl
@[simp] theorem Dev.setReg_pmc (off : Nat) (v : W64) : (s.setReg off v).pmc = s.pmc := rfl
@[simp] theorem Dev.setReg_job (off : Nat) (v : W64) : (s.setReg off v).job = s.job := rfl
@[simp] theorem Dev.setReg_disp (off : Nat) (v : W64) : (s.setReg off v).disp = s.disp := rfl
@[simp] theorem Dev.setReg_upds (off : Nat) (v : W64) : (s.setReg off v).upds = s.upds := rfl
@[simp] theorem Dev.setReg_col (off : Nat) (v : W64) : (s.setReg off v).col = s.col := rfl
@[simp] theorem Dev.setReg_fab (off : Nat) (v : W64) : (s.setReg off v).fab = s.fab := rfl
@[simp] theorem Dev.setReg_tim (off : Nat) (v : W64) : (s.setReg off v).tim = s.tim := rfl
@[simp] theorem Dev.setReg_sec (off : Nat) (v : W64) : (s.setReg off v).sec = s.sec := rfl
@[simp] theorem Dev.setReg_pwr (off : Nat) (v : W64) : (s.setReg off v).pwr = s.pwr := rfl
@[simp] theorem Dev.setReg_car (off : Nat) (v : W64) : (s.setReg off v).car = s.car := rfl
@[simp] theorem Dev.setReg_ring (off : Nat) (v : W64) : (s.setReg off v).ring = s.ring := rfl

/-! setFld changes regs alone. -/
@[simp] theorem Dev.setFld_freeCnt (f : Fld) (v : Nat) : (s.setFld f v).freeCnt = s.freeCnt := rfl
@[simp] theorem Dev.setFld_real (f : Fld) (v : Nat) : (s.setFld f v).real = s.real := rfl
@[simp] theorem Dev.setFld_out (f : Fld) (v : Nat) : (s.setFld f v).out = s.out := rfl
@[simp] theorem Dev.setFld_hostOut (f : Fld) (v : Nat) : (s.setFld f v).hostOut = s.hostOut := rfl
@[simp] theorem Dev.setFld_pkg (f : Fld) (v : Nat) : (s.setFld f v).pkg = s.pkg := rfl
@[simp] theorem Dev.setFld_phys (f : Fld) (v : Nat) : (s.setFld f v).phys = s.phys := rfl
@[simp] theorem Dev.setFld_mem (f : Fld) (v : Nat) : (s.setFld f v).mem = s.mem := rfl
@[simp] theorem Dev.setFld_cores (f : Fld) (v : Nat) : (s.setFld f v).cores = s.cores := rfl
@[simp] theorem Dev.setFld_cs (f : Fld) (v : Nat) : (s.setFld f v).cs = s.cs := rfl
@[simp] theorem Dev.setFld_ev (f : Fld) (v : Nat) : (s.setFld f v).ev = s.ev := rfl
@[simp] theorem Dev.setFld_chans (f : Fld) (v : Nat) : (s.setFld f v).chans = s.chans := rfl
@[simp] theorem Dev.setFld_bases (f : Fld) (v : Nat) : (s.setFld f v).bases = s.bases := rfl
@[simp] theorem Dev.setFld_que (f : Fld) (v : Nat) : (s.setFld f v).que = s.que := rfl
@[simp] theorem Dev.setFld_flt (f : Fld) (v : Nat) : (s.setFld f v).flt = s.flt := rfl
@[simp] theorem Dev.setFld_pmc (f : Fld) (v : Nat) : (s.setFld f v).pmc = s.pmc := rfl
@[simp] theorem Dev.setFld_job (f : Fld) (v : Nat) : (s.setFld f v).job = s.job := rfl
@[simp] theorem Dev.setFld_disp (f : Fld) (v : Nat) : (s.setFld f v).disp = s.disp := rfl
@[simp] theorem Dev.setFld_upds (f : Fld) (v : Nat) : (s.setFld f v).upds = s.upds := rfl
@[simp] theorem Dev.setFld_col (f : Fld) (v : Nat) : (s.setFld f v).col = s.col := rfl
@[simp] theorem Dev.setFld_fab (f : Fld) (v : Nat) : (s.setFld f v).fab = s.fab := rfl
@[simp] theorem Dev.setFld_tim (f : Fld) (v : Nat) : (s.setFld f v).tim = s.tim := rfl
@[simp] theorem Dev.setFld_sec (f : Fld) (v : Nat) : (s.setFld f v).sec = s.sec := rfl
@[simp] theorem Dev.setFld_pwr (f : Fld) (v : Nat) : (s.setFld f v).pwr = s.pwr := rfl
@[simp] theorem Dev.setFld_car (f : Fld) (v : Nat) : (s.setFld f v).car = s.car := rfl
@[simp] theorem Dev.setFld_ring (f : Fld) (v : Nat) : (s.setFld f v).ring = s.ring := rfl

/-! setBit changes regs alone. -/
@[simp] theorem Dev.setBit_freeCnt (f : Fld) (b : Bool) : (s.setBit f b).freeCnt = s.freeCnt := rfl
@[simp] theorem Dev.setBit_real (f : Fld) (b : Bool) : (s.setBit f b).real = s.real := rfl
@[simp] theorem Dev.setBit_out (f : Fld) (b : Bool) : (s.setBit f b).out = s.out := rfl
@[simp] theorem Dev.setBit_hostOut (f : Fld) (b : Bool) : (s.setBit f b).hostOut = s.hostOut := rfl
@[simp] theorem Dev.setBit_pkg (f : Fld) (b : Bool) : (s.setBit f b).pkg = s.pkg := rfl
@[simp] theorem Dev.setBit_phys (f : Fld) (b : Bool) : (s.setBit f b).phys = s.phys := rfl
@[simp] theorem Dev.setBit_mem (f : Fld) (b : Bool) : (s.setBit f b).mem = s.mem := rfl
@[simp] theorem Dev.setBit_cores (f : Fld) (b : Bool) : (s.setBit f b).cores = s.cores := rfl
@[simp] theorem Dev.setBit_cs (f : Fld) (b : Bool) : (s.setBit f b).cs = s.cs := rfl
@[simp] theorem Dev.setBit_ev (f : Fld) (b : Bool) : (s.setBit f b).ev = s.ev := rfl
@[simp] theorem Dev.setBit_chans (f : Fld) (b : Bool) : (s.setBit f b).chans = s.chans := rfl
@[simp] theorem Dev.setBit_bases (f : Fld) (b : Bool) : (s.setBit f b).bases = s.bases := rfl
@[simp] theorem Dev.setBit_que (f : Fld) (b : Bool) : (s.setBit f b).que = s.que := rfl
@[simp] theorem Dev.setBit_flt (f : Fld) (b : Bool) : (s.setBit f b).flt = s.flt := rfl
@[simp] theorem Dev.setBit_pmc (f : Fld) (b : Bool) : (s.setBit f b).pmc = s.pmc := rfl
@[simp] theorem Dev.setBit_job (f : Fld) (b : Bool) : (s.setBit f b).job = s.job := rfl
@[simp] theorem Dev.setBit_disp (f : Fld) (b : Bool) : (s.setBit f b).disp = s.disp := rfl
@[simp] theorem Dev.setBit_upds (f : Fld) (b : Bool) : (s.setBit f b).upds = s.upds := rfl
@[simp] theorem Dev.setBit_col (f : Fld) (b : Bool) : (s.setBit f b).col = s.col := rfl
@[simp] theorem Dev.setBit_fab (f : Fld) (b : Bool) : (s.setBit f b).fab = s.fab := rfl
@[simp] theorem Dev.setBit_tim (f : Fld) (b : Bool) : (s.setBit f b).tim = s.tim := rfl
@[simp] theorem Dev.setBit_sec (f : Fld) (b : Bool) : (s.setBit f b).sec = s.sec := rfl
@[simp] theorem Dev.setBit_pwr (f : Fld) (b : Bool) : (s.setBit f b).pwr = s.pwr := rfl
@[simp] theorem Dev.setBit_car (f : Fld) (b : Bool) : (s.setBit f b).car = s.car := rfl
@[simp] theorem Dev.setBit_ring (f : Fld) (b : Bool) : (s.setBit f b).ring = s.ring := rfl

/-! addFld changes regs alone. -/
@[simp] theorem Dev.addFld_freeCnt (f : Fld) (n : Nat) : (s.addFld f n).freeCnt = s.freeCnt := rfl
@[simp] theorem Dev.addFld_real (f : Fld) (n : Nat) : (s.addFld f n).real = s.real := rfl
@[simp] theorem Dev.addFld_out (f : Fld) (n : Nat) : (s.addFld f n).out = s.out := rfl
@[simp] theorem Dev.addFld_hostOut (f : Fld) (n : Nat) : (s.addFld f n).hostOut = s.hostOut := rfl
@[simp] theorem Dev.addFld_pkg (f : Fld) (n : Nat) : (s.addFld f n).pkg = s.pkg := rfl
@[simp] theorem Dev.addFld_phys (f : Fld) (n : Nat) : (s.addFld f n).phys = s.phys := rfl
@[simp] theorem Dev.addFld_mem (f : Fld) (n : Nat) : (s.addFld f n).mem = s.mem := rfl
@[simp] theorem Dev.addFld_cores (f : Fld) (n : Nat) : (s.addFld f n).cores = s.cores := rfl
@[simp] theorem Dev.addFld_cs (f : Fld) (n : Nat) : (s.addFld f n).cs = s.cs := rfl
@[simp] theorem Dev.addFld_ev (f : Fld) (n : Nat) : (s.addFld f n).ev = s.ev := rfl
@[simp] theorem Dev.addFld_chans (f : Fld) (n : Nat) : (s.addFld f n).chans = s.chans := rfl
@[simp] theorem Dev.addFld_bases (f : Fld) (n : Nat) : (s.addFld f n).bases = s.bases := rfl
@[simp] theorem Dev.addFld_que (f : Fld) (n : Nat) : (s.addFld f n).que = s.que := rfl
@[simp] theorem Dev.addFld_flt (f : Fld) (n : Nat) : (s.addFld f n).flt = s.flt := rfl
@[simp] theorem Dev.addFld_pmc (f : Fld) (n : Nat) : (s.addFld f n).pmc = s.pmc := rfl
@[simp] theorem Dev.addFld_job (f : Fld) (n : Nat) : (s.addFld f n).job = s.job := rfl
@[simp] theorem Dev.addFld_disp (f : Fld) (n : Nat) : (s.addFld f n).disp = s.disp := rfl
@[simp] theorem Dev.addFld_upds (f : Fld) (n : Nat) : (s.addFld f n).upds = s.upds := rfl
@[simp] theorem Dev.addFld_col (f : Fld) (n : Nat) : (s.addFld f n).col = s.col := rfl
@[simp] theorem Dev.addFld_fab (f : Fld) (n : Nat) : (s.addFld f n).fab = s.fab := rfl
@[simp] theorem Dev.addFld_tim (f : Fld) (n : Nat) : (s.addFld f n).tim = s.tim := rfl
@[simp] theorem Dev.addFld_sec (f : Fld) (n : Nat) : (s.addFld f n).sec = s.sec := rfl
@[simp] theorem Dev.addFld_pwr (f : Fld) (n : Nat) : (s.addFld f n).pwr = s.pwr := rfl
@[simp] theorem Dev.addFld_car (f : Fld) (n : Nat) : (s.addFld f n).car = s.car := rfl
@[simp] theorem Dev.addFld_ring (f : Fld) (n : Nat) : (s.addFld f n).ring = s.ring := rfl

/-! satFld changes regs alone. -/
@[simp] theorem Dev.satFld_freeCnt (f : Fld) (n : Nat) : (s.satFld f n).freeCnt = s.freeCnt := rfl
@[simp] theorem Dev.satFld_real (f : Fld) (n : Nat) : (s.satFld f n).real = s.real := rfl
@[simp] theorem Dev.satFld_out (f : Fld) (n : Nat) : (s.satFld f n).out = s.out := rfl
@[simp] theorem Dev.satFld_hostOut (f : Fld) (n : Nat) : (s.satFld f n).hostOut = s.hostOut := rfl
@[simp] theorem Dev.satFld_pkg (f : Fld) (n : Nat) : (s.satFld f n).pkg = s.pkg := rfl
@[simp] theorem Dev.satFld_phys (f : Fld) (n : Nat) : (s.satFld f n).phys = s.phys := rfl
@[simp] theorem Dev.satFld_mem (f : Fld) (n : Nat) : (s.satFld f n).mem = s.mem := rfl
@[simp] theorem Dev.satFld_cores (f : Fld) (n : Nat) : (s.satFld f n).cores = s.cores := rfl
@[simp] theorem Dev.satFld_cs (f : Fld) (n : Nat) : (s.satFld f n).cs = s.cs := rfl
@[simp] theorem Dev.satFld_ev (f : Fld) (n : Nat) : (s.satFld f n).ev = s.ev := rfl
@[simp] theorem Dev.satFld_chans (f : Fld) (n : Nat) : (s.satFld f n).chans = s.chans := rfl
@[simp] theorem Dev.satFld_bases (f : Fld) (n : Nat) : (s.satFld f n).bases = s.bases := rfl
@[simp] theorem Dev.satFld_que (f : Fld) (n : Nat) : (s.satFld f n).que = s.que := rfl
@[simp] theorem Dev.satFld_flt (f : Fld) (n : Nat) : (s.satFld f n).flt = s.flt := rfl
@[simp] theorem Dev.satFld_pmc (f : Fld) (n : Nat) : (s.satFld f n).pmc = s.pmc := rfl
@[simp] theorem Dev.satFld_job (f : Fld) (n : Nat) : (s.satFld f n).job = s.job := rfl
@[simp] theorem Dev.satFld_disp (f : Fld) (n : Nat) : (s.satFld f n).disp = s.disp := rfl
@[simp] theorem Dev.satFld_upds (f : Fld) (n : Nat) : (s.satFld f n).upds = s.upds := rfl
@[simp] theorem Dev.satFld_col (f : Fld) (n : Nat) : (s.satFld f n).col = s.col := rfl
@[simp] theorem Dev.satFld_fab (f : Fld) (n : Nat) : (s.satFld f n).fab = s.fab := rfl
@[simp] theorem Dev.satFld_tim (f : Fld) (n : Nat) : (s.satFld f n).tim = s.tim := rfl
@[simp] theorem Dev.satFld_sec (f : Fld) (n : Nat) : (s.satFld f n).sec = s.sec := rfl
@[simp] theorem Dev.satFld_pwr (f : Fld) (n : Nat) : (s.satFld f n).pwr = s.pwr := rfl
@[simp] theorem Dev.satFld_car (f : Fld) (n : Nat) : (s.satFld f n).car = s.car := rfl
@[simp] theorem Dev.satFld_ring (f : Fld) (n : Nat) : (s.satFld f n).ring = s.ring := rfl

/-! violation changes regs alone. -/
@[simp] theorem Dev.violation_freeCnt (off : Nat) (wr : Bool) : (s.violation off wr).freeCnt = s.freeCnt := rfl
@[simp] theorem Dev.violation_real (off : Nat) (wr : Bool) : (s.violation off wr).real = s.real := rfl
@[simp] theorem Dev.violation_out (off : Nat) (wr : Bool) : (s.violation off wr).out = s.out := rfl
@[simp] theorem Dev.violation_hostOut (off : Nat) (wr : Bool) : (s.violation off wr).hostOut = s.hostOut := rfl
@[simp] theorem Dev.violation_pkg (off : Nat) (wr : Bool) : (s.violation off wr).pkg = s.pkg := rfl
@[simp] theorem Dev.violation_phys (off : Nat) (wr : Bool) : (s.violation off wr).phys = s.phys := rfl
@[simp] theorem Dev.violation_mem (off : Nat) (wr : Bool) : (s.violation off wr).mem = s.mem := rfl
@[simp] theorem Dev.violation_cores (off : Nat) (wr : Bool) : (s.violation off wr).cores = s.cores := rfl
@[simp] theorem Dev.violation_cs (off : Nat) (wr : Bool) : (s.violation off wr).cs = s.cs := rfl
@[simp] theorem Dev.violation_ev (off : Nat) (wr : Bool) : (s.violation off wr).ev = s.ev := rfl
@[simp] theorem Dev.violation_chans (off : Nat) (wr : Bool) : (s.violation off wr).chans = s.chans := rfl
@[simp] theorem Dev.violation_bases (off : Nat) (wr : Bool) : (s.violation off wr).bases = s.bases := rfl
@[simp] theorem Dev.violation_que (off : Nat) (wr : Bool) : (s.violation off wr).que = s.que := rfl
@[simp] theorem Dev.violation_flt (off : Nat) (wr : Bool) : (s.violation off wr).flt = s.flt := rfl
@[simp] theorem Dev.violation_pmc (off : Nat) (wr : Bool) : (s.violation off wr).pmc = s.pmc := rfl
@[simp] theorem Dev.violation_job (off : Nat) (wr : Bool) : (s.violation off wr).job = s.job := rfl
@[simp] theorem Dev.violation_disp (off : Nat) (wr : Bool) : (s.violation off wr).disp = s.disp := rfl
@[simp] theorem Dev.violation_upds (off : Nat) (wr : Bool) : (s.violation off wr).upds = s.upds := rfl
@[simp] theorem Dev.violation_col (off : Nat) (wr : Bool) : (s.violation off wr).col = s.col := rfl
@[simp] theorem Dev.violation_fab (off : Nat) (wr : Bool) : (s.violation off wr).fab = s.fab := rfl
@[simp] theorem Dev.violation_tim (off : Nat) (wr : Bool) : (s.violation off wr).tim = s.tim := rfl
@[simp] theorem Dev.violation_sec (off : Nat) (wr : Bool) : (s.violation off wr).sec = s.sec := rfl
@[simp] theorem Dev.violation_pwr (off : Nat) (wr : Bool) : (s.violation off wr).pwr = s.pwr := rfl
@[simp] theorem Dev.violation_car (off : Nat) (wr : Bool) : (s.violation off wr).car = s.car := rfl
@[simp] theorem Dev.violation_ring (off : Nat) (wr : Bool) : (s.violation off wr).ring = s.ring := rfl

/-! setCore changes cores alone. -/
@[simp] theorem Dev.setCore_freeCnt (c : Nat) (k : Core) : (s.setCore c k).freeCnt = s.freeCnt := rfl
@[simp] theorem Dev.setCore_real (c : Nat) (k : Core) : (s.setCore c k).real = s.real := rfl
@[simp] theorem Dev.setCore_out (c : Nat) (k : Core) : (s.setCore c k).out = s.out := rfl
@[simp] theorem Dev.setCore_hostOut (c : Nat) (k : Core) : (s.setCore c k).hostOut = s.hostOut := rfl
@[simp] theorem Dev.setCore_pkg (c : Nat) (k : Core) : (s.setCore c k).pkg = s.pkg := rfl
@[simp] theorem Dev.setCore_regs (c : Nat) (k : Core) : (s.setCore c k).regs = s.regs := rfl
@[simp] theorem Dev.setCore_phys (c : Nat) (k : Core) : (s.setCore c k).phys = s.phys := rfl
@[simp] theorem Dev.setCore_mem (c : Nat) (k : Core) : (s.setCore c k).mem = s.mem := rfl
@[simp] theorem Dev.setCore_cs (c : Nat) (k : Core) : (s.setCore c k).cs = s.cs := rfl
@[simp] theorem Dev.setCore_ev (c : Nat) (k : Core) : (s.setCore c k).ev = s.ev := rfl
@[simp] theorem Dev.setCore_chans (c : Nat) (k : Core) : (s.setCore c k).chans = s.chans := rfl
@[simp] theorem Dev.setCore_bases (c : Nat) (k : Core) : (s.setCore c k).bases = s.bases := rfl
@[simp] theorem Dev.setCore_que (c : Nat) (k : Core) : (s.setCore c k).que = s.que := rfl
@[simp] theorem Dev.setCore_flt (c : Nat) (k : Core) : (s.setCore c k).flt = s.flt := rfl
@[simp] theorem Dev.setCore_pmc (c : Nat) (k : Core) : (s.setCore c k).pmc = s.pmc := rfl
@[simp] theorem Dev.setCore_job (c : Nat) (k : Core) : (s.setCore c k).job = s.job := rfl
@[simp] theorem Dev.setCore_disp (c : Nat) (k : Core) : (s.setCore c k).disp = s.disp := rfl
@[simp] theorem Dev.setCore_upds (c : Nat) (k : Core) : (s.setCore c k).upds = s.upds := rfl
@[simp] theorem Dev.setCore_col (c : Nat) (k : Core) : (s.setCore c k).col = s.col := rfl
@[simp] theorem Dev.setCore_fab (c : Nat) (k : Core) : (s.setCore c k).fab = s.fab := rfl
@[simp] theorem Dev.setCore_tim (c : Nat) (k : Core) : (s.setCore c k).tim = s.tim := rfl
@[simp] theorem Dev.setCore_sec (c : Nat) (k : Core) : (s.setCore c k).sec = s.sec := rfl
@[simp] theorem Dev.setCore_pwr (c : Nat) (k : Core) : (s.setCore c k).pwr = s.pwr := rfl
@[simp] theorem Dev.setCore_car (c : Nat) (k : Core) : (s.setCore c k).car = s.car := rfl
@[simp] theorem Dev.setCore_ring (c : Nat) (k : Core) : (s.setCore c k).ring = s.ring := rfl

/-! onCore changes cores alone. -/
@[simp] theorem Dev.onCore_freeCnt (c : Nat) (f : Core → Core) : (s.onCore c f).freeCnt = s.freeCnt := rfl
@[simp] theorem Dev.onCore_real (c : Nat) (f : Core → Core) : (s.onCore c f).real = s.real := rfl
@[simp] theorem Dev.onCore_out (c : Nat) (f : Core → Core) : (s.onCore c f).out = s.out := rfl
@[simp] theorem Dev.onCore_hostOut (c : Nat) (f : Core → Core) : (s.onCore c f).hostOut = s.hostOut := rfl
@[simp] theorem Dev.onCore_pkg (c : Nat) (f : Core → Core) : (s.onCore c f).pkg = s.pkg := rfl
@[simp] theorem Dev.onCore_regs (c : Nat) (f : Core → Core) : (s.onCore c f).regs = s.regs := rfl
@[simp] theorem Dev.onCore_phys (c : Nat) (f : Core → Core) : (s.onCore c f).phys = s.phys := rfl
@[simp] theorem Dev.onCore_mem (c : Nat) (f : Core → Core) : (s.onCore c f).mem = s.mem := rfl
@[simp] theorem Dev.onCore_cs (c : Nat) (f : Core → Core) : (s.onCore c f).cs = s.cs := rfl
@[simp] theorem Dev.onCore_ev (c : Nat) (f : Core → Core) : (s.onCore c f).ev = s.ev := rfl
@[simp] theorem Dev.onCore_chans (c : Nat) (f : Core → Core) : (s.onCore c f).chans = s.chans := rfl
@[simp] theorem Dev.onCore_bases (c : Nat) (f : Core → Core) : (s.onCore c f).bases = s.bases := rfl
@[simp] theorem Dev.onCore_que (c : Nat) (f : Core → Core) : (s.onCore c f).que = s.que := rfl
@[simp] theorem Dev.onCore_flt (c : Nat) (f : Core → Core) : (s.onCore c f).flt = s.flt := rfl
@[simp] theorem Dev.onCore_pmc (c : Nat) (f : Core → Core) : (s.onCore c f).pmc = s.pmc := rfl
@[simp] theorem Dev.onCore_job (c : Nat) (f : Core → Core) : (s.onCore c f).job = s.job := rfl
@[simp] theorem Dev.onCore_disp (c : Nat) (f : Core → Core) : (s.onCore c f).disp = s.disp := rfl
@[simp] theorem Dev.onCore_upds (c : Nat) (f : Core → Core) : (s.onCore c f).upds = s.upds := rfl
@[simp] theorem Dev.onCore_col (c : Nat) (f : Core → Core) : (s.onCore c f).col = s.col := rfl
@[simp] theorem Dev.onCore_fab (c : Nat) (f : Core → Core) : (s.onCore c f).fab = s.fab := rfl
@[simp] theorem Dev.onCore_tim (c : Nat) (f : Core → Core) : (s.onCore c f).tim = s.tim := rfl
@[simp] theorem Dev.onCore_sec (c : Nat) (f : Core → Core) : (s.onCore c f).sec = s.sec := rfl
@[simp] theorem Dev.onCore_pwr (c : Nat) (f : Core → Core) : (s.onCore c f).pwr = s.pwr := rfl
@[simp] theorem Dev.onCore_car (c : Nat) (f : Core → Core) : (s.onCore c f).car = s.car := rfl
@[simp] theorem Dev.onCore_ring (c : Nat) (f : Core → Core) : (s.onCore c f).ring = s.ring := rfl

/-! setChan changes chans alone. -/
@[simp] theorem Dev.setChan_freeCnt (h : Nat) (k : Chan) : (s.setChan h k).freeCnt = s.freeCnt := rfl
@[simp] theorem Dev.setChan_real (h : Nat) (k : Chan) : (s.setChan h k).real = s.real := rfl
@[simp] theorem Dev.setChan_out (h : Nat) (k : Chan) : (s.setChan h k).out = s.out := rfl
@[simp] theorem Dev.setChan_hostOut (h : Nat) (k : Chan) : (s.setChan h k).hostOut = s.hostOut := rfl
@[simp] theorem Dev.setChan_pkg (h : Nat) (k : Chan) : (s.setChan h k).pkg = s.pkg := rfl
@[simp] theorem Dev.setChan_regs (h : Nat) (k : Chan) : (s.setChan h k).regs = s.regs := rfl
@[simp] theorem Dev.setChan_phys (h : Nat) (k : Chan) : (s.setChan h k).phys = s.phys := rfl
@[simp] theorem Dev.setChan_mem (h : Nat) (k : Chan) : (s.setChan h k).mem = s.mem := rfl
@[simp] theorem Dev.setChan_cores (h : Nat) (k : Chan) : (s.setChan h k).cores = s.cores := rfl
@[simp] theorem Dev.setChan_cs (h : Nat) (k : Chan) : (s.setChan h k).cs = s.cs := rfl
@[simp] theorem Dev.setChan_ev (h : Nat) (k : Chan) : (s.setChan h k).ev = s.ev := rfl
@[simp] theorem Dev.setChan_bases (h : Nat) (k : Chan) : (s.setChan h k).bases = s.bases := rfl
@[simp] theorem Dev.setChan_que (h : Nat) (k : Chan) : (s.setChan h k).que = s.que := rfl
@[simp] theorem Dev.setChan_flt (h : Nat) (k : Chan) : (s.setChan h k).flt = s.flt := rfl
@[simp] theorem Dev.setChan_pmc (h : Nat) (k : Chan) : (s.setChan h k).pmc = s.pmc := rfl
@[simp] theorem Dev.setChan_job (h : Nat) (k : Chan) : (s.setChan h k).job = s.job := rfl
@[simp] theorem Dev.setChan_disp (h : Nat) (k : Chan) : (s.setChan h k).disp = s.disp := rfl
@[simp] theorem Dev.setChan_upds (h : Nat) (k : Chan) : (s.setChan h k).upds = s.upds := rfl
@[simp] theorem Dev.setChan_col (h : Nat) (k : Chan) : (s.setChan h k).col = s.col := rfl
@[simp] theorem Dev.setChan_fab (h : Nat) (k : Chan) : (s.setChan h k).fab = s.fab := rfl
@[simp] theorem Dev.setChan_tim (h : Nat) (k : Chan) : (s.setChan h k).tim = s.tim := rfl
@[simp] theorem Dev.setChan_sec (h : Nat) (k : Chan) : (s.setChan h k).sec = s.sec := rfl
@[simp] theorem Dev.setChan_pwr (h : Nat) (k : Chan) : (s.setChan h k).pwr = s.pwr := rfl
@[simp] theorem Dev.setChan_car (h : Nat) (k : Chan) : (s.setChan h k).car = s.car := rfl
@[simp] theorem Dev.setChan_ring (h : Nat) (k : Chan) : (s.setChan h k).ring = s.ring := rfl

/-! setBase changes bases alone. -/
@[simp] theorem Dev.setBase_freeCnt (d : Nat) (b : Base) : (s.setBase d b).freeCnt = s.freeCnt := rfl
@[simp] theorem Dev.setBase_real (d : Nat) (b : Base) : (s.setBase d b).real = s.real := rfl
@[simp] theorem Dev.setBase_out (d : Nat) (b : Base) : (s.setBase d b).out = s.out := rfl
@[simp] theorem Dev.setBase_hostOut (d : Nat) (b : Base) : (s.setBase d b).hostOut = s.hostOut := rfl
@[simp] theorem Dev.setBase_pkg (d : Nat) (b : Base) : (s.setBase d b).pkg = s.pkg := rfl
@[simp] theorem Dev.setBase_regs (d : Nat) (b : Base) : (s.setBase d b).regs = s.regs := rfl
@[simp] theorem Dev.setBase_phys (d : Nat) (b : Base) : (s.setBase d b).phys = s.phys := rfl
@[simp] theorem Dev.setBase_mem (d : Nat) (b : Base) : (s.setBase d b).mem = s.mem := rfl
@[simp] theorem Dev.setBase_cores (d : Nat) (b : Base) : (s.setBase d b).cores = s.cores := rfl
@[simp] theorem Dev.setBase_cs (d : Nat) (b : Base) : (s.setBase d b).cs = s.cs := rfl
@[simp] theorem Dev.setBase_ev (d : Nat) (b : Base) : (s.setBase d b).ev = s.ev := rfl
@[simp] theorem Dev.setBase_chans (d : Nat) (b : Base) : (s.setBase d b).chans = s.chans := rfl
@[simp] theorem Dev.setBase_que (d : Nat) (b : Base) : (s.setBase d b).que = s.que := rfl
@[simp] theorem Dev.setBase_flt (d : Nat) (b : Base) : (s.setBase d b).flt = s.flt := rfl
@[simp] theorem Dev.setBase_pmc (d : Nat) (b : Base) : (s.setBase d b).pmc = s.pmc := rfl
@[simp] theorem Dev.setBase_job (d : Nat) (b : Base) : (s.setBase d b).job = s.job := rfl
@[simp] theorem Dev.setBase_disp (d : Nat) (b : Base) : (s.setBase d b).disp = s.disp := rfl
@[simp] theorem Dev.setBase_upds (d : Nat) (b : Base) : (s.setBase d b).upds = s.upds := rfl
@[simp] theorem Dev.setBase_col (d : Nat) (b : Base) : (s.setBase d b).col = s.col := rfl
@[simp] theorem Dev.setBase_fab (d : Nat) (b : Base) : (s.setBase d b).fab = s.fab := rfl
@[simp] theorem Dev.setBase_tim (d : Nat) (b : Base) : (s.setBase d b).tim = s.tim := rfl
@[simp] theorem Dev.setBase_sec (d : Nat) (b : Base) : (s.setBase d b).sec = s.sec := rfl
@[simp] theorem Dev.setBase_pwr (d : Nat) (b : Base) : (s.setBase d b).pwr = s.pwr := rfl
@[simp] theorem Dev.setBase_car (d : Nat) (b : Base) : (s.setBase d b).car = s.car := rfl
@[simp] theorem Dev.setBase_ring (d : Nat) (b : Base) : (s.setBase d b).ring = s.ring := rfl

/-! setCs changes cs alone. -/
@[simp] theorem Dev.setCs_freeCnt (k : Nat) (st : Store) : (s.setCs k st).freeCnt = s.freeCnt := rfl
@[simp] theorem Dev.setCs_real (k : Nat) (st : Store) : (s.setCs k st).real = s.real := rfl
@[simp] theorem Dev.setCs_out (k : Nat) (st : Store) : (s.setCs k st).out = s.out := rfl
@[simp] theorem Dev.setCs_hostOut (k : Nat) (st : Store) : (s.setCs k st).hostOut = s.hostOut := rfl
@[simp] theorem Dev.setCs_pkg (k : Nat) (st : Store) : (s.setCs k st).pkg = s.pkg := rfl
@[simp] theorem Dev.setCs_regs (k : Nat) (st : Store) : (s.setCs k st).regs = s.regs := rfl
@[simp] theorem Dev.setCs_phys (k : Nat) (st : Store) : (s.setCs k st).phys = s.phys := rfl
@[simp] theorem Dev.setCs_mem (k : Nat) (st : Store) : (s.setCs k st).mem = s.mem := rfl
@[simp] theorem Dev.setCs_cores (k : Nat) (st : Store) : (s.setCs k st).cores = s.cores := rfl
@[simp] theorem Dev.setCs_ev (k : Nat) (st : Store) : (s.setCs k st).ev = s.ev := rfl
@[simp] theorem Dev.setCs_chans (k : Nat) (st : Store) : (s.setCs k st).chans = s.chans := rfl
@[simp] theorem Dev.setCs_bases (k : Nat) (st : Store) : (s.setCs k st).bases = s.bases := rfl
@[simp] theorem Dev.setCs_que (k : Nat) (st : Store) : (s.setCs k st).que = s.que := rfl
@[simp] theorem Dev.setCs_flt (k : Nat) (st : Store) : (s.setCs k st).flt = s.flt := rfl
@[simp] theorem Dev.setCs_pmc (k : Nat) (st : Store) : (s.setCs k st).pmc = s.pmc := rfl
@[simp] theorem Dev.setCs_job (k : Nat) (st : Store) : (s.setCs k st).job = s.job := rfl
@[simp] theorem Dev.setCs_disp (k : Nat) (st : Store) : (s.setCs k st).disp = s.disp := rfl
@[simp] theorem Dev.setCs_upds (k : Nat) (st : Store) : (s.setCs k st).upds = s.upds := rfl
@[simp] theorem Dev.setCs_col (k : Nat) (st : Store) : (s.setCs k st).col = s.col := rfl
@[simp] theorem Dev.setCs_fab (k : Nat) (st : Store) : (s.setCs k st).fab = s.fab := rfl
@[simp] theorem Dev.setCs_tim (k : Nat) (st : Store) : (s.setCs k st).tim = s.tim := rfl
@[simp] theorem Dev.setCs_sec (k : Nat) (st : Store) : (s.setCs k st).sec = s.sec := rfl
@[simp] theorem Dev.setCs_pwr (k : Nat) (st : Store) : (s.setCs k st).pwr = s.pwr := rfl
@[simp] theorem Dev.setCs_car (k : Nat) (st : Store) : (s.setCs k st).car = s.car := rfl
@[simp] theorem Dev.setCs_ring (k : Nat) (st : Store) : (s.setCs k st).ring = s.ring := rfl

/-! evSet changes ev alone. -/
@[simp] theorem Dev.evSet_freeCnt (dom n : Nat) (v : W32) : (s.evSet dom n v).freeCnt = s.freeCnt := rfl
@[simp] theorem Dev.evSet_real (dom n : Nat) (v : W32) : (s.evSet dom n v).real = s.real := rfl
@[simp] theorem Dev.evSet_out (dom n : Nat) (v : W32) : (s.evSet dom n v).out = s.out := rfl
@[simp] theorem Dev.evSet_hostOut (dom n : Nat) (v : W32) : (s.evSet dom n v).hostOut = s.hostOut := rfl
@[simp] theorem Dev.evSet_pkg (dom n : Nat) (v : W32) : (s.evSet dom n v).pkg = s.pkg := rfl
@[simp] theorem Dev.evSet_regs (dom n : Nat) (v : W32) : (s.evSet dom n v).regs = s.regs := rfl
@[simp] theorem Dev.evSet_phys (dom n : Nat) (v : W32) : (s.evSet dom n v).phys = s.phys := rfl
@[simp] theorem Dev.evSet_mem (dom n : Nat) (v : W32) : (s.evSet dom n v).mem = s.mem := rfl
@[simp] theorem Dev.evSet_cores (dom n : Nat) (v : W32) : (s.evSet dom n v).cores = s.cores := rfl
@[simp] theorem Dev.evSet_cs (dom n : Nat) (v : W32) : (s.evSet dom n v).cs = s.cs := rfl
@[simp] theorem Dev.evSet_chans (dom n : Nat) (v : W32) : (s.evSet dom n v).chans = s.chans := rfl
@[simp] theorem Dev.evSet_bases (dom n : Nat) (v : W32) : (s.evSet dom n v).bases = s.bases := rfl
@[simp] theorem Dev.evSet_que (dom n : Nat) (v : W32) : (s.evSet dom n v).que = s.que := rfl
@[simp] theorem Dev.evSet_flt (dom n : Nat) (v : W32) : (s.evSet dom n v).flt = s.flt := rfl
@[simp] theorem Dev.evSet_pmc (dom n : Nat) (v : W32) : (s.evSet dom n v).pmc = s.pmc := rfl
@[simp] theorem Dev.evSet_job (dom n : Nat) (v : W32) : (s.evSet dom n v).job = s.job := rfl
@[simp] theorem Dev.evSet_disp (dom n : Nat) (v : W32) : (s.evSet dom n v).disp = s.disp := rfl
@[simp] theorem Dev.evSet_upds (dom n : Nat) (v : W32) : (s.evSet dom n v).upds = s.upds := rfl
@[simp] theorem Dev.evSet_col (dom n : Nat) (v : W32) : (s.evSet dom n v).col = s.col := rfl
@[simp] theorem Dev.evSet_fab (dom n : Nat) (v : W32) : (s.evSet dom n v).fab = s.fab := rfl
@[simp] theorem Dev.evSet_tim (dom n : Nat) (v : W32) : (s.evSet dom n v).tim = s.tim := rfl
@[simp] theorem Dev.evSet_sec (dom n : Nat) (v : W32) : (s.evSet dom n v).sec = s.sec := rfl
@[simp] theorem Dev.evSet_pwr (dom n : Nat) (v : W32) : (s.evSet dom n v).pwr = s.pwr := rfl
@[simp] theorem Dev.evSet_car (dom n : Nat) (v : W32) : (s.evSet dom n v).car = s.car := rfl
@[simp] theorem Dev.evSet_ring (dom n : Nat) (v : W32) : (s.evSet dom n v).ring = s.ring := rfl

/-! send changes out alone. -/
@[simp] theorem Dev.send_freeCnt (o : Output) : (s.send o).freeCnt = s.freeCnt := rfl
@[simp] theorem Dev.send_real (o : Output) : (s.send o).real = s.real := rfl
@[simp] theorem Dev.send_hostOut (o : Output) : (s.send o).hostOut = s.hostOut := rfl
@[simp] theorem Dev.send_pkg (o : Output) : (s.send o).pkg = s.pkg := rfl
@[simp] theorem Dev.send_regs (o : Output) : (s.send o).regs = s.regs := rfl
@[simp] theorem Dev.send_phys (o : Output) : (s.send o).phys = s.phys := rfl
@[simp] theorem Dev.send_mem (o : Output) : (s.send o).mem = s.mem := rfl
@[simp] theorem Dev.send_cores (o : Output) : (s.send o).cores = s.cores := rfl
@[simp] theorem Dev.send_cs (o : Output) : (s.send o).cs = s.cs := rfl
@[simp] theorem Dev.send_ev (o : Output) : (s.send o).ev = s.ev := rfl
@[simp] theorem Dev.send_chans (o : Output) : (s.send o).chans = s.chans := rfl
@[simp] theorem Dev.send_bases (o : Output) : (s.send o).bases = s.bases := rfl
@[simp] theorem Dev.send_que (o : Output) : (s.send o).que = s.que := rfl
@[simp] theorem Dev.send_flt (o : Output) : (s.send o).flt = s.flt := rfl
@[simp] theorem Dev.send_pmc (o : Output) : (s.send o).pmc = s.pmc := rfl
@[simp] theorem Dev.send_job (o : Output) : (s.send o).job = s.job := rfl
@[simp] theorem Dev.send_disp (o : Output) : (s.send o).disp = s.disp := rfl
@[simp] theorem Dev.send_upds (o : Output) : (s.send o).upds = s.upds := rfl
@[simp] theorem Dev.send_col (o : Output) : (s.send o).col = s.col := rfl
@[simp] theorem Dev.send_fab (o : Output) : (s.send o).fab = s.fab := rfl
@[simp] theorem Dev.send_tim (o : Output) : (s.send o).tim = s.tim := rfl
@[simp] theorem Dev.send_sec (o : Output) : (s.send o).sec = s.sec := rfl
@[simp] theorem Dev.send_pwr (o : Output) : (s.send o).pwr = s.pwr := rfl
@[simp] theorem Dev.send_car (o : Output) : (s.send o).car = s.car := rfl
@[simp] theorem Dev.send_ring (o : Output) : (s.send o).ring = s.ring := rfl

/-! moves changes pmc alone. -/
@[simp] theorem Dev.moves_freeCnt (c n : Nat) : (s.moves c n).freeCnt = s.freeCnt := by unfold Dev.moves; split <;> rfl
@[simp] theorem Dev.moves_real (c n : Nat) : (s.moves c n).real = s.real := by unfold Dev.moves; split <;> rfl
@[simp] theorem Dev.moves_out (c n : Nat) : (s.moves c n).out = s.out := by unfold Dev.moves; split <;> rfl
@[simp] theorem Dev.moves_hostOut (c n : Nat) : (s.moves c n).hostOut = s.hostOut := by unfold Dev.moves; split <;> rfl
@[simp] theorem Dev.moves_pkg (c n : Nat) : (s.moves c n).pkg = s.pkg := by unfold Dev.moves; split <;> rfl
@[simp] theorem Dev.moves_regs (c n : Nat) : (s.moves c n).regs = s.regs := by unfold Dev.moves; split <;> rfl
@[simp] theorem Dev.moves_phys (c n : Nat) : (s.moves c n).phys = s.phys := by unfold Dev.moves; split <;> rfl
@[simp] theorem Dev.moves_mem (c n : Nat) : (s.moves c n).mem = s.mem := by unfold Dev.moves; split <;> rfl
@[simp] theorem Dev.moves_cores (c n : Nat) : (s.moves c n).cores = s.cores := by unfold Dev.moves; split <;> rfl
@[simp] theorem Dev.moves_cs (c n : Nat) : (s.moves c n).cs = s.cs := by unfold Dev.moves; split <;> rfl
@[simp] theorem Dev.moves_ev (c n : Nat) : (s.moves c n).ev = s.ev := by unfold Dev.moves; split <;> rfl
@[simp] theorem Dev.moves_chans (c n : Nat) : (s.moves c n).chans = s.chans := by unfold Dev.moves; split <;> rfl
@[simp] theorem Dev.moves_bases (c n : Nat) : (s.moves c n).bases = s.bases := by unfold Dev.moves; split <;> rfl
@[simp] theorem Dev.moves_que (c n : Nat) : (s.moves c n).que = s.que := by unfold Dev.moves; split <;> rfl
@[simp] theorem Dev.moves_flt (c n : Nat) : (s.moves c n).flt = s.flt := by unfold Dev.moves; split <;> rfl
@[simp] theorem Dev.moves_job (c n : Nat) : (s.moves c n).job = s.job := by unfold Dev.moves; split <;> rfl
@[simp] theorem Dev.moves_disp (c n : Nat) : (s.moves c n).disp = s.disp := by unfold Dev.moves; split <;> rfl
@[simp] theorem Dev.moves_upds (c n : Nat) : (s.moves c n).upds = s.upds := by unfold Dev.moves; split <;> rfl
@[simp] theorem Dev.moves_col (c n : Nat) : (s.moves c n).col = s.col := by unfold Dev.moves; split <;> rfl
@[simp] theorem Dev.moves_fab (c n : Nat) : (s.moves c n).fab = s.fab := by unfold Dev.moves; split <;> rfl
@[simp] theorem Dev.moves_tim (c n : Nat) : (s.moves c n).tim = s.tim := by unfold Dev.moves; split <;> rfl
@[simp] theorem Dev.moves_sec (c n : Nat) : (s.moves c n).sec = s.sec := by unfold Dev.moves; split <;> rfl
@[simp] theorem Dev.moves_pwr (c n : Nat) : (s.moves c n).pwr = s.pwr := by unfold Dev.moves; split <;> rfl
@[simp] theorem Dev.moves_car (c n : Nat) : (s.moves c n).car = s.car := by unfold Dev.moves; split <;> rfl
@[simp] theorem Dev.moves_ring (c n : Nat) : (s.moves c n).ring = s.ring := by unfold Dev.moves; split <;> rfl

/-! ringSend and ringFetch change ring alone. -/
@[simp] theorem Dev.ringSend_freeCnt (w k c a b key n : Nat) : (s.ringSend w k c a b key n).freeCnt = s.freeCnt := rfl
@[simp] theorem Dev.ringSend_real (w k c a b key n : Nat) : (s.ringSend w k c a b key n).real = s.real := rfl
@[simp] theorem Dev.ringSend_out (w k c a b key n : Nat) : (s.ringSend w k c a b key n).out = s.out := rfl
@[simp] theorem Dev.ringSend_hostOut (w k c a b key n : Nat) : (s.ringSend w k c a b key n).hostOut = s.hostOut := rfl
@[simp] theorem Dev.ringSend_pkg (w k c a b key n : Nat) : (s.ringSend w k c a b key n).pkg = s.pkg := rfl
@[simp] theorem Dev.ringSend_regs (w k c a b key n : Nat) : (s.ringSend w k c a b key n).regs = s.regs := rfl
@[simp] theorem Dev.ringSend_phys (w k c a b key n : Nat) : (s.ringSend w k c a b key n).phys = s.phys := rfl
@[simp] theorem Dev.ringSend_mem (w k c a b key n : Nat) : (s.ringSend w k c a b key n).mem = s.mem := rfl
@[simp] theorem Dev.ringSend_cores (w k c a b key n : Nat) : (s.ringSend w k c a b key n).cores = s.cores := rfl
@[simp] theorem Dev.ringSend_cs (w k c a b key n : Nat) : (s.ringSend w k c a b key n).cs = s.cs := rfl
@[simp] theorem Dev.ringSend_ev (w k c a b key n : Nat) : (s.ringSend w k c a b key n).ev = s.ev := rfl
@[simp] theorem Dev.ringSend_chans (w k c a b key n : Nat) : (s.ringSend w k c a b key n).chans = s.chans := rfl
@[simp] theorem Dev.ringSend_bases (w k c a b key n : Nat) : (s.ringSend w k c a b key n).bases = s.bases := rfl
@[simp] theorem Dev.ringSend_que (w k c a b key n : Nat) : (s.ringSend w k c a b key n).que = s.que := rfl
@[simp] theorem Dev.ringSend_flt (w k c a b key n : Nat) : (s.ringSend w k c a b key n).flt = s.flt := rfl
@[simp] theorem Dev.ringSend_job (w k c a b key n : Nat) : (s.ringSend w k c a b key n).job = s.job := rfl
@[simp] theorem Dev.ringSend_disp (w k c a b key n : Nat) : (s.ringSend w k c a b key n).disp = s.disp := rfl
@[simp] theorem Dev.ringSend_upds (w k c a b key n : Nat) : (s.ringSend w k c a b key n).upds = s.upds := rfl
@[simp] theorem Dev.ringSend_col (w k c a b key n : Nat) : (s.ringSend w k c a b key n).col = s.col := rfl
@[simp] theorem Dev.ringSend_fab (w k c a b key n : Nat) : (s.ringSend w k c a b key n).fab = s.fab := rfl
@[simp] theorem Dev.ringSend_tim (w k c a b key n : Nat) : (s.ringSend w k c a b key n).tim = s.tim := rfl
@[simp] theorem Dev.ringSend_sec (w k c a b key n : Nat) : (s.ringSend w k c a b key n).sec = s.sec := rfl
@[simp] theorem Dev.ringSend_pwr (w k c a b key n : Nat) : (s.ringSend w k c a b key n).pwr = s.pwr := rfl
@[simp] theorem Dev.ringSend_car (w k c a b key n : Nat) : (s.ringSend w k c a b key n).car = s.car := rfl
@[simp] theorem Dev.ringSend_pmc (w k c a b key n : Nat) : (s.ringSend w k c a b key n).pmc = s.pmc := rfl
@[simp] theorem Dev.ringFetch_freeCnt (w k c a b key n : Nat) : (s.ringFetch w k c a b key n).freeCnt = s.freeCnt := rfl
@[simp] theorem Dev.ringFetch_real (w k c a b key n : Nat) : (s.ringFetch w k c a b key n).real = s.real := rfl
@[simp] theorem Dev.ringFetch_out (w k c a b key n : Nat) : (s.ringFetch w k c a b key n).out = s.out := rfl
@[simp] theorem Dev.ringFetch_hostOut (w k c a b key n : Nat) : (s.ringFetch w k c a b key n).hostOut = s.hostOut := rfl
@[simp] theorem Dev.ringFetch_pkg (w k c a b key n : Nat) : (s.ringFetch w k c a b key n).pkg = s.pkg := rfl
@[simp] theorem Dev.ringFetch_regs (w k c a b key n : Nat) : (s.ringFetch w k c a b key n).regs = s.regs := rfl
@[simp] theorem Dev.ringFetch_phys (w k c a b key n : Nat) : (s.ringFetch w k c a b key n).phys = s.phys := rfl
@[simp] theorem Dev.ringFetch_mem (w k c a b key n : Nat) : (s.ringFetch w k c a b key n).mem = s.mem := rfl
@[simp] theorem Dev.ringFetch_cores (w k c a b key n : Nat) : (s.ringFetch w k c a b key n).cores = s.cores := rfl
@[simp] theorem Dev.ringFetch_cs (w k c a b key n : Nat) : (s.ringFetch w k c a b key n).cs = s.cs := rfl
@[simp] theorem Dev.ringFetch_ev (w k c a b key n : Nat) : (s.ringFetch w k c a b key n).ev = s.ev := rfl
@[simp] theorem Dev.ringFetch_chans (w k c a b key n : Nat) : (s.ringFetch w k c a b key n).chans = s.chans := rfl
@[simp] theorem Dev.ringFetch_bases (w k c a b key n : Nat) : (s.ringFetch w k c a b key n).bases = s.bases := rfl
@[simp] theorem Dev.ringFetch_que (w k c a b key n : Nat) : (s.ringFetch w k c a b key n).que = s.que := rfl
@[simp] theorem Dev.ringFetch_flt (w k c a b key n : Nat) : (s.ringFetch w k c a b key n).flt = s.flt := rfl
@[simp] theorem Dev.ringFetch_job (w k c a b key n : Nat) : (s.ringFetch w k c a b key n).job = s.job := rfl
@[simp] theorem Dev.ringFetch_disp (w k c a b key n : Nat) : (s.ringFetch w k c a b key n).disp = s.disp := rfl
@[simp] theorem Dev.ringFetch_upds (w k c a b key n : Nat) : (s.ringFetch w k c a b key n).upds = s.upds := rfl
@[simp] theorem Dev.ringFetch_col (w k c a b key n : Nat) : (s.ringFetch w k c a b key n).col = s.col := rfl
@[simp] theorem Dev.ringFetch_fab (w k c a b key n : Nat) : (s.ringFetch w k c a b key n).fab = s.fab := rfl
@[simp] theorem Dev.ringFetch_tim (w k c a b key n : Nat) : (s.ringFetch w k c a b key n).tim = s.tim := rfl
@[simp] theorem Dev.ringFetch_sec (w k c a b key n : Nat) : (s.ringFetch w k c a b key n).sec = s.sec := rfl
@[simp] theorem Dev.ringFetch_pwr (w k c a b key n : Nat) : (s.ringFetch w k c a b key n).pwr = s.pwr := rfl
@[simp] theorem Dev.ringFetch_car (w k c a b key n : Nat) : (s.ringFetch w k c a b key n).car = s.car := rfl
@[simp] theorem Dev.ringFetch_pmc (w k c a b key n : Nat) : (s.ringFetch w k c a b key n).pmc = s.pmc := rfl

/-! Of the register file a change of an active value changes `act` alone. -/
@[simp] theorem Dev.setReg_regs_stg (off : Nat) (v : W64) : (s.setReg off v).regs.stg = s.regs.stg := rfl
@[simp] theorem Dev.setReg_regs_stgBits (off : Nat) (v : W64) : (s.setReg off v).regs.stgBits = s.regs.stgBits := rfl
@[simp] theorem Dev.setReg_regs_commit (off : Nat) (v : W64) : (s.setReg off v).regs.commit = s.regs.commit := rfl
@[simp] theorem Dev.setReg_regs_again (off : Nat) (v : W64) : (s.setReg off v).regs.again = s.regs.again := rfl
@[simp] theorem Dev.setReg_regs_sched (off : Nat) (v : W64) : (s.setReg off v).regs.sched = s.regs.sched := rfl
@[simp] theorem Dev.setReg_regs_wait (off : Nat) (v : W64) : (s.setReg off v).regs.wait = s.regs.wait := rfl
@[simp] theorem Dev.setReg_regs_waitBits (off : Nat) (v : W64) : (s.setReg off v).regs.waitBits = s.regs.waitBits := rfl
@[simp] theorem Dev.setFld_regs_stg (f : Fld) (v : Nat) : (s.setFld f v).regs.stg = s.regs.stg := rfl
@[simp] theorem Dev.setFld_regs_stgBits (f : Fld) (v : Nat) : (s.setFld f v).regs.stgBits = s.regs.stgBits := rfl
@[simp] theorem Dev.setFld_regs_commit (f : Fld) (v : Nat) : (s.setFld f v).regs.commit = s.regs.commit := rfl
@[simp] theorem Dev.setFld_regs_again (f : Fld) (v : Nat) : (s.setFld f v).regs.again = s.regs.again := rfl
@[simp] theorem Dev.setFld_regs_sched (f : Fld) (v : Nat) : (s.setFld f v).regs.sched = s.regs.sched := rfl
@[simp] theorem Dev.setFld_regs_wait (f : Fld) (v : Nat) : (s.setFld f v).regs.wait = s.regs.wait := rfl
@[simp] theorem Dev.setFld_regs_waitBits (f : Fld) (v : Nat) : (s.setFld f v).regs.waitBits = s.regs.waitBits := rfl
@[simp] theorem Dev.setBit_regs_stg (f : Fld) (b : Bool) : (s.setBit f b).regs.stg = s.regs.stg := rfl
@[simp] theorem Dev.setBit_regs_stgBits (f : Fld) (b : Bool) : (s.setBit f b).regs.stgBits = s.regs.stgBits := rfl
@[simp] theorem Dev.setBit_regs_commit (f : Fld) (b : Bool) : (s.setBit f b).regs.commit = s.regs.commit := rfl
@[simp] theorem Dev.setBit_regs_again (f : Fld) (b : Bool) : (s.setBit f b).regs.again = s.regs.again := rfl
@[simp] theorem Dev.setBit_regs_sched (f : Fld) (b : Bool) : (s.setBit f b).regs.sched = s.regs.sched := rfl
@[simp] theorem Dev.setBit_regs_wait (f : Fld) (b : Bool) : (s.setBit f b).regs.wait = s.regs.wait := rfl
@[simp] theorem Dev.setBit_regs_waitBits (f : Fld) (b : Bool) : (s.setBit f b).regs.waitBits = s.regs.waitBits := rfl
@[simp] theorem Dev.addFld_regs_stg (f : Fld) (n : Nat) : (s.addFld f n).regs.stg = s.regs.stg := rfl
@[simp] theorem Dev.addFld_regs_stgBits (f : Fld) (n : Nat) : (s.addFld f n).regs.stgBits = s.regs.stgBits := rfl
@[simp] theorem Dev.addFld_regs_commit (f : Fld) (n : Nat) : (s.addFld f n).regs.commit = s.regs.commit := rfl
@[simp] theorem Dev.addFld_regs_again (f : Fld) (n : Nat) : (s.addFld f n).regs.again = s.regs.again := rfl
@[simp] theorem Dev.addFld_regs_sched (f : Fld) (n : Nat) : (s.addFld f n).regs.sched = s.regs.sched := rfl
@[simp] theorem Dev.addFld_regs_wait (f : Fld) (n : Nat) : (s.addFld f n).regs.wait = s.regs.wait := rfl
@[simp] theorem Dev.addFld_regs_waitBits (f : Fld) (n : Nat) : (s.addFld f n).regs.waitBits = s.regs.waitBits := rfl
@[simp] theorem Dev.satFld_regs_stg (f : Fld) (n : Nat) : (s.satFld f n).regs.stg = s.regs.stg := rfl
@[simp] theorem Dev.satFld_regs_stgBits (f : Fld) (n : Nat) : (s.satFld f n).regs.stgBits = s.regs.stgBits := rfl
@[simp] theorem Dev.satFld_regs_commit (f : Fld) (n : Nat) : (s.satFld f n).regs.commit = s.regs.commit := rfl
@[simp] theorem Dev.satFld_regs_again (f : Fld) (n : Nat) : (s.satFld f n).regs.again = s.regs.again := rfl
@[simp] theorem Dev.satFld_regs_sched (f : Fld) (n : Nat) : (s.satFld f n).regs.sched = s.regs.sched := rfl
@[simp] theorem Dev.satFld_regs_wait (f : Fld) (n : Nat) : (s.satFld f n).regs.wait = s.regs.wait := rfl
@[simp] theorem Dev.satFld_regs_waitBits (f : Fld) (n : Nat) : (s.satFld f n).regs.waitBits = s.regs.waitBits := rfl
@[simp] theorem Dev.wired_regs_stg (t : Dev) : (s.wired t).regs.stg = t.regs.stg := rfl
@[simp] theorem Dev.wired_regs_stgBits (t : Dev) : (s.wired t).regs.stgBits = t.regs.stgBits := rfl
@[simp] theorem Dev.wired_regs_commit (t : Dev) : (s.wired t).regs.commit = t.regs.commit := rfl
@[simp] theorem Dev.wired_regs_again (t : Dev) : (s.wired t).regs.again = t.regs.again := rfl
@[simp] theorem Dev.wired_regs_sched (t : Dev) : (s.wired t).regs.sched = t.regs.sched := rfl
@[simp] theorem Dev.wired_regs_wait (t : Dev) : (s.wired t).regs.wait = t.regs.wait := rfl
@[simp] theorem Dev.wired_regs_waitBits (t : Dev) : (s.wired t).regs.waitBits = t.regs.waitBits := rfl

/-! What the silicon gives (`wired`) changes regs and sec alone. -/
@[simp] theorem Dev.wired_freeCnt (t : Dev) : (s.wired t).freeCnt = t.freeCnt := rfl
@[simp] theorem Dev.wired_real (t : Dev) : (s.wired t).real = t.real := rfl
@[simp] theorem Dev.wired_out (t : Dev) : (s.wired t).out = t.out := rfl
@[simp] theorem Dev.wired_hostOut (t : Dev) : (s.wired t).hostOut = t.hostOut := rfl
@[simp] theorem Dev.wired_pkg (t : Dev) : (s.wired t).pkg = t.pkg := rfl
@[simp] theorem Dev.wired_phys (t : Dev) : (s.wired t).phys = t.phys := rfl
@[simp] theorem Dev.wired_mem (t : Dev) : (s.wired t).mem = t.mem := rfl
@[simp] theorem Dev.wired_cores (t : Dev) : (s.wired t).cores = t.cores := rfl
@[simp] theorem Dev.wired_cs (t : Dev) : (s.wired t).cs = t.cs := rfl
@[simp] theorem Dev.wired_ev (t : Dev) : (s.wired t).ev = t.ev := rfl
@[simp] theorem Dev.wired_chans (t : Dev) : (s.wired t).chans = t.chans := rfl
@[simp] theorem Dev.wired_bases (t : Dev) : (s.wired t).bases = t.bases := rfl
@[simp] theorem Dev.wired_que (t : Dev) : (s.wired t).que = t.que := rfl
@[simp] theorem Dev.wired_flt (t : Dev) : (s.wired t).flt = t.flt := rfl
@[simp] theorem Dev.wired_pmc (t : Dev) : (s.wired t).pmc = t.pmc := rfl
@[simp] theorem Dev.wired_job (t : Dev) : (s.wired t).job = t.job := rfl
@[simp] theorem Dev.wired_disp (t : Dev) : (s.wired t).disp = t.disp := rfl
@[simp] theorem Dev.wired_upds (t : Dev) : (s.wired t).upds = t.upds := rfl
@[simp] theorem Dev.wired_col (t : Dev) : (s.wired t).col = t.col := rfl
@[simp] theorem Dev.wired_fab (t : Dev) : (s.wired t).fab = t.fab := rfl
@[simp] theorem Dev.wired_tim (t : Dev) : (s.wired t).tim = t.tim := rfl
@[simp] theorem Dev.wired_pwr (t : Dev) : (s.wired t).pwr = t.pwr := rfl
@[simp] theorem Dev.wired_car (t : Dev) : (s.wired t).car = t.car := rfl
@[simp] theorem Dev.wired_ring (t : Dev) : (s.wired t).ring = t.ring := rfl

/-! ### Reading back -/

@[simp] theorem Dev.reg_setReg (o p : Nat) (v : W64) : (s.setReg o v).reg p = if p = o then v else s.reg p := by
  simp [Dev.reg, Dev.setReg, Sparse.get_set]

@[simp] theorem Dev.core_setCore (c j : Nat) (k : Core) : (s.setCore c k).core j = if j = c then k else s.core j := by
  simp [Dev.core, Dev.setCore, Sparse.get_set]

@[simp] theorem Dev.core_onCore (c j : Nat) (f : Core → Core) :
    (s.onCore c f).core j = if j = c then f (s.core c) else s.core j := by simp [Dev.onCore]

@[simp] theorem Dev.chan_setChan (h j : Nat) (k : Chan) : (s.setChan h k).chan j = if j = h then k else s.chan j := by
  simp [Dev.chan, Dev.setChan, Sparse.get_set]

@[simp] theorem Dev.base_setBase (d j : Nat) (b : Base) : (s.setBase d b).base j = if j = d then b else s.base j := by
  simp [Dev.base, Dev.setBase, Sparse.get_set]

@[simp] theorem Dev.cstore_setCs (k j : Nat) (st : Store) : (s.setCs k st).cstore j = if j = k then st else s.cstore j := by
  simp [Dev.cstore, Dev.setCs, Sparse.get_set]

@[simp] theorem Core.sreg_setS (k : Core) (x y : Nat) (v : W64) : (k.setS x v).sreg y = if y = x then v else k.sreg y := by
  simp [Core.sreg, Core.setS, Sparse.get_set]

@[simp] theorem Core.setS_pc (k : Core) (x : Nat) (v : W64) : (k.setS x v).pc = k.pc := rfl

theorem Dev.evGet_evSet (dom n dom' n' : Nat) (v : W32) (h : n < 256) (h' : n' < 256) :
    (s.evSet dom n v).evGet dom' n' = if dom' = dom ∧ n' = n then v else s.evGet dom' n' := by
  have : (256 * dom' + n' = 256 * dom + n) ↔ (dom' = dom ∧ n' = n) := by omega
  simp [Dev.evGet, Dev.evSet, Sparse.get_set, this]

/-- A byte just put reads back; every other byte reads as before. -/
@[simp] theorem Store.byte_poke (st : Store) (a j : Nat) (b : Byte) : (st.poke a b).byte j = if j = a then b else st.byte j := by
  simp [Store.byte, Store.poke, Sparse.get_set]

/-! ### Registers: fields, reserved bits -/

theorem regMap_reset_covered : ∀ r ∈ regMap,
    (r.fields.foldl (fun m f => m ||| BitVec.ofNat 64 (f.reset * 2 ^ f.lo)) (0 : W64)) &&& r.mask (fun _ => true) =
    r.fields.foldl (fun m f => m ||| BitVec.ofNat 64 (f.reset * 2 ^ f.lo)) (0 : W64) := by decide +kernel

/-- A reset value sets no reserved bit. -/
theorem regReset_covered (o : Nat) : regReset o &&& fieldBits o = regReset o := by
  unfold regReset fieldBits regAt
  cases h : regMap.find? (fun r => decide (r.off ≤ o) && decide (o < r.off + 8 * r.count) && o % 8 == 0) with
  | none => simp
  | some r => exact regMap_reset_covered r (List.mem_of_find?_eq_some h)

/-- Reading a stored word: the word without its reserved bits. -/
theorem get_storedWords (m : Sparse W64) (o : Nat) :
    Sparse.get regReset (storedWords m) o = Sparse.get regReset m o &&& fieldBits o := by
  induction m with
  | nil => exact (regReset_covered o).symm
  | cons e m ih =>
    have h : storedWords (e :: m) = (e.1, e.2 &&& fieldBits e.1) :: storedWords m := rfl
    rw [h, Sparse.get_cons, Sparse.get_cons, ih]
    by_cases he : o = e.1 <;> simp [he]

/-- A register of the device as it follows: the word asked for, without reserved bits. -/
theorem Dev.wired_reg (t : Dev) (o : Nat) : (s.wired t).reg o = t.reg o &&& fieldBits o := get_storedWords t.regs.act o

/-! What a unit sees of a register while no scheduled change is under way (R360). -/
theorem Dev.regAs_of_none (u : UnitId) (off : Nat) (h : s.regs.sched = none) : s.regAs u off = s.reg off := by
  simp [Dev.regAs, h]
theorem Dev.fldAs_of_none (u : UnitId) (f : Fld) (h : s.regs.sched = none) : s.fldAs u f = s.fld f := by
  simp [Dev.fldAs, Dev.regAs_of_none s u f.off h, Dev.fld]
theorem Dev.onAs_of_none (u : UnitId) (f : Fld) (h : s.regs.sched = none) : s.onAs u f = s.on f := by
  simp [Dev.onAs, Dev.fldAs_of_none s u f h, Dev.on]

/-! A fence changes a commit's own lists alone, and nothing without a commit (R24). -/
theorem Dev.leaveCommit_of_none (h : s.regs.commit = none) : s.leaveCommit = s := by simp [Dev.leaveCommit, h]
theorem Dev.leaveCommit_eq : s.leaveCommit = { s with regs := { s.regs with commit := s.leaveCommit.regs.commit } } := by
  unfold Dev.leaveCommit
  split <;> rfl
@[simp] theorem Dev.leaveCommit_reg (off : Nat) : s.leaveCommit.reg off = s.reg off := by
  unfold Dev.leaveCommit
  split <;> rfl
@[simp] theorem Dev.leaveCommit_pkg : s.leaveCommit.pkg = s.pkg := by rw [Dev.leaveCommit_eq]
@[simp] theorem Dev.leaveCommit_fab : s.leaveCommit.fab = s.fab := by rw [Dev.leaveCommit_eq]
@[simp] theorem Dev.leaveCommit_cores : s.leaveCommit.cores = s.cores := by rw [Dev.leaveCommit_eq]
@[simp] theorem Dev.leaveCommit_phys : s.leaveCommit.phys = s.phys := by rw [Dev.leaveCommit_eq]
@[simp] theorem Dev.leaveCommit_flt : s.leaveCommit.flt = s.flt := by rw [Dev.leaveCommit_eq]

end Sys2Proof.Machine
end

