-- ==== Sys2Proof/Laws/Fields.lean ====
section
/-! SUPPORT. The laws of fields: reading a field of a word in which one was put, and of a word without its reserved bits. -/

namespace Sys2Proof.Machine

theorem fld64_eq (w : W64) (lo n : Nat) : fld64 w lo n = (w.extractLsb' lo n).toNat := by
  simp [fld64, bits, BitVec.extractLsb'_toNat, Nat.shiftRight_eq_div_pow]

theorem bitMask_get (lo n i : Nat) : (bitMask lo n).getLsbD i = (decide (i < 64) && decide (lo ≤ i) && decide (i < lo + n)) := by
  unfold bitMask
  rw [BitVec.getLsbD_ofNat, Nat.testBit_mul_two_pow, Nat.testBit_two_pow_sub_one]
  by_cases h1 : i < 64 <;> by_cases h2 : lo ≤ i <;> simp [h1, h2] <;> omega

theorem putVal_get (lo n v i : Nat) :
    (BitVec.ofNat 64 (v % 2 ^ n * 2 ^ lo)).getLsbD i =
      (decide (i < 64) && decide (lo ≤ i) && decide (i < lo + n) && v.testBit (i - lo)) := by
  rw [BitVec.getLsbD_ofNat, Nat.testBit_mul_two_pow, Nat.testBit_mod_two_pow]
  by_cases h1 : i < 64 <;> by_cases h2 : lo ≤ i <;> by_cases h3 : i < lo + n <;> simp [h1, h2, h3] <;> omega

/-- The field that was put. -/
theorem fld64_putBits_same (w : W64) (lo n v : Nat) (h : lo + n ≤ 64) : fld64 (putBits w lo n v) lo n = v % 2 ^ n := by
  have e : v % 2 ^ n = (BitVec.ofNat n v).toNat := by simp
  rw [fld64_eq, e]
  congr 1
  apply BitVec.eq_of_getLsbD_eq
  intro i hi
  have h1 : lo + i < 64 := by omega
  have h2 : lo ≤ lo + i := by omega
  simp only [BitVec.getLsbD_extractLsb', putBits, BitVec.getLsbD_or, BitVec.getLsbD_and, BitVec.getLsbD_not, bitMask_get, putVal_get]
  rw [BitVec.getLsbD_ofNat]
  simp [hi, h1]

/-- A field that lies apart from the one put. -/
theorem fld64_putBits_other (w : W64) (lo n v lo' n' : Nat) (h : lo' + n' ≤ lo ∨ lo + n ≤ lo') :
    fld64 (putBits w lo n v) lo' n' = fld64 w lo' n' := by
  rw [fld64_eq, fld64_eq]
  congr 1
  apply BitVec.eq_of_getLsbD_eq
  intro i hi
  have h3 : ¬ (lo ≤ lo' + i ∧ lo' + i < lo + n) := by omega
  simp only [BitVec.getLsbD_extractLsb', putBits, BitVec.getLsbD_or, BitVec.getLsbD_and, BitVec.getLsbD_not, bitMask_get, putVal_get]
  by_cases h1 : lo' + i < 64
  · by_cases h4 : lo ≤ lo' + i
    · have h5 : ¬ lo' + i < lo + n := fun x => h3 ⟨h4, x⟩
      simp [h4, h5, h1]
    · simp [h4, h1]
  · have : w.getLsbD (lo' + i) = false := BitVec.getLsbD_of_ge _ _ (by omega)
    simp [h1, this]

/-- Masking keeps a field that the mask covers. -/
theorem fld64_and (w m : W64) (lo n : Nat) (h : bitMask lo n &&& m = bitMask lo n) : fld64 (w &&& m) lo n = fld64 w lo n := by
  rw [fld64_eq, fld64_eq]
  congr 1
  apply BitVec.eq_of_getLsbD_eq
  intro i hi
  simp only [BitVec.getLsbD_extractLsb', BitVec.getLsbD_and]
  by_cases h1 : lo + i < 64
  · have hm : m.getLsbD (lo + i) = true := by
      have := congrArg (fun x => x.getLsbD (lo + i)) h
      simp only [BitVec.getLsbD_and, bitMask_get] at this
      simpa [h1, hi] using this
    simp [hm]
  · have : w.getLsbD (lo + i) = false := BitVec.getLsbD_of_ge _ _ (by omega)
    simp [this]

variable (s : Dev)

/-- Reading a field just set. -/
theorem Dev.fld_setFld_same (f : Fld) (v : Nat) (h : f.lo + f.width ≤ 64) : (s.setFld f v).fld f = v % 2 ^ f.width := by
  simp [Dev.fld, Dev.setFld, fld64_putBits_same _ _ _ _ h]

/-- A field of another register, or apart in the same one. -/
theorem Dev.fld_setFld_other (f g : Fld) (v : Nat) (h : g.off ≠ f.off ∨ g.lo + g.width ≤ f.lo ∨ f.lo + f.width ≤ g.lo) :
    (s.setFld f v).fld g = s.fld g := by
  rcases h with h | h
  · simp [Dev.fld, Dev.setFld, h]
  · by_cases ho : g.off = f.off
    · simp only [Dev.fld, Dev.setFld, Dev.reg_setReg, ho, if_true]
      exact fld64_putBits_other _ _ _ _ _ _ h
    · simp [Dev.fld, Dev.setFld, ho]

/-- A field of the device as it follows, where named fields cover it. -/
theorem Dev.wired_fld (t : Dev) (f : Fld) (h : bitMask f.lo f.width &&& fieldBits f.off = bitMask f.lo f.width) :
    (s.wired t).fld f = t.fld f := by
  simp only [Dev.fld, Dev.wired_reg]
  exact fld64_and _ _ _ _ h

end Sys2Proof.Machine
end

