-- ==== Sys2Proof/Laws/Memory.lean ====
section
/-! SUPPORT. What counting, detecting a fault, and reading or writing memory leave alone: everything beside memory, registers, faults,
counters and outputs. -/

namespace Sys2Proof.Machine

variable (s : Dev)

@[simp] theorem Dev.setReg_beside (o : Nat) (v : W64) : (s.setReg o v).beside = s.beside := rfl
@[simp] theorem Dev.setFld_beside (f : Fld) (v : Nat) : (s.setFld f v).beside = s.beside := rfl
@[simp] theorem Dev.setBit_beside (f : Fld) (b : Bool) : (s.setBit f b).beside = s.beside := rfl
@[simp] theorem Dev.send_beside (o : Output) : (s.send o).beside = s.beside := rfl

@[simp] theorem Dev.count_beside (b e k : Nat) : (s.count b e k).beside = s.beside := by
  unfold Dev.count; split <;> rfl

@[simp] theorem Dev.detectN_beside (src : Src) (kind cls count arg : Nat) :
    (s.detectN src kind cls count arg).beside = s.beside := by
  unfold Dev.detectN
  split
  · rfl
  · dsimp only
    split
    · split <;> rfl
    · rfl

@[simp] theorem Dev.detect_beside (src : Src) (kind cls arg : Nat) : (s.detect src kind cls arg).beside = s.beside := by
  simp [Dev.detect]

@[simp] theorem Dev.startDrain_beside (st pc : Nat) : (s.startDrain st pc).beside = s.beside := by
  unfold Dev.startDrain; split <;> simp

@[simp] theorem Dev.countPc_beside (st pc : Nat) : (s.countPc st pc).beside = s.beside := by
  unfold Dev.countPc; dsimp only; split
  · simp only [Dev.startDrain_beside]; rfl
  · rfl

@[simp] theorem Dev.noteWord_beside (cls cw : Nat) (e : Ecc) : (s.noteWord cls cw e).beside = s.beside := by
  unfold Dev.noteWord
  split
  · cases e <;> simp
  · split
    · rw [Dev.detect_beside]; rfl
    all_goals simp

theorem foldl_beside {α : Type} (f : Dev → α → Dev) (h : ∀ d x, (f d x).beside = d.beside) (l : List α) :
    ∀ d, (l.foldl f d).beside = d.beside := by
  induction l with
  | nil => intro d; rfl
  | cons x l ih => intro d; rw [List.foldl_cons, ih, h]

@[simp] theorem Dev.noteAll_beside (cls : Nat) (l : List (Nat × Ecc)) : (s.noteAll cls l).beside = s.beside :=
  foldl_beside (fun (d : Dev) (e : Nat × Ecc) => d.noteWord cls e.1 e.2) (fun d x => d.noteWord_beside cls x.1 x.2) l s

@[simp] theorem Dev.countBytes_beside (e ec pa n : Nat) : (s.countBytes e ec pa n).beside = s.beside := by
  refine foldl_beside _ (fun d x => ?_) _ s
  split <;> simp

@[simp] theorem Dev.sendHostFor_beside (q : Option Nat) (o : Output) : (s.sendHostFor q o).beside = s.beside := by
  unfold Dev.sendHostFor; split <;> rfl

@[simp] theorem Dev.sendHost_beside (o : Output) : (s.sendHost o).beside = s.beside := by simp [Dev.sendHost]

@[simp] theorem Dev.snoopBack_beside (pa n : Nat) : (s.snoopBack pa n).beside = s.beside :=
  foldl_beside (fun d l => d.sendHost (.biSnoop l)) (fun d _ => d.sendHost_beside _) _ _

@[simp] theorem Dev.preWrite_beside (cls pa n : Nat) : (s.preWrite cls pa n).beside = s.beside := by simp [Dev.preWrite]

/-- A request of a CXL window only leaves the block. -/
@[simp] theorem Dev.cxlAsk_beside (pa : Nat) (f : Option (Nat × Nat) → Nat → Output) : (s.cxlAsk pa f).beside = s.beside := by
  unfold Dev.cxlAsk
  split
  · dsimp only
    split
    · simp
    · split <;> simp
  · rfl

@[simp] theorem Dev.cxlOut_beside (pa : Nat) (bs : List Byte) : (s.cxlOut pa bs).beside = s.beside := s.cxlAsk_beside pa _

@[simp] theorem Dev.physWriteC_beside (cls pa : Nat) (bs : List Byte) : (s.physWriteC cls pa bs).beside = s.beside := by
  have : (((s.preWrite cls pa bs.length).countBytes 4 16 pa bs.length).cxlOut pa bs).beside = s.beside := by simp
  rw [← this]; rfl

@[simp] theorem Dev.physWrite_beside (pa : Nat) (bs : List Byte) : (s.physWrite pa bs).beside = s.beside := s.physWriteC_beside 2 pa bs

@[simp] theorem Dev.physPoison_beside (pa : Nat) (bs : List Byte) : (s.physPoison pa bs).beside = s.beside := by
  have : (((s.preWrite 2 pa bs.length).countBytes 4 16 pa bs.length).cxlOut pa bs).beside = s.beside := by simp
  rw [← this]; rfl

@[simp] theorem Dev.ownWrite_beside (pa : Nat) (bs : List Byte) : (s.ownWrite pa bs).beside = s.beside := s.preWrite_beside 2 pa _

/-- A transfer only waits on the ring. -/
@[simp] theorem Dev.ringSend_beside (w k c a b key n : Nat) : (s.ringSend w k c a b key n).beside = s.beside := rfl

@[simp] theorem Dev.ringFetch_beside (w k c a b key n : Nat) : (s.ringFetch w k c a b key n).beside = s.beside := rfl

@[simp] theorem Dev.carry_beside (t : Nat) (src : Src) (wr : Bool) (pa n : Nat) : (s.carry t src wr pa n).beside = s.beside := by
  unfold Dev.carry
  dsimp only
  rw [foldl_beside]
  · split <;> simp
  · intro d p; split <;> simp

@[simp] theorem Dev.tlbFill_beside (t : Nat) (e : TlbEnt) : (s.tlbFill t e).beside = s.beside := by
  unfold Dev.tlbFill; dsimp only; split <;> rfl

@[simp] theorem Dev.putLeaf_beside (a : Nat) (e : W64) : (s.putLeaf a e).beside = s.beside := by
  unfold Dev.putLeaf; split
  · rfl
  · simp

@[simp] theorem Dev.markLeaf_beside (a : Nat) (e : W64) (wr : Bool) : (s.markLeaf a e wr).beside = s.beside := by
  unfold Dev.markLeaf; dsimp only; repeat' split
  all_goals simp

@[simp] theorem Dev.touchLeaf_beside (e : TlbEnt) (wr : Bool) : (s.touchLeaf e wr).beside = s.beside := by
  unfold Dev.touchLeaf; dsimp only; split <;> simp

@[simp] theorem Dev.walkFill_beside (t : Nat) (src : Src) (cls va : Nat) (wr : Bool) :
    (s.walkFill t src cls va wr).1.beside = s.beside := by
  unfold Dev.walkFill
  have h : (if t < 32 then s.count (clusterBlk t) 13 1 else s.count (dieBlk (t - 32)) 9 1).beside = s.beside := by split <;> simp
  have hn (d : Dev) (l : List (Nat × Ecc)) : (if d.on memPtRootEn then d.noteAll 2 l else d).beside = d.beside := by split <;> simp
  dsimp only
  split <;> simp [h, hn]

@[simp] theorem Dev.xlate_beside (t : Nat) (src : Src) (cls va : Nat) (wr : Bool) :
    (s.xlate t src cls va wr).1.beside = s.beside := by
  unfold Dev.xlate
  split
  · simp
  · split
    · split
      · simp
      · split <;> simp
    · simp

theorem Dev.xlateAll_beside (t : Nat) (src : Src) (cls : Nat) (wr : Bool) (l : List (Nat × Nat)) :
    ∀ s : Dev, (s.xlateAll t src cls wr l).1.beside = s.beside := by
  induction l with
  | nil => intro s; rfl
  | cons p l ih =>
    intro s
    have h := s.xlate_beside t src cls p.1 wr
    unfold Dev.xlateAll
    cases hx : s.xlate t src cls p.1 wr with
    | mk s1 x =>
      rw [hx] at h
      cases x with
      | ok pa =>
        have h2 := ih s1
        dsimp only
        cases hy : s1.xlateAll t src cls wr l with
        | mk s2 y =>
          rw [hy] at h2
          cases y <;> exact h2.trans h
      | wait a => exact h
      | fail => exact h

@[simp] theorem Dev.xlateRange_beside (t : Nat) (src : Src) (cls va n : Nat) (wr : Bool) :
    (s.xlateRange t src cls va n wr).1.beside = s.beside := Dev.xlateAll_beside t src cls wr _ s

/-- A read of memory leaves the rest of the device alone. -/
@[simp] theorem Dev.vRead_beside (t : Nat) (src : Src) (cls ucls va n : Nat) :
    (s.vRead t src cls ucls va n).1.beside = s.beside := by
  have h := s.xlateRange_beside t src cls va n false
  unfold Dev.vRead
  cases hx : s.xlateRange t src cls va n false with
  | mk s1 x =>
    rw [hx] at h
    cases x with
    | ok ps =>
      simp only [Dev.noteAll_beside]
      rw [foldl_beside _ (fun d p => by simp)]
      exact h
    | wait a => exact h
    | fail => exact h

theorem Dev.writePieces_beside (poison : Bool) (l : List (Nat × Nat)) :
    ∀ (s : Dev) (bs : List Byte), (s.writePieces poison l bs).beside = s.beside := by
  induction l with
  | nil => intro s bs; rfl
  | cons p l ih =>
    intro s bs
    unfold Dev.writePieces
    dsimp only
    rw [ih]
    split <;> simp

/-- A write of memory leaves the rest of the device alone. -/
@[simp] theorem Dev.vWriteP_beside (poison : Bool) (t : Nat) (src : Src) (cls va : Nat) (bs : List Byte) :
    (s.vWriteP poison t src cls va bs).1.beside = s.beside := by
  have h := s.xlateRange_beside t src cls va bs.length true
  unfold Dev.vWriteP
  cases hx : s.xlateRange t src cls va bs.length true with
  | mk s1 x =>
    rw [hx] at h
    cases x with
    | ok ps =>
      simp only [Dev.writePieces_beside]
      rw [foldl_beside _ (fun d p => by simp)]
      exact h
    | wait a => exact h
    | fail => exact h

@[simp] theorem Dev.vWrite_beside (t : Nat) (src : Src) (cls va : Nat) (bs : List Byte) :
    (s.vWrite t src cls va bs).1.beside = s.beside := s.vWriteP_beside false t src cls va bs

/-- Fuses that nothing asks to change stay as they are. -/
@[simp] theorem Sec.fuses_self (c : Sec) : c.fuses c = c := by
  have h : c.slots.zipIdx.map (fun x => x.1.after (c.slots.getD x.2 .unused)) = c.slots := by
    apply List.ext_getElem
    · simp
    · intro i h1 h2
      simp [OSlot.after, h2]
  unfold Sec.fuses
  rw [h]
  simp

/-- The device as it follows, where what lies beside memory was left alone. -/
theorem Dev.wired_beside (t : Dev) (h : t.beside = s.beside) : (s.wired t).beside = s.beside := by
  have hs : t.sec = s.sec := by simp only [Dev.beside, Prod.mk.injEq] at h; exact h.2.2.2.2.2.2.2.2.2.2.2.2.2.1
  rw [← h]
  simp only [Dev.beside, Dev.wired, hs, Sec.fuses_self]

end Sys2Proof.Machine
end

