-- ==== Sys2Proof/Laws/Cores.lean ====
section
/-! SUPPORT. What issuing an instruction does: the prelude, counting, going on behind it. -/

namespace Sys2Proof.Machine

variable (s : Dev)

/-- Equal parts beside memory hold equal cores. -/
theorem Dev.cores_of_beside {a b : Dev} (h : a.beside = b.beside) : a.cores = b.cores := by
  simp only [Dev.beside, Prod.mk.injEq] at h; exact h.2.1

theorem Dev.core_of_beside {a b : Dev} (h : a.beside = b.beside) (c : Nat) : a.core c = b.core c := by
  simp [Dev.core, Dev.cores_of_beside h]

theorem Dev.traceWrite_beside (u : UnitId) (bs : List Byte) : (s.traceWrite u bs).beside = s.beside :=
  s.vWrite_beside (baseTlb 0) (pkgSrc 0 0) 0 _ _

/-- Counting an issued instruction: the core's instructions since its mark; counters; a trace record. -/
theorem Dev.countIssue_beside (c k : Nat) :
    (s.countIssue c k).beside = (s.onCore c fun x => { x with since := x.since + 1, redo := x.redo - 1 }).beside := by
  have h : (((s.count (coreBlk c) 3 1).count (coreBlk c) (4 + k) 1).onCore c
      fun x => { x with since := x.since + 1, redo := x.redo - 1 }).beside =
      (s.onCore c fun x => { x with since := x.since + 1, redo := x.redo - 1 }).beside := by
    have h2 : ((s.count (coreBlk c) 3 1).count (coreBlk c) (4 + k) 1).beside = s.beside := by simp
    have h3 := Dev.core_of_beside h2 c
    have h4 := Dev.cores_of_beside h2
    simp only [Dev.beside, Prod.mk.injEq] at h2 ⊢
    simp only [Dev.onCore, Dev.setCore, h3, h4]
    simp [h2]
  unfold Dev.countIssue
  dsimp only
  split
  · split
    · rw [Dev.traceWrite_beside]; exact h
    · exact h
  · exact h

/-- Counting leaves the cores' registers and program counters as they are. -/
theorem Dev.core_countIssue (c k j : Nat) :
    (s.countIssue c k).core j =
      if j = c then { s.core c with since := (s.core c).since + 1, redo := (s.core c).redo - 1 } else s.core j := by
  rw [Dev.core_of_beside (s.countIssue_beside c k)]
  exact s.core_onCore c j _

/-- Going on behind an instruction that is not the store's last. -/
theorem Dev.advance_ok (c n : Nat) (h : (s.core c).pc + n < lsSize) :
    s.advance c n = (s.onCore c fun k => { k with pc := (s.core c).pc + n }).moves c (fetchLines (s.core c).pc n) := by
  unfold Dev.advance
  simp [Nat.not_le.mpr h]

/-- The prelude passes: the fetch is readable, the opcode is the row's, the form is legal and lies within the store. -/
theorem Dev.issue_ok (c op : Nat) (w : W64) (legal : Dev → Bool) (body : Dev → Dev) (s1 : Dev) (hi : s.issuing c = true)
    (ho : fld64 w 0 8 = op) (hf : s.lsCheck c [((s.core c).pc, instrLen w)] = (s1, true))
    (hp : (s1.core c).pc + instrLen w ≤ lsSize) (hl : legal s1 = true) : s.issue c op w legal body = body s1 := by
  have h : ¬ lsSize < (s1.core c).pc + instrLen w := Nat.not_lt.mpr hp
  simp [Dev.issue, hi, ho, hf, h, hl]

/-- A store with no bad word is read without a reaction. -/
theorem Dev.lsCheck_clean (c : Nat) (ranges : List (Nat × Nat)) (h : (s.core c).ls.chk = []) :
    s.lsCheck c ranges = (s, true) := by simp [Dev.lsCheck, h, Dev.lsReact]

theorem Dev.detectN_sec (src : Src) (kind cls n arg : Nat) : (s.detectN src kind cls n arg).sec = s.sec := by
  have h := s.detectN_beside src kind cls n arg
  simp only [Dev.beside, Prod.mk.injEq] at h
  exact h.2.2.2.2.2.2.2.2.2.2.2.2.2.1

theorem Dev.count_sec (b e k : Nat) : (s.count b e k).sec = s.sec := by
  have h := s.count_beside b e k
  simp only [Dev.beside, Prod.mk.injEq] at h
  exact h.2.2.2.2.2.2.2.2.2.2.2.2.2.1

theorem Dev.coreFault_sec (c : Nat) (src : Src) (arg : Nat) : (s.coreFault c src arg).sec = s.sec := by
  unfold Dev.coreFault
  split
  · rfl
  · exact Dev.detectN_sec _ _ _ _ _ _

theorem Dev.lsReact_sec (c : Nat) (l : List (Nat × Ecc)) : ∀ s : Dev, (s.lsReact c l).1.sec = s.sec := by
  induction l with
  | nil => intro s; rfl
  | cons e l ih =>
    intro s
    obtain ⟨w, e⟩ := e
    cases e with
    | clean => exact ih s
    | corrected p x =>
      unfold Dev.lsReact
      dsimp only
      rw [ih, Dev.count_sec]
      exact Dev.detectN_sec _ _ _ _ _ _
    | uncorr =>
      unfold Dev.lsReact
      exact Dev.coreFault_sec _ _ _ _
    | poisoned =>
      unfold Dev.lsReact
      exact Dev.coreFault_sec _ _ _ _

/-- Checking a read of the local store leaves the security unit alone. -/
theorem Dev.lsCheck_sec (c : Nat) (ranges : List (Nat × Nat)) : (s.lsCheck c ranges).1.sec = s.sec := Dev.lsReact_sec c _ s

end Sys2Proof.Machine
end

