-- ==== Sys2Proof/Laws/Exec.lean ====
section
/-! SUPPORT. What every command and every step can do: one effect on the device, then what the silicon gives. -/

namespace Sys2Proof.Machine

/-- Every command is an effect on the device. -/
theorem exec_run (c : Instr) : ∃ f : Dev → Dev, ∀ s : State, exec c s = s.run f := by
  cases c
  all_goals first
    | exact ⟨_, fun _ => rfl⟩
    | (simp only [exec, execMmt, execMatrixInstructionStart, execMmtWritesComplete, execVectorInstructionStart, execPreemptResume,
        execBreezeChainPause, execTableWalk, execHdmRead, execHdmWrite, execGetVersion, execGetCapabilities,
        execNegotiateAlgorithms, execGetDigests, execHeartbeatSpdm, execKeyUpdate, execEndSession, execSpdmUnsupported,
        execPldmSensorRead, execPldmFruRead]
       exact ⟨_, fun _ => rfl⟩)

/-- Every step is an effect on the device; the front command, if any, leaves the queue. -/
theorem step_run (s : State) : ∃ f : Dev → Dev, step s = .next { dev := s.dev.wired (f s.dev), pending := s.pending.tail } := by
  obtain ⟨d, p⟩ := s
  cases p with
  | nil => exact ⟨idleEffect, rfl⟩
  | cons c p =>
    obtain ⟨f, hf⟩ := exec_run c
    exact ⟨f, hf { dev := d, pending := p }⟩

end Sys2Proof.Machine
end

