-- ==== Sys2Proof/Tests/Slice0.lean ====
section
/-! SUPPORT. Tests: ill-formed commands, a state and operands that meet the premises of each statement, worked examples of the spec. -/

set_option Elab.async false

namespace Sys2Proof.Tests

open Sys2Proof Sys2Proof.Machine

/-- The state of a device with no command waiting. -/
def st (d : Dev) : State := { dev := d, pending := [] }

/-- A device after bring-up: command-ready. -/
def ready : Dev := Dev.cold.setBit dieBootReady true

/-- A submission entry with a body. -/
def ent (body : List Byte) : SubEntry := { q := 0, cid := 7, quiet := false, body := padTo 56 body }

/-! EmptyQueueLetsTimePass -/

theorem wit_EmptyQueueLetsTimePass : State.reset.pending = [] ∧ State.reset.dev.que.reads = [] ∧ State.reset.dev.tim.slew = 0 ∧
    State.reset.dev.que.owed = [] ∧ State.reset.dev.job.cmds = [] ∧ State.reset.dev.jobState ≠ 5 ∧ State.reset.dev.job.hold ≠ some 1 ∧
    State.reset.dev.fab.fwCalm = [] ∧ State.reset.dev.fab.leave = [] ∧
    (∀ n, n < 8 → State.reset.dev.on (pmcSamplerEn.nth n) = false) := by decide +kernel

/-- A device at whose host port a read of IDENTITY waits. -/
def readWaits : Dev := { ready with que := { QueueUnit.cold with reads := [⟨.bar0, 0x8, 8⟩, ⟨.bar4, 0x80000, 8⟩] } }

theorem wit_EmptyQueueLetsTimePass_read : readWaits.que.reads = [⟨.bar0, 0x8, 8⟩, ⟨.bar4, 0x80000, 8⟩] ∧ readWaits.que.down = none ∧
    readWaits.pausedUnit ⟨.hostPort, 0⟩ = false ∧ readWaits.readServed .bar0 = true ∧ (readWaits.readWord 0x8).isSome = true ∧
    (readWaits.readWord 0xFFF8).isNone = true ∧ (regAt 0x8).isSome = true ∧ readWaits.on sysStageCtlStgRd = false ∧
    (readWaits.setBit sysStageCtlStgRd true).on sysStageCtlStgRd = true := by decide +kernel

/-! EveryStepKeepsInv -/

theorem wit_EveryStepKeepsInv : ∃ s t, Inv s.dev ∧ step s = .next t := by
  refine ⟨State.reset, _, ⟨fun o => ?_, rfl⟩, rfl⟩
  have h := regReset_covered o
  show regReset o &&& ~~~fieldBits o = 0
  rw [← h, BitVec.and_assoc, BitVec.and_not_self]; simp

/-! FusesOnlyBurn -/

theorem wit_FusesOnlyBurn : ∃ t, step State.reset = .next t := ⟨_, rfl⟩

/-! CommandsWaitForReady -/

theorem wit_CommandsWaitForReady : (Instr.identify (ent []), clsR) ∈ commandSet (ent []) [] [] ⟨true, 0, 0, 0⟩ ∧
    (st Dev.cold).dev.on dieBootReady = false := by decide +kernel

theorem wit_CommandsWaitForReady_busy : (Instr.stop (ent []), clsJ) ∈ commandSet (ent []) [] [] ⟨true, 0, 0, 0⟩ ∧
    ({ Dev.cold with job := { Job.cold with cmds := [RunCmd.mk 0 1 false clsJ .close false false false] } } : Dev).classBusy clsJ = true ∧
    ready.nextCmd clsR = none := by decide +kernel

/-! RegisterWriteSetsFields -/

theorem wit_RegisterWriteSetsFields : (st ready).dev.hostServes none = true ∧ (0x1014 : BitVec 16).toNat % 4 = 0 ∧
    ((regAt 0x1010).map (·.writable)) = some true ∧ 0x1010 ∉ [0x10, 0x2008, 0x3010, 0x4018, 0x5038, 0x6018, 0x9018, 0xA018, 0xC030] := by
  decide +kernel

/-! RegisterWriteViolations -/

theorem wit_RegisterWriteViolations : (st ready).dev.hostServes none = true ∧ regAt ((0xFFF8 : BitVec 16).toNat / 8 * 8) = none ∧
    ({ ready with sec := { ready.sec with shut := true } } : Dev).hostServes none = false ∧
    ((regAt 0x1028).map (·.writable)) = some false := by decide +kernel

/-! RegisterWriteActs -/

theorem wit_RegisterWriteActs : (st ready).dev.hostServes none = true ∧ (0x100000001 : W64) &&& ~~~fieldBits 0x9018 = 0 ∧
    (0x1 : W64) &&& ~~~fieldBits 0x3010 = 0 := by decide +kernel

/-! CommitsAndScheduledChanges -/

/-- A device with one staged field and the first commit running for it. -/
def committing : Dev :=
  { ready with regs := { ready.regs with stg := [(0x5008, 5)], stgBits := [(0x5008, 0xFF)], commit := some ⟨1, [], Fences.none, false, [], []⟩ } }

theorem wit_CommitsAndScheduledChanges : (st committing).dev.regs.commit = some ⟨1, [], Fences.none, false, [], []⟩ ∧
    (⟨.port, 3⟩ : UnitId) ∈ committing.participants ⟨1, [], Fences.none, false, [], []⟩ ∧ committing.running = false ∧
    committing.atLull committing.regs.stgBits ⟨.port, 3⟩ = true ∧ committing.mem.hdmWait = [] ∧
    ({ committing with bases := [(0, ⟨500, 0⟩)] } : Dev).atLull [] ⟨.timeUnit, 0⟩ = false ∧
    ready.regs.commit = none ∧ ready.regs.stgBits = [] ∧
    (∀ v ∈ committing.participants ⟨1, unitList .port 16 1, Fences.none, false, [], []⟩, v ∈ unitList .port 16 1) := by decide +kernel

theorem wit_CommitsAndScheduledChanges_deferred :
    deferred 0x5008 = false ∧
    (let d := { committing.setFld sysJobStatusState 3 with regs := { (committing.setFld sysJobStatusState 3).regs with
       stg := [(0x58, 5)], stgBits := [(0x58, 0xFF)] } }
     Dev.running d = true ∧ d.regs.commit = some ⟨1, [], Fences.none, false, [], []⟩ ∧ (∃ e ∈ d.regs.stgBits, deferred e.1 = true)) := by decide +kernel

/-- A device with a set scheduled for time 60,000 that one port is to apply. -/
def scheduled : Dev := { ready with regs := { ready.regs with sched := some ⟨60000, [(0x5008, 5)], [(0x5008, 0xFF)], []⟩ } }

theorem wit_CommitsAndScheduledChanges_schedule :
    ((ready.setFld timSchedTT 60000).now 0 + 50000 ≤ (ready.setFld timSchedTT 60000).fld timSchedTT ∧
      (ready.setFld timSchedTT 60000).on timSchedStatusPending = false) ∧ ready.fld timSchedTT < ready.now 0 + 50000 ∧
    (scheduled.regs.sched = some ⟨60000, [(0x5008, 5)], [(0x5008, 0xFF)], []⟩ ∧ scheduled.now 0 < 60000) ∧
    (60000 ≤ (scheduled.setBase 0 ⟨60000, 0⟩).now 0 ∧
      (⟨.port, 2⟩ : UnitId) ∈ (scheduled.setBase 0 ⟨60000, 0⟩).schedUnits ⟨60000, [(0x5008, 5)], [(0x5008, 0xFF)], []⟩) := by
  decide +kernel

/-! DeviceLullActivatesStagedBits -/

theorem wit_DeviceLullActivatesStagedBits :
    (committing.regs.stgBits.map (·.1)).Nodup ∧
    (∀ e ∈ committing.regs.stgBits, e.1 ∉ [0x18, 0x58, 0x60, 0x68, 0x1020, 0x3028, 0x5000]) ∧
    (∀ v ∈ committing.participants ⟨1, unitList .port 16 1, Fences.none, false, [], []⟩, v ∈ unitList .port 16 1) := by decide +kernel

/-! QueueOperations -/

/-- A device whose queue 0 is a completion queue at 0x1000 of 16 entries, and queue 1 a command queue posting to it. -/
def queued : Dev :=
  { ready with que := { ready.que with
      ctx := [(0, { QCtx.cold with w0 := 0xA6, w1 := 0x1000, state := 1 }), (1, { QCtx.cold with w0 := 0x80, w1 := 0x2000 })] } }

theorem wit_QueueOperations : ((queued.setFld qtbSelQ 1).on qtbStatusBusy = false ∧ (queued.setFld qtbSelQ 1).enableOk 1 = true) ∧
    (queued.setFld qtbSelQ 2).enableOk 2 = false ∧ ((queued.setFld qtbSelQ 1).cqNamed 1 = false ∧ queued.qBusy 1 = false ∧ queued.owes 1 = false ∧
      (queued.qctx 1).state ≠ 2 ∧ (queued.qctx 1).err = 0 ∧ ((queued.setQ 1 { QCtx.cold with state := 2 }).qctx 1).state = 2) ∧
    ({ queued with que := { queued.que with run := [⟨1, 0, [], true, none⟩] } } : Dev).qBusy 1 = true ∧
    (queued.setQ 1 { QCtx.cold with w0 := 0x80, state := 1 }).cqNamed 0 = true := by decide +kernel

/-! DoorbellLineReachesItsQueue -/

theorem wit_DoorbellLineReachesItsQueue : queued.pausedUnit ⟨.hostPort, 0⟩ = false ∧ (queued.qctx 0).live = true ∧ (queued.qctx 1).live = false ∧
    ((queued.setQ 1 { QCtx.cold with w0 := 0x80, state := 1, host := 5 }).qctx 1).live = true := by decide +kernel

/-! QueueCommands -/

theorem wit_QueueCommands :
    3 ∈ ({ queued with que := { queued.que with lines := [3] } } : Dev).que.lines ∧ queued.caching = false ∧
    (let d := queued.setQ 1 { QCtx.cold with w0 := 0x80, state := 1, host := 1 }
     d.fetchHeld .lead = false ∧ d.que.run = [] ∧ d.arbitrate .lead 9 0 0 = some (0, 0, 1) ∧ (d.qctx 1).loc = false ∧ (d.qctx 1).kind ≠ 2 ∧
     d.que.down = none ∧ opcodeDefined 0 (leAt (padTo 64 [1]) 0 1) = true ∧ reservedFlags (leAt (padTo 64 [1]) 1 1) = false ∧
     leAt (padTo 64 [1]) 4 4 = 0) ∧
    queued.que.owed = [] ∧ queued.pickHeld [⟨0, 1, 0, 0, 0, 0, 0⟩] = some (⟨0, 1, 0, 0, 0, 0, 0⟩, []) ∧
    (let d := (queued.setQ 0 { QCtx.cold with w0 := 0x800000A6, w3 := 0x10002, state := 1 }).setFresh 0 ⟨1, 0⟩ |>.setBase 0 ⟨5000, 0⟩
     (d.qctx 0).intEn = true ∧ (d.qctx 0).aggUs ≠ 0 ∧ (d.freshOf 0).n ≠ 0 ∧ (d.freshOf 0).since + 1000 * (d.qctx 0).aggUs ≤ d.now 0) := by
  decide +kernel

/-! HostPortCommands -/

theorem wit_HostPortCommands :
    (let d := ({ ready with que := { ready.que with down := some 0 }, bases := [(0, ⟨1000000000, 0⟩)] } : Dev)
     d.que.down = some 0 ∧ 0 + 1000000000 ≤ d.now 0) ∧ linkForm 16 1 = true ∧ linkForm 2 1 = false := by decide +kernel

/-! AddressMap -/

theorem wit_AddressMap : Dev.cold.window 0x4000007000 = some (.home 1, 0x7000) ∧
    (Dev.cold.setFld memMapIlvGib 2).window 0x10000012345 = some (.inter, 0x12345) ∧
    (Dev.cold.setFld memMapIlvGib 2).stackAddr 0x10000012345 = some (2, 60 * gib + 0x1345) ∧
    Dev.cold.stackAddr 0x4000007000 = some (7, 0x1000) := by decide +kernel

/-! HdmReadReturnsWhatWasWritten -/

/-- A device whose HDM window of 1 GiB at virtual address 0 is mapped, one page of it held by the TLB of base die 0. -/
def hdm : Dev :=
  { ((ready.setFld memHdmHdmGib 1).setBit hifStatusMemEn true).setBit memPtRootEn true with mem := { MemUnit.cold with tlbs := [(32, [⟨0, 65536, 0x30000, true, true, 0x400000⟩])] } }

theorem wit_HdmReadReturnsWhatWasWritten : (List.replicate 64 (0 : Byte)).length = 64 ∧ hdm.on hifStatusMemEn = true ∧ hdm.on memPtRootEn = true ∧
    hdm.hdmVa (0x140 : W64).toNat = some 0x140 ∧
    (hdm.tlb 32).find? (fun x => decide (x.va ≤ 0x140) && decide (0x140 < x.va + x.size)) = some ⟨0, 65536, 0x30000, true, true, 0x400000⟩ ∧
    hdm.phys.chk = [] ∧ hdm.mem.cxlErr = [] ∧ hdm.que.down = none := by decide +kernel

/-! MemoryCommands -/

/-- A device that maps virtual page 0 to frame 0x10000 by a table at 0x100000 with its lower levels at 0x200000, 0x300000, 0x400000. -/
def mapped : Dev :=
  let t (a : Nat) (e : Nat) : List (Nat × Byte) := cellsAt a (natLe 8 e)
  { (ready.setBit memPtRootEn true).setFld memPtRootBase (0x100000 / 16384) with
    phys := ⟨Sparse.setAll (always 0) [] (t 0x100000 (1 + 0x200000) ++ t 0x200000 (1 + 0x300000) ++ t 0x300000 (1 + 0x400000) ++
      t 0x400000 (7 + 0x10000)), []⟩ }

theorem wit_MemoryCommands : (3 : W64) &&& ~~~fieldBits 0x3010 = 0 ∧ ({ ready.mem with invs := 1 } : MemUnit).invs ≠ 0 ∧
    (let m : Dev := { ready.setFld memHealthCtlScrubH 24 with phys := { bytes := [], chk := [(0x80, 0x01020408)] } }
     m.fld memHealthCtlScrubH ≠ 0 ∧ m.inHbm 0x80 = true ∧ m.phys.bad 128 0x80 128 = [(0x80, .uncorr)] ∧ 0x80 ∉ m.mem.scrubLog) ∧
    ({ bytes := [], chk := [(0x80, 0xFF)] } : Store).bad 128 0x80 128 = [(0x80, .corrected 0 255)] ∧
    mapped.walk 0 false = .leaf 0x400000 0x10000 65536 0x10007 ∧
    (hdm.xlate (baseTlb 0) (pkgSrc 0 4) 0 0x140 true).2 = .ok 0x30140 ∧
    ((ready.setFld (memCxlWinSize.nth 0) 1).setBit (memCxlWinEn.nth 0) true).window 0x8000000000040 = some (.cxl 0, 0x40) := by
  decide +kernel

/-! PagerCommands -/

/-- `mapped` with its pager enabled, and frame 0x50000 free in the pool whose bitmap lies at 0x800000. -/
def paged : Dev :=
  let d := (((mapped.setBit memPagerCtlEn true).setBit memPagerCtlSpillEn true).setFld memPagerPoolBase 2)
  { d with phys := { d.phys with bytes := Sparse.set (always 0) d.phys.bytes 0x800000 0x20 } }

theorem wit_PagerCommands_drain :
    (let d := paged.setFld (memPcDrainDrain.nth 5) 1
     bit (d.fld (memPcDrainDrain.nth 5)) 0 = true ∧ d.on memPagerCtlEn = true ∧ d.mem.move = none ∧
     d.drainBehind 5 0 = false ∧ d.pagesOn 5 0 = [] ∧ d.job.cmds = []) := by decide +kernel

theorem wit_PagerCommands_stall :
    (let d := (mapped.setFld memPagerPoolBase 2).setFld (memPcDrainDrain.nth 0) 2
     bit (d.fld (memPcDrainDrain.nth 0)) 1 = true ∧ 1 ∉ d.mem.stalled ∧ d.pagesOn 0 1 = [0] ∧ d.frameAt 0 = some 0x10000 ∧
     d.frameWindow 0x10000 = some (.home 0) ∧ d.poolFrames = []) := by decide +kernel

theorem wit_PagerCommands_move :
    (let d := paged.setFld (memPcDrainDrain.nth 0) 2
     let y := d.undoMove.pagerReads
     let z : Leaf := ⟨0, 65536, 0x400000, 0x10007⟩
     let w := (y.drainsOf (z.frameOf 0)).foldl (fun y t => (y.drainPool t.1 t.2).drainGoes t.1 t.2) y
     d.mem.move = none ∧ d.on memPagerCtlEn = true ∧ d.poolFree 0x50000 = true ∧ y.drainOk z 0 0x50000 = true ∧
     y.leaves.find? (fun x => decide (x.va ≤ 0) && decide (0 < x.va + x.size)) = some z ∧ (w.smallLeaf 0).2 = some z ∧ fld64 z.ent 6 1 = 0) ∧
    (paged.on memPagerCtlSpillEn = true ∧ paged.on memPagerCtlEn = true ∧ paged.mem.move = none) ∧
    (paged.moveBegin ⟨0, 65536, 0x400000, 0x10007⟩ 0x50000 0).mem.move = some ⟨0, 0x400000, 0x10000, 0x50000, 0⟩ := by decide +kernel

/-! ScalarArithmetic -/

/-- A device whose core 0 issues, with `ws` at address 0 of its local store, s1 = 5, s2 = 3. -/
def issuing (ws : List Nat) : Dev :=
  let k : Core := { Core.cold with run := .issuing, s := [(1, 5), (2, 3)], ls := ⟨Sparse.setAll (always 0) [] ((cellsAt 0 (ws.flatMap (natLe 8))).map
    fun x => (swz x.1, x.2)), []⟩ }
  ready.setCore 0 k

/-- A scalar word: opcode, sd, sa, sb, im, imm. -/
def sw (op sd sa sb im imm : Nat) : W64 := BitVec.ofNat 64 (op + sd * 2 ^ 8 + sa * 2 ^ 13 + sb * 2 ^ 18 + im * 2 ^ 23 + imm % 2 ^ 40 * 2 ^ 24)

theorem wit_ScalarArithmetic :
    ((issuing []).issuing 0 = true ∧ fld64 (sw 1 3 1 2 0 0) 0 8 = 1 ∧ (issuing []).lsCheck 0 [(0, 8)] = (issuing [], true) ∧
      ((issuing []).core 0).pc + 8 < lsSize) ∧
    legalAlu (sw 1 3 1 2 0 0) 40 = true ∧ (issuing []).regsFree 0 (aluRegs (sw 1 3 1 2 0 0)) = true ∧ legalAlu (sw 7 3 1 0 1 5) 6 = true := by
  decide +kernel

/-! ScalarImmediatesLoadsCounters -/

theorem wit_ScalarImmediatesLoadsCounters :
    (imOf (sw 0x0A 3 0 0 1 7) && onlyBits (sw 0x0A 3 0 0 1 7) (scalarMask true false false true 40)) = true ∧
    (imOf (sw 0x0B 3 0 0 1 7) && onlyBits (sw 0x0B 3 0 0 1 7) (scalarMask true false false true 24)) = true ∧
    (imOf (sw 0x10 3 1 0 1 11) && onlyBits (sw 0x10 3 1 0 1 11) (scalarMask true true false true 40)) = true ∧
    lsAddr ((issuing []).core 0) (sw 0x10 3 1 0 1 11) = 16 ∧ (issuing []).lsCheck 0 [(16, 8)] = (issuing [], true) ∧
    onlyBits (sw 0x20 3 0 0 0 0) (scalarMask true false false false 0) = true ∧ (issuing []).regsFree 0 [3, 1] = true ∧
    (imOf (sw 0x36 3 1 0 1 12) && onlyBits (sw 0x36 3 1 0 1 12) (scalarMask true true false true 40)) = true := by decide +kernel

/-! ScalarStoresAndBranches -/

theorem wit_ScalarStoresAndBranches :
    (!imOf (sw 0x11 0 1 2 0 11) && onlyBits (sw 0x11 0 1 2 0 11) (scalarMask false true true false 40)) = true ∧
    lsAddr ((issuing []).core 0) (sw 0x11 0 1 2 0 11) = 16 ∧ ((issuing []).core 0).ls.chk = [] ∧
    (imOf (sw 0x18 0 0 0 1 64) && onlyBits (sw 0x18 0 0 0 1 64) (scalarMask false false false true 40)) = true ∧
    branchTarget ((issuing []).core 0) (sw 0x18 0 0 0 1 64) = 64 ∧
    (!imOf (sw 0x1B 0 2 1 0 64) && onlyBits (sw 0x1B 0 2 1 0 64) (scalarMask false true true false 40)) = true ∧
    decide ((((issuing []).core 0).sreg 2).toInt < (((issuing []).core 0).sreg 1).toInt) = true := by decide +kernel

/-! EventsAndChains -/

theorem wit_EventsAndChains :
    (imOf (sw 0x30 0 0 0 1 9) && onlyBits (sw 0x30 0 0 0 1 9) (scalarMask false false false true 8)) = true ∧
    (issuing []).storesDone 0 = true ∧ (issuing []).foldsDone 0 = true ∧
    (imOf (sw 0x31 0 1 0 1 9) && onlyBits (sw 0x31 0 1 0 1 9) (scalarMask false true false true 8)) = true ∧
    reaches ((issuing []).evGet 0 9) 5 = false ∧ reaches (((issuing []).evSet 0 9 5).evGet 0 9) 5 = true ∧ (issuing []).traceGrant = false ∧
    (let d := ((issuing []).onCore 0 fun k => { k with run := .waiting 9 5 }).evSet 0 9 6
     d.coreDown 0 = false ∧ (d.core 0).run = .waiting 9 5 ∧ reaches (d.evGet (d.dom 0) 9) 5 = true ∧ (d.core 0).pc < lsSize) ∧
    (imOf (sw 0x32 0 1 0 1 3) && onlyBits (sw 0x32 0 1 0 1 3) (scalarMask false true false true 4)) = true ∧
    ((issuing []).chan 3).st = .idle := by decide +kernel

/-! SegmentInstructions -/

theorem wit_SegmentInstructions :
    onlyBits (sw 0x33 0 0 0 0 0) 0xFF = true ∧ (issuing []).quiet 0 = true ∧
    (issuing []).segDone 0 = true ∧ ((issuing []).onCore 0 fun k => { k with pc := lsSize - 8 }).issuing 0 = true ∧
    ((issuing []).csRead 0 ((issuing []).ctxSlot 0 + 8) 4).2 = some [0, 0, 0, 0] ∧
    (let w := sw 0x35 0 3 0 1 (2 ^ 16 + 77)
     (imOf w && onlyBits w (scalarMask false true false true 19)) = true ∧ (issuing []).isBrz 0 = false ∧
     (issuing []).regsFree 0 [saOf w] = true ∧ (issuing []).statsBusy 0 = false ∧ (((issuing []).core 0).sreg (saOf w)).toNat = 0 ∧
     (issuing []).mappedOutside 0 = false) ∧
    (let q : Fold := ⟨Stat.cleared, 0x40, 0x80000001⟩
     let d := mapped.onCore 0 fun k => { k with folds := [q] }
     (d.core 0).folds = [q] ∧ d.mappedOutside 0x40 = false ∧ d.walk 0x40 true = .leaf 0x400000 0x10000 65536 0x10007 ∧
     d.on memLedgerBaseEn = false ∧ (d.vRead 0 (clusterSrc 0 1) 2 2 0x40 32).2 = .data (List.replicate 32 0) .clean ∧
     ((d.vRead 0 (clusterSrc 0 1) 2 2 0x40 32).1.dropFold 0 |>.vWrite 0 (clusterSrc 0 1) 2 0x40 (List.replicate 32 0)).2 = .done) := by
  decide +kernel

/-! IllegalInstructionStopsTheSegment -/

theorem wit_IllegalInstructionStopsTheSegment : (issuing []).issuing 0 = true ∧ fld64 (sw 1 3 1 2 0 1) 0 8 = 1 ∧
    legalAlu (sw 1 3 1 2 0 1) 40 = false ∧ opDefined (fld64 (sw 0xFF 0 0 0 0 0) 0 8) = false := by decide +kernel

/-! MatrixInstructionsEnterTheirQueues -/

/-- MWLD of engine 0, buffer 0 from address 0x10000: 16 chunks of E4M3. -/
def wMwld : W64 := BitVec.ofNat 64 (0x42 + 0x100 * 2 ^ 11 + 15 * 2 ^ 32)

/-- MMT on engine 0 from address 0x20000: one row of 16 chunks of E4M3, with init. -/
def wMmt : W64 := BitVec.ofNat 64 (0x40 + 2 ^ 8 + 0x200 * 2 ^ 12 + 15 * 2 ^ 39 + 2 ^ 49)

/-- MDRAIN of engine 0, bank 0, one row, to FP32. -/
def wMdrain : W64 := BitVec.ofNat 64 (0x41 + 2 ^ 8 + 0xA * 2 ^ 19)

/-- An entry of a queue. -/
def qent (w0 w1 : W64) (lat : List W64) : QEnt := ⟨w0, w1, lat, 0, 0, 0⟩

theorem wit_MatrixInstructionsEnterTheirQueues :
    let d := issuing []
    (fld64 wMwld 0 8 = 0x42 ∧ mwldLegal wMwld 0 = true ∧ d.mqLen 0 < 4 ∧
      d.lsCheck 0 [((d.core 0).pc, instrLen wMwld)] = (d, true) ∧ (d.core 0).pc + instrLen wMwld < lsSize) ∧
    (fld64 wMmt 0 8 = 0x40 ∧ mmtLegal (d.core 0) wMmt 0 = true ∧ d.regsFree 0 (mmtRegs 0) = true) ∧
    (fld64 (sw 0x43 0 0 0 0 0) 0 8 = 0x43 ∧ onlyBits (sw 0x43 0 0 0 0 0) 0x1FFF = true ∧ mrsvFits 0 (sw 0x43 0 0 0 0 0) d = true ∧
      d.regsFree 0 [0] = true ∧ (d.core 0).mq = [] ∧ (d.core 0).rest = none ∧ d.matPaused 0 = false ∧
      mrsvFits 0 (sw 0x43 1 0 0 0 0) d = false) ∧
    (fld64 wMdrain 0 8 = 0x41 ∧ mdrainLegal (d.isBrz 0) wMdrain 0 = true ∧ d.regsFree 0 (mdrainRegs wMdrain) = true ∧ (d.core 0).vq = [] ∧
      d.vecBusy 0 = false ∧ d.vecReady 0 ⟨wMdrain, 0, [0, 0, 0], 0, 0, 0⟩ = true ∧ (d.core 0).ls.chk = [] ∧ (d.core 0).code = [] ∧
      (mdrainOf wMdrain 0).chan = none ∧ (mdrainOf wMdrain 0).rnd ≠ 2 ∧ (mdrainOf wMdrain 0).pr = false) := by decide +kernel

/-! MatrixEngineEvents -/

/-- A core whose matrix queue holds one entry. -/
def fed (x : QEnt) : Dev := (issuing []).onCore 0 fun k => { k with mq := [x] }

/-- A core whose vector queue holds one entry. -/
def vfed (x : QEnt) : Dev := (issuing []).onCore 0 fun k => { k with vq := [x] }

/-- A tile of one row of one chunk, fed in cycle `t`. -/
def tileAt (t : Nat) : MmtRun := ⟨qent wMmt 0 [0, 0, 0], [], [], t, [⟨0, true, t, [⟨true, true, [0, 4, 4, 4]⟩], false, false⟩], [0]⟩

theorem wit_MatrixEngineEvents :
    (fed (qent wMwld 0 [])).matReady 0 (qent wMwld 0 []) = true ∧ vop wMwld = 0x42 ∧ (fed (qent wMmt 0 [])).coreDown 0 = false ∧
    ((fed (qent wMmt 0 [])).core 0).rest = none ∧
    (fed (qent wMmt 0 [0, 0, 0])).matReady 0 (qent wMmt 0 [0, 0, 0]) = true ∧ vop wMmt = 0x40 ∧
    (mmtOf wMmt 0).removed [0, 0, 0] = false ∧ (mmtOf (wMmt ||| 0x100000000000000) 0).removed [0, 0, 0] = true ∧
    (fed (qent (sw 0x43 0 0 0 0 0) 0 [0])).matReady 0 (qent (sw 0x43 0 0 0 0 0) 0 [0]) = true ∧ vop (sw 0x43 0 0 0 0 0) = 0x43 ∧
    ((fed (qent wMmt 0 [0, 0, 0])).onCore 0 fun k => { k with wend := [(0, 50)] }).matReady 0 (qent wMmt 0 [0, 0, 0]) = false ∧
    (let d := (issuing []).onCore 0 fun k => { k with rest := some (qent wMmt 0 [0, 0, 0], 64) }
     d.coreDown 0 = false ∧ d.matPaused 0 = false ∧ d.tileReady 0 (qent wMmt 0 [0, 0, 0]) 64 = true) ∧
    (let d := { fed (qent wMmt 0 []) with real := 100 }
     (tileAt 20).bankLast 0 + 12 ≤ Dev.cycle d 0 ∧ (tileAt 20).banks = [0]) ∧
    (let d := vfed (qent wMdrain 0 [])
     d.vecBusy 0 = false ∧ d.vecReady 0 (qent wMdrain 0 []) = true ∧ d.vecHeld 0 (qent wMdrain 0 []) = false ∧ vop wMdrain = 0x41) ∧
    (let d := Dev.onCore { issuing [] with real := 1000 } 0 fun k =>
       { k with vrun := some ⟨qent (sw 0x60 0 0 0 0 0) 0 [], 100, 4000, none, none, false, true, []⟩ }
     Dev.vecBusy d 0 = true ∧ 100 + 512 ≤ Dev.cycle d 0) := by decide +kernel

/-! WeightLoadFillsItsBuffer -/

theorem wit_WeightLoadFillsItsBuffer :
    let x := qent wMwld 0 []
    (fed x).coreDown 0 = false ∧ ((fed x).core 0).mq = [x] ∧ vop x.w0 = 0x42 ∧ mwldLegal x.w0 x.w1 = true ∧ (fed x).matReady 0 x = true ∧
    ((fed x).core 0).code = [] ∧ (((fed x).onCore 0 fun y => { y with mq := [] }).moves 0 (mwldOf x.w0 x.w1).cycles |>.lsCheck 0
      (mwldOf x.w0 x.w1).ranges).2 = true ∧
    x = ⟨x.w0, x.w1, [], ((issuing []).core 0).seq, ((issuing []).core 0).pc, (issuing []).cycle 0⟩ ∧ (issuing []).matReady 0 x = true ∧
    (issuing []).mqLen 0 < 4 ∧ ((issuing []).core 0).rest = none := by decide +kernel

/-! TileAddsToItsAccumulators -/

theorem wit_TileAddsToItsAccumulators :
    let x := qent wMmt 0 [0, 0, 0]
    let m := mmtOf x.w0 x.w1
    (fed x).coreDown 0 = false ∧ ((fed x).core 0).mq = [x] ∧ vop x.w0 = 0x40 ∧ mmtLegal ((fed x).core 0) x.w0 x.w1 = true ∧
    (fed x).matReady 0 x = true ∧ m.removed x.lat = false ∧ (fed x).drainAhead 0 x.seq 1 = false ∧ ((fed x).core 0).code = [] ∧
    (let r := (fed x).onCore 0 fun y => { y with mq := [] }
     (r.lsCheck 0 (m.maps (r.core 0))).2 = true ∧ (r.lsCheck 0 (m.ranges (r.core 0) (m.rowPlans x.lat (r.core 0) 0 128 4 true true))).2 = true) ∧
    x = ⟨x.w0, x.w1, (mmtRegs x.w1).map ((issuing []).core 0).sreg, ((issuing []).core 0).seq, ((issuing []).core 0).pc,
      (issuing []).cycle 0⟩ ∧ (issuing []).matReady 0 x = true ∧ (issuing []).mqLen 0 < 4 ∧ (issuing []).regsFree 0 (mmtRegs 0) = true := by
  decide +kernel

/-! VectorInstructionsEnterTheirQueue -/

/-- A vector word: opcode, vd, va, vb, vc, pg, type, the bits from 37 on. -/
def vw (op vd va vb vc pg ty hi : Nat) : W64 :=
  BitVec.ofNat 64 (op + vd * 2 ^ 8 + va * 2 ^ 13 + vb * 2 ^ 18 + vc * 2 ^ 23 + pg * 2 ^ 28 + ty * 2 ^ 33 + hi * 2 ^ 37)

theorem wit_VectorInstructionsEnterTheirQueue :
    let w := vw 0x50 2 0 1 0 8 0xA 0
    let d := vfed (qent wMdrain 0 [])
    (d.issuing 0 = true ∧ fld64 w 0 8 = 0x50 ∧ d.lsCheck 0 [((d.core 0).pc, instrLen w)] = (d, true) ∧ (d.core 0).pc + instrLen w < lsSize) ∧
    vecLegal 0x50 w 0 = true ∧ d.regsFree 0 (vregs w 0) = true ∧ (d.core 0).vq.length < 8 ∧ (d.core 0).vq ≠ [] ∧
    vecLegal 0x5E (vw 0x5E 2 0 1 3 0 0xA 0) 0 = true ∧ vecLegal 0x63 (vw 0x63 2 0 0 0 8 0xB 0) 0 = true ∧
    (vecLegal 0x65 (vw 0x65 0 0 0 0 8 0 0) 0x100 = true ∧ packLegal (vw 0x65 0 0 0 0 8 0 0) 0x100 d = true) ∧
    (vecLegal 0x67 (vw 0x67 0 0 0 0 0 0 0) 0 = true ∧ tbaseLegal 0 (vw 0x67 0 0 0 0 0 0 0) d = true) ∧
    (vecLegal 0x68 (vw 0x68 2 0 0 0 8 0xA 0) 0xA00100100 = true ∧ memLegal (vw 0x68 2 0 0 0 8 0xA 0) 0xA00100100 d = true) ∧
    (vecLegal 0x6F (vw 0x6F 0 0 0 0 0 0 0) 0 = true ∧ rsvLegal 0 (vw 0x6F 0 0 0 0 0 0 0) d = true) := by decide +kernel

/-! VectorElements -/

/-- A core that issues, with two vector registers and one predicate register filled. -/
def vectors : Dev := (issuing []).onCore 0 fun k =>
  { k with v := Sparse.setAll (always 0) [] [(0, 0x3F800000), (1, 7), (2048, 0x40000000), (2049, 5)], p := Sparse.setAll (always false) [] [(2049, true)] }

/-- What VectorRuns asks, of `vectors`, beside the legality of the word. -/
def freeFor (w0 w1 : W64) : Bool :=
  vecLegal (vop w0) w0 w1 && vectors.regsFree 0 (vregs w0 w1 ++ (⟨w0, w1, [], 0, 0, 0⟩ : QEnt).dst.toList)

theorem wit_vectorRuns : vectors.issuing 0 = true ∧ vectors.lsCheck 0 [(0, 8)] = (vectors, true) ∧
    vectors.lsCheck 0 [(0, 16)] = (vectors, true) ∧ (vectors.core 0).vq = [] ∧ vectors.vecBusy 0 = false ∧ (vectors.core 0).code = [] ∧ (vectors.core 0).vrun = none ∧
    (vectors.core 0).pc + 16 < lsSize ∧ (vectors.core 0).ls.chk = [] ∧ (vectors.core 0).tb + 262144 ≤ lsSize := by decide +kernel

theorem wit_VectorElements :
    ([vw 0x50 2 0 1 0 8 0xA 0, vw 0x53 2 0 1 0 8 0xA 0, vw 0x56 2 0 0 0 8 0xA 0, vw 0x57 2 0 0 0 8 0xA 0, vw 0x58 2 0 1 0 8 0xB 0,
      vw 0x5E 2 0 1 1 8 0xC 248, vw 0x5F 2 0 4 0 8 0xA 0, vw 0x60 2 0 2 0 8 0xA 0, vw 0x61 2 0 0 0 8 0xA 0, vw 0x62 2 0 0 0 8 0xB 0,
      vw 0x63 2 0 0 0 8 0xB 0].all fun w => freeFor w 0 && !tbOf w && instrLen w == 8) = true ∧ isVty 4 = true := by decide +kernel

/-- 1.0 + 2.0 = 3.0 (R30). -/
theorem test_vadd : (match exec (.vadd 0 (vw 0x50 2 0 1 0 8 0xA 0) 0) (st vectors) with
    | .next t => ((t.dev.core 0).velem 2 0, (t.dev.core 0).pc)
    | _ => (0, 0)) = (0x40400000, 8) := by decide +kernel

/-! TileBufferForms -/

theorem wit_TileBufferForms :
    ([vw 0x50 0 0 0 0 8 0xA (2 ^ 20), vw 0x61 0 0 0 0 8 0xA (2 ^ 20), vw 0x5F 0 0 4 0 8 0xA (2 ^ 20)].all fun w => freeFor w 0x80 && tbOf w) = true ∧
    freeFor (vw 0x5D 0 0 0 1 8 0xA (2 ^ 20)) 0x1000000 = true := by decide +kernel

/-! BlockIntegerSums -/

theorem wit_BlockIntegerSums :
    let w := vw 0x51 2 0 1 0 8 0xC (31 * 2 ^ 3)
    freeFor w 0 = true ∧ tbOf w = false ∧ tyOf w = 0xC ∧ freeFor (vw 0x50 2 0 1 0 8 0xC (31 * 2 ^ 3)) 0 = true := by decide +kernel

/-! VectorPredicates -/

theorem wit_VectorPredicates :
    ([vw 0x5D 1 0 1 2 8 0xA 0, vw 0x6C 1 0 1 0 0 0 0, vw 0x6D 1 0 1 0 0 0 0, vw 0x6E 1 0 1 0 0 0 0].all fun w => freeFor w 0 && !tbOf w) = true ∧
    freeFor (vw 0x66 1 0 0 0 8 0 0) 0x100 = true ∧ packLegal (vw 0x66 1 0 0 0 8 0 0) 0x100 vectors = true := by decide +kernel

/-! VectorScalars -/

theorem wit_VectorScalars :
    ([vw 0x64 3 0 0 0 8 0xA 0, vw 0x6B 3 0 0 0 0 0 0, vw 0x67 0 0 0 0 0 0 0, vw 0x6F 0 0 0 0 0 0 0].all fun w => freeFor w 0 && !tbOf w) = true ∧
    redLegal (vw 0x64 3 0 0 0 8 0xA 0) vectors = true ∧ tbaseLegal 0 (vw 0x67 0 0 0 0 0 0 0) vectors = true ∧
    rsvLegal 0 (vw 0x6F 0 0 0 0 0 0 0) vectors = true := by decide +kernel

/-! VectorMemory -/

/-- Word 1 of a load or store: address, stride, memory type. -/
def mw (a stride mt : Nat) : W64 := BitVec.ofNat 64 (a + stride * 2 ^ 20 + mt * 2 ^ 32)

/-- Word 1 of VTOPK: selection records at 0x1000, routing table at 0x2000, 8 experts, one choice. -/
def tkw : W64 := BitVec.ofNat 64 (0x100 + 0x200 * 2 ^ 16 + 7 * 2 ^ 32)

theorem wit_VectorMemory :
    ([vw 0x68 2 0 0 0 8 0xA 0, vw 0x69 0 1 0 0 8 0xA 0].all fun w => freeFor w (mw 0x100 1 0xA) &&
      memLegal w (mw 0x100 1 0xA) vectors && (memRanges (mw 0x100 1 0xA) ((vectors.core 0).actives w 0)).all fun r => decide (r.1 + r.2 ≤ lsSize)) = true ∧
    (let w := vw 0x65 0 1 0 0 8 0 0
     freeFor w 0x100 = true ∧ packLegal w 0x100 vectors = true) ∧
    (let w := vw 0x6A 0 0 0 0 0 0xA (7 * 2 ^ 3)
     freeFor w tkw = true ∧ topkLegal w tkw vectors = true ∧ (vectors.core 0).actives w 0 = []) := by decide +kernel

/-! PreemptionSavesAndRestores -/

/-- Breeze work of entry 3 on core 0. -/
def brzWork : Work := { disp := 0, brz := true, entry := 3, round := 0, lcore := 0, dom := 0, w0 := 0, w1 := 0, one := none }

theorem wit_PreemptionSavesAndRestores :
    (let d := (issuing []).onCore 0 fun k => { k with work := some brzWork }
     brzWork.brz = true ∧ d.coreDown 0 = false ∧ (d.core 0).run = .issuing ∧ d.tile 0 (d.lagged 0 0) = none ∧ (d.core 0).vrsv = none ∧
     (ctxSave 0 d).coreDown 0 = false) ∧
    (let d := (issuing []).onCore 0 fun k => { k with work := some brzWork, mmts := [tileAt 90], mrsv := some 0x40000 }
     d.tile 0 (d.lagged 0 0) = some (tileAt 90).ent ∧ (d.core 0).mrsv = some 0x40000 ∧ ((d.core 0).rest.isSome && d.drainAhead 0 0 1) = false) ∧
    (let d := ready.setTable true { ready.table true with armed := true }
     let d := d.onCore 0 fun k => { k with saved := some ⟨brzWork, none, 0, none, 0xC0000, 0, false, [], [], [], 0⟩ }
     let e := ctxSave 0 d
     d.disp.brz.armed = true ∧ d.breezeHalt = false ∧ d.breezeMay (.core 0) = true ∧ e.breezeMay (.core 0) = true ∧
     (e.core 0).run = .idle ∧ (e.core 0).work = none ∧ (e.csRead 0 (e.ctxSlot 0 + 0x400) 0x600).2.isSome = true ∧
     ((e.csRead 0 (e.ctxSlot 0 + 0x400) 0x600).2.map fun bs => (leAt bs 8 1, leAt bs 0xA 1, leAt bs 0xB 1)) = some (1, 0, 0) ∧
     ((d.csRead 0 (d.ctxSlot 0 + 0x400) 0x600).2.map fun bs => leAt bs 8 1) = some 0) := by decide +kernel

theorem wit_PreemptionSavesAndRestores_reserve :
    (let d := (issuing []).onCore 0 fun k => { k with work := some brzWork, vrsv := some 0x40000, vlive := 0 }
     d.tile 0 (d.lagged 0 0) = none ∧ (d.core 0).vrsv = some 0x40000 ∧ 0x40000 % 4096 = 0 ∧ (0x40000 : Nat) + 266240 ≤ lsSize ∧ (d.core 0).ls.chk = [] ∧
     (d.core 0).code = []) := by decide +kernel

/-! RowsAreMoved -/

/-- A descriptor from its words. -/
def desc (l : List Nat) : List Byte := padTo 64 (l.flatMap (natLe 8))

/-- Channel 3 of cluster 0, ready at descriptor `l` at address 0x8000 of the cluster store. -/
def chained (l : List Nat) : Dev :=
  let d := issuing []
  (d.setCs 0 ⟨Sparse.setAll (always 0) [] (cellsAt 0x8000 (desc l)), []⟩).setChan 3 { Chan.idle with st := .ready, addr := 0x8000 }

/-- COPY, FILL, GATHER, SCATTER of 2 rows of 16 bytes of FP32 from 0x100 of the cluster store to 0x200 of local store 5; the list's table
entry is at 0x300. -/
def wCopy (op : Nat) : List Nat :=
  [op + 1 * 2 ^ 4 * (if op = 1 then 0 else 1) + 5 * 2 ^ 8 + 0xA * 2 ^ 12 * (if op = 1 then 0 else 1) + 0xA * 2 ^ 16, 0x100 * (if op = 1 then 0 else 1), 0x200,
   1 + 15 * 2 ^ 16, 16 * (if op = 1 then 0 else 1) + 16 * 2 ^ 32, 0, if op = 1 then 0x55 else if op = 0 then 0 else 0x300 + 5 * 2 ^ 20, 0]

theorem wit_RowsAreMoved : ([0, 1, 2, 4].all fun op =>
    let q := descWords (desc (wCopy op))
    let x : Chan := { Chan.idle with st := .ready, addr := 0x8000, q := q, pos := 0 }
    let d := (chained (wCopy op)).onCore 5 fun k => { k with ls := ⟨Sparse.setAll (always 0) []
      ((cellsAt 0x300 (natLe 4 0x400 ++ natLe 4 0 ++ natLe 2 2) ++ cellsAt 0x400 (natLe 8 0 ++ natLe 8 1)).map fun y => (swz y.1, y.2)), []⟩ }
    d.chanMay 3 && d.chanTurn 3 && dOp q == op && d.dFetch 3 == (d, .ok (desc (wCopy op))) && d.dCheck 3 x == 0 && dDs q == 0 && (op == 1 || dSs q == 1) &&
    (op == 1 || dSf q == dDf q) && !isBlock (dDf q) && !(dRm q || dOc q || dSkew q || dXpose q) && dCore 3 x == some 5 &&
    (!dLists q || (dListCore 3 x == some 5 && d.listRanges 3 { x with lbase := 0x400, lcount := 2 })) && dRows q == 2 && dDb q == 16 &&
    (match exec (if op = 0 then .dmaCopy (.cluster 0 3) 1 else if op = 1 then .dmaFill (.cluster 0 3) 1 else if op = 2 then
        .dmaGather (.cluster 0 3) 1 else .dmaScatter (.cluster 0 3) 1) (st d) with
      | .next t => (t.dev.chan 3).st == .finished 0 && (t.dev.core 5).lsByte 0x201 == (if op = 1 then 0 else 0) &&
        (t.dev.core 5).lsByte 0x200 == (if op = 1 then 0x55 else 0)
      | _ => false)) = true := by decide +kernel

/-! DmaChainEvents -/

/-- An accumulating write of one row of 1,024 bytes from the drain stream of core 5. -/
def wAcc : List Nat := [3 + 3 * 2 ^ 4 + 2 * 2 ^ 6 + 5 * 2 ^ 8 + 0xC * 2 ^ 12 + 0xC * 2 ^ 16, 0, 0x100, 1023 * 2 ^ 16, 0, 0x1000, 7, 0]

/-- A device whose channel 3 of cluster 0 moves it, its stream filled. -/
def accum : Dev := mapped.setChan 3 { Chan.idle with st := .moving, q := descWords (desc wAcc), stream := List.replicate 16 (5, List.replicate 64 0) }

theorem wit_DmaChainEvents :
    (let ch := accum.chan 3
     accum.chanMay 3 = true ∧ accum.chanTurn 3 = true ∧ ch.hush = false ∧ ch.st = .moving ∧ dOp ch.q = 3 ∧ dSs ch.q = 3 ∧ dUnits ch = 1 ∧ ch.pos = 0 ∧
     (ch.stream.take (Nat.min 64 (dTotal ch / 64))).length = Nat.min 64 (dTotal ch / 64) ∧ dTotal ch / 64 = 16 ∧ ch.owner = .entry ∧
     (accum.dReady 3 2 [(0x100, List.replicate 64 0), (0x1000, [0])]).2 = .ok false ∧
     (accum.accLost 3 [(0x100, List.replicate 64 0), (0x1000, [0])]).2 = false ∧
     (accum.ledgerAsk 0 7 0).2 = .apply) ∧
    (let d := ready.setChan 3 { Chan.idle with st := .finished 0, q := descWords (desc [2 ^ 35]) }
     (d.chan 3).st = .finished 0 ∧ dFlag (d.chan 3).q 35 = true) ∧
    dFlag (descWords (desc [0])) 35 = false ∧ dFlag (descWords (desc [0])) 26 = false ∧
    (let d := (ready.setChan 3 { Chan.idle with st := .ready }).setChan 4 { Chan.idle with st := .moving, brz := true }
     d.fgReady 0 = true ∧ (ready.setChan 4 { Chan.idle with st := .moving, brz := true, pause := true }).fgReady 0 = false ∧ ready.breezeHalt = false) ∧
    (let d := { queued with que := { queued.que with ctx := queued.que.ctx ++ [(2, { QCtx.cold with w0 := 0x82, state := 1 })], run := [⟨2, 0, desc [0], false, none⟩] } }
     (Dev.chan d (1024 + 2)).st = .idle ∧ (Dev.qctx d 2).kind = 2 ∧ Dev.qBusy d 2 = true) := by decide +kernel

/-! JobCommands -/

/-- A device whose job is in a state. -/
def inState (n : Nat) : Dev := ready.setFld sysJobStatusState n

/-- A body of fields (offset in the entry, bytes, value). -/
def body (l : List (Nat × Nat × Nat)) : List Byte :=
  l.foldl (fun b f => (b.take (f.1 - 8)) ++ natLe f.2.1 f.2.2 ++ b.drop (f.1 - 8 + f.2.1)) (List.replicate 56 0)

/-- The device with command `op` of body `b` fetched from queue 0 and not started. -/
def asked (d : Dev) (op : Nat) (b : List Byte) : Dev := { d with que := { d.que with run := [⟨0, 0, entryBytes op (ent b), false, none⟩] } }

/-- What Taken asks, as a test. -/
def takes (d : Dev) (op : Nat) (b : List Byte) (cls : Nat) (fields : List (Nat × Nat)) (states : List Nat) : Bool :=
  d.cmdTurn op (ent b) cls && !d.hasFatal && bodyClean fields (padTo 56 b) && states.contains d.jobState

theorem wit_JobCommands_open :
    (let b := body [(8, 8, 2 ^ 63)]
     let d := asked ready 0x01 b
     takes d 0x01 b clsR [(8, 8)] anyState = true ∧ (d.bufWrite (2 ^ 63) []).2 = .ok []) ∧
    (let b := body [(8, 8, 77), (0x10, 8, 5), (0x18, 4, 9), (0x1C, 2, ready.ownPkg), (0x1F, 1, 1)]
     let d := asked ready 0x02 b
     takes d 0x02 b clsJ [(8, 24)] [0] = true ∧ resv b 0x1C 2 13 = true ∧ bf b 0x18 4 = 9 ∧ bf b 0x1E 1 ≤ 2 ∧ bf b 0x1F 1 ≤ 2 ∧
     bf b 0x1C 2 = d.ownPkg ∧ bf b 0x1E 1 = 0 ∧
     (match exec (.jobOpen (ent b)) (st d) with
      | .next t => t.dev.sameJob b && t.dev.jobState == 1
      | _ => false) = true) ∧ takes (asked (inState 4) 0x03 (body [])) 0x03 (body []) clsJ [] [1, 2, 4, 5, 6, 7] = true := by decide +kernel

theorem wit_JobCommands_tables :
    (let img := padTo 96 (natLe 4 0x494A544B ++ natLe 4 1) ++ List.replicate 1024 0
     let img := img.take 72 ++ natLe 8 96 ++ natLe 8 1024 ++ [2] ++ img.drop 89
     let b := body [(8, 8, 2 ^ 63), (0x10, 8, 1120)]
     let d := asked (inState 1) 0x04 b
     takes d 0x04 b clsJ [(8, 16)] [1, 2, 4, 5] = true ∧ (d.bufRead (2 ^ 63) 1120 img).2 = .ok img ∧
     d.sections img = some [⟨0, 96, 1024, 2⟩] ∧ (d.sectsReach [⟨0, 96, 1024, 2⟩]).2 = .ok []) ∧
    (let b := body [(8, 1, 3), (9, 1, 0), (0xA, 2, 3), (0xC, 2, 1)]
     let d := asked (inState 1) 0x05 b
     takes d 0x05 b clsJ [(8, 6)] [1, 2, 3, 4, 5] = true ∧ d.tableCalm 3 = true ∧ d.terms 3 = [] ∧ 1 &&& 3 = 1 ∧ d.groupCount < 256) ∧
    (let img := padTo 32 (natLe 4 0x4D47544B ++ natLe 2 1)
     let b := body [(0x10, 8, 2 ^ 63), (0x18, 4, 32)]
     let d := asked ((inState 1).setFld colMapLoaded 1) 0x06 b
     takes d 0x06 b clsJ [(8, 1), (0x10, 8), (0x18, 4)] [1, 2, 3, 4, 5] = true ∧ (d.bufRead (2 ^ 63) 32 img).2 = .ok img ∧
     parseMap img = some [] ∧ bit (d.fld colMapLoaded) 0 = true) := by decide +kernel

theorem wit_JobCommands_run :
    (let img := padTo 64 (natLe 4 0x4254544B ++ natLe 2 1 ++ natLe 2 0 ++ natLe 4 1 ++ natLe 4 0 ++ natLe 8 8000) ++
       padTo 64 (natLe 8 0 ++ [0, 5, 0, 0] ++ natLe 2 0 ++ natLe 2 0xFFFF)
     let b := body [(0x10, 8, 2 ^ 63), (0x18, 8, 128)]
     let d := asked (inState 1) 0x07 b
     takes d 0x07 b clsJ [(8, 1), (0x10, 16)] [1, 2, 3, 4, 5] = true ∧ d.running = false ∧ (d.bufRead (2 ^ 63) 128 img).2 = .ok img ∧
     (d.parseTimetable false img).isSome = true) ∧
    (let b := body [(8, 8, 50000), (0x10, 1, 1)]
     let d := asked (inState 2) 0x08 b
     takes d 0x08 b clsJ [(8, 10), (0x18, 8)] [2, 3, 4, 5] = true ∧ resv b 0x10 1 2 = true ∧ d.leadNow + 50000 ≤ bf b 8 8 ∧
     d.running = false ∧ d.discardWaits = false ∧ bf b 0x18 8 = d.step.toNat) ∧
    takes (asked (inState 3) 0x09 (body [(8, 1, 2)])) 0x09 (body [(8, 1, 2)]) clsJ [(8, 2)] [3] = true ∧ 0 ∈ heldModes 2 1 := by decide +kernel

theorem wit_JobCommands_breeze :
    (let d := asked (inState 4) 0x03 (body [])
     d.job.cmds = [] ∧ d.jobState ≠ 5 ∧ (d.haltBrz.startNext 0).closeReady = true) ∧
    (let img := padTo 64 (natLe 4 0x4254544B ++ natLe 2 1 ++ natLe 2 0 ++ natLe 4 1 ++ natLe 4 0 ++ natLe 8 8000) ++ padTo 64 (natLe 8 0 ++ [0, 5, 0, 0] ++ natLe 2 0 ++ natLe 2 0xFFFF)
     let b := body [(8, 1, 1), (0x10, 8, 2 ^ 63), (0x18, 8, 128)]
     let d := asked (inState 1) 0x07 b
     takes d 0x07 b clsJ [(8, 1), (0x10, 16)] [1, 2, 3, 4, 5] = true ∧ (d.bufRead (2 ^ 63) 128 img).2 = .ok img ∧
     (d.parseTimetable true img).isSome = true ∧ d.on timTtStatusBrzBusy = false ∧ (d.setBit timTtStatusBrzBusy true).on timTtStatusBrzBusy = true) ∧
    ([(0, 2), (1, 3), (2, 3)].all fun (m, what) =>
     let b := body [(8, 8, 50000), (0x10, 1, what), (0x11, 1, m), (0x18, 8, if m = 1 then 6 else 7)]
     let d := ((inState 4).setTable true { ents := [List.replicate 64 0], period := 0, t0 := 0, armed := false, done := [] }).setFld sysStepCountStep 7
     let d := asked d 0x08 b
     takes d 0x08 b clsJ [(8, 10), (0x18, 8)] [2, 3, 4, 5] && resv b 0x10 1 2 && decide (d.leadNow + 50000 ≤ bf b 8 8) &&
     !d.disp.brz.ents.isEmpty && d.step.toNat == 7 && d.allRestored (bf b 0x18 8) && d.job.policy == 0 && !d.running && !d.discardWaits) = true := by
  decide +kernel

/-! UnitAndReplicaCommands -/

theorem wit_UnitAndReplicaCommands_units :
    (let b := body [(8, 1, 3), (0xA, 2, 2)]
     let d := asked ready 0x0A b
     takes d 0x0A b clsF [(8, 1), (0xA, 2)] anyState = true ∧ fUnit 3 2 = some (.port 2) ∧
     d.isFenced (.port 2) = false ∧ d.lastUnit (.port 2) = false ∧ fUnit 5 70 = some (.pc 1 6) ∧ d.isFenced (.pc 1 6) = false ∧
     d.lastUnit (.pc 1 6) = false) ∧
    (let b := body [(8, 1, 3), (0xA, 2, 2)]
     let d : Dev := { ready.fencePort 2 with flt := { (ready.fencePort 2).flt with uncl := [] } }
     let d := asked d 0x0B b
     takes d 0x0B b clsF [(8, 1), (0xA, 2)] anyState = true ∧ d.isFenced (.port 2) = true ∧ d.unitMessages (.port 2) = false ∧
     d.isFenced (.port 3) = false ∧ d.calmOrIdle = true) ∧
    (let d : Dev := { ready with pkg := { ready.pkg with fences := { ready.pkg.fences with cores := [9], dies := [1] } } }
     takes (asked d 0x0B (body [(0xA, 2, 9)])) 0x0B (body [(0xA, 2, 9)]) clsF [(8, 1), (0xA, 2)] anyState = true ∧
     d.isFenced (.core 9) = true ∧ d.unitMessages (.core 9) = false ∧ d.isFenced (.die 1) = true ∧ d.unitMessages (.die 1) = false ∧
     d.reg dieCapCap.off &&& d.reg dieCapCap.off = d.reg dieCapCap.off) := by decide +kernel

/-- A log record: number, kind, class. -/
def rec_ (seq kind cls : Nat) : LogRec := ⟨⟨0, kind, cls, pkgSrc 0 0, 1, 0, 0⟩, seq, false⟩

theorem wit_UnitAndReplicaCommands_faults :
    (let b := body [(0x10, 8, 2 ^ 63), (0x18, 4, 8)]
     let d := asked ready 0x0C b
     takes d 0x0C b clsR [(8, 20)] anyState = true ∧ (d.bufWrite (2 ^ 63) []).2 = .ok []) ∧
    takes (asked ready 0x0D (body [(0x10, 1, 1)])) 0x0D (body [(0x10, 1, 1)]) clsR [(8, 9)] anyState = true ∧
    (let b := body [(8, 8, 1)]
     let d : Dev := ({ ready with flt := { ready.flt with uncl := [rec_ 1 0x18 2], log := [rec_ 1 0x18 2] } } : Dev).setFld fltSeqNext 2
     let d := asked d 0x0D b
     takes d 0x0D b clsR [(8, 9)] anyState = true ∧ 1 < d.fld fltSeqNext ∧
     (d.flt.uncl ++ d.flt.log).find? (fun m => m.seq == 1) = some (rec_ 1 0x18 2) ∧ d.causeGone (rec_ 1 0x18 2) = true ∧
     (rec_ 1 0x18 2).cleared = false ∧ (rec_ 1 0x18 2).msg.cls ≠ 0 ∧ (rec_ 1 0x01 0).msg.cls = 0) := by decide +kernel

theorem wit_UnitAndReplicaCommands_job :
    (let b := body [(8, 1, 1), (9, 1, 2), (0x18, 8, 65)]
     takes (asked (inState 1) 0x0E b) 0x0E b clsJ [(8, 6), (0x10, 16)] [1, 2, 3, 4, 5] = true) ∧
    (let b := body [(8, 1, 1), (9, 1, 1), (0xA, 2, 4)]
     let d := asked ((inState 1).setQ 4 { QCtx.cold with w0 := 0x84, state := 1 }) 0x0E b
     takes d 0x0E b clsJ [(8, 6), (0x10, 16)] [1, 2, 3, 4, 5] = true ∧ (d.qctx 4).kind = 4 ∧ (d.qctx 4).state = 1) ∧
    takes (asked (inState 2) 0x0F (body [(8, 2, 5)])) 0x0F (body [(8, 2, 5)]) clsJ [(8, 2)] [2] = true ∧
    ([4, 3].all fun n =>
     let b := body [(8, 2, 3)]
     let d : Dev := { inState n with job := { (inState n).job with members := some (List.replicate 1024 0xFF) } }
     let d := asked d 0x10 b
     takes d 0x10 b clsJ [(8, 3)] [3, 4, 5] && d.inJob 3 && (d.running == (n == 3)) &&
     !(d.expelUnit 3 0 []).job.leaving.contains (d.expelUnit 3 0 []).ownPkg) = true ∧
    (let img : List Byte := padTo 64 [2, 0, 7, 0]
     let b := body [(9, 1, 2), (0xA, 2, 7), (0x10, 8, 2 ^ 63), (0x18, 8, 64)]
     let d := asked (inState 4) 0x11 b
     takes d 0x11 b clsJ [(8, 6), (0x10, 16)] [3, 4, 5] = true ∧ (d.bufRead (2 ^ 63) 64 img).2 = .ok img ∧ leAt img 0 1 = 2 ∧ leAt img 2 2 = 7) := by
  decide +kernel

/-! CalmTimeAndPowerCommands -/

theorem wit_CalmTimeAndPowerCommands :
    (let d := asked (inState 1) 0x12 (body [])
     takes d 0x12 (body []) clsJ [(8, 2)] [1, 2, 3, 4, 5] = true ∧ (d.setBit fabCalmHost true).fabShow.on fabCalmCalm = true) ∧
    (let b := body [(8, 1, 1), (9, 1, 4)]
     takes (asked (inState 1) 0x12 b) 0x12 b clsJ [(8, 2)] [1, 2, 3, 4, 5] = true ∧ (asked (inState 1) 0x12 b).groupCalm 4 = true ∧
     takes (asked (inState 1) 0x13 b) 0x13 b clsJ [(8, 2)] [1, 2, 3, 4, 5] = true) ∧
    (let b := body [(0xA, 2, 1), (0x10, 8, 2 ^ 63)]
     let d := asked (ready.setBit fabCalmCalm true) 0x14 b
     takes d 0x14 b clsJ [(8, 4), (0x10, 8)] [0, 1, 2, 3, 4, 5] = true ∧ d.on fabCalmCalm = true ∧
     (d.bufRead (2 ^ 63) 32 []).2 = .ok (List.replicate 32 0) ∧ pathOk 0 = true) ∧
    (let b := body [(8, 1, 1), (0xA, 2, 7), (0x10, 8, 1000)]
     takes (asked ready 0x15 b) 0x15 b clsJ [(8, 1), (0xA, 4), (0x10, 8)] [0, 1, 2, 4, 5] = true) ∧
    (let b := body [(8, 2, 1200), (0x10, 8, 50000)]
     takes (asked ready 0x16 b) 0x16 b clsR [(8, 2), (0x10, 8)] anyState = true ∧ ready.leadNow + 50000 ≤ 50000) ∧
    (let b := body [(8, 1, 3)]
     takes (asked ready 0x17 b) 0x17 b clsR [(8, 1)] anyState = true ∧ resv b 8 1 2 = true) ∧
    (let b := body [(0x14, 1, 2)]
     takes (asked ready 0x18 b) 0x18 b clsJ [(8, 8), (0x10, 4), (0x14, 1)] [0] = true) ∧
    (let d : Dev := ({ ready with job := { ready.job with cmds := [RunCmd.mk 0 1 false clsR (.cap 1300 5) false false false] } } : Dev).setBase 0 ⟨5, 0⟩
     d.job.cmds.map (·.what) = [.cap 1300 5] ∧ 5 ≤ d.leadNow) := by decide +kernel

/-! FencesTakeUnitsOut -/

/-- A device of which some units are fenced. -/
def fenced (f : Fences → Fences) : Dev := { ready with pkg := { ready.pkg with fences := f ready.pkg.fences } }

theorem wit_FencesTakeUnitsOut :
    (ready.pkg.faulted.contains 5 = false ∧ ready.coreDown 5 = false ∧ (ready.detect (coreSrc 5 1) 0x02 1 0).peerOf 5 = some 0) ∧
    (let d := fenced fun f => { f with cores := List.range 15 }
     d.coreDown 15 = false ∧ (d.detect (coreSrc 15 1) 0x02 1 0).peerOf 15 = none ∧ (d.detect (coreSrc 15 1) 0x02 1 0).pkg.fences.cluster 0 = false) ∧
    (ready.pkg.faulted.contains 512 = false ∧ ready.clusterDown 0 = false ∧
     (let d := fenced fun f => { f with clusters := [1, 2, 3, 4, 5, 6, 7] }
      d.clusterDown 0 = false ∧ d.pkg.fences.dies = [] ∧ ((List.range 8).all fun i => i == 0 || d.pkg.fences.cluster i) = true)) ∧
    (ready.pkg.fences.dies = [] ∧ unfenceable (dieSrc 2 6) = true ∧ (fenced fun f => { f with dies := [1] }).pkg.fences.dies ≠ []) ∧
    (let d : Dev := { ready with pkg := { ready.pkg with shadows := [3, 4] } }
     d.pkg.shadows.contains 3 = true ∧ (d.pkg.shadows.any fun j => j != 3) = true) := by decide +kernel

/-! FaultLogAndRetry -/

theorem wit_FaultLogAndRetry :
    (let d := ready.detect (coreSrc 5 1) 0x02 1 0
     d.flt.msgs.map (fun m => (m.kind, m.cls)) = [(2, 1)] ∧ d.fld fltSeqNext + 1 < 2 ^ 64 ∧
     (match exec .faultMessageLog (st d) with
      | .next t => (t.dev.on fltStatusFaultN, t.dev.flt.uncl.length, t.dev.fld fltSeqNext)
      | _ => (false, 0, 0)) = (true, 1, 1)) ∧
    (let r := coreSrc 5 1
     let d := (ready.setFld fltCtlSqCnt 1).setFld fltCtlSqS 1
     let d := { d with flt := { d.flt with events := [⟨r, 0, 3, 1⟩] } }
     Dev.fldOr d fltCtlSqCnt 1 ≤ Dev.squallSum d r ∧ Dev.srcFenced d r = false ∧ fenceable r = true) ∧
    (let d := (inState 3).setFld fltCtlRetryMax 3
     let d := { d with flt := { d.flt with retry := true } }
     Dev.running d = true ∧ Dev.closeDecided d = false ∧ d.job.hold = none ∧ d.job.retries < Dev.fld d fltCtlRetryMax) ∧
    (let d := { inState 3 with flt := { (inState 3).flt with retrying := true } }
     Dev.fgRunning d = false ∧ Dev.running d = true ∧ Dev.discardWaits d = false ∧
     (match exec (.stepRetry (some 9)) (st d) with
      | .next t => (t.dev.job.retries, t.dev.disp.fg.t0)
      | _ => (0, 0)) = (1, 500016)) ∧
    (let d := { inState 3 with job := { (inState 3).job with members := some (List.replicate 1024 0xFF) }, fab := { (inState 3).fab with reborn := [7], deaf := some 0 } }
     Dev.isLost d 7 = true ∧ Dev.inJob d 7 = true ∧ Dev.ownPkg d ≠ 7) ∧
    (let d := (inState 3).detect (dieSrc 2 6) 0x51 3 0
     d.flt.msgs.map (·.cls) = [3] ∧ d.jobState = 3 ∧
     (match exec .faultMessageLog (st d) with
      | .next t => t.dev.jobState
      | _ => 0) = 7) := by decide +kernel

theorem wit_FaultLogAndRetry_notice :
    let d := (((mapped.setBit fltNoticeEn true).setFld sysJobStatusState 3).setFld sysJobStatusJobId 9)
    let n := (d.vWrite (baseTlb 0) d.sysSrc 0 (64 * 7) (natLe 1 1 ++ natLe 1 0 ++ natLe 2 0 ++ natLe 4 9)).1
    n.on fltNoticeEn = true ∧ n.running = true ∧
    (match n.vRead (baseTlb n.pkg.lead) n.sysSrc 0 2 (n.fld fltNoticeBase * 65536 + 64 * 7) 64 with
     | (d, .data bs e) => !e.lost && leAt bs 4 4 == d.fld sysJobStatusJobId && leAt bs 8 8 == d.fld sysStepStatusOrdinal && leAt bs 0 1 == 1 &&
         leAt bs 0x10 4 == d.fld timTtStatusRound && !d.closeDecided
     | _ => false) = true := by decide +kernel

/-! StepOpensAndCloses -/

/-- A newcomer whose replica group has one other member in service. -/
def admitting : Dev :=
  let d := (inState 2).setBit (fabPortInSvc.nth 0) true
  { d with col := { d.col with groups := [(0, [(8191, 5)])] }, fab := { d.fab with paths := [(20, 0x40090)] },
           job := { d.job with members := some (List.replicate 1024 0xFF), cmds := [RunCmd.mk 0 1 false clsJ (.admits 5) false false false] } }

/-- A device whose running job is in a close. -/
def closing (c : Close) : Dev := { inState 3 with job := { (inState 3).job with close := some c, leaving := [9], expelled := [8] } }

theorem wit_StepOpensAndCloses :
    ((inState 3).job.joining = none ∧ (inState 3).running = true ∧ (inState 3).job.opened = none ∧ (inState 3).job.close = none ∧
      (inState 3).job.hold = none ∧ (inState 3).flt.retrying = false) ∧
    (let d : Dev := { inState 2 with job := { (inState 2).job with joining := some 88 } }
     d.fld sysJobStatusState = 2 ∧ d.sliceMoving 0 = false ∧ d.planMoving = false) ∧
    (let d := (((inState 3).setFld sysSupvCtlStepToMs 1).setBase 0 ⟨1000009, 0⟩)
     d.fld sysSupvCtlStepToMs ≠ 0 ∧ 8 + 1000000 * d.fld sysSupvCtlStepToMs < d.leadNow) ∧
    (let d := closing ⟨true, false, false, false, none⟩
     d.running = true ∧ d.applyWaiting.on sysStatBaseEn = false ∧ d.applyWaiting.on sysStepCtlPlanEn = false ∧ d.applyWaiting.ledgerMoving = false ∧
     (match exec (.stepClose (.decide [] false 0 0)) (st d) with
      | .next t => (t.dev.fld sysStepStatusSkipRun, t.dev.evGet 33 254, t.dev.fld updNormStatClip)
      | _ => (0, 0, 0)) = (1, 1, 0x3F800000)) ∧
    (let d := closing ⟨false, false, true, false, none⟩
     d.passesLeft (d.fld timTtStatusRound) = false ∧ d.on updCtlDgEn = false ∧ d.on updCtlNormEn = false ∧ d.on sysStatBaseEn = false ∧
     d.on updCtlExpEn = false ∧ (d.upd 0).tag = none ∧ (d.upd 3).torn = none ∧ d.job.hold = none ∧ d.job.cmds = [] ∧ d.planMoving = false ∧
     (match exec (.stepClose (.finish [])) (st d) with
      | .next t => (t.dev.step, t.dev.fld sysStepStatusOrdinal, t.dev.fld timTtStatusRound, t.dev.evGet 32 253, t.dev.job.expelled)
      | _ => (0, 0, 0, 0, [])) = (1, 1, 1, 1, [8, 9])) ∧
    (let d := ({ inState 2 with job := { (inState 2).job with cmds := [RunCmd.mk 0 1 false clsJ (.admits 5) false false false] } } : Dev)
     d.fld sysJobStatusState = 2 ∧ ([d.ownPkg] : List Nat).contains d.ownPkg = true ∧ (d.copyShard []).2 = some true ∧
     d.allDescs (fun _ _ => false) = true ∧ d.residAreas.2 = []) ∧
    (admitting.admitSource [admitting.ownPkg] = some 5 ∧ admitting.copyShard [] = (admitting, some true) ∧ admitting.residAreas.2 = []) := by decide +kernel

/-! UpdatePasses -/

/-- A pass of a kind of unit 0: range, descriptor, begun, paused. -/
def pass (kind last desc : Nat) (begun paused : Bool) : Pass :=
  { work := none, kind, last, desc, blk := 0, n := 4, begun, dig := [0, 0, 0, 0], sw := 0, sr := 0, paused, fresh := false, rec_ := none,
    sets := [], lp := 0 }

/-- A device whose unit 0 runs a pass, with memory mapped in one page of 2 MiB and the table at 0x100000: descriptor 1 has `n` parameters by
a rule (bytes 0 and 2 of its word 0), gradient at 0, code `code` at 0x800, master at 0x1000, moments at 0x3000 and 0x4000, tags at 0x2000. -/
def updating (w0 w2 n code : Byte) (p : Pass) : Dev :=
  let b : Dev := (((ready.setBit memPtRootEn true).setFld memPtRootBase (0x100000 / 16384)).setFld (updTableBaseBase.nth 0) 0x10).setBit
    (updTableBaseEn.nth 0) true
  let b : Dev := { b with phys := ⟨[(0x100000, 1), (0x100002, 0x20), (0x200000, 1), (0x200002, 0x30), (0x300000, 7), (0x300002, 0x80),
    (0x800800, code), (0x910080, w0), (0x910082, w2), (0x910088, n), (0x9100A9, 8), (0x9100B1, 0x10), (0x9100C1, 0x30), (0x9100C9, 0x40),
    (0x9100E9, 0x20)], []⟩ }
  b.setUpd 0 { b.upd 0 with run := some p }

/-- What the reads of a turn meet, as a test: whether the block is held, and whether its writes go through. -/
def turn (x : Dev) (p : Pass) : Option (Bool × Bool) :=
  match x.uRead 0 (x.updTable 0 + 0x10000 + 128 * p.desc) 128 with
  | (d1, .ok bs) =>
    let q := (List.range 16).map fun i => BitVec.ofNat 64 (leAt bs (8 * i) 8)
    match d1.setOf 0 p (uHp q) with
    | (d2, .ok set) =>
      let n := Nat.min 1024 (uCount q - 1024 * p.blk)
      if x.pausedUnit ⟨.update, 0⟩ || !qualifies p.kind q then none else
      if p.kind = 0 then
        (match d2.vRead (baseTlb 0) (updSrc 0) 0 2 (uAddr q 4) (2 * n) with
         | (d3, .data _ _) =>
           match (d3.vRead (baseTlb 0) (updSrc 0) 0 2 (uAddr q 5) (ceilDiv n 32)).2 with
           | .data _ _ => some (false, true)
           | _ => none
         | _ => none)
      else if p.kind = 3 then (d2.readBlk 0 q 0 n).2.1.map fun _ => (false, true)
      else
        match d2.readGrad 0 q 0 n with
        | (d3, some (g, c, f), _) =>
          match d3.readBlk 0 q 0 n with
          | (d4, some old, _) =>
            let pars := newPars q (hypOf q set p.n.toNat 0) (some (d4.fld updNormStatClip)) d4.job.seed p.n 0 n g c f old
            let held := heldBlk q pars
            some (held, p.kind == 2 || ((d4.uWrite 0 (if held then [(uAddr q 13, natLe 8 5)] else
              blockWrites q 0 (storedBlk q old pars) (storedBlk q old pars).mas (some 5))).2 == .done && !(d2.exports 0 q && d2.ringMoving 0)))
          | _ => none
        | _ => none
    | _ => none
  | _ => none

theorem wit_UpdatePasses_norm : turn (updating 0 1 32 0 (pass 0 3 1 true false)) (pass 0 3 1 true false) = some (false, true) := by decide +kernel

theorem wit_UpdatePasses_update : turn (updating 0 0 1 0 (pass 1 3 1 true false)) (pass 1 3 1 true false) = some (false, true) := by decide +kernel

theorem wit_UpdatePasses_held : turn (updating 0 0 1 0xFF (pass 1 3 1 true false)) (pass 1 3 1 true false) = some (true, true) := by decide +kernel

theorem wit_UpdatePasses_lamb : turn (updating 6 0 1 0 (pass 2 3 1 true false)) (pass 2 3 1 true false) = some (true, true) := by decide +kernel

theorem wit_UpdatePasses_digest : turn (updating 0 0 1 0 (pass 3 3 1 true false)) (pass 3 3 1 true false) = some (false, true) := by decide +kernel

theorem wit_UpdatePasses :
    ((updating 0 0 32 0 (pass 0 0 1 false false)).upd 0).run = some (pass 0 0 1 false false) ∧ (pass 0 0 1 false false).last < 1 ∧
    (let p : Pass := { pass 0 0 1 false false with fresh := true, work := some brzWork }
     p.work.isSome = true ∧ (ready.setUpd 0 { ready.upd 0 with run := some p }).tableOk 0 = false) ∧
    (let d := { updating 0 0 32 0 (pass 0 3 1 false false) with job := { (updating 0 0 32 0 (pass 0 3 1 false false)).job with cmds := [RunCmd.mk 0 1 false clsJ (.stop true) false false false] } }
     Dev.stopping d false = true) ∧
    (let p := pass 1 3 1 true true
     let d := (updating 0 0 32 0 p).setFld sysJobStatusState 3
     let d := (d.uWrite 0 [(d.updTable 0 + 0x4000, natLe 8 4 ++ natLe 2 1 ++ natLe 1 1 ++ natLe 1 3 ++ natLe 4 2)]).1
     d.passHeld 0 p = false ∧
     (match d.uRead 0 (d.updTable 0 + 0x4000) 16 with
      | (e, .ok bs) => decide (leAt bs 0 8 = p.n.toNat) && leAt bs 0xA 1 == 1 && leAt bs 0xB 1 % 4 == 3 && (e.uWrite 0 [(d.updTable 0 + 0x400B, natLe 1 1)]).2 == .done
      | _ => false) = true) ∧
    (pass 1 3 1 true false).begun = true := by decide +kernel

/-! ReleasesStartWork -/

/-- A timetable entry of fields (offset, bytes, value). -/
def tent (l : List (Nat × Nat × Nat)) : List Byte :=
  l.foldl (fun b f => b.take f.1 ++ natLe f.2.1 f.2.2 ++ b.drop (f.1 + f.2.1)) (List.replicate 64 0)

/-- A running job whose armed foreground timetable holds one entry, and whose base dies read 2 ms. -/
def armed (e : List Byte) : Dev :=
  let d := (List.range 4).foldl (fun d i => d.setBase i ⟨2000000, 0⟩) (inState 3)
  d.setTable false { ents := [e], period := 8000, t0 := 0, armed := true, done := [] }

/-- Entry 0 is a candidate of kind `k` and eligible. -/
def goes (d : Dev) (k : Nat) : Bool :=
  match d.cand (.entry false 0) with
  | some y => eKind y.e == k && d.eligibleNow y
  | none => false

/-- A segment of 256 bytes of code at 0x4000 of the cluster store for address 0x8000, no argument, on logical core 2 of cluster 0. -/
def eSegment : List Byte := tent [(0x2C, 2, 0xFFFF), (0x30, 8, 0x4000 + 0x8000 * 2 ^ 40 + 2 * 2 ^ 60), (0x38, 8, 0)]

theorem wit_ReleasesStartWork_segment :
    goes (armed eSegment) 0 = true ∧
    (match (armed eSegment).cand (.entry false 0) with
     | some y =>
       let x := armed eSegment
       let c := x.physCore (eDisp y.e) y.workOf.lcore
       let z := x.released (.entry false 0) y 0
       let z1 := ((z.csWrite (c / 16) (cellsAt (z.ctxSlot c + 0xC) [0])).onCore c fun k => { k with slots := [] }).clearLocal 0 0 0
       c == 2 && z.physCore (eDisp y.e) y.workOf.lcore == 2 && (z1.loadSegment c y.workOf).2
     | none => false) = true := by decide +kernel

theorem wit_ReleasesStartWork_units :
    (let d := armed (tent [(8, 1, 1), (9, 1, 1), (0x2C, 2, 0xFFFF), (0x30, 8, 0x8000 + 3 * 2 ^ 52)])
     goes d 1 = true ∧ (d.chan 19).st = .idle ∧
     (let e := (d.setChan 19 { Chan.idle with st := .ready, brz := true, pause := true })
      goes e 1 = true ∧ (e.chan 19).st ≠ .idle)) ∧
    (let d := armed (tent [(8, 1, 33), (9, 1, 3), (0x2C, 2, 0xFFFF), (0x30, 8, 1)])
     goes d 3 = true ∧ d.skippedRound 0 = false ∧ (d.skippedRound 0 = false) ∧
     (let e := { d with job := { d.job with decided := some (0, true) } }
      goes e 3 = true ∧ Dev.skippedRound e 0 = true)) ∧
    (let d := armed (tent [(8, 1, 32), (9, 1, 4), (0x2C, 2, 0xFFFF), (0x30, 8, 1)])
     goes d 4 = true ∧ d.disp.mapSw = none ∧ bit (d.fld colMapLoaded) 1 = false ∧
     (let e := d.setFld colMapLoaded 2
      goes e 4 = true ∧ bit (e.fld colMapLoaded) 1 = true ∧ e.col.live = [] ∧ (let f : Dev := { e with col := { e.col with live := [⟨1, 0, 3, [], .work brzWork, 0, 0, 0, 0, 0, 0, .entered, false, false, [], [], [], [], 0, 0, 0, 0⟩] } }
       goes f 4 = true ∧ f.col.live ≠ []))) ∧
    goes (armed (tent [(8, 1, 5), (9, 1, 5), (0x2C, 2, 0xFFFF)])) 5 = true := by decide +kernel

/-- Breeze work on core 0, which the segment entry for logical core 0 wants; breeze chains and a breeze pass likewise. -/
def yielding : Dev :=
  let d := armed (tent [(0x2C, 2, 0xFFFF), (0x30, 8, 0x4000 + 0x8000 * 2 ^ 40)])
  let d := d.setTable false { d.table false with ents := (d.table false).ents ++ [tent [(8, 1, 1), (9, 1, 1), (0x2C, 2, 0xFFFF), (0x30, 8, 0x8000)],
    tent [(8, 1, 32), (9, 1, 3), (0x2C, 2, 0xFFFF), (0x30, 8, 1)]] }
  let d := d.onCore 0 fun k => { k with work := some brzWork, run := .issuing }
  let d := d.setChan 16 { Chan.idle with st := .ready, brz := true }
  d.setUpd 0 { d.upd 0 with run := some { pass 1 3 1 true false with work := some brzWork } }

theorem wit_ReleasesStartWork_yields :
    yielding.heldByBreeze (.core 0) = true ∧ yielding.wanted (· == .core 0) = true ∧
    yielding.heldByBreeze (.chan 16) = true ∧ yielding.wanted (· == .chan 16) = true ∧
    yielding.heldByBreeze (.update 0) = true ∧ yielding.wanted (· == .update 0) = true ∧
    (yielding.pausePass 0).heldByBreeze (.update 0) = false := by decide +kernel

theorem wit_ReleasesStartWork_ends :
    (let i (ok : Bool) (one : Option (Nat × BitVec 16)) : Inst := ⟨{ brzWork with brz := false, entry := 0, one }, 8, eSegment, some ok, false, false, 0⟩
     let d (ok : Bool) : Dev := { armed eSegment with disp := { (armed eSegment).disp with insts := [i ok none] } }
     let o (ok : Bool) : Dev := { armed eSegment with disp := { (armed eSegment).disp with insts := [i ok (some (1, 7))] } }
     (d true).instOf (.entry false 0) = some (i true none) ∧ (d true).doneOf false 0 = 0 ∧
     ((d true).setTable false { (d true).table false with done := [(0, 1)] }).doneOf false 0 ≠ 0 ∧
     (d false).instOf (.entry false 0) = some (i false none) ∧
     (o true).instOf (.one 0) = some (i true (some (1, 7))) ∧ (o false).instOf (.one 0) = some (i false (some (1, 7)))) ∧
    (let d := armed (tent [(0xC, 4, 2 ^ 32 - 1), (0x2C, 2, 0xFFFF), (0x30, 8, 0x4000 + 0x8000 * 2 ^ 40)])
     (match d.cand (.entry false 0) with
      | some y =>
        let x : Dev := { d with real := 2000000, disp := { d.disp with waits := [⟨false, false, 0, 0, [3], some 0, false⟩] } }
        x.cand (.entry false 0) == some y && (x.heldOf y).map (·.since) == some (some 0) && !x.chargeFits y && decide (1000000 < x.real) &&
          (d.noteWaits.disp.waits.map fun h => (h.causes, h.since)) == [([3], some d.real)]
      | none => false) = true) ∧
    (let e := ent (body [(8, 1, 5), (9, 1, 5)])
     let d : Dev := (inState 3).setQ 0 { QCtx.cold with w0 := 1, state := 1 }
     let d : Dev := { d with que := { d.que with run := [⟨0, 0, entryBytes 1 e, false, none⟩] } }
     d.fetched 1 1 e = true ∧ d.disp.ones = []) ∧
    (inState 3).oneStatus (oneBytes (body [(8, 1, 5), (9, 1, 5)])) = 0 ∧ ready.oneStatus (oneBytes (body [(8, 1, 5), (9, 1, 5)])) ≠ 0 := by
  decide +kernel

/-! ShardsAndExports -/

/-- Unit 0 with descriptor 1, of one parameter, torn in a pass at step 4; package 3 is in the replica group. -/
def tornShard : Dev :=
  let d := updating 0 0 1 0 (pass 1 3 1 true true)
  let d := d.setUpd 0 { d.upd 0 with torn := some 1 }
  let d := d.setReg sysStepCountStep.off 4
  { d with phys := { d.phys with bytes := Sparse.set (always 0) d.phys.bytes 0x910081 0x10 }, job := { d.job with members := some (List.replicate 1024 0xFF) }, col := { d.col with groups := [(0, [(8191, 3)])] } }

/-- The arrays of member 3: tag 5. -/
def arrays : List (List Byte) := [natLe 4 9, [], [], [], [], [], natLe 8 5, []]

theorem wit_ShardsAndExports_member : (tornShard.members (tornShard.fld updCtlRepGid)).contains 3 = true := by
  rw [List.contains_iff_mem]
  simp only [Dev.members, List.mem_flatMap, List.mem_filter, List.mem_range]
  exact ⟨(8191, 3), by decide +kernel, by decide, by decide +kernel⟩

/-- The same for a PEER_RESTORE from a member in a held job. -/
theorem wit_UnitAndReplicaCommands_peer :
    (let b := body [(8, 1, 1), (0xA, 2, 1), (0xC, 2, 3)]
     takes (asked (tornShard.setFld sysJobStatusState 5) 0x11 b) 0x11 b clsJ [(8, 6), (0x10, 16)] [3, 4, 5] = true) ∧
    3 ≠ tornShard.ownPkg := by decide +kernel

theorem wit_ShardsAndExports_repair :
    tornShard.restoreWanted 0 1 3 = true ∧ tornShard.step.toNat + 1 = 5 ∧
    (match tornShard.descOf 0 1 with
     | (d, some q) =>
       nums 8 (uBlocks q) (padTo (8 * uBlocks q) (arrays.getD 6 [])) == [5] &&
       (d.uWrite 0 (copyPieces q (d.updTable 0) 1 arrays)).2 == .done && (d.upd 0).torn == some 1
     | _ => false) = true := by decide +kernel

theorem wit_ShardsAndExports_restored :
    (let d : Dev := { tornShard.setUpd 0 Upd.cold with job := { tornShard.job with cmds := [RunCmd.mk 0 1 false clsJ (.restore 0 1 3) false false false] } }
     d.restoreWanted 0 1 3 = true ∧ (d.upd 0).torn ≠ some 1) := by decide +kernel

/-- An image for descriptor 1 of unit 0 with one parameter of 0 at step 4; its digest is `dig`. -/
def image (dig : List Byte) : List Byte := padTo 64 ([0, 0] ++ natLe 2 1 ++ [15, 0, 0, 0] ++ natLe 8 1 ++ natLe 8 4 ++ natLe 8 0 ++ dig) ++ natLe 4 0

theorem wit_ShardsAndExports_restore :
    (match tornShard.descOf 0 1 with
     | (_, some q) =>
       match tornShard.stateDigest 0 q with
       | some dig =>
         let img := image (digestBytes dig)
         let d := tornShard.setUpd 0 { tornShard.upd 0 with image := some (1, img) }
         let want := (List.range 4).map fun l => BitVec.ofNat 64 (leAt img (0x20 + 8 * l) 8)
         imageCovers q (uExp q) && imageCovers q (leAt img 4 1) && leAt img 8 8 == uCount q && leAt img 0x10 8 == d.step.toNat &&
         (d.gradReadable 0 q).2 == .done && want == dig &&
         (match d.uRead 0 (uAddr q 13) (8 * uBlocks q) with
          | (e, .ok _) => (e.uWrite 0 (imagePieces q img ++ [(uAddr q 13, natLe 8 4)])).2 == .done
          | _ => false) &&
         (match exec (.shardRestore 0 1 0) (st d) with
          | .next t => (match (t.dev.upd 0).run, (t.dev.upd 0).restore with
            | some p, some r => p.kind == 3 && r.want == dig &&
              (t.dev.uWrite 0 [(uAddr q 13, r.old), (t.dev.updTable 0 + 0x400B, natLe 1 0)]).2 == .done &&
              (t.dev.uWrite 0 [(t.dev.updTable 0 + 0x90000 + 32, digestBytes dig), (t.dev.updTable 0 + 0x400B, natLe 1 0)]).2 == .done &&
              ((t.dev.unkeep 0).upd 0).torn == some 1 && ((t.dev.unkeep 0).upd 0).run.isSome
            | _, _ => false)
          | _ => false)
       | none => false
     | _ => false) = true := by decide +kernel

theorem wit_ShardsAndExports_exports :
    (let d := paged.setUpd 0 { Upd.cold with sink := .ring 3 0x10000 4096 0 0, prod := 32 }
     d.exportBusy 0 = false ∧ ((d.nextRecord 0).2.map List.length) = some 16 ∧ (d.upd 0).flight = 0) ∧
    (let d := paged.setUpd 0 { Upd.cold with sink := .ring 3 0x10000 4096 16 0, prod := 32, flight := 16 }
     d.exportBusy 0 = false ∧ 0 < (d.upd 0).flight) ∧
    (let d := (paged.setUpd 0 { Upd.cold with sink := .queue 0, prod := 32 }).setQ 0 (queued.qctx 0)
     ((d.nextRecord 0).2.map List.length) = some 16 ∧ (d.qctx 0).live = true ∧ 1 ≤ (d.qctx 0).room ∧
     ((d.setQ 0 { d.qctx 0 with dev := 32 }).qctx 0).room = 0) := by decide +kernel

/-! TimeTransferAndClocks -/

/-- Ports 0 and 1 are up and in service. -/
def twoPorts (d : Dev) : Dev :=
  (List.range 2).foldl (fun d p => ((((d.setBit (fabPortUp.nth p) true).setBit (fabPortIdOk.nth p) true).setFld (fabPortWidth.nth p) 4).setFld
    (fabPortRate.nth p) 3).setBit (fabPortInSvc.nth p) true) (d.setBit fabCtlEn true)

/-- A follower of master 9 whose ports 0 and 1 are up; its time is `t`. -/
def follow (t : Nat) : Dev :=
  let d := ((({ ready with real := t } : Dev).setFld timStatusMpkg 9).setBase 0 ⟨t, 0⟩)
  let d := twoPorts d
  { d with tim := { d.tim with ports := 3, seq := 7, sent := some 1000, winAt := 0, first := false } }

/-- A master. -/
def master (role t : Nat) : Dev := twoPorts ((({ ready with real := t } : Dev).setFld timStatusRole role).setBase 0 ⟨t, 0⟩)

/-- A time gust from package 9 to this one. -/
def timeGustTo (d : Dev) (pay : List Byte) : List Byte :=
  ({ cls := 4, op := 0, eclass := 4, nh := 0, resend := false, src := 9, dst := d.ownPkg, hop1 := 0, hop2 := 0, win := 0, seq := 0, aseq := 0,
     addr := 0, dinc := d.inc, sinc := 0, payload := pay } : GustHdr).bytes

theorem wit_TimeTransfer :
    (let d := follow 1001000
     d.follower = true ∧ d.tim.sent = some 1000 ∧ 1000 + 1000000 ≤ d.now 0 ∧ d.timePort = some 1) ∧
    (let d := master 1 5000
     let g := timeGustTo d (timePayload 1 true 3 9 100 0 0)
     (d.timeTake 0 g).2 = true ∧ (d.timeTake 0 g).1.follower = false ∧ leAt (gPayload g) 0 1 = 1) ∧
    (let d := follow 2000
     let g := timeGustTo d (timePayload 2 true 7 9 1000 1500 1600)
     (d.timeTake 0 g).2 = true ∧ leAt (gPayload g) 0 1 = 2 ∧ leAt (gPayload g) 2 2 = (d.timeTake 0 g).1.tim.seq ∧ leAt (gPayload g) 1 1 % 2 = 1 ∧
     (d.timeTake 0 g).1.tim.best = none ∧ (d.timeTake 0 g).1.tim.sent ≠ none ∧
     (let e : Dev := { d with tim := { d.tim with best := some (0, 0) } }
      (e.timeTake 0 g).2 = true ∧ (e.timeTake 0 g).1.tim.best = some (0, 0))) := by decide +kernel

theorem wit_TimeTransfer_window :
    (let d := follow 16000000
     d.tim.winAt + 16000000 ≤ d.real ∧ d.tim.best = none ∧ d.running = false ∧ d.on timStatusLock = false ∧
     [({ d with tim := { d.tim with best := some (-41, 9), good := 3 } } : Dev), { d with tim := { d.tim with best := some (20, 9), good := 3 } },
      { d with tim := { d.tim with best := some (40, 9), good := 3 } }, { d with tim := { d.tim with best := some (-2001, 9), first := true } }].all
        (fun e => e.follower && e.tim.winAt + 16000000 == e.real) = true) ∧
    (let d := (follow 100000000).setBit timStatusLock true
     d.follower = true ∧ d.on timStatusLock = true ∧ d.tim.valid + 100000000 ≤ d.real) ∧
    (let d := master 2 1002000000
     (master 1 0).fld timStatusRole ≠ 2 ∧ d.follower = false ∧ d.fld timStatusRole = 2 ∧ d.tim.edge = none ∧ (toSecond (d.now 0)).natAbs = 2000000 ∧
     (let e : Dev := { d with tim := { d.tim with jump := true, edge := some 102000000 } }
      e.tim.edge = some 102000000 ∧ 102000000 + 900000000 ≤ e.real ∧ e.tim.jump = true)) ∧
    (let d : Dev := { master 2 3000000001 with tim := { (master 2 3000000001).tim with edge := some 1 } }
     d.follower = false ∧ d.tim.edge.getD d.tim.winAt + 3000000000 ≤ d.real ∧ d.pkg.hbAt + 1000000 ≤ d.now 0 ∧ ready.now 0 < ready.pkg.hbAt + 1000000) := by decide +kernel

theorem wit_TimeTransfer_clocks :
    (let d := ready.setBit dieClkBOk true
     d.on dieClkInUse = false ∧ d.on (clkOk !false) = true ∧ d.on dieClkInUse ≠ true ∧ (d.setBit dieClkHoldover true).on dieClkHoldover = true ∧
     d.on dieClkHoldover = false) ∧
    (let d := (ready.setBit dieClkRevert true).setBit dieClkPref true
     d.on dieClkHoldover = false ∧ d.on dieClkRevert = true ∧ d.on dieClkPref = true ∧ d.on dieClkPref ≠ false ∧
     (d.setBit dieClkAOk false).on dieClkAOk = false ∧ (d.setBit dieClkAOk false).on dieClkBOk = false) := by decide +kernel

/-! GustsAreTaken -/

/-- A device with its fabric on and port 0 in service; package 9 was met with incarnation 2 and holds level 4 of the request pool. -/
def fabric : Dev :=
  let d := (follow 1000).setBit fabCtlEn true
  { d with fab := { d.fab with seen := [(9, 2)], granted := [(lvKey 9 0, 4)] } }

/-- A gust from package 9 to this one. -/
def gust (eclass op win seq aseq addr : Nat) (pay : List Byte) : List Byte :=
  ({ cls := eclass, op, eclass, nh := 0, resend := false, src := 9, dst := fabric.ownPkg, hop1 := 0, hop2 := 0, win, seq, aseq, addr,
     dinc := fabric.inc, sinc := 2, payload := pay } : GustHdr).bytes

/-- The gust is taken. -/
def taken (d : Dev) (eclass op : Nat) (g : List Byte) : Bool := (d.take 0 g (isGust eclass op) fun v =>
  match eclass, op with
  | 0, 0 => gWin g == 0 && decide (0 < v.grantedTo 9 0)
  | 0, _ => decide (0 < v.grantedTo 9 0)
  | 3, _ => (match v.posted (gWin g) with | some c => c.fits v.ownPkg (gAddr g) (gLen g) | none => false)
  | 1, 0 => v.fab.reads.any (replyTo g)
  | _, _ => true).2

theorem wit_GustsAreTaken_checks :
    fabric.on fabCtlEn = true ∧ fabric.portUp 0 = true ∧ fabric.pausedUnit ⟨.port, 0⟩ = false ∧ gustCrcOk ((gust 0 0 0 5 0 0x40 [1, 2, 3, 4]).set 20 1) = false ∧
    taken fabric 0 0 (gust 0 0 0 5 0 0x40 [1, 2, 3, 4]) = true ∧ gEclass (gust 0 0 0 5 0 0x40 [1, 2, 3, 4]) = 0 ∧
    (let y := (fabric.take 0 (gust 0 0 0 5 0 0x40 [1, 2, 3, 4]) (isGust 0 0) fun _ => true).1.newSource 9 2
     0 < y.grantedTo 9 0 ∧ (y.rxOf 9 0).dup 5 = false ∧ (y.setRx 9 0 ⟨6, 0, false, 0⟩).rxOf 9 0 = ⟨6, 0, false, 0⟩ ∧ (Rx.mk 6 0 false 0).dup 5 = true) ∧
    taken fabric 0 1 (gust 0 1 3 5 64 0x40 []) = true ∧
    [1, 2, 3, 4, 5, 6, 7, 8].all (fun op => taken fabric 1 op (gust 1 op 0 4 0 0 [])) = true := by decide +kernel

/-- The same with memory mapped. -/
def fabricHdm : Dev :=
  { hdm with regs := (fabric.setBit memPtRootEn true).regs, fab := fabric.fab }

theorem wit_GustsAreTaken_memory :
    (let g := gust 0 0 0 5 0 0x40 [1, 2, 3, 4]
     let y := (fabricHdm.take 0 g (isGust 0 0) fun _ => true).1.newSource 9 2
     taken fabricHdm 0 0 g = true ∧ (y.vWrite (baseTlb 0) (portSrc 0) 0 0x40 (gPayload g)).2 = .done) ∧
    (let g := gust 0 1 3 5 64 0x40 []
     let y := (fabricHdm.take 0 g (isGust 0 1) fun _ => true).1.newSource 9 2
     (match (y.vRead (baseTlb 0) (portSrc 0) 0 2 (gAddr g) (gAseq g)).2 with
      | .data _ e => !e.lost
      | _ => false) = true) := by decide +kernel

theorem wit_GustsAreTaken_effects :
    (let c (op : Nat) : Coll := ⟨1, 0, op, [0, 9 * 2 ^ 3 + 9 * 2 ^ 7, 64, 0, 0], .work brzWork, 0, 0x50, 0, 0, 0, 0, .exchanging, false, false, [], [9], [], [], 0, 0, 0, 0⟩
     let d (op : Nat) : Dev := { fabric with col := { fabric.col with live := [c op] } }
     let g := gust 3 0 0x50 5 0 0 [1]
     taken (d 3) 3 0 g = true ∧ (((d 3).take 0 g (isGust 3 0) fun _ => true).1.newSource 9 2).posted 0x50 = some (c 3) ∧ (c 3).moves = false ∧
     taken (d 5) 3 0 g = true ∧ (((d 5).take 0 g (isGust 3 0) fun _ => true).1.newSource 9 2).posted 0x50 = some (c 5) ∧ (c 5).moves = true) ∧
    (let d : Dev := { fabric with fab := { fabric.fab with reads := [⟨3, 9, some 5, 0, 1, 0, 0, 0, none⟩] } }
     let g := gust 1 0 3 5 0 0 [7]
     taken d 1 0 g = true ∧ ((d.take 0 g (isGust 1 0) fun _ => true).1.newSource 9 2).fab.reads.any (fun r => r.slot == 3 && r.dst == 9 && r.seq == some 5) = true) ∧
    (let d := fabric.setFld fabCreditReqSlots 64
     let g := gust 1 2 0 4 0 0 []
     taken d 1 2 g = true ∧ poolWin (gWin g) = true ∧ (let y := (d.take 0 g (isGust 1 2) fun _ => true).1.controlSource 9 2
      poolWin 0x50 = false ∧ (y.posted 0x50).isNone = true ∧ y.fab.askers = [])) ∧
    (let d : Dev := { fabric with fab := { fabric.fab with probes := [(0, 36, 0)] } }
     let g := gust 1 8 0 4 0 0 []
     taken d 1 8 g = true ∧ (((d.take 0 g (isGust 1 8) fun _ => true).1.controlSource 9 2).fab.probes.find? fun p => p.1 == 0 && p.2.1 / 4 == 9) = some (0, 36, 0)) ∧
    (let g := ({ cls := 2, op := 0, eclass := 0, nh := 1, resend := false, src := 9, dst := 77, hop1 := 0, hop2 := 0, win := 0, seq := 0, aseq := 0,
                 addr := 0, dinc := 0, sinc := 2, payload := [] } : GustHdr).bytes
     gustCrcOk g = true ∧ gustForm g = true ∧ 64 + gLen g ≤ g.length ∧ 77 ≠ fabric.ownPkg ∧ gDst g = 77 ∧ gHi g < gNh g ∧
     (let d := fabric.setGranted (pkgOn (fabric.plane 0) 9) stageB 1
      0 < d.grantedTo (pkgOn (d.plane 0) 9) stageB ∧ relayedControl (g.set 3 (BitVec.ofNat 8 (leAt g 3 1 + 4))) = false)) := by decide +kernel

/-! FabricTimersAndPorts -/

theorem wit_FabricTimersAndPorts :
    (let d := fabric.setRx 9 0 ⟨5, 0, true, 0⟩
     let e : Dev := { d with fab := { d.fab with paths := [(36, 0x40090)] } }
     (d.rxOf 9 0).due = true ∧ d.controlPath 9 = none ∧ (e.rxOf 9 0).due = true ∧ e.controlPath 9 ≠ none ∧ (fabric.rxOf 9 0).due = false) ∧
    fabric.leadNow < fabric.fab.probeAt + 1000000 * fabric.fldOr fabTimeoutProbeMs 1 ∧
    (let d : Dev := { fabric with bases := [(fabric.pkg.lead, { Base.cold with now := 10 ^ 9 })] }
     d.fab.probeAt + 1000000 * d.fldOr fabTimeoutProbeMs 1 ≤ d.leadNow) ∧
    (some (pbrOn (fabric.plane 0) fabric.ownPkg) == some 0) = true ∧ (none == some (pbrOn (fabric.plane 0) fabric.ownPkg)) = false ∧
    (fabric.on (fabPortUp.nth 0) && !fabric.on (fabPortFenced.nth 0)) = true ∧ (fabric.on (fabPortUp.nth 5) && !fabric.on (fabPortFenced.nth 5)) = false := by
  decide +kernel

/-! CollectivesMoveAndReduce -/

/-- The words of a collective: opcode, type and format delivered, flags and group of word 1, count, root; src at 0x1000, dst at 0x2000, codes
at 0x3000 and 0x4000, residual at 0x5000. -/
def cwords (ty flags count root : Nat) : List W64 :=
  [0, BitVec.ofNat 64 (ty * 2 ^ 3 + ty * 2 ^ 7 + flags), BitVec.ofNat 64 (count + root * 2 ^ 40), 0x1000, 0x2000, 0x3000, 0x4000, 0x5000]

/-- Collective 1 of engine 0 of this package and package 9, of which this is rank 0. -/
def coll (op : Nat) (q : List W64) (st : CollSt) : Coll :=
  ⟨1, 0, op, q, .queue 3 7 false, 0, 0, 0, 0, 0, 0, st, false, false, [], [hdm.ownPkg, 9], [hdm.ownPkg], [], 0, 130, 0, 0⟩

/-- A device with it; memory is mapped up to 0x10000. -/
def collecting (c : Coll) : Dev := { hdm with col := { hdm.col with live := [c] } }

/-- The operation, whose own part is `f`, ends in place. -/
def places (c : Coll) (f : Dev → Dev × OpEnd) : Bool := (collecting c).coll 1 == some c && (f (collecting c)).2 == .done

/-- Both members are sent theirs. -/
def toBoth (c : Coll) (d : Dev) (f : Nat → Nat × Nat × Part) : Dev :=
  (List.range 2).foldl (fun v j => v.elemsTo c (c.mem.getD j 0) (f j).1 (f j).2.1 (f j).2.2) d

/-- The source is read and what follows ends in place. -/
def after (r : Dev × Got) (f : Dev → List Byte → List Byte → Dev × OpEnd) : Bool :=
  match r with
  | (d, .ok bs cs) => rankIn [hdm.ownPkg, 9] d.ownPkg == 0 && !d.pausedUnit ⟨.collective, 0⟩ && (f d bs cs).2 == .done
  | _ => false

theorem wit_CollectivesMoveAndReduce_scalar :
    (let c := coll 2 (cwords 0xB 0 2 0) .exchanging
     after ((collecting c).readBytes 0 0x1000 16) fun d own _ => (c.mem.foldl (fun v p => v.gustsTo c p 0 own) d).writeDst 0 0x2000 (List.replicate 16 1) 0 []) = true := by decide +kernel

theorem wit_CollectivesMoveAndReduce_reduce :
    (let c := coll 3 (cwords 0xB 0 4 0) .exchanging
     let part (j : Nat) : Nat × Nat := sliceOf c.q 2 j
     after ((collecting c).readSrc c 0x1000 0x3000 4) fun d bs cs =>
       (toBoth c d fun j => (4, (part j).1, slicePart c.q (bs, cs) (part j).1 (part j).2)).reduceInto c [] (partsWith [] 2 0 (bs, cs)) 4 0 0) = true ∧
    (let c := coll 4 (cwords 0xA 0 4 0) .exchanging
     after ((collecting c).readSrc c 0x1000 0x3000 8) fun d bs cs =>
       (toBoth c d fun j => (4, 0, slicePart c.q (bs, cs) (j * 4) 4)).reduceInto c [] (partsWith [] 2 0 (slicePart c.q (bs, cs) 0 4)) 4 0 0) = true ∧
    (let c := coll 3 (cwords 0xC 0x1000 32 0) .exchanging
     cHier c.q = true ∧ cRes c.q = false ∧ lowerChunk c.q 2 0 = (0, 0) ∧
     after ((collecting c).readBlocks 0 0x1000 0x3000 64 1 true) (fun d bs cs =>
       (toBoth c d fun j => (32, 32 * splitAt 1 2 j, slicePart c.q (bs, cs) (32 * splitAt 1 2 j) (32 * (splitAt 1 2 (j + 1) - splitAt 1 2 j)))).hierFinish c 0 0 [] false [] [] [] ([], [])) = true) := by
  decide +kernel

theorem wit_CollectivesMoveAndReduce_residual :
    (let c := coll 3 (cwords 0xC 0x3000 64 0) .exchanging
     cHier c.q = true ∧ cRes c.q = true ∧ lowerChunk c.q 2 0 = (0, 1) ∧
     after ((collecting c).readBlocks 0 0x1000 0x3000 64 2 true) (fun d bs cs =>
       let chunk (j : Nat) : Part := slicePart c.q (bs, cs) (32 * splitAt 2 2 j) (32 * (splitAt 2 2 (j + 1) - splitAt 2 2 j))
       let v := toBoth c d fun j => (64, 32 * splitAt 2 2 j, chunk j)
       let acc := (List.range 1).map (reduceBlk 0xC [] (partsWith [] 2 0 (chunk 0)))
       match (v.noteResid 0x5000 32).1.readResid c 1 (v.noteResid 0x5000 32).2 with
       | (e, .ok rb rc) => e.hierFinish c 0 1 acc (v.noteResid 0x5000 32).2 rb rc [] ([], [])
       | (e, _) => (e, .wait)) = true) := by decide +kernel

theorem wit_CollectivesMoveAndReduce_move :
    ([(5, 8), (6, 4), (7, 4)].all fun o =>
      let c := coll o.1 (cwords 9 0 4 0) .exchanging
      after ((collecting c).readSrc c 0x1000 0x3000 4) fun d bs cs =>
        (if o.1 = 7 then d else d.elemsToAll c o.2 0 (bs, cs)).writeChunks c 4 (if o.1 = 6 then [(bs, cs)] else partsWith [] 2 0 (bs, cs))) = true ∧
    ([6, 7].all fun op => cRoot (coll op (cwords 9 0 4 1) .exchanging).q == 1) = true ∧
    (let c := coll 6 (cwords 9 0 4 1) .exchanging
     places c fun d => d.writeChunks c 4 [([1, 2, 3, 4], [])]) = true ∧
    (let c := coll 8 (cwords 9 0 4 0) .exchanging
     after ((collecting c).readSrc c 0x1000 0x3000 8) fun d bs cs =>
       (toBoth c d fun j => (8, 0, slicePart c.q (bs, cs) (j * 4) 4)).writeChunks c 4 (partsWith [] 2 0 (slicePart c.q (bs, cs) 0 4))) = true ∧
    (let c := coll 9 (cwords 9 0 0 0) .exchanging
     after ((collecting c).readBytes 0 0x3000 0) fun d _ _ => d.permuteRounds c 0 0x100000 0 [] []) = true ∧
    (let c := coll 10 (cwords 9 0 64 hdm.ownPkg) .exchanging
     after ((collecting c).readBytes 0 0x1000 64) fun d bs _ => d.writeDst 0 0x2000 bs 0 []) = true ∧
    (let c := coll 10 (cwords 9 0 64 9) .exchanging
     places c fun d => d.copyIn c (d.fab.reads.filter fun t => t.coll == 1)) = true := by decide +kernel

theorem wit_CollectivesMoveAndReduce_life :
    (let c := coll 1 (cwords 0 0 0 0) .entered
     let d := collecting c
     let k : Contrib := ⟨9, d.ownSig c, 2, 0, 0, 0, 0, false, false⟩
     d.coll 1 = some c ∧ d.nextRdv c = true ∧ d.sending c = false ∧ d.allIn c.mem c.gone [k] = true ∧ d.allIn c.umem c.gone [] = true ∧ cHier c.q = false ∧
     (contribsOf c.mem c.gone [k]).all (fun t => t.sig == d.ownSig c && t.n == 2 && t.err.val == 0) = true ∧ 9 ∈ c.mem ∧ 9 ≠ d.ownPkg ∧
     d.collBehind (coll 1 (cwords 0 0 0 0) .done) = false) ∧
    cEos (coll 1 (cwords 0 0x800 0 0) .exchanging).q = true ∧
    (ready.col.live = [] ∧ (let e := ent (natLe 8 0)
     ready.firstOfGroup e.q = true ∧ (ready.setFld colCtlMaxIf 4).mayEnter (cf (entryWords 1 e) 1 16 2) 1 (entryWords 1 e) = true)) := by decide +kernel

theorem wit_CollectivesMoveAndReduce_release :
    (let d := armed (tent [(8, 1, 32), (9, 1, 2), (0x2C, 2, 0xFFFF), (0x30, 8, 0x1000)])
     let d : Dev := { d.setBit memPtRootEn true with mem := hdm.mem }
     goes d 2 = true ∧
     (match d.cand (.entry false 0) with
      | some y =>
        (match (d.vRead (baseTlb 0) (colSrc 0) 0 2 0x1000 64).2 with
         | .data b ec => !ec.lost && d.mayEnter 0 (leAt b 0 1) (descWords b)
         | _ => false) &&
        (match ((d.released (.entry false 0) y 0).vRead (baseTlb 0) (colSrc 0) 0 2 0x1000 64).2 with
         | .data _ ec => !ec.lost
         | _ => false)
      | none => false) = true) := by decide +kernel

/-! ResetsAndBringUp -/

theorem wit_ResetsAndBringUp_resets :
    ready.on dieBootReady = true ∧ Dev.cold.on dieBootReady = false ∧
    (let d : Dev := { ready with car := { ready.car with fell := true, module := false } }
     d.car.fell = true ∧ d.car.module = false) ∧
    (let d : Dev := { ready with pkg := { ready.pkg with fences := { ready.pkg.fences with cores := [9] } } }
     d.pkg.fences.core 9 = true ∧ ready.pkg.fences.core 9 = false) := by decide +kernel

theorem wit_ResetsAndBringUp_boot :
    (let d := Dev.cold.setBit dieClkAOk true
     d.fld dieBootStage ≠ 1 ∧ (d.on dieClkAOk || d.on dieClkBOk) = true ∧ d.on dieBootReady = false) ∧ Dev.cold.car.reset = false ∧
    (BringUp.mk false [] [] [0, 1, 2, 3] [0, 1, 2, 3] [] [] [] 40).fuseBad = false ∧
    (let d := ready.setFld dieBootPairsBusy 4
     bit (d.fld dieBootPairsBusy) 2 = true ∧ ([0, 1, 2, 3].contains 2 && (wordAt [1, 1, 1] 2 == Sparse.get (always 0) [(2, (1 : W64))] 2)) = true ∧
     ([0, 1].contains 2 && true) = false ∧ sideDie 1 .hi = 3 ∧ bit ((ready.setFld dieBootPairsBusy 8).fld dieBootPairsBusy) (sideDie 1 .hi) = true) := by
  decide +kernel

theorem wit_ResetsAndBringUp_laterals :
    (let d := ((ready.setFld (widthFld 1 2 .lo) 2).setFld (widthFld 1 2 .hi) 2).carryShow 1 2
     d.on (dieLat 1 2 4 1) = true) ∧
    (let d := (ready.setFld (widthFld 1 2 .lo) 2).setFld (widthFld 1 2 .hi) 1
     d.on (dieLat 1 2 5 1) = false ∧ d.fld (widthFld 1 2 .lo) ≠ d.fld (widthFld 1 2 .hi) ∧ attemptSides 2 1 = (some 1, none) ∧
     (d.setFld (dieLat 1 2 6 2) 2).fld (dieLat 1 2 6 2) + 1 = 3 ∧ d.fld (dieLat 1 2 6 2) = 0) ∧
    (let d : Dev := { ready with pkg := { ready.pkg with hbMissed := 3, complex := [0, 2] } }
     3 ≤ d.pkg.hbMissed ∧ d.nextLead = some 2) := by decide +kernel

theorem wit_ResetsAndBringUp_counters :
    (fld64 (1 + 0x100000#64) 0 1 = 1 ∧ fld64 (1 + 0x100000#64) 1 15 = 0 ∧ fld64 (1 + 0x100000#64) 40 24 = 0 ∧ ready.on pmcSnapStatusBusy = false ∧
      (ready.setBit pmcSnapStatusBusy true).on pmcSnapStatusBusy = true) ∧
    (let d : Dev := { ready with pmc := { ready.pmc with snap := some ⟨0, 0, 1, []⟩, samp := [(9, 4096)] } }
     d.pmc.snap = some ⟨0, 0, 1, []⟩ ∧ 0 ≤ d.now 0 ∧ d.sampPeriod 0 9 ≤ Sparse.get (always 0) d.pmc.samp 9 ∧ d.fld pmcSampStatusProd < d.sampCap ∧
     (d.setFld pmcSampStatusProd 2048).sampCap ≤ (d.setFld pmcSampStatusProd 2048).fld pmcSampStatusProd) := by decide +kernel

/-! SecurityOperations -/

theorem wit_SecurityOperations :
    ready.on secBundleStatusBusy = false ∧ (ready.setBit secBundleStatusBusy true).on secBundleStatusBusy = true ∧
    (ready.sec.sessions.filter fun t => t.mailbox == 3).length < 4 ∧
    (let d : Dev := { ready with sec := { ready.sec with sessions := [⟨3, 0, true⟩, ⟨3, 1, false⟩, ⟨16, 2, true⟩, ⟨3, 4, true⟩, ⟨3, 5, true⟩],
                                                         keys := [3, 16] } }
     4 ≤ (d.sec.sessions.filter fun t => t.mailbox == 3).length ∧ d.sec.sessions.contains ⟨3, 1, false⟩ = true ∧
     d.sec.sessions.contains ⟨3, 0, false⟩ = false ∧ Dev.sessionUp d 3 0 = true ∧ Dev.sessionUp d 3 1 = false ∧ Dev.sessionUp d 16 2 = true ∧
     d.sec.keys.contains 3 = true ∧ d.sec.keys.contains 16 = true ∧ ready.sec.keys.contains 3 = false) ∧
    (ready.setBit secIdeStatusHost true).on secIdeStatusHost = true ∧ bit ((ready.setFld secIdeStatusFab 8).fld secIdeStatusFab) 3 = true ∧
    bit (ready.fld secIdeStatusFab) 3 = false ∧ Dev.cold.on dieBootReady = false := by decide +kernel

/-! PowerAndTemperatures -/

theorem wit_PowerAndTemperatures :
    (let d (w : Nat) : Dev := { ready with pwr := { ready.pwr with samples := [w] } }
     let c := 10 * ready.fld pwrCapCapW
     c = 34000 ∧ 110 * c < (d 3800000).pwr.avg 10 ∧ 100 * c < (d 3500000).pwr.avg 10 ∧ (d 3500000).pwr.avg 10 ≤ 110 * c ∧
     (d 3000000).pwr.avg 10 < 98 * c ∧ 98 * c ≤ (d 3350000).pwr.avg 10 ∧ (d 3350000).pwr.avg 10 ≤ 100 * c) ∧
    ready.fld (pwrLimitFth.nth 2) = 64 ∧ (ready.setFld (pwrLimitFth.nth 2) 1).fld (pwrLimitFth.nth 2) = 1 ∧
    (let d : Dev := { ready with car := { ready.car with stages := true } }
     d.on pwrStatusBrown = false ∧ d.car.stages = true) ∧ (ready.setBit pwrStatusBrown true).on pwrStatusBrown = true := by decide +kernel

/-! ShutdownsAndSideband -/

theorem wit_ShutdownsAndSideband :
    (let d (on : Bool) : Dev := { ready with car := { ready.car with stages := on, up := true, module := true, trip := true, addr := some 9 } }
     (d true).car.stages = true ∧ (d false).car.stages = false ∧ (d false).car.module = true ∧ (d true).car.up = true ∧ (d true).car.addr ≠ none ∧
     (d true).on dieBootReady = true ∧ ((d true).setBit dieBootReady false).on dieBootReady = false) ∧
    ¬ (Dev.cold.car.up = true ∧ Dev.cold.car.addr ≠ none) := by decide +kernel

/-! ### Ill-formed commands are refused by the check -/

/-- Source fields of a message with a level that no unit has. -/
def badSrc : Src := ⟨6, 0, 0, 0, 0⟩

/-- What a bring-up finds, with `caps` for its bitmaps. -/
def found (caps : List W64) (cores : List Nat) : BringUp :=
  { fuseBad := false, caps, steps := List.replicate 8 0, trained := [0, 1, 2, 3], complexes := [], cores, clusters := [], dies := [], ms := 0 }

theorem test_wf_body : (Instr.identify { q := 0, cid := 0, quiet := false, body := [] }).wf = false := by decide
theorem test_wf_body_ok : (Instr.identify (ent [])).wf = true := by decide
theorem test_wf_unit : (Instr.unitLullPause ⟨.port, 16⟩).wf = false := by decide
theorem test_wf_unit_ok : (Instr.unitLullPause ⟨.port, 15⟩).wf = true := by decide
theorem test_wf_source : (Instr.squall badSrc 0x17).wf = false := by decide
theorem test_wf_source_ok : (Instr.squall ⟨5, 3, 7, 15, 7⟩ 0x17).wf = true := by decide
theorem test_wf_bitmaps : (Instr.commandReady none (found [] [])).wf = false := by decide
theorem test_wf_cores : (Instr.commandReady none (found (List.replicate 8 0) [512])).wf = false := by decide
theorem test_wf_bring_up_ok : (Instr.commandReady none (found (List.replicate 8 0) [511])).wf = true := by decide
theorem test_wf_request_cycle : (Instr.preemptionRequest 0 24).wf = false := by decide
theorem test_wf_yield_cycle : (Instr.breezeYield (.core 0) 24 0).wf = false := by decide
theorem test_wf_yield_cycle_ok : (Instr.breezeYield (.core 0) 23 0).wf = true := by decide
theorem test_wf_faulty_unit : (Instr.computeDieFence (.base badSrc)).wf = false := by decide
theorem test_wf_link_width : (Instr.hostLinkUp 5 0 false).wf = false := by decide
theorem test_wf_link_rate : (Instr.hostLinkUp 16 3 false).wf = false := by decide
theorem test_wf_restore_body : (Instr.peerRestore ⟨{ q := 0, cid := 0, quiet := false, body := [] }, []⟩).wf = false := by decide
theorem test_wf_line : (Instr.hdmWrite 0 []).wf = false := by decide
theorem test_wf_doorbells : (Instr.doorbellLineRead 0 [0]).wf = false := by decide
theorem test_wf_window_data : (Instr.cxlWindowCompletion 0 [] true).wf = false := by decide
theorem test_wf_vote_package : (Instr.stepClose (.finish [⟨8192, List.replicate 32 0, []⟩])).wf = false := by decide
theorem test_wf_vote_digest : (Instr.stepClose (.finish [⟨8191, [], []⟩])).wf = false := by decide
theorem test_wf_admitted_unit : (Instr.replicaAdmission ⟨[8192], 0, 0, 0, []⟩).wf = false := by decide
theorem test_wf_admitted_source : (Instr.replicaAdmission ⟨[], 8192, 0, 0, []⟩).wf = false := by decide
theorem test_wf_queued_entry : (Instr.collectiveEntry (.queued 1 ⟨0, 0, false, []⟩)).wf = false := by decide
theorem test_wf_expelled_unit : (Instr.replicaExpel (ent []) [8192]).wf = false := by decide
theorem test_wf_notice_unit : (Instr.noticeReceive 0 [8192] false).wf = false := by decide
theorem test_wf_lost_unit : (Instr.packageLost 0 [8192] false).wf = false := by decide

/-! ### Worked examples of the spec: the expected numbers are its own -/

/-- R384: the check of the nine bytes of "123456789". -/
theorem test_crc : crc64 [0x31, 0x32, 0x33, 0x34, 0x35, 0x36, 0x37, 0x38, 0x39] = 0x6C40DF5F0B497347 := by
  set_option maxRecDepth 100000 in decide

/-- Chapter 3: byte 200 of stored row 37 of the tile at 0x0004_0000. -/
theorem test_skew : skewAddr 0x40000 37 200 = 0x42518 := by decide

/-- An MMT over E4M3 operands. -/
def laneMmt : Mmt :=
  { eng := 0, base := 0, af := 0, wf := 0, rows := 1, kc := 1, col := false, coff := 0, half := 0, init := false, wbuf := 0, sp := false,
    rm := none, oc := none, bm := false, lg := false, tp := 0, sc := 0 }

/-- Chapter 3: the lane step 2²⁴ − 137.25. -/
theorem test_lane_step :
    laneMmt.addChunk 0x4B800000 (0x3C :: 0xC0 :: 0x2A :: List.replicate 13 0) 127 127
      ((0, 0x44) :: (1, 0x36) :: (2, 0xFE) :: (List.range 13).map fun i => (i + 3, 0x38)) = 0x4B7FFF77 := by decide

/-- Chapter 2: two conversions whose ties go to the even integer. -/
theorem test_ties : [rneInt 51781 (-2), rneInt (-6001) (-1), rneInt 32769 (-1), rneInt 18001 (-1), rneInt (-1) (-1)] =
    [12945, -3000, 16384, 9000, 0] := by decide

/-- Chapter 2: the narrowing at s8 = 0x79. -/
theorem test_narrow :
    narrow ⟨0x6B, 20156 :: -6000 :: 25384 :: List.replicate 29 0, 0⟩ 0x79 =
      ((BitVec.ofInt 8 79 :: BitVec.ofInt 8 (-23) :: BitVec.ofInt 8 99 :: List.replicate 29 0, 0x79),
        ⟨0x6B, -68 :: -112 :: 40 :: List.replicate 29 0, 0⟩) := by decide

/-- Chapter 13: the rescaled residual 100 at code 0x6E and the residual that narrowing leaves. -/
theorem test_residual :
    (narrow (withResidual ⟨0x6F, 9870 :: List.replicate 31 0, 0⟩ ⟨0x6E, 100 :: List.replicate 31 0, 0⟩) 0x7D).2 =
      ⟨0x6F, -64 :: List.replicate 31 0, 0⟩ := by decide

/-- Chapter 8: the place of physical address 0x80_1234_5678 with I = 8. -/
theorem test_stack : Dev.cold.stackAddr 0x8012345678 = some (9, 0x48D1678) := by decide
theorem test_pseudo_channel : pcOf 0x48D1678 = 52 ∧ pcAddr 0x48D1678 = 0x121678 := by decide

/-- The hyper-parameters of the example of chapter 7, as the update reads them. -/
def adam : Hyp :=
  hypOf [4] ([0x39800000, 0x3F600000, 0x3E000000, 0x3F7FC000, 0x3A800000, 0x30800000, 0x3D800000, 0, 0x3F800000].flatMap (natLe 4)) 0 0

theorem test_adam_scalars : [adam.rbc1, adam.rbc2, adam.dk] = [0x41000000, 0x44800000, 0x3F7FFF00] := by decide
theorem test_adam_gradient : gradOf adam (some one32) 128 0x71 = 0x3C000000 := by decide
theorem test_adam_step : applyRule 4 adam 0x3C000000 id id ⟨0x3FC00000, 0, 0, 0⟩ =
    ⟨0x3FBFF740, 0x3A800000, 0x33800000, 0⟩ := by
  set_option maxRecDepth 100000 in set_option exponentiation.threshold 1000 in decide
theorem test_working_copy : (workingCopy 0 [0x3FBFF740]).1 = [0x3C] := by decide
theorem test_norm_term : normTerm 0x6F 0x71 128 = (262144, false) := by decide

/-- Chapter 4: VRED.SUM over 260 elements, 2²⁴ at element 1 and 1.0 elsewhere. -/
theorem test_sum_order :
    redValue 0 0xA (List.range 260) (fun e => if e = 1 then 0x4B800000 else 0x3F800000) = some 0x4B800081 := by
  set_option maxRecDepth 100000 in decide

end Sys2Proof.Tests
end

section
/-! SUPPORT. The state after a cold reset (O3, O8). -/

open Sys2Proof Sys2Proof.Machine

/-- Settles O3: every map of the reset state is empty, so each cell reads as what an unlisted one reads as. -/
theorem resetState : Obligations.ResetState := by
  unfold Obligations.ResetState
  have noJob : State.reset.dev.jobState = 0 := by decide +kernel
  have notReady : State.reset.dev.on dieBootReady = false := by decide +kernel
  exact ⟨rfl, fun _ => rfl, fun _ => rfl, rfl, fun _ _ => ⟨rfl, rfl⟩, fun _ _ => ⟨rfl, rfl, rfl⟩, fun _ => rfl, fun _ => rfl, fun _ => rfl,
    notReady, noJob⟩

/-- Settles O8: a register reads its reset value, which named fields cover. -/
theorem resetHasInv : Obligations.ResetHasInv := by
  have reserved : ReservedZero State.reset.dev := fun o => by
    show regReset o &&& ~~~fieldBits o = 0
    rw [← regReset_covered o, BitVec.and_assoc, BitVec.and_not_self]
    exact BitVec.and_zero
  exact ⟨reserved, rfl⟩
end

section
/-! SUPPORT. What a register write can do: masks of a register, and the registers that only act (R7, R278). -/

namespace Sys2Proof.Machine

/-! ### Masks of a register -/

/-- A mask of access codes that no field has is empty. -/
theorem RegDesc.mask_eq_zero (r : RegDesc) (p : Access → Bool) (h : ∀ f ∈ r.fields, p f.access = false) : r.mask p = 0 := by
  unfold RegDesc.mask
  generalize r.fields = fs at h
  induction fs with
  | nil => rfl
  | cons f fs ih =>
    rw [List.foldl_cons, h f (by simp)]
    exact ih fun g hg => h g (by simp [hg])

/-- A word without a bit outside a mask lies within it. -/
theorem and_eq_self_of_and_not {w m : W64} (h : w &&& ~~~m = 0) : w &&& m = w := by
  apply BitVec.eq_of_getLsbD_eq
  intro i hi
  have hb := congrArg (fun x => x.getLsbD i) h
  simp only [BitVec.getLsbD_and, BitVec.getLsbD_not, hi, decide_true, Bool.true_and] at hb ⊢
  cases hm : m.getLsbD i
  · simpa [hm] using hb.symm
  · exact Bool.and_true _

theorem fieldBits_of_regAt {o : Nat} {r : RegDesc} (h : regAt o = some r) : fieldBits o = r.mask fun _ => true := by
  simp [fieldBits, h]

theorem reserved_of_regAt {o : Nat} {r : RegDesc} (h : regAt o = some r) : r.reserved = ~~~fieldBits o := by
  simp [RegDesc.reserved, fieldBits_of_regAt h]

/-! ### Staging and the act of a write -/

variable (s : Dev)

@[simp] theorem Dev.stage_zero (off : Nat) (v : W64) : s.stage off 0#64 v = s := by simp [Dev.stage]

/-- At `o`, outside the context of the selected queue, stands a register of write-only fields: a write to it stores nothing and only acts
(R7). -/
def onlyActs (o : Nat) : Bool :=
  o % 8 == 0 && !(decide (0x2040 ≤ o) && decide (o < 0x2080)) &&
  match regAt o with
  | some r => !r.fields.isEmpty && r.fields.all fun f => f.access == .wo
  | none => false

theorem Dev.writeReg_of_wo (r : RegDesc) (base off : Nat) (m v : W64) (host : List Byte) (hne : r.fields ≠ [])
    (hwo : ∀ f ∈ r.fields, f.access = .wo) (hres : v &&& r.reserved = 0) :
    s.writeReg r base off m v host = s.actOn base (v &&& m) host := by
  have hm : ∀ p : Access → Bool, p .wo = false → r.mask p = 0 := fun p hp =>
    r.mask_eq_zero p fun f hf => by rw [hwo f hf]; exact hp
  have hw : r.writable = true := by
    obtain ⟨f, l, hl⟩ := List.exists_cons_of_ne_nil hne
    have := hwo f (by simp [hl])
    simp [RegDesc.writable, hl, this]
  have hv : v &&& m &&& r.reserved = 0 := by
    rw [BitVec.and_assoc, BitVec.and_comm m, ← BitVec.and_assoc, hres]; simp
  have hk : v &&& m &&& ~~~r.reserved = v &&& m := and_eq_self_of_and_not (by rwa [BitVec.not_not])
  simp [Dev.writeReg, hw, hv, hm, hk]

theorem State.run_congr (s : State) {f g : Dev → Dev} (h : f s.dev = g s.dev) : s.run f = s.run g := by
  simp only [State.run, h]

/-- A served, aligned write to a register outside the queue context is the write that this register takes. -/
theorem Dev.regWriteEffect_of_regAt (off size : Nat) (data : W64) (session : Option Nat) (host : List Byte) (r : RegDesc)
    (hs : s.hostServes session = true) (hsz : size = 4 ∨ size = 8) (ha : off % size = 0) (hr : regAt (off / 8 * 8) = some r)
    (hq : ¬(0x2040 ≤ off / 8 * 8 ∧ off / 8 * 8 < 0x2080)) :
    regWriteEffect off size data session host s =
      s.writeReg r (off / 8 * 8) off (coverMask off size) (if off % 8 = 4 then data <<< 32 else data) host := by
  have h1 : ¬(0x2040 ≤ off / 8 * 8 ∧ off / 8 * 8 < 0x2060) := by omega
  have h2 : ¬(0x2060 ≤ off / 8 * 8 ∧ off / 8 * 8 < 0x2080) := by omega
  simp [regWriteEffect, hs, hsz, ha, hr, h1, h2]

/-- A whole write without a reserved bit to a register of write-only fields does what the register acts (R7, R278). -/
theorem exec_registerWrite_acts (s : State) (off : BitVec 16) (v : W64) (session : Option Nat) (host : List Byte)
    (hs : s.dev.hostServes session = true) (hr : onlyActs off.toNat = true) (hv : v &&& ~~~fieldBits off.toNat = 0) :
    exec (.registerWrite off 8 v session host) s = s.run fun d => d.actOn off.toNat v host := by
  simp only [onlyActs, Bool.and_eq_true, beq_iff_eq, Bool.not_eq_true', Bool.and_eq_false_iff, decide_eq_false_iff_not] at hr
  obtain ⟨⟨ha, hc⟩, hr⟩ := hr
  split at hr
  case h_2 => cases hr
  case h_1 r hreg =>
    simp only [Bool.and_eq_true, Bool.not_eq_true', List.isEmpty_eq_false_iff, List.all_eq_true, beq_iff_eq] at hr
    obtain ⟨hne, hwo⟩ := hr
    rw [← reserved_of_regAt hreg] at hv
    have hb : off.toNat / 8 * 8 = off.toNat := by omega
    have hwhole : ¬off.toNat % 8 = 4 := by omega
    refine s.run_congr ?_
    rw [s.dev.regWriteEffect_of_regAt _ 8 v session host r hs (.inr rfl) ha (by rwa [hb]) (by omega), if_neg hwhole, hb,
      s.dev.writeReg_of_wo r _ _ _ v host hne hwo hv, coverMask, if_pos rfl, BitVec.and_allOnes]

end Sys2Proof.Machine
end

section
/-! SUPPORT. Writes to the registers that act: the command words of SEC_BUNDLE_CTL and DIE_RESET, and O13. -/

namespace Sys2Proof.Machine

/-! ### A command word: a kind in bits [2:0] and a number above it -/

section
variable {k x : W64} {lo n : Nat} (hk : k.toNat < 8) (hlo : 3 ≤ lo) (hx : x.toNat < 2 ^ n) (hn : lo + n ≤ 64)
include hk hlo hx hn

theorem kindWord_toNat : (k + x <<< lo).toNat = k.toNat + x.toNat * 2 ^ lo := by
  have h8 : (8 : Nat) ≤ 2 ^ lo := Nat.pow_le_pow_right (n := 2) (by omega) hlo
  have hle : (x.toNat + 1) * 2 ^ lo ≤ 2 ^ 64 := calc
    (x.toNat + 1) * 2 ^ lo ≤ 2 ^ n * 2 ^ lo := Nat.mul_le_mul_right _ hx
    _ = 2 ^ (lo + n) := by rw [← Nat.pow_add, Nat.add_comm]
    _ ≤ 2 ^ 64 := Nat.pow_le_pow_right (by omega) hn
  rw [Nat.succ_mul] at hle
  rw [BitVec.toNat_add, BitVec.toNat_shiftLeft, Nat.shiftLeft_eq, Nat.mod_eq_of_lt (a := x.toNat * 2 ^ lo) (by omega)]
  exact Nat.mod_eq_of_lt (by omega)

theorem fld64_kindWord_kind : fld64 (k + x <<< lo) 0 3 = k.toNat := by
  obtain ⟨j, rfl⟩ := Nat.exists_eq_add_of_le hlo
  rw [fld64, bits, kindWord_toNat hk hlo hx hn, Nat.pow_add]
  have : x.toNat * (2 ^ 3 * 2 ^ j) = 8 * (x.toNat * 2 ^ j) := by ring
  omega

theorem fld64_kindWord_number : fld64 (k + x <<< lo) lo n = x.toNat := by
  have h8 : (8 : Nat) ≤ 2 ^ lo := Nat.pow_le_pow_right (n := 2) (by omega) hlo
  rw [fld64, bits, kindWord_toNat hk hlo hx hn, Nat.add_mul_div_right _ _ (by omega), Nat.div_eq_of_lt (by omega), Nat.zero_add,
    Nat.mod_eq_of_lt hx]

/-- The word holds no bit beside its two fields. -/
theorem kindWord_covered : (k + x <<< lo) &&& ~~~(bitMask 0 3 ||| bitMask lo n) = 0 := by
  have h8 : (2 : Nat) ^ 3 ≤ 2 ^ lo := Nat.pow_le_pow_right (n := 2) (by omega) hlo
  have hor : (k + x <<< lo).toNat = x.toNat <<< lo ||| k.toNat := by
    rw [kindWord_toNat hk hlo hx hn, ← Nat.shiftLeft_add_eq_or_of_lt (by omega), Nat.shiftLeft_eq, Nat.add_comm]
  apply BitVec.eq_of_getLsbD_eq
  intro i hi
  have hki : k.toNat.testBit i = true → i < 3 := fun h => by
    by_contra hge
    rw [Nat.testBit_lt_two_pow (Nat.lt_of_lt_of_le (m := 2 ^ 3) (by omega) (Nat.pow_le_pow_right (by omega) (by omega)))] at h
    cases h
  have hxi : x.toNat.testBit (i - lo) = true → i < lo + n := fun h => by
    by_contra hge
    rw [Nat.testBit_lt_two_pow (Nat.lt_of_lt_of_le hx (Nat.pow_le_pow_right (by omega) (by omega)))] at h
    cases h
  have hb : (k + x <<< lo).getLsbD i = (decide (lo ≤ i) && x.toNat.testBit (i - lo) || k.toNat.testBit i) := by
    rw [BitVec.getLsbD, hor, Nat.testBit_or, Nat.testBit_shiftLeft]
  simp only [BitVec.getLsbD_and, BitVec.getLsbD_not, BitVec.getLsbD_or, bitMask_get, hb]
  grind

end

/-! ### The registers that act on a write -/

theorem fieldBits_secBundleCtl : fieldBits 0xA018 = bitMask 0 3 ||| bitMask 16 32 := by decide +kernel
theorem fieldBits_dieReset : fieldBits 0xC030 = bitMask 0 3 ||| bitMask 4 9 := by decide +kernel

/-- A snapshot word without a reserved bit is no violation (R278). -/
theorem snapshotEffect_of_covered (d : Dev) (w : W64) (h : w &&& ~~~fieldBits 0x9018 = 0) : snapshotEffect w d = d.takeSnapshot w := by
  have hw : w &&& fieldBits 0x9018 = w := and_eq_self_of_and_not h
  have hf : fieldBits 0x9018 = bitMask 0 1 ||| bitMask 16 24 := by decide +kernel
  have clean : ∀ lo n, (∀ i, i < n → (fieldBits 0x9018).getLsbD (lo + i) = false) → fld64 w lo n = 0 := by
    intro lo n hz
    have : w.extractLsb' lo n = 0 := by
      apply BitVec.eq_of_getLsbD_eq
      intro i hi
      rw [← hw]
      simp [hz i hi]
    rw [fld64_eq, this]; simp
  have h1 : fld64 w 1 15 = 0 := clean 1 15 fun i hi => by
    rw [hf, BitVec.getLsbD_or, bitMask_get, bitMask_get]; simp; omega
  have h2 : fld64 w 40 24 = 0 := clean 40 24 fun i hi => by
    rw [hf, BitVec.getLsbD_or, bitMask_get, bitMask_get]; simp
  simp [snapshotEffect, h1, h2]

/-- A whole write of a command word to SEC_BUNDLE_CTL or DIE_RESET acts on it: no reserved bit is set. -/
theorem exec_registerWrite_kindWord (s : State) (off : BitVec 16) (k x : W64) (lo n : Nat) (session : Option Nat) (host : List Byte)
    (hs : s.dev.hostServes session = true) (hr : onlyActs off.toNat = true) (hf : fieldBits off.toNat = bitMask 0 3 ||| bitMask lo n)
    (hk : k.toNat < 8) (hlo : 3 ≤ lo) (hx : x.toNat < 2 ^ n) (hn : lo + n ≤ 64) :
    exec (.registerWrite off 8 (k + x <<< lo) session host) s = s.run fun d => d.actOn off.toNat (k + x <<< lo) host :=
  exec_registerWrite_acts s off _ session host hs hr (by rw [hf]; exact kindWord_covered hk hlo hx hn)

/-- A kind and a length written to SEC_BUNDLE_CTL (R510). -/
theorem exec_bundleWord (s : State) (k : W64) (len : W32) (session : Option Nat) (host : List Byte) (f : Dev → Dev)
    (hs : s.dev.hostServes session = true) (hk : k.toNat < 8)
    (hf : ∀ w, fld64 w 0 3 = k.toNat → fld64 w 16 32 = len.toNat → bundleWrite w host s.dev = f s.dev) :
    exec (.registerWrite 0xA018 8 (k + len.setWidth 64 <<< 16) session host) s = s.run f := by
  have hx : (len.setWidth 64).toNat < 2 ^ 32 := by simp; omega
  refine (exec_registerWrite_kindWord s 0xA018 k _ 16 32 session host hs (by decide +kernel)
    fieldBits_secBundleCtl hk (by omega) hx (by omega)).trans (s.run_congr (hf _ ?_ ?_))
  · exact fld64_kindWord_kind hk (by omega) hx (by omega)
  · rw [fld64_kindWord_number hk (by omega) hx (by omega)]; simp; omega

/-- A kind and a number written to DIE_RESET (R491). -/
theorem exec_resetWord (s : State) (k : W64) (n : Nat) (session : Option Nat) (host : List Byte) (f : Dev → Dev)
    (hs : s.dev.hostServes session = true) (hk : k.toNat < 8) (hn : n < 512)
    (hf : ∀ w, fld64 w 0 3 = k.toNat → fld64 w 4 9 = n → dieResetWrite w s.dev = f s.dev) :
    exec (.registerWrite 0xC030 8 (k + BitVec.ofNat 64 n <<< 4) session host) s = s.run f := by
  have hx : (BitVec.ofNat 64 n).toNat = n := by simp; omega
  refine (exec_registerWrite_kindWord s 0xC030 k _ 4 9 session host hs (by decide +kernel)
    fieldBits_dieReset hk (by omega) (by omega) (by omega)).trans (s.run_congr (hf _ ?_ ?_))
  · exact fld64_kindWord_kind hk (n := 9) (by omega) (by omega) (by omega)
  · rw [fld64_kindWord_number hk (by omega) (by omega) (by omega), hx]

end Sys2Proof.Machine

open Sys2Proof Sys2Proof.Machine

/-- Settles O13: each register named has write-only fields alone, so a whole write without a reserved bit is only what the register acts
(`exec_registerWrite_acts`); the kind and the number of a command word are read back from it. -/
theorem registerWriteActs : Obligations.RegisterWriteActs := by
  unfold Obligations.RegisterWriteActs
  intro s session host w len d c hs wr
  have acts := fun off v => exec_registerWrite_acts s off v session host hs
  have bundle := fun k => exec_bundleWord s k len session host
  have reset := fun k n => exec_resetWord s k n session host
  refine ⟨?_, ?_, ?_, ?_, ?_, ?_, ?_, ?_, ?_, ?_, ?_, ?_, ?_, ?_, ?_, ?_⟩
  · exact acts 0x10 1 (by decide +kernel) (by decide +kernel)
  · exact acts 0x2008 1 (by decide +kernel) (by decide +kernel)
  · exact acts 0x2008 2 (by decide +kernel) (by decide +kernel)
  · exact acts 0x2008 3 (by decide +kernel) (by decide +kernel)
  · exact acts 0x3010 w (by decide +kernel)
  · exact fun hw => (acts 0x9018 w (by decide +kernel) hw).trans
      (s.run_congr (snapshotEffect_of_covered s.dev w hw).symm)
  · exact acts 0x4018 1 (by decide +kernel) (by decide +kernel)
  · exact acts 0x4018 2 (by decide +kernel) (by decide +kernel)
  · exact acts 0xA018 3 (by decide +kernel) (by decide +kernel)
  · exact acts 0xA018 4 (by decide +kernel) (by decide +kernel)
  · exact bundle 1 _ hs (by decide) fun v hk hl => by simp [bundleWrite, hk, hl]
  · exact bundle 2 _ hs (by decide) fun v hk hl => by simp [bundleWrite, hk, hl]
  · exact bundle 5 _ hs (by decide) fun v hk hl => by simp [bundleWrite, hk, hl]
  · exact acts 0xC030 1 (by decide +kernel) (by decide +kernel)
  · exact reset 2 d _ hs (by decide) (by omega) fun v hk hn => by simp [dieResetWrite, hk, hn]
  · exact reset 4 c _ hs (by decide) (by omega) fun v hk hn => by simp [dieResetWrite, hk, hn]
end

section
/-! SUPPORT. Writes to the registers that store: noted, put and cleared, staged, and O11 (R7, R277, R278). -/

namespace Sys2Proof.Machine

variable (s : Dev)

/-! ### The parts of a register write (R7, R278) -/

/-- A set reserved bit in what is written is a violation (R278). -/
def Dev.noteReserved (s : Dev) (off : Nat) (x : W64) : Dev := if x ≠ 0 then s.violation off true else s

/-- The bits `rw` take those of `v`, the bits `clr` are cleared (R7). -/
def Dev.putClear (s : Dev) (base : Nat) (rw clr v : W64) : Dev :=
  if rw ||| clr = 0 then s else s.setReg base (((s.reg base &&& ~~~rw) ||| (v &&& rw)) &&& ~~~clr)

/-- A register that does not act on a write stores it: noted, put and cleared, staged. -/
theorem Dev.writeReg_eq_parts (r : RegDesc) (base off : Nat) (m v : W64) (host : List Byte) (hw : r.writable = true)
    (hb : base ∉ [0x10, 0x2008, 0x3010, 0x4018, 0x5038, 0x6018, 0x9018, 0xA018, 0xC030]) :
    s.writeReg r base off m v host =
      ((s.noteReserved off (v &&& m &&& r.reserved)).putClear base (m &&& r.mask (· == .rw)) (v &&& m &&& r.mask (· == .w1c)) v).stage
        base (m &&& r.mask (· == .staged)) v := by
  have hact : ∀ (d : Dev) w, d.actOn base w host = d := by
    intro d w
    unfold Dev.actOn
    split <;> simp_all
  simp [Dev.writeReg, hw, hact, Dev.noteReserved, Dev.putClear]

/-! A violation changes HIF_VIOL alone. -/
theorem Dev.violation_reg_other (off : Nat) (wr : Bool) {p : Nat} (hp : p ≠ hifViolCount.off) : (s.violation off wr).reg p = s.reg p := by
  simp only [hifViolCount] at hp
  simp [Dev.violation, Dev.addFld, Dev.setBit, Dev.setFld, hifViolCount, hifViolLastOff, hifViolLastWr, hp]

theorem Dev.violation_count (off : Nat) (wr : Bool) :
    (s.violation off wr).fld hifViolCount = (s.fld hifViolCount + 1) % 2 ^ 32 := by
  unfold Dev.violation Dev.setBit Dev.addFld
  rw [Dev.fld_setFld_other _ _ _ _ (by decide), Dev.fld_setFld_other _ _ _ _ (by decide), Dev.fld_setFld_same _ _ _ (by decide)]
  rfl

theorem Dev.noteReserved_eq (off : Nat) (x : W64) :
    s.noteReserved off x = { s with regs := { s.regs with act := (s.noteReserved off x).regs.act } } := by
  unfold Dev.noteReserved; split <;> rfl

theorem Dev.noteReserved_reg_other (off : Nat) (x : W64) {p : Nat} (hp : p ≠ hifViolCount.off) :
    (s.noteReserved off x).reg p = s.reg p := by
  unfold Dev.noteReserved
  split
  · exact s.violation_reg_other off true hp
  · rfl

theorem Dev.noteReserved_count (off : Nat) (x : W64) :
    (s.noteReserved off x).fld hifViolCount = (s.fld hifViolCount + b2n (x != 0)) % 2 ^ 32 := by
  unfold Dev.noteReserved
  split
  next h => rw [Dev.violation_count, bne_iff_ne.mpr h]; rfl
  next h =>
    have : s.fld hifViolCount < 2 ^ 32 := Nat.mod_lt _ (by decide)
    simp only [not_not] at h
    rw [h]; exact (Nat.mod_eq_of_lt this).symm

theorem Dev.putClear_eq (base : Nat) (rw clr v : W64) :
    s.putClear base rw clr v = { s with regs := { s.regs with act := (s.putClear base rw clr v).regs.act } } := by
  unfold Dev.putClear; split <;> rfl

theorem and_not_zero (w : W64) : w &&& ~~~0#64 = w := by rw [BitVec.not_zero, BitVec.and_allOnes]

/-- Putting no bits of a value leaves a word as it is. -/
theorem put_no_bits (w v : W64) : (w &&& ~~~0#64) ||| (v &&& 0#64) = w := by rw [and_not_zero, BitVec.and_zero, BitVec.or_zero]

theorem Dev.putClear_reg (base : Nat) (rw clr v : W64) (p : Nat) :
    (s.putClear base rw clr v).reg p = if p = base then ((s.reg base &&& ~~~rw) ||| (v &&& rw)) &&& ~~~clr else s.reg p := by
  unfold Dev.putClear
  split
  next h =>
    obtain ⟨rfl, rfl⟩ := BitVec.or_eq_zero_iff.mp h
    split
    next hp => rw [hp]; exact ((and_not_zero _).trans (put_no_bits _ v)).symm
    next => rfl
  next => exact s.reg_setReg base p _

/-! Staging changes the staged words alone (R277). -/
theorem Dev.stage_eq (off : Nat) (m v : W64) :
    s.stage off m v = { s with regs := { s.regs with stg := (s.stage off m v).regs.stg, stgBits := (s.stage off m v).regs.stgBits } } := by
  unfold Dev.stage; split <;> rfl

@[simp] theorem Dev.stage_reg (off : Nat) (m v : W64) (p : Nat) : (s.stage off m v).reg p = s.reg p := by
  rw [Dev.stage_eq]; rfl

theorem Dev.stage_stg_same (off : Nat) (m v : W64) :
    Sparse.get (always 0) (s.stage off m v).regs.stg off = (Sparse.get (always 0) s.regs.stg off &&& ~~~m) ||| (v &&& m) := by
  unfold Dev.stage
  split
  next h => rw [h]; exact (put_no_bits _ v).symm
  next => exact Sparse.get_set_same _ _ _ _

theorem Dev.stage_stgBits_same (off : Nat) (m v : W64) :
    Sparse.get (always 0) (s.stage off m v).regs.stgBits off = Sparse.get (always 0) s.regs.stgBits off ||| m := by
  unfold Dev.stage
  split
  next h => simp [h]
  next => exact Sparse.get_set_same _ _ _ _

/-- Of a device whose register file changed in the active and staged words, what follows. -/
theorem Dev.wired_of_words {t : Dev}
    (h : t = { s with regs := { s.regs with act := t.regs.act, stg := t.regs.stg, stgBits := t.regs.stgBits } }) :
    s.wired t = { s with regs := (s.wired t).regs, sec := (s.wired t).sec } ∧
    (s.wired t).regs = { s.regs with act := (s.wired t).regs.act, stg := t.regs.stg, stgBits := t.regs.stgBits } := by
  rw [h]; exact ⟨rfl, rfl⟩

/-- Noting, putting and staging change the active and staged words alone. -/
theorem Dev.stores_eq (off base : Nat) (x rw clr m v : W64) :
    let t := ((s.noteReserved off x).putClear base rw clr v).stage base m v
    t = { s with regs := { s.regs with act := t.regs.act, stg := t.regs.stg, stgBits := t.regs.stgBits } } := by
  intro t
  have ht : t = ((s.noteReserved off x).putClear base rw clr v).stage base m v := rfl
  clear_value t
  rw [Dev.stage_eq, Dev.putClear_eq, Dev.noteReserved_eq] at ht
  rw [ht]

/-- HIF_VIOL has no field that a write can act on. -/
theorem ne_hifViol_of_writable {o : Nat} {r : RegDesc} (h : regAt o = some r) (hw : r.writable = true) : o ≠ hifViolCount.off := by
  rintro rfl
  have : (regAt hifViolCount.off).any (·.writable) = false := by decide +kernel
  simp [h, hw] at this

/-- An aligned write of 4 or 8 bytes to a register that does not act on it stores what it covers. -/
theorem exec_registerWrite_stores (s : State) (off : BitVec 16) (size : Nat) (data : W64) (session : Option Nat) (host : List Byte)
    (r : RegDesc) (hs : s.dev.hostServes session = true) (hsz : size = 4 ∨ size = 8) (ha : off.toNat % size = 0)
    (hr : regAt (off.toNat / 8 * 8) = some r) (hw : r.writable = true)
    (hb : off.toNat / 8 * 8 ∉ [0x10, 0x2008, 0x3010, 0x4018, 0x5038, 0x6018, 0x9018, 0xA018, 0xC030])
    (hq : ¬(0x2040 ≤ off.toNat / 8 * 8 ∧ off.toNat / 8 * 8 < 0x2080)) :
    let m := coverMask off.toNat size
    let v := if off.toNat % 8 = 4 then data <<< 32 else data
    exec (.registerWrite off size data session host) s = s.run fun d =>
      ((d.noteReserved off.toNat (v &&& m &&& r.reserved)).putClear (off.toNat / 8 * 8) (m &&& r.mask (· == .rw))
        (v &&& m &&& r.mask (· == .w1c)) v).stage (off.toNat / 8 * 8) (m &&& r.mask (· == .staged)) v := by
  intro m v
  refine s.run_congr ?_
  rw [← s.dev.writeReg_eq_parts r _ off.toNat m v host hw hb]
  exact s.dev.regWriteEffect_of_regAt _ size data session host r hs hsz ha hr hq

end Sys2Proof.Machine

open Sys2Proof Sys2Proof.Machine

/-- Settles O11: the write is a violation note, a put and a clear, and a staging, each of which says what it leaves alone. -/
theorem registerWriteSetsFields : Obligations.RegisterWriteSetsFields := by
  unfold Obligations.RegisterWriteSetsFields
  intro s off size data session host r hs hsz ha hr hw hb hq o m v rw st
  have hv : o ≠ hifViolCount.off := ne_hifViol_of_writable hr hw
  refine ⟨_, exec_registerWrite_stores s off size data session host r hs hsz ha hr hw hb hq, ?_⟩
  have other := fun x q (hq : q ≠ hifViolCount.off) => s.dev.noteReserved_reg_other off.toNat x hq
  refine ⟨?_, ?_, ?_, ?_, ?_, ?_, ?_⟩
  · rw [Dev.wired_reg, Dev.stage_reg, Dev.putClear_reg, if_pos rfl, other _ _ hv]
  · rw [Dev.wired_regs_stg, Dev.stage_stg_same, Dev.putClear_eq, Dev.noteReserved_eq]
  · rw [Dev.wired_regs_stgBits, Dev.stage_stgBits_same, Dev.putClear_eq, Dev.noteReserved_eq]
  · intro q hqo hqv
    rw [Dev.wired_reg, Dev.stage_reg, Dev.putClear_reg, if_neg hqo, other _ _ hqv]
  · rw [Dev.wired_fld _ _ _ (by decide +kernel), Dev.fld, Dev.stage_reg, Dev.putClear_reg, if_neg (Ne.symm hv)]
    exact s.dev.noteReserved_count _ _
  · exact (s.dev.wired_of_words (s.dev.stores_eq _ _ _ _ _ _ _)).1
  · exact (s.dev.wired_of_words (s.dev.stores_eq _ _ _ _ _ _ _)).2
end

section
/-! SUPPORT. The device lull: what activation, the end of a commit and the transport's next try change, and O15 (R7, R23, R280). -/

namespace Sys2Proof.Machine

/-! ### What a device lull does not touch: registers, the job and the gusts that wait (R23) -/

/-- The register file, the job, the unacknowledged gusts and those that wait. -/
def Dev.steady (s : Dev) := (s.regs, s.job, s.fab.sent, s.fab.relays, s.fab.queue)

theorem Dev.steady_eq_iff {a b : Dev} : a.steady = b.steady ↔
    a.regs = b.regs ∧ a.job = b.job ∧ a.fab.sent = b.fab.sent ∧ a.fab.relays = b.fab.relays ∧ a.fab.queue = b.fab.queue := by
  simp [Dev.steady]

theorem Dev.regs_of_steady {a b : Dev} (h : a.steady = b.steady) : a.regs = b.regs := (Dev.steady_eq_iff.mp h).1

/-- What no step of a fold changes the fold does not change. -/
theorem foldl_keeps {α β : Type} (g : Dev → β) (f : Dev → α → Dev) (l : List α) (h : ∀ d, ∀ x ∈ l, g (f d x) = g d) :
    ∀ d, g (l.foldl f d) = g d := by
  induction l with
  | nil => intro d; rfl
  | cons x l ih => intro d; rw [List.foldl_cons, ih fun d y hy => h d y (by simp [hy]), h d x (by simp)]

variable (s : Dev)

theorem Dev.reg_of_regs {a b : Dev} (h : a.regs = b.regs) (o : Nat) : a.reg o = b.reg o := by rw [Dev.reg, Dev.reg, h]

@[simp] theorem Dev.count_steady (b e k : Nat) : (s.count b e k).steady = s.steady := by
  unfold Dev.count; split <;> rfl

@[simp] theorem Dev.detectN_steady (src : Src) (kind cls count arg : Nat) : (s.detectN src kind cls count arg).steady = s.steady := by
  unfold Dev.detectN
  split
  · rfl
  · dsimp only
    split
    · split <;> rfl
    · rfl

@[simp] theorem Dev.sendHostFor_steady (q : Option Nat) (o : Output) : (s.sendHostFor q o).steady = s.steady := by
  unfold Dev.sendHostFor; split <;> rfl

@[simp] theorem Dev.msix_steady (v : Nat) : (s.msix v).steady = s.steady := by
  unfold Dev.msix
  split
  · rfl
  · exact s.sendHostFor_steady none _

@[simp] theorem Dev.unparkRows_steady (l : List Nat) : (s.unparkRows l).steady = s.steady := by
  unfold Dev.unparkRows
  refine foldl_keeps Dev.steady _ l (fun d c _ => ?_) s
  rfl

@[simp] theorem Dev.putGust_steady (port pbr : Nat) (bytes : List Byte) : (s.putGust port pbr bytes).steady = s.steady := by
  unfold Dev.putGust
  split
  · rfl
  · rw [Dev.count_steady, Dev.count_steady]; rfl

@[simp] theorem Dev.putStopped_steady : s.putStopped.steady = s.steady :=
  foldl_keeps Dev.steady (fun (d : Dev) (x : Nat × Nat × List Byte) => d.putGust x.1 x.2.1 x.2.2) s.fab.stopped
    (fun d _ _ => d.putGust_steady _ _ _) { s with fab := { s.fab with stopped := [] } }

@[simp] theorem Dev.noteDead_steady : s.noteDead.steady = s.steady := by
  refine foldl_keeps Dev.steady _ _ (fun d x _ => ?_) s
  dsimp only
  split
  · rfl
  · split
    · exact Dev.detectN_steady _ _ _ _ _ _
    · rfl

@[simp] theorem Dev.noteDeaf_steady : s.noteDeaf.steady = s.steady := by
  unfold Dev.noteDeaf
  split
  · rfl
  · split <;> rfl

/-! ### The transport tries again with nothing waiting (R23, R396) -/

/-- What the fabric shows changes FAB_CALM and FAB_PATH_STAT alone (R405). -/
theorem Dev.fabShow_reg_other {o : Nat} (hc : o ≠ fabCalmCalm.off) (hp : o ≠ fabPathStatValid.off) : s.fabShow.reg o = s.reg o := by
  simp only [fabCalmCalm, fabPathStatValid] at hc hp
  simp [Dev.fabShow, Dev.setBit, Dev.setFld, fabCalmCalm, fabCalmUnacked, fabPathStatValid, fabPathStatInSvc, fabPathStatAlt,
    fabPathStatEddiesDown, hc, hp]

theorem Dev.fabShow_regs : s.fabShow.regs = { s.regs with act := s.fabShow.regs.act } := rfl

theorem Dev.calmReached_regs (h : s.job.cmds = []) : s.calmReached.regs = s.regs := by
  unfold Dev.calmReached
  split
  · rfl
  · simp [h]

theorem Dev.rotated_nil : s.rotated [] = [] := by
  unfold Dev.rotated
  split <;> rfl

/-- With no gust waiting and no command under way the transport, trying again, changes what it shows alone. -/
theorem Dev.pump_of_quiet (hs : s.fab.sent = []) (hr : s.fab.relays = []) (hq : s.fab.queue = []) (hc : s.job.cmds = []) :
    s.pump.regs = { s.regs with act := s.pump.regs.act } ∧
      ∀ o, o ≠ fabCalmCalm.off → o ≠ fabPathStatValid.off → s.pump.reg o = s.reg o := by
  obtain ⟨hregs, hjob, hsent, hrel, hque⟩ := Dev.steady_eq_iff.mp s.putStopped_steady
  rw [hs] at hsent
  rw [hr] at hrel
  rw [hq] at hque
  let d : Dev := { s.putStopped with fab := { s.putStopped.fab with relays := [], queue := [], sent := [] } }
  have hd : d.noteDead.noteDeaf.steady = d.steady := by rw [Dev.noteDeaf_steady, Dev.noteDead_steady]
  obtain ⟨dregs, djob, -⟩ := Dev.steady_eq_iff.mp hd
  have hp : s.pump = d.noteDead.noteDeaf.fabShow.calmReached := by
    unfold Dev.pump
    simp [hsent, hrel, hque, Dev.rotated_nil, d]
  have hcalm : s.pump.regs = d.noteDead.noteDeaf.fabShow.regs := by
    rw [hp]
    refine Dev.calmReached_regs _ ?_
    show d.noteDead.noteDeaf.job.cmds = []
    rw [djob]
    exact (congrArg Job.cmds hjob).trans hc
  have heq : d.noteDead.noteDeaf.regs = s.regs := dregs.trans hregs
  refine ⟨?_, fun o h1 h2 => ?_⟩
  · rw [hcalm, Dev.fabShow_regs, heq]
  · rw [Dev.reg_of_regs hcalm, Dev.fabShow_reg_other _ h1 h2, Dev.reg_of_regs heq]

/-! ### Activation (R7, R23) -/

/-- The word `w` with the bits `b` taken from `v`. -/
def putMasked (w b v : W64) : W64 := (w &&& ~~~b) ||| (v &&& b)

/-- The registers whose activation changes something that a commit shows: another register, the job, the transport. -/
def stirring : List Nat := [0x58, 0x60, 0x3028, 0x5000]

theorem steady_ite {p : Prop} [Decidable p] {a b : Dev} (h : p → a.steady = b.steady) : (if p then a else b).steady = b.steady := by
  split
  · exact h ‹_›
  · rfl

theorem Dev.activate_steady (off : Nat) (mask v : W64) (h : off ∉ stirring) :
    (s.activate off mask v).steady = (s.setReg off (putMasked (s.reg off) mask v)).steady := by
  simp only [stirring, List.mem_cons, List.not_mem_nil, or_false, not_or] at h
  obtain ⟨h58, h60, h3028, h5000⟩ := h
  unfold Dev.activate
  extract_lets old new put jobs plan hbm mems tlbs undone pager all ques lines rows n pmcs samples inc
  have hplan : plan.steady = put.steady := by
    rw [show plan = put from if_neg fun x => x.1.elim h58 h60]
  have hhbm : hbm.steady = plan.steady := steady_ite fun _ => rfl
  have htlbs : tlbs.steady = hbm.steady := steady_ite fun _ => rfl
  have hpager : pager = tlbs := if_neg h3028
  have hlines : lines.steady = pager.steady := steady_ite fun _ => rfl
  have hrows : rows.steady = lines.steady := steady_ite fun _ => lines.unparkRows_steady _
  have hsamples : samples.steady = rows.steady := steady_ite fun _ => rfl
  rw [if_pos h5000, hsamples, hrows, hlines, hpager, htlbs, hhbm, hplan]
  rfl

/-- Activation of a register changes that register. -/
theorem Dev.activate_reg (off : Nat) (mask v : W64) (h : off ∉ stirring) (o : Nat) :
    (s.activate off mask v).reg o = if o = off then putMasked (s.reg off) mask v else s.reg o := by
  rw [Dev.reg_of_regs (Dev.regs_of_steady (s.activate_steady off mask v h)), Dev.reg_setReg]

theorem putMasked_zero (w v : W64) : putMasked w 0#64 v = w := put_no_bits w v

theorem Sparse.get_of_not_mem {α : Type} (d : Nat → α) (m : Sparse α) (k : Nat) (h : k ∉ m.map Prod.fst) : Sparse.get d m k = d k := by
  induction m with
  | nil => rfl
  | cons e m ih =>
    simp only [List.map_cons, List.mem_cons, not_or] at h
    rw [Sparse.get_cons, if_neg h.1, ih h.2]

/-- Activating registers one after another, each listed once. -/
theorem foldl_activate_reg (vals bits : Sparse W64) (hn : (bits.map Prod.fst).Nodup) (hs : ∀ e ∈ bits, e.1 ∉ stirring)
    (o : Nat) : ∀ d : Dev, (bits.foldl (fun d e => d.activate e.1 e.2 (Sparse.get (always 0) vals e.1)) d).reg o =
      putMasked (d.reg o) (Sparse.get (always 0) bits o) (Sparse.get (always 0) vals o) := by
  induction bits with
  | nil => intro d; exact (putMasked_zero _ _).symm
  | cons e bits ih =>
    intro d
    rw [List.map_cons, List.nodup_cons] at hn
    rw [List.foldl_cons, ih hn.2 fun x hx => hs x (by simp [hx]), Dev.activate_reg _ _ _ _ (hs e (by simp)), Sparse.get_cons]
    split
    next ho =>
      subst ho
      rw [Sparse.get_of_not_mem _ bits e.1 hn.1]
      exact putMasked_zero _ _
    next => rfl

/-- The steady parts but for the active words. -/
def Dev.steadyBesideWords (s : Dev) := ({ s.regs with act := [] }, s.job, s.fab.sent, s.fab.relays, s.fab.queue)

theorem Dev.steadyBesideWords_of_steady {a b : Dev} (h : a.steady = b.steady) : a.steadyBesideWords = b.steadyBesideWords := by
  obtain ⟨hr, hj, hs, hl, hq⟩ := Dev.steady_eq_iff.mp h
  simp only [Dev.steadyBesideWords, hr, hj, hs, hl, hq]

theorem Dev.steadyBesideWords_eq_iff {a b : Dev} : a.steadyBesideWords = b.steadyBesideWords ↔
    { a.regs with act := [] } = { b.regs with act := [] } ∧ a.job = b.job ∧ a.fab.sent = b.fab.sent ∧ a.fab.relays = b.fab.relays ∧
      a.fab.queue = b.fab.queue := by
  simp [Dev.steadyBesideWords]

theorem Dev.activate_steadyBesideWords (off : Nat) (mask v : W64) (h : off ∉ stirring) :
    (s.activate off mask v).steadyBesideWords = s.steadyBesideWords :=
  (Dev.steadyBesideWords_of_steady (s.activate_steady off mask v h)).trans rfl

/-- Without the pager's register the order of activation is that of the list. -/
theorem Dev.activateAll_eq_foldl (vals bits : Sparse W64) (hs : ∀ e ∈ bits, e.1 ∉ stirring) :
    s.activateAll vals bits = bits.foldl (fun d e => d.activate e.1 e.2 (Sparse.get (always 0) vals e.1)) s := by
  have hp : ∀ e ∈ bits, (e.1 == 0x3028) = false := fun e he => by
    have := hs e he
    simp only [stirring, List.mem_cons, not_or] at this
    obtain ⟨-, -, h3028, -⟩ := this
    simpa using h3028
  unfold Dev.activateAll
  dsimp only
  rw [List.filter_eq_self.mpr fun e he => by simp [hp e he], List.filter_eq_nil_iff.mpr fun e he => by simp [hp e he], List.append_nil]

/-- Activating staged bits: in every register the bits listed take their values (R7, R23). -/
theorem Dev.activateAll_reg (vals bits : Sparse W64) (hn : (bits.map Prod.fst).Nodup) (hs : ∀ e ∈ bits, e.1 ∉ stirring) (o : Nat) :
    (s.activateAll vals bits).reg o = putMasked (s.reg o) (Sparse.get (always 0) bits o) (Sparse.get (always 0) vals o) := by
  rw [s.activateAll_eq_foldl vals bits hs]
  exact foldl_activate_reg vals bits hn hs o s

theorem Dev.activateAll_steadyBesideWords (vals bits : Sparse W64) (hs : ∀ e ∈ bits, e.1 ∉ stirring) :
    (s.activateAll vals bits).steadyBesideWords = s.steadyBesideWords := by
  rw [s.activateAll_eq_foldl vals bits hs]
  exact foldl_keeps Dev.steadyBesideWords _ bits (fun d e he => d.activate_steadyBesideWords e.1 e.2 _ (hs e he)) s

/-! ### A commit completes (R280) -/

theorem Dev.commitDone_steady (n : Nat) : (s.commitDone n).steady =
    (({ s with regs := { s.regs with commit := none } } : Dev).setFld sysLullStatusDone n).steady := by
  unfold Dev.commitDone Dev.commitSignal
  split
  · exact Dev.msix_steady _ _
  · rfl

theorem Dev.commitDone_regs (n : Nat) :
    (s.commitDone n).regs = { s.regs with act := (s.commitDone n).regs.act, commit := none } := by
  rw [Dev.regs_of_steady (s.commitDone_steady n)]; rfl

theorem Dev.commitDone_reg_other (n : Nat) {o : Nat} (h : o ≠ sysLullStatusDone.off) : (s.commitDone n).reg o = s.reg o := by
  rw [Dev.reg_of_regs (Dev.regs_of_steady (s.commitDone_steady n)), Dev.setFld, Dev.reg_setReg, if_neg h]
  rfl

theorem Dev.commitDone_done (n : Nat) : (s.commitDone n).fld sysLullStatusDone = n % 2 ^ 32 := by
  rw [Dev.fld, Dev.reg_of_regs (Dev.regs_of_steady (s.commitDone_steady n)), ← Dev.fld]
  exact Dev.fld_setFld_same _ _ _ (by decide)

/-- A further commit without a staged change completes at once. -/
theorem Dev.commitNext_of_unstaged (h : s.regs.stgBits = []) :
    s.commitNext.regs.stg = s.regs.stg ∧ s.commitNext.regs.stgBits = [] ∧
      ∀ o, o ≠ sysLullStatusDone.off → s.commitNext.reg o = s.reg o := by
  unfold Dev.commitNext
  split
  next =>
    let d : Dev := { s with regs := { s.regs with again := false } }
    have hd : d.commitStart = (d.commitDone (d.fld sysLullStatusReq)).count pkgBlk 0 1 := by simp [Dev.commitStart, d, h]
    have hregs := Dev.regs_of_steady ((Dev.count_steady _ pkgBlk 0 1).trans (d.commitDone_steady (d.fld sysLullStatusReq)))
    rw [hd]
    refine ⟨by rw [hregs]; rfl, by rw [hregs]; exact h, fun o ho => ?_⟩
    rw [Dev.reg_of_regs (Dev.regs_of_steady (Dev.count_steady _ _ _ _)), Dev.commitDone_reg_other _ _ ho]
    rfl
  next => exact ⟨rfl, h, fun _ _ => rfl⟩

/-! ### The device lull (R23, R280) -/

/-- The staged values are active and commit `c` is complete. -/
def Dev.lullDone (s : Dev) (c : Commit) : Dev :=
  let d := (s.activateAll s.regs.stg s.regs.stgBits).unparkRows c.stops
  ({ d with regs := { d.regs with stg := [], stgBits := [] } }.count pkgBlk 0 1).commitDone c.req.toNat

/-- If a port has paused, the transport has tried again. -/
def Dev.lullTried (s : Dev) (c : Commit) : Dev :=
  if c.paused.any (fun v => v.kind == .port) then (s.lullDone c).pump else s.lullDone c

/-- Every participating unit has paused, no host access is held and no staged change waits for a close: all of it becomes active and the
commit completes. -/
theorem deviceLullEffect_of_paused (c : Commit) (hc : s.regs.commit = some c) (hl : c.lulled = false)
    (hp : ∀ v ∈ s.participants c, v ∈ c.paused) (hw : s.mem.hdmWait = [])
    (hd : s.running = true → ∀ e ∈ s.regs.stgBits, deferred e.1 = false) :
    deviceLullEffect s = (s.lullTried c).commitNext := by
  have hall : (s.participants c).all c.paused.contains = true := by
    rw [List.all_eq_true]
    exact fun v hv => List.contains_iff_mem.mpr (hp v hv)
  have hmem : ((holders s.regs.stgBits).any fun u => u.kind == .memCtl && !s.atLull s.regs.stgBits u) = false := by
    rw [List.any_eq_false]
    intro u _
    by_cases hu : u.kind = .memCtl
    · simp [hu, Dev.atLull, hw]
    · simp [hu]
  have hsplit : s.splitDeferred s.regs.stgBits = (s.regs.stgBits, []) := by
    unfold Dev.splitDeferred
    split
    next hr =>
      rw [List.filter_eq_self.mpr fun e he => by simp [hd hr e he], List.filter_eq_nil_iff.mpr fun e he => by simp [hd hr e he]]
    next => rfl
  unfold deviceLullEffect
  simp only [hc, hl, hall, hmem, hsplit]
  rfl

section
variable (c : Commit) (hs : ∀ e ∈ s.regs.stgBits, e.1 ∉ stirring)
include hs

/-- Of the steady parts the lull changes active words, clears what was staged and ends the commit. -/
theorem Dev.lullDone_steady : (s.lullDone c).steady =
    ({ s with regs := { s.regs with act := (s.lullDone c).regs.act, stg := [], stgBits := [], commit := none } } : Dev).steady := by
  let active := (s.activateAll s.regs.stg s.regs.stgBits).unparkRows c.stops
  obtain ⟨aregs, ajob, asent, arel, aque⟩ := Dev.steadyBesideWords_eq_iff.mp
    ((Dev.steadyBesideWords_of_steady (Dev.unparkRows_steady _ c.stops)).trans
      (s.activateAll_steadyBesideWords s.regs.stg s.regs.stgBits hs))
  obtain ⟨cregs, cjob, csent, crel, cque⟩ := Dev.steady_eq_iff.mp
    (Dev.count_steady ({ active with regs := { active.regs with stg := [], stgBits := [] } } : Dev) pkgBlk 0 1)
  obtain ⟨-, djob, dsent, drel, dque⟩ := Dev.steady_eq_iff.mp (Dev.commitDone_steady
    (({ active with regs := { active.regs with stg := [], stgBits := [] } } : Dev).count pkgBlk 0 1) c.req.toNat)
  refine Dev.steady_eq_iff.mpr ⟨?_, djob.trans (cjob.trans ajob), dsent.trans (csent.trans asent), drel.trans (crel.trans arel),
    dque.trans (cque.trans aque)⟩
  have hregs : (s.lullDone c).regs =
      { active.regs with act := (s.lullDone c).regs.act, stg := [], stgBits := [], commit := none } := by
    rw [Dev.lullDone, Dev.commitDone_regs, cregs]
  simp only [RegFile.mk.injEq] at aregs
  rw [hregs]
  simp [active, aregs]

theorem Dev.lullDone_reg (hn : (s.regs.stgBits.map Prod.fst).Nodup) (o : Nat) (ho : o ≠ sysLullStatusDone.off) :
    (s.lullDone c).reg o =
      putMasked (s.reg o) (Sparse.get (always 0) s.regs.stgBits o) (Sparse.get (always 0) s.regs.stg o) := by
  rw [Dev.lullDone, Dev.commitDone_reg_other _ _ ho, Dev.reg_of_regs (Dev.regs_of_steady (Dev.count_steady _ _ _ _)),
    ← s.activateAll_reg _ _ hn hs o]
  exact Dev.reg_of_regs (Dev.regs_of_steady (Dev.unparkRows_steady _ _)) o

/-- With no gust waiting where a port has paused, the transport's next try changes what it shows alone. -/
theorem Dev.lullTried_regs (hq : (∃ v ∈ c.paused, v.kind = .port) →
      s.fab.sent = [] ∧ s.fab.relays = [] ∧ s.fab.queue = [] ∧ s.job.cmds = []) :
    (s.lullTried c).regs = { (s.lullDone c).regs with act := (s.lullTried c).regs.act } ∧
      ∀ o, (o = fabCalmCalm.off ∨ o = fabPathStatValid.off → ∀ v ∈ c.paused, v.kind ≠ .port) →
        (s.lullTried c).reg o = (s.lullDone c).reg o := by
  unfold Dev.lullTried
  split
  case isFalse => exact ⟨rfl, fun _ _ => rfl⟩
  case isTrue hport =>
    obtain ⟨v, hv, hk⟩ : ∃ v ∈ c.paused, v.kind = .port := by simpa using hport
    obtain ⟨hsent, hrel, hque, hcmds⟩ := hq ⟨v, hv, hk⟩
    obtain ⟨-, djob, dsent, drel, dque⟩ := Dev.steady_eq_iff.mp (s.lullDone_steady c hs)
    obtain ⟨pregs, preg⟩ := (s.lullDone c).pump_of_quiet (dsent.trans hsent) (drel.trans hrel) (dque.trans hque)
      ((congrArg Job.cmds djob).trans hcmds)
    exact ⟨pregs, fun o ho => preg o (fun h => ho (.inl h) v hv hk) fun h => ho (.inr h) v hv hk⟩

end

end Sys2Proof.Machine

open Sys2Proof Sys2Proof.Machine

/-- Settles O15: activation puts the staged bits of each register; completing the commit, the transport's next try and a further commit change
SYS_LULL_STATUS and what the fabric shows alone. -/
theorem deviceLullActivatesStagedBits : Obligations.DeviceLullActivatesStagedBits := by
  unfold Obligations.DeviceLullActivatesStagedBits
  intro s c hc hl hp hrun hw hquiet hnodup hplain
  have hs : ∀ e ∈ s.dev.regs.stgBits, e.1 ∉ stirring := fun e he => by
    have := hplain e he
    simp only [List.mem_cons, List.not_mem_nil, or_false, not_or] at this
    simp [stirring, this]
  have heff := deviceLullEffect_of_paused s.dev c hc hl hp hw fun h => absurd h (by simp [hrun])
  have hdone := Dev.regs_of_steady (s.dev.lullDone_steady c hs)
  obtain ⟨tregs, treg⟩ := s.dev.lullTried_regs c hs hquiet
  rw [hdone] at tregs
  obtain ⟨nstg, nbits, nreg⟩ := (s.dev.lullTried c).commitNext_of_unstaged (by rw [tregs])
  refine ⟨{ s with dev := s.dev.wired (s.dev.lullTried c).commitNext }, ?_, ?_, ?_, ?_, ?_⟩
  · exact s.run_congr (f := deviceLullEffect) (g := fun d => (d.lullTried c).commitNext) heff
  · intro o ho hshown
    rw [Dev.wired_reg, nreg o ho, treg o hshown, s.dev.lullDone_reg c hs hnodup o ho]
    rfl
  · exact nstg.trans (by rw [tregs])
  · exact nbits
  · intro hagain
    have hnext : (s.dev.lullTried c).commitNext = s.dev.lullTried c :=
      if_neg (by rw [tregs]; simp [hagain])
    rw [hnext]
    refine ⟨by rw [Dev.wired_regs_commit, tregs], ?_⟩
    rw [Dev.wired_fld _ _ _ (by decide +kernel), Dev.fld, treg _ fun h => absurd h (by decide), ← Dev.fld, Dev.lullDone, Dev.commitDone_done]
    exact Nat.mod_eq_of_lt c.req.isLt
end

section
/-! SUPPORT. What a tick's counting, its slots and the ring leave alone (R14, R512 to R519, R545). -/

namespace Sys2Proof.Machine

variable (s : Dev)

/-! ### Counting (R512) -/

/-- All but the counters. -/
def Dev.uncounted (s : Dev) : Dev := { s with pmc := Pmc.cold }

theorem Dev.eq_of_uncounted {a b : Dev} (h : a.uncounted = b.uncounted) : a = { b with pmc := a.pmc } := by
  cases a; cases b
  simp only [Dev.uncounted, Dev.mk.injEq] at h ⊢
  simp [h]

@[simp] theorem Dev.count_uncounted (b e k : Nat) : (s.count b e k).uncounted = s.uncounted := by
  unfold Dev.count; split <;> rfl

theorem Mmt.tallyFeeds_uncounted (m : Mmt) (c : Nat) (l : List FeedPlan) : (m.tallyFeeds c l s).uncounted = s.uncounted := by
  refine foldl_keeps Dev.uncounted _ _ (fun d e _ => ?_) s
  dsimp only
  split
  · rfl
  · simp only [Dev.count_uncounted]
    split <;> simp only [Dev.count_uncounted]

theorem Mmt.tallyRows_uncounted (m : Mmt) (c : Nat) (l : List RowPlan) : (m.tallyRows c l s).uncounted = s.uncounted := by
  refine foldl_keeps Dev.uncounted _ _ (fun d e _ => ?_) s
  dsimp only
  split
  · rfl
  · simp only [Dev.count_uncounted]

theorem MmtRun.tally_uncounted (r : MmtRun) (c t e stop : Nat) : (r.tally c t e stop s).uncounted = s.uncounted := by
  rw [MmtRun.tally, Mmt.tallyRows_uncounted, Mmt.tallyFeeds_uncounted]

theorem matSlots_uncounted (c t e : Nat) : (matSlots c t e s).uncounted = s.uncounted := by
  unfold matSlots
  split
  · rfl
  · dsimp only
    rw [foldl_keeps Dev.uncounted]
    · exact foldl_keeps Dev.uncounted _ _ (fun d r _ => r.tally_uncounted d c t e 128) s
    · intro d i _
      split
      · rfl
      · split
        · exact foldl_keeps Dev.uncounted _ _ (fun d u _ => by simp only [Dev.count_uncounted]) d
        · rfl

theorem vecSlots_uncounted (c t e : Nat) : (vecSlots c t e s).uncounted = s.uncounted := by
  unfold vecSlots
  dsimp only
  repeat' split
  all_goals simp only [Dev.count_uncounted]

theorem moveSlots_uncounted (c n : Nat) : (moveSlots c n s).uncounted = s.uncounted := by
  unfold moveSlots
  simp only [Dev.count_uncounted]
  rfl

theorem Dev.clusterTick_uncounted (k : Nat) : (s.clusterTick k).uncounted = s.uncounted := by
  unfold Dev.clusterTick
  simp only [Dev.count_uncounted]

theorem Dev.calmTick_uncounted : s.calmTick.uncounted = s.uncounted := by
  unfold Dev.calmTick
  split
  · exact foldl_keeps Dev.uncounted _ _ (fun d p _ => d.count_uncounted _ _ _) s
  · rfl

theorem Dev.sampDerived_uncounted (old : Dev) : (s.sampDerived old).uncounted = s.uncounted := by
  refine foldl_keeps Dev.uncounted _ _ (fun d n _ => ?_) s
  refine foldl_keeps Dev.uncounted _ _ (fun d c _ => ?_) d
  dsimp only
  split <;> rfl

/-! ### The slots of a tick (R514 to R519, R545) -/

/-- All but the counters and the cores. -/
def Dev.coreless (s : Dev) : Dev := { s with pmc := Pmc.cold, cores := [] }

theorem Dev.eq_of_coreless {a b : Dev} (h : a.coreless = b.coreless) : a = { b with pmc := a.pmc, cores := a.cores } := by
  cases a; cases b
  simp only [Dev.coreless, Dev.mk.injEq] at h ⊢
  simp [h]

theorem Dev.coreless_of_uncounted {a b : Dev} (h : a.uncounted = b.uncounted) : a.coreless = b.coreless :=
  congrArg (fun d : Dev => { d with cores := [] }) h

theorem Dev.cores_of_uncounted {a b : Dev} (h : a.uncounted = b.uncounted) : a.cores = b.cores := by
  rw [Dev.eq_of_uncounted h]

/-- The hold of a core hangs on that core and on nothing else that a tick changes before it counts the time. -/
theorem Dev.held_congr {a b : Dev} (h : a.coreless = b.coreless) {c : Nat} (hc : a.core c = b.core c) : a.held c = b.held c := by
  have ha := Dev.eq_of_coreless h
  have hdown : a.coreDown c = b.coreDown c := by rw [ha]; rfl
  have hcycle : a.cycle c = b.cycle c := by rw [ha]; rfl
  have hallowed : a.allowed c = b.allowed c := by rw [ha]; rfl
  have hvec : a.vecBusy c = b.vecBusy c := by rw [Dev.vecBusy, Dev.vecBusy, hc, hcycle]
  have hactive : a.active c = b.active c := by simp only [Dev.active, hc, hvec, hdown]
  rw [Dev.held, Dev.held, hactive, hallowed, hcycle]

theorem Core.hold_zero (k : Core) (e : Nat) : k.hold e 0 = k := if_pos rfl

/-- A core's tick counts, and holds that core. -/
theorem Dev.coreTick_eq (c : Nat) :
    ∃ d : Dev, ∃ e : Nat, d.uncounted = s.uncounted ∧ s.coreTick c = d.onCore c (·.hold e (s.held c)) := by
  unfold Dev.coreTick
  extract_lets k t h e b all full slots counted pmc busy
  refine ⟨busy, e, ?_, rfl⟩
  have hslots : slots.uncounted = s.uncounted := by
    rw [moveSlots_uncounted, vecSlots_uncounted, matSlots_uncounted]
  have hcounted : counted.uncounted = s.uncounted := by
    simp only [counted, Dev.count_uncounted, hslots]
  have hbusy : busy.uncounted = counted.uncounted := by
    simp only [busy]
    split <;> rfl
  exact hbusy.trans hcounted

theorem Dev.coreTick_coreless (c : Nat) : (s.coreTick c).coreless = s.coreless := by
  obtain ⟨d, e, hd, h⟩ := s.coreTick_eq c
  rw [h]
  exact (rfl : _ = d.coreless).trans (Dev.coreless_of_uncounted hd)

/-- A core that the issue limit does not hold stays as it is. -/
theorem Dev.coreTick_core_of_free (c j : Nat) (h : s.held j = 0) : (s.coreTick c).core j = s.core j := by
  obtain ⟨d, e, hd, htick⟩ := s.coreTick_eq c
  have hc : ∀ i, d.core i = s.core i := fun i => by rw [Dev.core, Dev.core, Dev.cores_of_uncounted hd]
  rw [htick, Dev.core_onCore]
  split
  next hj => rw [← hj, h, Core.hold_zero, hc]
  next => exact hc j

/-- The slots of a tick change counters and cores, and no core that the issue limit does not hold (R545). -/
theorem Dev.slotTick_spec : s.slotTick.coreless = s.coreless ∧ ∀ j, s.held j = 0 → s.slotTick.core j = s.core j := by
  unfold Dev.slotTick
  extract_lets gone capped down
  have hcapped : capped.uncounted = s.uncounted := s.count_uncounted _ _ _
  have hdown : down.uncounted = s.uncounted :=
    (foldl_keeps Dev.uncounted _ _ (fun d c _ => d.count_uncounted _ _ _) capped).trans hcapped
  have hfold : ∀ (l : List Nat) (d : Dev), d.coreless = s.coreless → (∀ j, s.held j = 0 → d.core j = s.core j) →
      let t := l.foldl (fun d c => if gone.contains c then d else d.coreTick c) d
      t.coreless = s.coreless ∧ ∀ j, s.held j = 0 → t.core j = s.core j := by
    intro l
    induction l with
    | nil => exact fun d hd hj => ⟨hd, hj⟩
    | cons c l ih =>
      intro d hd hj
      rw [List.foldl_cons]
      split
      next => exact ih d hd hj
      next =>
        refine ih _ ((d.coreTick_coreless c).trans hd) fun j hheld => ?_
        rw [d.coreTick_core_of_free c j ((Dev.held_congr hd (hj j hheld)).trans hheld), hj j hheld]
  exact hfold _ down (Dev.coreless_of_uncounted hdown) fun j _ => by rw [Dev.core, Dev.core, Dev.cores_of_uncounted hdown]

/-! ### The ring (R14) -/

/-- All but the counters and the ring. -/
def Dev.ringless (s : Dev) : Dev := { s with pmc := Pmc.cold, ring := RingUnit.cold }

theorem Dev.eq_of_ringless {a b : Dev} (h : a.ringless = b.ringless) : a = { b with pmc := a.pmc, ring := a.ring } := by
  cases a; cases b
  simp only [Dev.ringless, Dev.mk.injEq] at h ⊢
  simp [h]

theorem Dev.ringless_of_uncounted {a b : Dev} (h : a.uncounted = b.uncounted) : a.ringless = b.ringless :=
  congrArg (fun d : Dev => { d with ring := RingUnit.cold }) h

@[simp] theorem Dev.count_ring (b e k : Nat) : (s.count b e k).ring = s.ring := by
  unfold Dev.count; split <;> rfl

theorem Dev.served_ringless (d : Nat) (x : Xfer) : (s.served d x).ringless = s.ringless := by
  unfold Dev.served
  split
  · rfl
  · dsimp only
    split <;> rfl

theorem Dev.pass_ringless (d : Nat) (x : Xfer) : (s.pass d x).ringless = s.ringless := by
  have hs : (Dev.served { s with ring := { s.ring with wait := s.ring.wait.erase x } } d x).ringless = s.ringless :=
    Dev.served_ringless _ d x
  have hc : ∀ (t : Dev) b e k, (t.count b e k).ringless = t.ringless := fun t b e k => Dev.ringless_of_uncounted (t.count_uncounted b e k)
  unfold Dev.pass
  extract_lets t
  split
  next => exact hs
  next g l _ =>
    extract_lets u v
    have hv : v.ringless = s.ringless := by
      simp only [v]
      split <;> simp only [u, hc] <;> exact hs
    split
    · exact hv
    · exact hv

/-- What the crossbars pass next hangs on the ring alone. -/
theorem Dev.grant_congr {a b : Dev} (h : a.ring = b.ring) (d : Nat) : a.grant d = b.grant d := by
  simp only [Dev.grant, Dev.coreTurn, h]

theorem Dev.served_ring_congr {a b : Dev} (h : a.ring = b.ring) (d : Nat) (x : Xfer) : (a.served d x).ring = (b.served d x).ring := by
  unfold Dev.served
  dsimp only
  rw [h]
  split
  · exact h
  · split <;> rfl

theorem Dev.pass_ring_congr {a b : Dev} (h : a.ring = b.ring) (d : Nat) (x : Xfer) : (a.pass d x).ring = (b.pass d x).ring := by
  have hs := Dev.served_ring_congr (a := { a with ring := { a.ring with wait := a.ring.wait.erase x } })
    (b := { b with ring := { b.ring with wait := b.ring.wait.erase x } }) (by rw [h]) d x
  obtain ⟨die, who, cluster, core, path, transit⟩ := x
  cases path with
  | nil => exact hs
  | cons g l =>
    cases l with
    | nil =>
      simp only [Dev.pass, if_true, apply_ite Dev.ring, Dev.count_ring, ite_self]
      exact hs
    | cons g' l =>
      simp only [Dev.pass, reduceCtorEq, if_false, apply_ite Dev.ring, Dev.count_ring, ite_self]
      rw [hs]

theorem Dev.ringTick_ring_congr {a b : Dev} (h : a.ring = b.ring) : a.ringTick.ring = b.ringTick.ring := by
  have hfold : ∀ (l : List (Nat × Xfer)) (a b : Dev), a.ring = b.ring →
      (l.foldl (fun s p => s.pass p.1 p.2) a).ring = (l.foldl (fun s p => s.pass p.1 p.2) b).ring := by
    intro l
    induction l with
    | nil => exact fun _ _ h => h
    | cons p l ih => exact fun a b h => ih _ _ (Dev.pass_ring_congr h p.1 p.2)
  unfold Dev.ringTick
  simp only [Dev.grant_congr h]
  exact hfold _ a b h

theorem Dev.ringTick_ringless : s.ringTick.ringless = s.ringless :=
  foldl_keeps Dev.ringless _ _ (fun d p _ => d.pass_ringless p.1 p.2) s

end Sys2Proof.Machine
end

section
/-! SUPPORT. The tick: the time, and a tick on which nothing waits (R339). -/

namespace Sys2Proof.Machine

variable (s : Dev)

/-! ### What the parts of a tick leave alone -/

section
variable {a b : Dev}

theorem Dev.ring_of_uncounted (h : a.uncounted = b.uncounted) : a.ring = b.ring := by rw [Dev.eq_of_uncounted h]

theorem Dev.parts_of_ringless (h : a.ringless = b.ringless) :
    a.que = b.que ∧ a.job = b.job ∧ a.fab = b.fab ∧ a.regs = b.regs ∧ a.bases = b.bases ∧ a.cores = b.cores ∧ a.real = b.real := by
  rw [Dev.eq_of_ringless h]
  exact ⟨rfl, rfl, rfl, rfl, rfl, rfl, rfl⟩

theorem Dev.parts_of_coreless (h : a.coreless = b.coreless) :
    a.regs = b.regs ∧ a.bases = b.bases ∧ a.tim = b.tim ∧ a.real = b.real ∧ a.ring = b.ring := by
  rw [Dev.eq_of_coreless h]
  exact ⟨rfl, rfl, rfl, rfl, rfl⟩

/-- All that no tick changes while nothing waits. -/
def Dev.tickless (s : Dev) : Dev :=
  { s with regs := RegFile.cold, bases := [], cores := [], pmc := Pmc.cold, ring := RingUnit.cold, real := 0,
           disp := { s.disp with waits := [] } }

theorem Dev.tickless_of_coreless (h : a.coreless = b.coreless) : a.tickless = b.tickless := by
  rw [Dev.eq_of_coreless h]
  rfl

theorem Dev.tickless_of_ringless (h : a.ringless = b.ringless) : a.tickless = b.tickless := by
  rw [Dev.eq_of_ringless h]
  rfl

theorem DispUnit.eq_of_waits {x y : DispUnit} (h : { x with waits := [] } = { y with waits := [] }) : x = { y with waits := x.waits } := by
  cases x; cases y
  simp only [DispUnit.mk.injEq] at h ⊢
  simp [h]

theorem Dev.eq_of_tickless (h : a.tickless = b.tickless) :
    a = { b with regs := a.regs, bases := a.bases, cores := a.cores, pmc := a.pmc, ring := a.ring, real := a.real,
                 disp := { b.disp with waits := a.disp.waits } } := by
  have hd := DispUnit.eq_of_waits (congrArg Dev.disp h)
  cases a; cases b
  simp only [Dev.tickless, Dev.mk.injEq] at h
  simp only [Dev.mk.injEq, h, true_and]
  exact ⟨hd, trivial⟩

theorem Dev.parts_of_tickless (h : a.tickless = b.tickless) : a.que = b.que ∧ a.job = b.job ∧ a.fab = b.fab := by
  rw [Dev.eq_of_tickless h]
  exact ⟨rfl, rfl, rfl⟩

theorem Dev.parts_of_waits {w : List Held} (h : a = { b with disp := { b.disp with waits := w } }) :
    a.tickless = b.tickless ∧ a.regs = b.regs ∧ a.bases = b.bases ∧ a.tim = b.tim ∧ a.real = b.real ∧ a.ring = b.ring ∧
      ∀ c, a.held c = b.held c ∧ a.core c = b.core c := by
  subst h
  exact ⟨rfl, rfl, rfl, rfl, rfl, rfl, fun _ => ⟨rfl, rfl⟩⟩

theorem Dev.parts_of_regs_bases {r : RegFile} {l : Sparse Base} (h : a = { b with regs := r, bases := l }) :
    a.tickless = b.tickless ∧ a.cores = b.cores ∧ a.ring = b.ring := by
  subst h
  exact ⟨rfl, rfl, rfl⟩

end

/-! ### The count (R339) -/

/-- The count of base die `d` moves by `n` ns. -/
def Dev.moveBase (n : Int) (s : Dev) (d : Nat) : Dev := s.setBase d { s.base d with now := ((s.base d).now + n).toNat % 2 ^ 64 }

/-- The counts move on base dies 0 to 3; TIM_NOW follows. -/
theorem Dev.moveTime_eq_foldl (n : Int) :
    s.moveTime n = ((List.range 4).foldl (Dev.moveBase n) s).setFld timNowNow (((List.range 4).foldl (Dev.moveBase n) s).now 0) := rfl

theorem foldl_moveBase_base (n : Int) (d : Nat) (l : List Nat) (hl : l.Nodup) : ∀ s : Dev,
    (l.foldl (Dev.moveBase n) s).base d =
      if d ∈ l then { s.base d with now := ((s.base d).now + n).toNat % 2 ^ 64 } else s.base d := by
  induction l with
  | nil => intro s; rfl
  | cons x l ih =>
    intro s
    obtain ⟨hx, hl⟩ := List.nodup_cons.mp hl
    rw [List.foldl_cons, ih hl, Dev.moveBase, Dev.base_setBase]
    by_cases hd : d = x
    · subst hd; simp [hx]
    · simp [hd]

theorem foldl_moveBase_regs (n : Int) (l : List Nat) : (l.foldl (Dev.moveBase n) s).regs = s.regs :=
  foldl_keeps Dev.regs (Dev.moveBase n) l (fun _ _ _ => rfl) s

theorem foldl_moveBase_eq (n : Int) (l : List Nat) : ∀ s : Dev,
    l.foldl (Dev.moveBase n) s = { s with bases := (l.foldl (Dev.moveBase n) s).bases } := by
  induction l with
  | nil => intro s; rfl
  | cons x l ih => intro s; rw [List.foldl_cons, ih]; rfl

/-- Moving the time changes the base dies and what TIM_NOW shows. -/
theorem Dev.moveTime_eq (n : Int) : s.moveTime n = { s with regs := (s.moveTime n).regs, bases := (s.moveTime n).bases } := by
  rw [Dev.moveTime_eq_foldl, foldl_moveBase_eq]
  rfl

theorem Dev.moveTime_parts (n : Int) : (s.moveTime n).tickless = s.tickless ∧ (s.moveTime n).cores = s.cores ∧ (s.moveTime n).ring = s.ring :=
  Dev.parts_of_regs_bases (s.moveTime_eq n)

theorem Dev.moveTime_base (n : Int) (d : Nat) : (s.moveTime n).base d =
    if d < 4 then { s.base d with now := ((s.base d).now + n).toNat % 2 ^ 64 } else s.base d := by
  simp only [← List.mem_range]
  exact foldl_moveBase_base n d (List.range 4) List.nodup_range s

theorem Dev.moveTime_reg_other (n : Int) {o : Nat} (h : o ≠ timNowNow.off) : (s.moveTime n).reg o = s.reg o := by
  rw [Dev.moveTime_eq_foldl, Dev.setFld, Dev.reg_setReg, if_neg h, Dev.reg_of_regs (foldl_moveBase_regs s n _)]

theorem Dev.moveTime_now (n : Int) : (s.moveTime n).fld timNowNow = (s.moveTime n).now 0 := by
  have h : (s.moveTime n).now 0 < 2 ^ 64 := by
    rw [Dev.now, Dev.moveTime_base]
    exact Nat.mod_lt _ (by decide)
  rw [Dev.moveTime_eq_foldl] at h ⊢
  rw [Dev.fld_setFld_same _ _ _ (by decide)]
  exact Nat.mod_eq_of_lt h

/-- A follower without a valid exchange for 16 ms shows that it is in holdover (R371). -/
def Dev.noteHoldover (s : Dev) : Dev :=
  if s.fld timStatusRole = 0 ∧ s.tim.valid + 16000000 ≤ s.real + 8 then s.setBit timStatusHoldover true else s

theorem Dev.noteHoldover_eq : s.noteHoldover = { s with regs := s.noteHoldover.regs } := by
  unfold Dev.noteHoldover; split <;> rfl

theorem Dev.noteHoldover_parts : s.noteHoldover.tickless = s.tickless ∧ s.noteHoldover.cores = s.cores ∧
    s.noteHoldover.ring = s.ring ∧ s.noteHoldover.bases = s.bases := by
  unfold Dev.noteHoldover
  split <;> exact ⟨rfl, rfl, rfl, rfl⟩

theorem Dev.noteHoldover_reg_other {o : Nat} (h : o ≠ timStatusHoldover.off) : s.noteHoldover.reg o = s.reg o := by
  unfold Dev.noteHoldover
  split
  · rw [Dev.setBit, Dev.setFld, Dev.reg_setReg, if_neg h]
  · rfl

/-- What 8 ns bring while no correction to an edge is slewed: perhaps the holdover bit, and the time. -/
theorem tickEffect_of_unslewed (h : s.tim.slew = 0) :
    tickEffect s = s.noteHoldover.moveTime (8 + rateDue s.tim.rate s.real) := by
  unfold tickEffect
  extract_lets turn adj d moved tim
  have hadj : adj = 0 := by simp [adj, h]
  have hd : d = s.noteHoldover := rfl
  have hparts : d.tim = s.tim ∧ d.real = s.real := by
    rw [hd, Dev.noteHoldover_eq]
    exact ⟨rfl, rfl⟩
  have hmoved : moved = s.noteHoldover.moveTime (8 + rateDue s.tim.rate s.real) := by
    simp only [moved, hadj, hparts, Int.add_zero]
    rw [hd]
  have htim : ({ tim with slew := tim.slew - adj } : TimeUnit) = moved.tim := by
    rw [hadj, Int.sub_zero, hmoved, Dev.moveTime_eq]
    rfl
  exact (congrArg (fun x => { moved with tim := x }) htim).trans hmoved

/-! ### A tick on which nothing waits -/

theorem Dev.payOwed_of_none (h : s.que.owed = []) : s.payOwed = s := by
  have hq : ({ s.que with owed := [] } : QueueUnit) = s.que := by rw [← h]
  simp only [Dev.payOwed, h, List.foldl_nil, List.map_nil, List.eraseDups_nil, hq]

theorem Dev.voteHoldDue_of_none (h : s.job.hold ≠ some 1) : s.voteHoldDue = s := if_neg fun x => h x.1

theorem Dev.stopSettle_of_none (h : s.job.cmds = []) (h5 : s.jobState ≠ 5) : s.stopSettle = s := by
  have hend : ∀ p status result, s.endCmds p status result = s := fun p status result => by simp [Dev.endCmds, h]
  have hst : (s.fld sysJobStatusState == 5) = false := by simpa [Dev.jobState] using h5
  simp [Dev.stopSettle, h, hst, hend]

theorem Dev.fwCalmEnd_of_none (h : s.fab.fwCalm = []) : s.fwCalmEnd = s := if_pos (by rw [h]; rfl)

theorem Dev.settleLeave_of_none (h : s.fab.leave = []) : s.settleLeave = s := by
  have hf : ({ s.fab with leave := [] } : FabUnit) = s.fab := by rw [← h]
  simp only [Dev.settleLeave, h, List.foldl_nil, hf]

/-- Nothing of what a tick takes up waits: no write or message owed to a host ring, no command under way, no hold of the job, no calm of the
firmware, no package about to leave. -/
structure Dev.NothingWaits (s : Dev) : Prop where
  owed  : s.que.owed = []
  cmds  : s.job.cmds = []
  state : s.jobState ≠ 5
  hold  : s.job.hold ≠ some 1
  calm  : s.fab.fwCalm = []
  leave : s.fab.leave = []

theorem Dev.NothingWaits.congr {a b : Dev} (h : a.NothingWaits) (hq : b.que = a.que) (hj : b.job = a.job) (hf : b.fab = a.fab)
    (hs : b.reg sysJobStatusState.off = a.reg sysJobStatusState.off) :
    b.NothingWaits := by
  refine ⟨?_, ?_, ?_, ?_, ?_, ?_⟩
  · rw [hq]; exact h.owed
  · rw [hj]; exact h.cmds
  · rw [Dev.jobState, Dev.fld, hs]; exact h.state
  · rw [hj]; exact h.hold
  · rw [hf]; exact h.calm
  · rw [hf]; exact h.leave

/-- Where nothing waits, a tick's work is that of the ring, and counting. -/
theorem Dev.tickWork_of_nothingWaits (old : Dev) (h : s.NothingWaits) :
    (s.tickWork old).ringless = s.ringless ∧ (s.tickWork old).ring = s.ringTick.ring := by
  let d := s.ringTick.sampDerived old
  have hu : d.uncounted = s.ringTick.uncounted := Dev.sampDerived_uncounted _ old
  have hless : d.ringless = s.ringless := (Dev.ringless_of_uncounted hu).trans s.ringTick_ringless
  obtain ⟨hque, hjob, hfab, hregs, -⟩ := Dev.parts_of_ringless hless
  have hs : d.NothingWaits := h.congr hque hjob hfab (Dev.reg_of_regs hregs _)
  have hw : s.tickWork old = d := by
    unfold Dev.tickWork
    rw [Dev.payOwed_of_none _ hs.owed, Dev.voteHoldDue_of_none _ hs.hold, Dev.stopSettle_of_none _ hs.cmds hs.state,
      Dev.fwCalmEnd_of_none _ hs.calm, Dev.settleLeave_of_none _ hs.leave]
  rw [hw]
  exact ⟨hless, Dev.ring_of_uncounted hu⟩

/-! ### The tick -/

/-- What a tick accounts for before the time passes: the dispatchers' notes, the slots, calm, moving chains. -/
def Dev.account (s : Dev) : Dev := (List.range 32).foldl Dev.clusterTick s.noteWaits.noteRooms.slotTick.calmTick

theorem Dev.account_uncounted : s.account.uncounted = s.noteWaits.noteRooms.slotTick.uncounted :=
  (foldl_keeps Dev.uncounted _ _ (fun d k _ => d.clusterTick_uncounted k) _).trans (Dev.calmTick_uncounted _)

theorem Dev.account_coreless : s.account.coreless = s.noteWaits.noteRooms.coreless :=
  (Dev.coreless_of_uncounted s.account_uncounted).trans s.noteWaits.noteRooms.slotTick_spec.1

theorem Dev.noted_eq : s.noteWaits.noteRooms = { s with disp := { s.disp with waits := s.noteWaits.noteRooms.disp.waits } } := rfl

theorem Dev.account_parts : s.account.tickless = s.tickless ∧ s.account.regs = s.regs ∧ s.account.bases = s.bases ∧
    s.account.tim = s.tim ∧ s.account.real = s.real ∧ s.account.ring = s.ring := by
  obtain ⟨nt, nr, nb, nm, ne, ng, -⟩ := Dev.parts_of_waits s.noted_eq
  obtain ⟨ar, ab, am, ae, ag⟩ := Dev.parts_of_coreless s.account_coreless
  exact ⟨(Dev.tickless_of_coreless s.account_coreless).trans nt, ar.trans nr, ab.trans nb, am.trans nm, ae.trans ne, ag.trans ng⟩

/-- A core that the issue limit does not hold stays as it is (R545). -/
theorem Dev.account_core_of_free (c : Nat) (h : s.held c = 0) : s.account.core c = s.core c := by
  obtain ⟨-, -, -, -, -, -, hn⟩ := Dev.parts_of_waits s.noted_eq
  rw [Dev.core, Dev.cores_of_uncounted s.account_uncounted, ← Dev.core,
    s.noteWaits.noteRooms.slotTick_spec.2 c ((hn c).1.trans h), (hn c).2]

/-- The elapsed time is `n`. -/
def Dev.withReal (s : Dev) (n : Nat) : Dev := { s with real := n }

theorem Dev.withReal_parts (n : Nat) :
    (s.withReal n).tickless = s.tickless ∧ (s.withReal n).cores = s.cores ∧ (s.withReal n).ring = s.ring := ⟨rfl, rfl, rfl⟩
@[simp] theorem Dev.withReal_real (n : Nat) : (s.withReal n).real = n := rfl
@[simp] theorem Dev.withReal_reg (n o : Nat) : (s.withReal n).reg o = s.reg o := rfl
@[simp] theorem Dev.withReal_fld (n : Nat) (f : Fld) : (s.withReal n).fld f = s.fld f := rfl
@[simp] theorem Dev.withReal_base (n d : Nat) : (s.withReal n).base d = s.base d := rfl
@[simp] theorem Dev.withReal_now (n d : Nat) : (s.withReal n).now d = s.now d := rfl

/-- A tick before its work: what it accounts for, and the time. -/
def Dev.timePassed (s : Dev) : Dev := (s.account.noteHoldover.moveTime (8 + rateDue s.tim.rate s.real)).withReal (s.real + 8)

theorem Dev.timePassed_parts :
    s.timePassed.tickless = s.tickless ∧ s.timePassed.cores = s.account.cores ∧ s.timePassed.ring = s.ring := by
  obtain ⟨et, ec, er⟩ := Dev.withReal_parts (s.account.noteHoldover.moveTime (8 + rateDue s.tim.rate s.real)) (s.real + 8)
  obtain ⟨mt, mc, mr⟩ := s.account.noteHoldover.moveTime_parts (8 + rateDue s.tim.rate s.real)
  obtain ⟨ht, hc, hr, -⟩ := s.account.noteHoldover_parts
  obtain ⟨wt, -, -, -, -, ar⟩ := s.account_parts
  exact ⟨et.trans (mt.trans (ht.trans wt)), ec.trans (mc.trans hc), er.trans (mr.trans (hr.trans ar))⟩

theorem Dev.timePassed_reg_other {o : Nat} (hn : o ≠ timNowNow.off) (hh : o ≠ timStatusHoldover.off) : s.timePassed.reg o = s.reg o := by
  obtain ⟨-, ar, -⟩ := s.account_parts
  rw [Dev.timePassed, Dev.withReal_reg, Dev.moveTime_reg_other _ _ hn, Dev.noteHoldover_reg_other _ hh, Dev.reg_of_regs ar]

theorem Dev.timePassed_base (d : Nat) : s.timePassed.base d =
    if d < 4 then { s.base d with now := ((s.now d : Int) + (8 + rateDue s.tim.rate s.real)).toNat % 2 ^ 64 } else s.base d := by
  obtain ⟨-, -, hc, hb⟩ := s.account.noteHoldover_parts
  obtain ⟨-, -, ab, -⟩ := s.account_parts
  have hbase : s.account.noteHoldover.base d = s.base d := by rw [Dev.base, Dev.base, hb, ab]
  rw [Dev.timePassed, Dev.withReal_base, Dev.moveTime_base, hbase, Dev.now]

theorem Dev.timePassed_now : s.timePassed.fld timNowNow = s.timePassed.now 0 := by
  rw [Dev.timePassed, Dev.withReal_fld, Dev.withReal_now, Dev.moveTime_now]

theorem Dev.timePassed_core_of_free (c : Nat) (h : s.held c = 0) : s.timePassed.core c = s.core c := by
  rw [Dev.core, s.timePassed_parts.2.1]
  exact s.account_core_of_free c h

theorem Dev.tick_eq_tickWork : s.tick = ((tickEffect s.account).withReal (s.real + 8)).tickWork s := by
  simp only [Dev.tick, Dev.account, Dev.withReal]

theorem Dev.tick_eq_of_unslewed (hs : s.tim.slew = 0) : s.tick = s.timePassed.tickWork s := by
  obtain ⟨-, -, -, htim, hreal, -⟩ := s.account_parts
  rw [Dev.tick_eq_tickWork, tickEffect_of_unslewed _ (by rw [htim]; exact hs), htim, hreal, Dev.timePassed]

/-- While nothing waits a tick passes the time and moves the ring. -/
theorem Dev.tick_of_nothingWaits (h : s.NothingWaits) (hs : s.tim.slew = 0) :
    s.tick.ringless = s.timePassed.ringless ∧ s.tick.ring = s.ringTick.ring := by
  obtain ⟨hless, -, hring⟩ := s.timePassed_parts
  obtain ⟨hque, hjob, hfab⟩ := Dev.parts_of_tickless hless
  have hwaits : s.timePassed.NothingWaits := h.congr hque hjob hfab (s.timePassed_reg_other (by decide) (by decide))
  obtain ⟨hr, hw⟩ := s.timePassed.tickWork_of_nothingWaits s hwaits
  rw [s.tick_eq_of_unslewed hs]
  exact ⟨hr, hw.trans (Dev.ringTick_ring_congr hring)⟩

end Sys2Proof.Machine
end

section
/-! SUPPORT. A step on an empty queue: host reads and O2 (R7, R277 to R281). -/

namespace Sys2Proof.Machine

variable (s : Dev)

/-! ### A step on an empty queue -/

/-- What follows a device that changed as a tick changes it. -/
theorem Dev.wired_of_tickless {a b : Dev} (h : a.tickless = b.tickless) :
    b.wired a = { b with regs := (b.wired a).regs, bases := (b.wired a).bases, cores := (b.wired a).cores, pmc := (b.wired a).pmc,
                         ring := (b.wired a).ring, real := (b.wired a).real, sec := (b.wired a).sec,
                         disp := { b.disp with waits := (b.wired a).disp.waits } } := by
  rw [Dev.eq_of_tickless h]
  rfl

theorem step_of_empty (s : State) (h : s.pending = []) : step s = .next { s with dev := s.dev.wired (idleEffect s.dev) } := by
  obtain ⟨dev, pending⟩ := s
  subst h
  rfl

/-! ### Host reads (R7, R277 to R279, R281) -/

/-- On an empty queue a read that the host port carries is answered. -/
theorem idleEffect_of_read (r : HostRead) (l : List HostRead) (hr : s.que.reads = r :: l) (hd : s.que.down = none)
    (hp : s.pausedUnit ⟨.hostPort, 0⟩ = false) (hs : s.readServed r.space = true) :
    idleEffect s =
      (let d : Dev := { s with que := { s.que with reads := l } }
       (d.readData r).1.sendHost (.readData r (d.readData r).2)) := by
  have hserved : ({ s with que := { s.que with reads := l } } : Dev).readServed r.space = true := hs
  simp only [idleEffect, Dev.serveRead, hr]
  rw [if_neg (by simp [hd, hp]), if_neg (by simp [hserved])]

theorem idleEffect_of_no_read (hr : s.que.reads = []) : idleEffect s = s.tick := by
  simp only [idleEffect, Dev.serveRead, hr]

theorem Dev.readData_bar0 (r : HostRead) (h : r.space = .bar0) : s.readData r = s.readBar0 r.off r.size := by
  simp only [Dev.readData, h]

theorem Dev.readBar0_of_word (off size : Nat) (w : W64) (hs : size = 4 ∨ size = 8) (ho : off % size = 0)
    (hw : s.readWord (off / 8 * 8) = some w) : s.readBar0 off size = (s, ((natLe 8 w.toNat).drop (off % 8)).take size) := by
  simp [Dev.readBar0, hs, ho, hw]

theorem Dev.readBar0_of_violation (off size : Nat)
    (h : ¬(size = 4 ∨ size = 8) ∨ off % size ≠ 0 ∨ s.readWord (off / 8 * 8) = none) :
    s.readBar0 off size = (s.violation off false, natLe size 0) := by
  unfold Dev.readBar0
  extract_lets none_
  split
  next => rfl
  next hok =>
    have hform : (size = 4 ∨ size = 8) ∧ off % size = 0 := by
      simp only [Bool.not_eq_true', decide_eq_false_iff_not, not_or, not_not] at hok
      omega
    have hw : s.readWord (off / 8 * 8) = none := by
      obtain h | h | h := h
      · exact absurd hform.1 h
      · exact absurd hform.2 h
      · exact h
    rw [hw]

/-- What a read of a register shows: the word without its write-only and reserved bits (R7, R278). -/
theorem Dev.readWord_of_regAt (base : Nat) (r : RegDesc) (hr : regAt base = some r) (hq : ¬(0x2040 ≤ base ∧ base < 0x2080))
    (ht : base ≠ pmcTraceCtlRelEn.off) : s.readWord base = some (s.shownWord base &&& r.mask (· != .wo)) := by
  have hh : s.hiddenBits base = 0#64 := if_neg fun x => ht x.1
  rw [Dev.readWord, if_neg hq, hr, Option.map_some, hh, and_not_zero]

theorem Dev.shownWord_active (base : Nat) (h : s.on sysStageCtlStgRd = false) : s.shownWord base = s.reg base := by
  simp [Dev.shownWord, h]

theorem Dev.shownWord_staged (base : Nat) (h : s.on sysStageCtlStgRd = true) (hw : Sparse.get (always 0) s.regs.waitBits base = 0) :
    s.shownWord base = putMasked (s.reg base) (Sparse.get (always 0) s.regs.stgBits base) (Sparse.get (always 0) s.regs.stg base) := by
  unfold Dev.shownWord
  simp only [h, if_true, hw]
  rw [show (0 : W64) = 0#64 from rfl, put_no_bits]
  rfl

end Sys2Proof.Machine

open Sys2Proof Sys2Proof.Machine

/-- Settles O2: with nothing waiting a tick counts, holds cores, passes the time and moves the ring (`Dev.tick_of_nothingWaits`); a waiting read is
answered with the word its register shows. -/
theorem emptyQueueLetsTimePass : Obligations.EmptyQueueLetsTimePass := by
  unfold Obligations.EmptyQueueLetsTimePass
  refine ⟨?_, ?_, ?_⟩
  · intro s hp hreads hslew howed hcmds h5 hhold hcalm hleave _
    obtain ⟨hless, hring⟩ := s.dev.tick_of_nothingWaits ⟨howed, hcmds, h5, hhold, hcalm, hleave⟩ hslew
    obtain ⟨-, -, -, hregs, hbases, hcores, hreal⟩ := Dev.parts_of_ringless hless
    have htick := (Dev.tickless_of_ringless hless).trans s.dev.timePassed_parts.1
    have hstep := step_of_empty s hp
    rw [idleEffect_of_no_read s.dev hreads] at hstep
    refine ⟨_, hstep, hp, ?_, ?_, ?_, ?_, ?_, ?_, ?_, Dev.wired_of_tickless htick⟩
    · show (s.dev.wired s.dev.tick).real = _
      rw [Dev.wired_real, hreal, Dev.timePassed, Dev.withReal_real]
    · intro d hd
      show (s.dev.wired s.dev.tick).now d = _ ∧ ((s.dev.wired s.dev.tick).base d).sub = _
      rw [Dev.now, Dev.base, Dev.wired_bases, hbases, ← Dev.base, Dev.timePassed_base, if_pos hd]
      exact ⟨rfl, rfl⟩
    · intro d hd
      show (s.dev.wired s.dev.tick).base d = _
      rw [Dev.base, Dev.wired_bases, hbases, ← Dev.base, Dev.timePassed_base, if_neg (by omega)]
    · show (s.dev.wired s.dev.tick).fld timNowNow = (s.dev.wired s.dev.tick).now 0
      rw [Dev.wired_fld _ _ _ (by decide +kernel), Dev.fld, Dev.reg_of_regs hregs, ← Dev.fld, Dev.timePassed_now,
        Dev.now, Dev.now, Dev.base, Dev.base, Dev.wired_bases, hbases]
    · intro o hn hh
      rw [Dev.wired_reg, Dev.reg_of_regs hregs, Dev.timePassed_reg_other _ hn hh]
    · show (s.dev.wired s.dev.tick).ring = _
      rw [Dev.wired_ring, hring]
    · intro c hc
      show (s.dev.wired s.dev.tick).core c = _
      rw [Dev.core, Dev.wired_cores, hcores, ← Dev.core, Dev.timePassed_core_of_free _ _ hc]
  · intro s r l hp hr hd hpause hserved d
    refine ⟨?_, fun w hb hsz ho hw => ?_, fun hb hv => ?_, fun hb hsz ho => ?_⟩
    · rw [step_of_empty s hp, idleEffect_of_read s.dev r l hr hd hpause hserved]
    · rw [d.readData_bar0 r hb, d.readBar0_of_word _ _ w hsz ho hw]
    · rw [d.readData_bar0 r hb, d.readBar0_of_violation _ _ hv]
    · simp [Dev.readData, hb, hsz, ho]
  · intro d base r hr hq ht
    rw [d.readWord_of_regAt base r hr hq ht]
    exact ⟨fun h => by rw [d.shownWord_active base h], fun h hw => by rw [d.shownWord_staged base h hw]; rfl⟩
end

section
/-! SUPPORT. Commits and scheduled changes, command by command, and O14 (R23, R24, R191, R226, R280, R360). -/

namespace Sys2Proof.Machine

/-- A command whose effect makes `d` of the device completes with `d`. -/
theorem State.run_eq {s : State} {f : Dev → Dev} {d : Dev} (h : f s.dev = d) : s.run f = .next { s with dev := s.dev.wired d } :=
  s.run_congr (g := fun _ => d) h

variable (s : Dev) (u : UnitId)

/-! ### COMMIT_REQUEST (R280) -/

theorem commitRequestEffect_of_commit (c : Commit) (h : s.regs.commit = some c) :
    commitRequestEffect s =
      { s.addFld sysLullStatusReq 1 with regs := { (s.addFld sysLullStatusReq 1).regs with again := true } } := by
  simp [commitRequestEffect, h]

theorem commitRequestEffect_of_no_commit (h : s.regs.commit = none) :
    commitRequestEffect s = (s.addFld sysLullStatusReq 1).commitStart := by
  simp [commitRequestEffect, h]

theorem Dev.commitStart_of_unstaged (h : s.regs.stgBits = []) :
    s.commitStart = (s.commitDone (s.fld sysLullStatusReq)).count pkgBlk 0 1 := by
  simp [Dev.commitStart, h]

theorem Dev.commitStart_of_staged (h : s.regs.stgBits ≠ []) :
    s.commitStart = { s with regs := { s.regs with commit := some ⟨BitVec.ofNat 32 (s.fld sysLullStatusReq), [], s.pkg.fences, false,
      (List.range 16).filter fun p => s.on (fabPortFenced.nth p), []⟩ } } := by
  simp [Dev.commitStart, h]

/-! ### UNIT_LULL_PAUSE (R23, R24) -/

theorem unitPauseEffect_of_no_lull (c : Commit) (hc : s.regs.commit = some c) (h : s.atLull s.regs.stgBits u = false) :
    unitPauseEffect u s = s := by
  simp [unitPauseEffect, hc, h]

/-- A participating unit pauses at its lull; a core's first matrix engine stops the core's matrix stream. -/
theorem unitPauseEffect_of_lull (c : Commit) (hc : s.regs.commit = some c) (hl : c.lulled = false) (hp : u ∈ s.participants c)
    (hn : u ∉ c.paused) (h : s.atLull s.regs.stgBits u = true) :
    unitPauseEffect u s =
      (let first := u.kind = .matrix ∧ u.ix / 4 ∉ c.stops
       let d := if first then s.parkRows (u.ix / 4) else s
       { d with regs := { d.regs with commit := some { c with
           paused := c.paused ++ [u], stops := if first then c.stops ++ [u.ix / 4] else c.stops } } }) := by
  simp [unitPauseEffect, hc, hl, hp, hn, h]

/-! ### DEVICE_LULL with changes that wait for a close (R191, R226) -/

/-- With every participating unit paused and no host access held, nothing holds the device lull up. -/
theorem Dev.lull_reached (c : Commit) (hl : c.lulled = false) (hp : ∀ v ∈ s.participants c, v ∈ c.paused) (hw : s.mem.hdmWait = []) :
    (c.lulled || !(s.participants c).all c.paused.contains || (holders s.regs.stgBits).any fun u =>
      u.kind == .memCtl && !s.atLull s.regs.stgBits u) = false := by
  have hall : (s.participants c).all c.paused.contains = true := by simpa using hp
  have hmem : ((holders s.regs.stgBits).any fun u => u.kind == .memCtl && !s.atLull s.regs.stgBits u) = false := by
    rw [List.any_eq_false]
    intro u _
    by_cases hu : u.kind = .memCtl
    · simp [hu, Dev.atLull, hw]
    · simp [hu]
  rw [hl, hall, hmem]
  rfl

/-- What waits for a close keeps the commit open behind the lull. -/
theorem deviceLullEffect_of_deferred (c : Commit) (hc : s.regs.commit = some c) (hl : c.lulled = false)
    (hp : ∀ v ∈ s.participants c, v ∈ c.paused) (hw : s.mem.hdmWait = []) (hr : s.running = true)
    (hd : ∃ e ∈ s.regs.stgBits, deferred e.1 = true) :
    (deviceLullEffect s).regs.commit = some { c with paused := [], stops := [], lulled := true } ∧
      (deviceLullEffect s).regs.stg = [] ∧ (deviceLullEffect s).regs.stgBits = [] := by
  have hlater : (s.splitDeferred s.regs.stgBits).2.isEmpty = false := by
    simpa [Dev.splitDeferred, hr] using hd
  unfold deviceLullEffect
  simp only [hc]
  rw [if_neg (by rw [s.lull_reached c hl hp hw]; decide), if_neg (by simp [hlater])]
  refine ⟨rfl, ?_, ?_⟩ <;> dsimp only
  · exact congrArg RegFile.stg (Dev.regs_of_steady (Dev.count_steady _ _ _ _))
  · exact congrArg RegFile.stgBits (Dev.regs_of_steady (Dev.count_steady _ _ _ _))

/-! ### Changes scheduled at a time (R360) -/

theorem scheduleEffect_of_refused (h : s.fld timSchedTT < s.now 0 + 50000 ∨ s.on timSchedStatusPending = true) :
    scheduleEffect s = s.setBit timSchedStatusRefused true := by
  simp only [scheduleEffect]
  rw [if_pos (by simpa using h)]

theorem scheduleEffect_of_captured (h : s.now 0 + 50000 ≤ s.fld timSchedTT) (hp : s.on timSchedStatusPending = false) :
    scheduleEffect s =
      (let n : Sched := ⟨s.fld timSchedTT, s.regs.stg, s.regs.stgBits, []⟩
       let d := { s with regs := { s.regs with sched := some n, stg := [], stgBits := [] } }
       ((d.setBit timSchedStatusPending true).setFld timSchedStatusApplied 0).setFld timSchedStatusExpected (s.schedUnits n).length) := by
  simp only [scheduleEffect]
  rw [if_neg (by simp [hp]; omega)]

theorem cancelEffect_of_early (k : Sched) (hk : s.regs.sched = some k) (h : s.now 0 < k.t) :
    cancelEffect s =
      ((({ s with regs := { s.regs with sched := none } } : Dev).setBit timSchedStatusPending false).setFld timSchedStatusApplied 0).setFld
        timSchedStatusExpected 0 := by
  have hd : s.schedDue = false := by simp [Dev.schedDue, hk, h]
  simp [cancelEffect, hd, hk]

theorem schedDueEffect_of_applies (k : Sched) (hk : s.regs.sched = some k) (ht : k.t ≤ s.now 0) (hu : u ∈ s.schedUnits k)
    (hn : u ∉ k.applied) (hl : s.atLull k.bits u = true) :
    schedDueEffect u s =
      (let n := { k with applied := k.applied ++ [u] }
       let d := s.activateAll k.vals (k.bits.filter fun (e : Nat × W64) =>
         (unitsOf e.1).contains u && (unitsOf e.1).all fun x => n.applied.contains x || s.unitFenced s.pkg.fences x)
       let d := { d with regs := { d.regs with sched := some n } }
       (if u.kind = .matrix then d.unparkRows [u.ix / 4] else d).schedSettle) := by
  have hd : s.schedDue = true := by simp [Dev.schedDue, hk, ht]
  simp only [schedDueEffect, hk]
  rw [if_neg (by simp [hd, hu, hn, hl])]

end Sys2Proof.Machine

open Sys2Proof Sys2Proof.Machine

/-- Settles O14: each command's effect under the conditions of its clause; the device lull is that of O15. -/
theorem commitsAndScheduledChanges : Obligations.CommitsAndScheduledChanges := by
  unfold Obligations.CommitsAndScheduledChanges
  intro s c u k
  refine ⟨?_, ?_, ?_, ?_, ?_, ?_, ?_, ?_, ?_, ?_⟩
  · exact fun hc => State.run_eq (commitRequestEffect_of_commit s.dev c hc)
  · exact fun hc hs => State.run_eq ((commitRequestEffect_of_no_commit s.dev hc).trans (Dev.commitStart_of_staged _ hs))
  · exact fun hc hs => State.run_eq ((commitRequestEffect_of_no_commit s.dev hc).trans (Dev.commitStart_of_unstaged _ hs))
  · exact fun hc hl hp hn => ⟨fun h => State.run_eq (unitPauseEffect_of_no_lull s.dev u c hc h),
      fun h => State.run_eq (unitPauseEffect_of_lull s.dev u c hc hl hp hn h)⟩
  · exact fun hc hl hp hw hd => State.run_eq (deviceLullEffect_of_paused s.dev c hc hl hp hw hd)
  · exact fun hc hl hp hw hr hd => ⟨_, rfl, deviceLullEffect_of_deferred s.dev c hc hl hp hw hr hd⟩
  · exact fun ht hp => State.run_eq (scheduleEffect_of_captured s.dev ht hp)
  · exact fun h => State.run_eq (scheduleEffect_of_refused s.dev h)
  · exact fun hk ht => State.run_eq (cancelEffect_of_early s.dev k hk ht)
  · exact fun hk ht hu hn hl => State.run_eq (schedDueEffect_of_applies s.dev u k hk ht hu hn hl)
end

section
/-! SUPPORT. Time transfer, lock, SYNC_IN, the reference clocks and heartbeats, command by command, and O53 (R26, R339 to R344, R476 to R478). -/

namespace Sys2Proof.Machine

variable (s : Dev)

/-! ### One-bit fields and messages -/

theorem Dev.on_setBit_same (f : Fld) (b : Bool) (hw : f.width = 1) (h : f.lo + f.width ≤ 64) : (s.setBit f b).on f = b := by
  rw [Dev.on, Dev.setBit, Dev.fld_setFld_same _ _ _ h, hw]
  cases b <;> rfl

theorem Dev.on_setBit_other (f g : Fld) (b : Bool) (h : g.off ≠ f.off ∨ g.lo + g.width ≤ f.lo ∨ f.lo + f.width ≤ g.lo) :
    (s.setBit f b).on g = s.on g := by
  rw [Dev.on, Dev.setBit, Dev.fld_setFld_other _ _ _ _ h, Dev.on]

@[simp] theorem Dev.detect_fld (src : Src) (kind cls arg : Nat) (f : Fld) : (s.detect src kind cls arg).fld f = s.fld f := by
  rw [Dev.fld, Dev.fld, Dev.detect, Dev.reg_of_regs (Dev.regs_of_steady (s.detectN_steady src kind cls 1 arg))]

@[simp] theorem Dev.detect_on (src : Src) (kind cls arg : Nat) (f : Fld) : (s.detect src kind cls arg).on f = s.on f := by
  rw [Dev.on, Dev.detect_fld, Dev.on]

theorem Dev.wired_on (t : Dev) (f : Fld) (h : bitMask f.lo f.width &&& fieldBits f.off = bitMask f.lo f.width) :
    (s.wired t).on f = t.on f := by
  rw [Dev.on, Dev.wired_fld _ _ _ h, Dev.on]

/-! ### The exchange (R341) -/

theorem timeRequestSendEffect_of_due (p : Nat) (hf : s.follower = true) (hd : ∀ u, s.tim.sent = some u → u + 1000000 ≤ s.now 0)
    (hp : s.timePort = some p) :
    timeRequestSendEffect s =
      (let seq := (s.tim.seq + 1) % 65536
       ({ s with tim := { s.tim with seq, sent := some (s.now 0), port := p } } : Dev).timeGust p (s.fld timStatusMpkg)
         (timePayload 1 (s.on timStatusLock) seq s.ownPkg (s.now 0) 0 0)) := by
  unfold timeRequestSendEffect
  extract_lets due
  have hdue : due = true := by
    simp only [due]
    split
    · exact decide_eq_true (hd _ ‹_›)
    · rfl
  rw [if_neg (by simp [hf, hdue]), hp]
  rfl

theorem timeRequestEffect_of_taken (port : Nat) (g : List Byte) (ns : Nat) (d : Dev) (ht : s.timeTake port g = (d, true))
    (hf : d.follower = false) (hk : leAt (gPayload g) 0 1 = 1) :
    timeRequestEffect port g ns s =
      d.timeGust port (gSrc g)
        (timePayload 2 (d.on timStatusLock) (leAt (gPayload g) 2 2) d.ownPkg (leAt (gPayload g) 8 8) (d.now 0) (d.now 0 + ns)) := by
  simp [timeRequestEffect, ht, hf, hk]

/-- 2θ of the reply `g` and its round trip (R341). -/
def Dev.replyOf (d : Dev) (g : List Byte) : Int × Nat :=
  (((leAt (gPayload g) 0x10 8 : Int) - leAt (gPayload g) 8 8) - ((d.now 0 : Int) - leAt (gPayload g) 0x18 8),
    (((d.now 0 : Int) - leAt (gPayload g) 8 8) - ((leAt (gPayload g) 0x18 8 : Int) - leAt (gPayload g) 0x10 8)).toNat)

/-- The exchange that the window keeps: the one with the smaller round trip (R342). -/
def Dev.keptExchange (d : Dev) (g : List Byte) : Int × Nat :=
  match d.tim.best with
  | some b => if (d.replyOf g).2 < b.2 then d.replyOf g else b
  | none => d.replyOf g

variable (g : List Byte) (d : Dev)

theorem Dev.keptExchange_of_best (h : ∀ z, d.tim.best = some z → (d.replyOf g).2 < z.2) : d.keptExchange g = d.replyOf g := by
  unfold Dev.keptExchange
  split
  · exact if_pos (h _ ‹_›)
  · rfl

theorem Dev.keptExchange_of_worse (z : Int × Nat) (hz : d.tim.best = some z) (h : z.2 ≤ (d.replyOf g).2) : d.keptExchange g = z := by
  simp only [Dev.keptExchange, hz]
  exact if_neg (Nat.not_lt.mpr h)

/-- A reply to the request sent last, from a master with lock. -/
theorem timeReplyEffect_of_fitting (port : Nat) (ht : s.timeTake port g = (d, true)) (hf : d.follower = true)
    (hk : leAt (gPayload g) 0 1 = 2) (hq : leAt (gPayload g) 2 2 = d.tim.seq) (hs : d.tim.sent ≠ none)
    (hl : leAt (gPayload g) 1 1 % 2 = 1) :
    timeReplyEffect port g s =
      ({ d with tim := { d.tim with best := some (d.keptExchange g), valid := d.real } } : Dev).setBit timStatusHoldover false := by
  simp only [timeReplyEffect, ht]
  rw [if_neg (by simp [hf, hk, hq, hs, hl])]
  rfl

/-! ### The window (R342) -/

/-- What a window with an exchange shows and keeps, before it steps the count or changes lock. -/
def Dev.windowShown (s : Dev) (th2 : Int) (rtt : Nat) : Dev :=
  { ((s.setFld timStatusOffset (wrap 16 (max (-32767) (min 32767 (th2 / 2))))).setFld timStatusRtt (Nat.min 65535 rtt)) with
    tim := { s.tim with best := none, winAt := s.real, first := false, good := if th2.natAbs ≤ 20 then s.tim.good + 1 else 0,
                        rate := max (-1600) (min 1600 th2) } }

section
variable (hf : s.follower = true) (hw : s.tim.winAt + 16000000 ≤ s.real)
include hf hw

theorem timeWindowEffect_of_empty (hb : s.tim.best = none) :
    timeWindowEffect s = { s with tim := { s.tim with winAt := s.real, good := 0 } } := by
  simp [timeWindowEffect, hf, hw, hb]

theorem timeWindowEffect_of_exchange (th2 : Int) (rtt : Nat) (hb : s.tim.best = some (th2, rtt)) :
    timeWindowEffect s =
      (let y := s.windowShown th2 rtt
       let t := if s.tim.first = true ∧ s.on timStatusLock = false ∧ s.running = false ∧ 2000 < th2.natAbs then y.stepTime (th2 / 2) else y
       if 40 < th2.natAbs then t.setLock false else if 4 ≤ y.tim.good then t.setLock true else t) := by
  have hlock : ((s.setFld timStatusOffset (wrap 16 (max (-32767) (min 32767 (th2 / 2))))).setFld timStatusRtt
      (Nat.min 65535 rtt)).on timStatusLock = s.on timStatusLock := by
    rw [Dev.on, Dev.fld_setFld_other _ _ _ _ (by decide), Dev.fld_setFld_other _ _ _ _ (by decide), Dev.on]
  have hjob : ((s.setFld timStatusOffset (wrap 16 (max (-32767) (min 32767 (th2 / 2))))).setFld timStatusRtt
      (Nat.min 65535 rtt)).fld sysJobStatusState = s.fld sysJobStatusState := by
    rw [Dev.fld_setFld_other _ _ _ _ (by decide), Dev.fld_setFld_other _ _ _ _ (by decide)]
  unfold timeWindowEffect
  rw [if_neg (by simp [hf, hw])]
  simp only [hb, hlock, hjob, Bool.and_eq_true, Bool.not_eq_true', decide_eq_true_eq, bne_iff_ne, and_assoc, Dev.running, beq_eq_false_iff_ne]
  rfl

theorem timeWindowEffect_of_slew (th2 : Int) (rtt : Nat) (hb : s.tim.best = some (th2, rtt))
    (hs : ¬(s.tim.first = true ∧ s.on timStatusLock = false ∧ s.running = false ∧ 2000 < th2.natAbs)) :
    timeWindowEffect s =
      (let y := s.windowShown th2 rtt
       if 40 < th2.natAbs then y.setLock false else if 4 ≤ y.tim.good then y.setLock true else y) := by
  rw [timeWindowEffect_of_exchange s hf hw th2 rtt hb]
  simp only [if_neg hs]

theorem timeWindowEffect_of_step (th2 : Int) (rtt : Nat) (hb : s.tim.best = some (th2, rtt))
    (hs : s.tim.first = true ∧ s.on timStatusLock = false ∧ s.running = false ∧ 2000 < th2.natAbs) :
    timeWindowEffect s = ((s.windowShown th2 rtt).stepTime (th2 / 2)).setLock false := by
  obtain ⟨-, -, -, hfar⟩ := id hs
  rw [timeWindowEffect_of_exchange s hf hw th2 rtt hb]
  simp only [if_pos hs]
  exact if_pos (by omega)

end

theorem timeTimeoutEffect_of_late (hf : s.follower = true) (hl : s.on timStatusLock = true) (ht : s.tim.valid + 100000000 ≤ s.real) :
    timeTimeoutEffect s = s.setLock false := by
  simp [timeTimeoutEffect, hf, hl, ht]

/-! ### SYNC_IN (R343, R537) -/

/-- An edge has been seen. -/
def Dev.edgeSeen (s : Dev) : Dev :=
  (({ s with tim := { s.tim with edge := some s.real, jump := false } } : Dev).setBit timStatusSyncSeen true).setLock true

theorem syncEdgeEffect_of_counted (hf : s.follower = false) (he : ∀ u, s.tim.edge = some u → u + 900000000 ≤ s.real) :
    syncEdgeEffect s =
      (if s.fld timStatusRole ≠ 2 then s
       else if s.tim.jump ∧ 1000000 < (toSecond (s.now 0)).natAbs then s.stepTime (toSecond (s.now 0))
       else { s with tim := { s.tim with slew := toSecond (s.now 0) } }).edgeSeen := by
  unfold syncEdgeEffect
  extract_lets early
  have hearly : early = false := by
    simp only [early]
    split
    · exact decide_eq_false (Nat.not_lt.mpr (he _ ‹_›))
    · rfl
  rw [if_neg (by simp [hf, hearly])]
  rfl

theorem syncTimeoutEffect_of_late (hf : s.follower = false) (ht : s.tim.edge.getD s.tim.winAt + 3000000000 ≤ s.real) :
    syncTimeoutEffect s =
      (({ s with tim := { s.tim with edge := none, slew := 0, jump := false } } : Dev).setBit timStatusSyncSeen false).setLock true := by
  simp [syncTimeoutEffect, hf, ht]

/-! ### The reference clocks (R476 to R478) -/

theorem clkOk_width (b : Bool) : (clkOk b).width = 1 := by cases b <;> rfl

theorem clkOk_covered (b : Bool) : bitMask (clkOk b).lo (clkOk b).width &&& fieldBits (clkOk b).off = bitMask (clkOk b).lo (clkOk b).width := by
  cases b <;> decide +kernel

variable (b : Bool)

theorem Dev.clkOk_setBit_same (c : Bool) : (s.setBit (clkOk b) c).on (clkOk b) = c :=
  s.on_setBit_same _ _ (clkOk_width b) (by cases b <;> decide)

/-- A field of DIE_CLK apart from the validity of input `b`. -/
theorem Dev.clkOk_setBit_other (c : Bool) (g : Fld) (h : g ∈ [clkOk !b, dieClkInUse, dieClkHoldover, dieClkRevert, dieClkPref, dieClkChanges]) :
    (s.setBit (clkOk b) c).fld g = s.fld g := by
  refine s.fld_setFld_other _ _ _ ?_
  revert g
  cases b <;> decide

/-- Changing over to an input leaves that input in use; validity of the inputs and holdover stand. -/
theorem Dev.changeover_inUse : (s.changeover b).on dieClkInUse = b := by
  unfold Dev.changeover
  split
  next h => exact h
  next =>
    rw [Dev.clkMessage, Dev.detect_on, Dev.on, Dev.satFld, Dev.fld_setFld_other _ _ _ _ (by decide), ← Dev.on]
    exact s.on_setBit_same _ _ rfl (by decide)

theorem Dev.changeover_fld (g : Fld) (h : g ∈ [clkOk false, clkOk true, dieClkHoldover]) : (s.changeover b).fld g = s.fld g := by
  unfold Dev.changeover
  split
  next => rfl
  next =>
    rw [Dev.clkMessage, Dev.detect_fld, Dev.satFld, Dev.setBit, Dev.fld_setFld_other _ _ _ _ (by revert g; decide),
      Dev.fld_setFld_other _ _ _ _ (by revert g; decide)]

/-- The input in use is lost and the other one valid. -/
theorem clkLossEffect_of_other (hu : s.on dieClkInUse = b) (ho : s.on (clkOk !b) = true) :
    clkLossEffect b s = (s.setBit (clkOk b) false).changeover (!b) := by
  unfold clkLossEffect
  refine if_pos ⟨?_, ?_⟩
  · rw [Dev.on, s.clkOk_setBit_other b false _ (by simp), ← Dev.on, hu]
  · rw [Dev.on, s.clkOk_setBit_other b false _ (by simp), ← Dev.on, ho]

theorem clkLossEffect_of_unused (h : s.on dieClkInUse ≠ b ∨ s.on (clkOk !b) = false) : clkLossEffect b s = s.setBit (clkOk b) false := by
  unfold clkLossEffect
  refine if_neg fun ⟨hu, ho⟩ => ?_
  rw [Dev.on, s.clkOk_setBit_other b false _ (by simp), ← Dev.on] at hu ho
  simp [hu, ho] at h

/-- A change to the other input is counted. -/
theorem Dev.changeover_changes (h : s.on dieClkInUse ≠ b) : (s.changeover b).fld dieClkChanges = (s.satFld dieClkChanges 1).fld dieClkChanges := by
  have hc : (s.setBit dieClkInUse b).fld dieClkChanges = s.fld dieClkChanges := s.fld_setFld_other _ _ _ (by decide)
  rw [Dev.changeover, if_neg h, Dev.clkMessage, Dev.detect_fld, Dev.satFld, Dev.satFld, hc, Dev.fld_setFld_same _ _ _ (by decide),
    Dev.fld_setFld_same _ _ _ (by decide)]

theorem clkValidEffect_of_holdover (h : s.on dieClkHoldover = true) :
    clkValidEffect b s = ((s.setBit (clkOk b) true).setBit dieClkHoldover false).changeover b := by
  unfold clkValidEffect
  refine if_pos ?_
  rw [Dev.on, s.clkOk_setBit_other b true _ (by simp), ← Dev.on, h]

theorem clkValidEffect_of_no_holdover (h : s.on dieClkHoldover = false) :
    clkValidEffect b s =
      if s.on dieClkRevert = true ∧ s.on dieClkPref = b then (s.setBit (clkOk b) true).changeover b else s.setBit (clkOk b) true := by
  have other := fun g hg => s.clkOk_setBit_other b true g hg
  unfold clkValidEffect
  rw [if_neg]
  · simp only [Dev.on, other dieClkRevert (by simp), other dieClkPref (by simp), Bool.and_eq_true, beq_iff_eq]
  · rw [Dev.on, other dieClkHoldover (by simp), ← Dev.on, h]
    decide

theorem holdoverEffect_of_no_input (ha : s.on dieClkAOk = false) (hb : s.on dieClkBOk = false) (hh : s.on dieClkHoldover = false) :
    holdoverEffect s = (s.setBit dieClkHoldover true).clkMessage (s.on dieClkInUse) := by
  simp [holdoverEffect, ha, hb, hh, Dev.clkMessage]

/-! ### Heartbeats (R26) -/

theorem heartbeatEffect_of_due (h : s.pkg.hbAt + 1000000 ≤ s.now 0) :
    heartbeatEffect b s = { s with pkg := { s.pkg with hbMissed := if b then 0 else s.pkg.hbMissed + 1, hbAt := s.now 0 } } :=
  if_neg (Nat.not_lt.mpr h)

theorem heartbeatEffect_of_early (h : s.now 0 < s.pkg.hbAt + 1000000) : heartbeatEffect b s = s := if_pos h

end Sys2Proof.Machine

open Sys2Proof Sys2Proof.Machine

/-- Settles O53: each command's effect under the conditions of its clause; of a change over, the input in use, its validity and the count. -/
theorem timeTransferAndClocks : Obligations.TimeTransferAndClocks := by
  unfold Obligations.TimeTransferAndClocks
  intro s port g ns b d p rtt th2 x now pay
  refine ⟨?_, ?_, ?_, ?_, ?_, ?_, ?_, ?_, ?_, ?_, ?_, ?_, ?_, ?_, ?_, ?_⟩
  · exact fun hf hd hp => State.run_eq (timeRequestSendEffect_of_due x p hf hd hp)
  · exact fun ht hf hk => State.run_eq (timeRequestEffect_of_taken x port g ns d ht hf hk)
  · intro ht hf hk hq hs hl th2 rtt
    have hreply := timeReplyEffect_of_fitting x g d port ht hf hk hq hs hl
    refine ⟨fun hb => State.run_eq (hreply.trans ?_), fun z hz hb => State.run_eq (hreply.trans ?_)⟩
    · rw [d.keptExchange_of_best g hb]
      rfl
    · rw [d.keptExchange_of_worse g z hz hb, ← hz]
  · exact fun hf hw hb => State.run_eq (timeWindowEffect_of_empty x hf hw hb)
  · intro hf hw hb sat good steps y
    refine ⟨fun hs => ?_, fun hs => State.run_eq (timeWindowEffect_of_step x hf hw th2 rtt hb hs)⟩
    have hwin := timeWindowEffect_of_slew x hf hw th2 rtt hb hs
    exact ⟨fun hfar => State.run_eq (hwin.trans (if_pos hfar)),
      fun hnear hg => State.run_eq (hwin.trans ((if_neg (Nat.not_lt.mpr hnear)).trans (if_pos hg))),
      fun hnear hg => State.run_eq (hwin.trans ((if_neg (Nat.not_lt.mpr hnear)).trans (if_neg (Nat.not_le.mpr hg))))⟩
  · exact fun hf hl ht => State.run_eq (timeTimeoutEffect_of_late x hf hl ht)
  · intro hf he k seen
    have hedge := syncEdgeEffect_of_counted x hf he
    exact ⟨fun hr hj hk => State.run_eq (hedge.trans (congrArg Dev.edgeSeen ((if_neg (not_not_intro hr)).trans (if_pos ⟨hj, hk⟩)))),
      fun hr hj => State.run_eq (hedge.trans (congrArg Dev.edgeSeen ((if_neg (not_not_intro hr)).trans (if_neg hj)))),
      fun hr => State.run_eq (hedge.trans (congrArg Dev.edgeSeen (if_pos hr)))⟩
  · exact fun hf ht => State.run_eq (syncTimeoutEffect_of_late x hf ht)
  · intro hu ho
    refine ⟨_, State.run_eq (clkLossEffect_of_other x b hu ho), ?_, ?_, ?_⟩
    · show (x.wired _).on (clkOk b) = false
      rw [Dev.wired_on _ _ _ (clkOk_covered b), Dev.on, Dev.changeover_fld _ _ _ (by cases b <;> simp), ← Dev.on, Dev.clkOk_setBit_same]
    · show (x.wired _).on dieClkInUse = !b
      rw [Dev.wired_on _ _ _ (by decide +kernel), Dev.changeover_inUse]
    · show (x.wired _).fld dieClkChanges = _
      have hother : (x.setBit (clkOk b) false).on dieClkInUse ≠ !b := by
        rw [Dev.on, x.clkOk_setBit_other b false _ (by simp), ← Dev.on, hu]
        cases b <;> decide
      rw [Dev.wired_fld _ _ _ (by decide +kernel), Dev.changeover_changes _ _ hother, Dev.satFld, x.clkOk_setBit_other b false _ (by simp),
        Dev.satFld, Dev.fld_setFld_same _ _ _ (by decide), Dev.fld_setFld_same _ _ _ (by decide)]
  · exact fun h => State.run_eq (clkLossEffect_of_unused x b h)
  · intro hh
    refine ⟨_, State.run_eq (clkValidEffect_of_holdover x b hh), ?_, ?_, ?_⟩
    · show (x.wired _).on dieClkHoldover = false
      rw [Dev.wired_on _ _ _ (by decide +kernel), Dev.on, Dev.changeover_fld _ _ _ (by simp), ← Dev.on]
      exact Dev.on_setBit_same _ _ _ rfl (by decide)
    · show (x.wired _).on dieClkInUse = b
      rw [Dev.wired_on _ _ _ (by decide +kernel), Dev.changeover_inUse]
    · show (x.wired _).on (clkOk b) = true
      rw [Dev.wired_on _ _ _ (clkOk_covered b), Dev.on, Dev.changeover_fld _ _ _ (by cases b <;> simp), ← Dev.on,
        Dev.on_setBit_other _ _ _ _ (by cases b <;> decide), Dev.clkOk_setBit_same]
  · intro hh hr
    refine ⟨_, State.run_eq ((clkValidEffect_of_no_holdover x b hh).trans (if_pos hr)), ?_, ?_⟩
    · show (x.wired _).on dieClkInUse = b
      rw [Dev.wired_on _ _ _ (by decide +kernel), Dev.changeover_inUse]
    · show (x.wired _).on (clkOk b) = true
      rw [Dev.wired_on _ _ _ (clkOk_covered b), Dev.on, Dev.changeover_fld _ _ _ (by cases b <;> simp), ← Dev.on, Dev.clkOk_setBit_same]
  · exact fun hh hr => State.run_eq ((clkValidEffect_of_no_holdover x b hh).trans (if_neg hr))
  · exact fun ha hb hh => State.run_eq (holdoverEffect_of_no_input x ha hb hh)
  · exact fun h => State.run_eq (heartbeatEffect_of_due x b h)
  · exact fun h => State.run_eq (heartbeatEffect_of_early x b h)
end

section
/-! SUPPORT. An access to memory leaves every register before the drain bits of the pseudo-channels alone (R246). -/

namespace Sys2Proof.Machine

/-- The registers before MEM_PC_DRAIN, the one register that an access to memory can change. -/
def Dev.lowRegs (s : Dev) (o : Nat) : W64 := if o < memPcDrainDrain.off then s.reg o else 0

variable (s : Dev)

theorem Dev.lowRegs_of_regs {a b : Dev} (h : a.regs = b.regs) : a.lowRegs = b.lowRegs := by
  funext o
  rw [Dev.lowRegs, Dev.lowRegs, Dev.reg_of_regs h]

theorem Dev.lowRegs_of_steady {a b : Dev} (h : a.steady = b.steady) : a.lowRegs = b.lowRegs :=
  Dev.lowRegs_of_regs (Dev.regs_of_steady h)

theorem Dev.fld_of_lowRegs {a b : Dev} (h : a.lowRegs = b.lowRegs) (f : Fld) (hf : f.off < memPcDrainDrain.off) : a.fld f = b.fld f := by
  have hr := congrFun h f.off
  simp only [Dev.lowRegs, if_pos hf] at hr
  rw [Dev.fld, Dev.fld, hr]

@[simp] theorem Dev.count_lowRegs (b e k : Nat) : (s.count b e k).lowRegs = s.lowRegs := Dev.lowRegs_of_steady (s.count_steady b e k)

@[simp] theorem Dev.detect_lowRegs (src : Src) (kind cls arg : Nat) : (s.detect src kind cls arg).lowRegs = s.lowRegs :=
  Dev.lowRegs_of_steady (s.detectN_steady src kind cls 1 arg)

@[simp] theorem Dev.sendHost_lowRegs (o : Output) : (s.sendHost o).lowRegs = s.lowRegs :=
  Dev.lowRegs_of_steady (s.sendHostFor_steady none o)

@[simp] theorem Dev.startDrain_lowRegs (st pc : Nat) : (s.startDrain st pc).lowRegs = s.lowRegs := by
  unfold Dev.startDrain
  split
  · rfl
  · rw [Dev.detect_lowRegs]
    funext o
    unfold Dev.lowRegs
    split
    next h => exact (Dev.reg_setReg _ _ _ _).trans (if_neg (by simp only [Fld.nth]; omega))
    next => rfl

@[simp] theorem Dev.countPc_lowRegs (st pc : Nat) : (s.countPc st pc).lowRegs = s.lowRegs := by
  unfold Dev.countPc
  dsimp only
  split
  · exact Dev.startDrain_lowRegs _ st pc
  · rfl

@[simp] theorem Dev.noteWord_lowRegs (cls cw : Nat) (e : Ecc) : (s.noteWord cls cw e).lowRegs = s.lowRegs := by
  unfold Dev.noteWord
  split
  · cases e <;> simp
  · split
    · exact Dev.detect_lowRegs _ _ _ _ _
    all_goals simp

@[simp] theorem Dev.noteAll_lowRegs (cls : Nat) (l : List (Nat × Ecc)) : (s.noteAll cls l).lowRegs = s.lowRegs :=
  foldl_keeps Dev.lowRegs _ l (fun d x _ => d.noteWord_lowRegs cls x.1 x.2) s

@[simp] theorem Dev.snoopBack_lowRegs (pa n : Nat) : (s.snoopBack pa n).lowRegs = s.lowRegs :=
  foldl_keeps Dev.lowRegs _ _ (fun d _ _ => d.sendHost_lowRegs _) _

@[simp] theorem Dev.preWrite_lowRegs (cls pa n : Nat) : (s.preWrite cls pa n).lowRegs = s.lowRegs := by simp [Dev.preWrite]

@[simp] theorem Dev.countBytes_lowRegs (e ec pa n : Nat) : (s.countBytes e ec pa n).lowRegs = s.lowRegs := by
  refine foldl_keeps Dev.lowRegs _ _ (fun d x _ => ?_) s
  split <;> simp

@[simp] theorem Dev.cxlAsk_lowRegs (pa : Nat) (f : Option (Nat × Nat) → Nat → Output) : (s.cxlAsk pa f).lowRegs = s.lowRegs := by
  unfold Dev.cxlAsk
  split
  · dsimp only
    split
    · exact s.sendHost_lowRegs _
    · split <;> rfl
  · rfl

/-- What precedes the bytes of a write: merged words noted, host copies taken back, bytes counted, the window asked. -/
theorem Dev.writeAhead_lowRegs (cls pa n : Nat) (bs : List Byte) :
    (((s.preWrite cls pa n).countBytes 4 16 pa n).cxlOut pa bs).lowRegs = s.lowRegs := by
  simp [Dev.cxlOut]

@[simp] theorem Dev.physWrite_lowRegs (pa : Nat) (bs : List Byte) : (s.physWrite pa bs).lowRegs = s.lowRegs :=
  s.writeAhead_lowRegs 2 pa bs.length bs

@[simp] theorem Dev.physPoison_lowRegs (pa : Nat) (bs : List Byte) : (s.physPoison pa bs).lowRegs = s.lowRegs :=
  s.writeAhead_lowRegs 2 pa bs.length bs

@[simp] theorem Dev.carry_lowRegs (t : Nat) (src : Src) (wr : Bool) (pa n : Nat) : (s.carry t src wr pa n).lowRegs = s.lowRegs := by
  unfold Dev.carry
  dsimp only
  rw [foldl_keeps Dev.lowRegs]
  · split <;> simp
  · intro d p _
    split <;> rfl

@[simp] theorem Dev.tlbFill_lowRegs (t : Nat) (e : TlbEnt) : (s.tlbFill t e).lowRegs = s.lowRegs := by
  unfold Dev.tlbFill
  dsimp only
  split <;> rfl

@[simp] theorem Dev.putLeaf_lowRegs (a : Nat) (e : W64) : (s.putLeaf a e).lowRegs = s.lowRegs := by
  unfold Dev.putLeaf
  split
  · rfl
  · exact s.preWrite_lowRegs 2 _ _

@[simp] theorem Dev.markLeaf_lowRegs (a : Nat) (e : W64) (wr : Bool) : (s.markLeaf a e wr).lowRegs = s.lowRegs := by
  unfold Dev.markLeaf
  extract_lets e'
  split
  · rfl
  · exact s.putLeaf_lowRegs a e'

@[simp] theorem Dev.touchLeaf_lowRegs (e : TlbEnt) (wr : Bool) : (s.touchLeaf e wr).lowRegs = s.lowRegs := by
  unfold Dev.touchLeaf
  dsimp only
  split <;> simp

@[simp] theorem Dev.walkFill_lowRegs (t : Nat) (src : Src) (cls va : Nat) (wr : Bool) :
    (s.walkFill t src cls va wr).1.lowRegs = s.lowRegs := by
  unfold Dev.walkFill
  extract_lets counted w noted
  have hnoted : noted.lowRegs = s.lowRegs := by
    simp only [noted, counted]
    split <;> split <;> simp
  clear_value w noted
  cases w <;> simp [hnoted]

@[simp] theorem Dev.xlate_lowRegs (t : Nat) (src : Src) (cls va : Nat) (wr : Bool) : (s.xlate t src cls va wr).1.lowRegs = s.lowRegs := by
  unfold Dev.xlate
  split
  · simp
  · split
    · split
      · simp
      · split <;> simp
    · simp

theorem Dev.xlateAll_lowRegs (t : Nat) (src : Src) (cls : Nat) (wr : Bool) (l : List (Nat × Nat)) :
    ∀ s : Dev, (s.xlateAll t src cls wr l).1.lowRegs = s.lowRegs := by
  induction l with
  | nil => intro s; rfl
  | cons p l ih =>
    intro s
    have hp := s.xlate_lowRegs t src cls p.1 wr
    unfold Dev.xlateAll
    generalize s.xlate t src cls p.1 wr = x at hp
    obtain ⟨d, x⟩ := x
    cases x with
    | ok pa =>
      have hl := ih d
      dsimp only
      generalize d.xlateAll t src cls wr l = y at hl
      obtain ⟨d', y⟩ := y
      cases y <;> exact hl.trans hp
    | wait a => exact hp
    | fail => exact hp

theorem Dev.writePieces_lowRegs (poison : Bool) (l : List (Nat × Nat)) :
    ∀ (s : Dev) (bs : List Byte), (s.writePieces poison l bs).lowRegs = s.lowRegs := by
  induction l with
  | nil => intro s bs; rfl
  | cons p l ih =>
    intro s bs
    unfold Dev.writePieces
    dsimp only
    rw [ih]
    split <;> simp

@[simp] theorem Dev.vRead_lowRegs (t : Nat) (src : Src) (cls ucls va n : Nat) :
    (s.vRead t src cls ucls va n).1.lowRegs = s.lowRegs := by
  have hx : (s.xlateRange t src cls va n false).1.lowRegs = s.lowRegs := Dev.xlateAll_lowRegs t src cls false _ s
  unfold Dev.vRead
  generalize s.xlateRange t src cls va n false = x at hx
  obtain ⟨d, x⟩ := x
  cases x with
  | ok ps =>
    dsimp only
    rw [Dev.noteAll_lowRegs, foldl_keeps Dev.lowRegs _ ps fun d p _ => by simp]
    exact hx
  | wait a => exact hx
  | fail => exact hx

@[simp] theorem Dev.vWrite_lowRegs (t : Nat) (src : Src) (cls va : Nat) (bs : List Byte) :
    (s.vWrite t src cls va bs).1.lowRegs = s.lowRegs := by
  have hx : (s.xlateRange t src cls va bs.length true).1.lowRegs = s.lowRegs := Dev.xlateAll_lowRegs t src cls true _ s
  unfold Dev.vWrite Dev.vWriteP
  generalize s.xlateRange t src cls va bs.length true = x at hx
  obtain ⟨d, x⟩ := x
  cases x with
  | ok ps =>
    dsimp only
    rw [Dev.writePieces_lowRegs, foldl_keeps Dev.lowRegs _ ps fun d p _ => d.carry_lowRegs t src true p.1 p.2]
    exact hx
  | wait a => exact hx
  | fail => exact hx

end Sys2Proof.Machine
end

section
/-! SUPPORT. What the moving of work away from a fenced unit leaves alone (R160, R456): the carrier, the package, the map of logical cores,
registers; of the cores all but those that take work up. -/

namespace Sys2Proof.Machine

/-- The carrier, the package but for faults that wait for their fence, the map of logical cores, the registers that memory leaves alone. -/
def Dev.standing (s : Dev) := (s.car, { s.pkg with faulted := [] }, s.disp.lmap, s.lowRegs)

theorem Dev.standing_eq_iff {a b : Dev} : a.standing = b.standing ↔
    a.car = b.car ∧ { a.pkg with faulted := [] } = { b.pkg with faulted := [] } ∧ a.disp.lmap = b.disp.lmap ∧ a.lowRegs = b.lowRegs := by
  simp [Dev.standing]

theorem Dev.car_of_standing {a b : Dev} (h : a.standing = b.standing) : a.car = b.car := (Dev.standing_eq_iff.mp h).1

theorem Dev.fences_of_standing {a b : Dev} (h : a.standing = b.standing) : a.pkg.fences = b.pkg.fences := by
  obtain ⟨-, hp, -, -⟩ := Dev.standing_eq_iff.mp h
  have hf := congrArg Pkg.fences hp
  exact hf

theorem Dev.shadows_of_standing {a b : Dev} (h : a.standing = b.standing) : a.pkg.shadows = b.pkg.shadows := by
  obtain ⟨-, hp, -, -⟩ := Dev.standing_eq_iff.mp h
  have hs := congrArg Pkg.shadows hp
  exact hs

/-- The standing parts and the cores. -/
def Dev.standingCores (s : Dev) := (s.standing, s.cores)

theorem Dev.standingCores_of_beside {a b : Dev} (h : a.beside = b.beside) (hr : a.lowRegs = b.lowRegs) : a.standingCores = b.standingCores := by
  simp only [Dev.beside, Prod.mk.injEq] at h
  simp only [Dev.standingCores, Dev.standing, h, hr]

theorem Dev.standing_of_standingCores {a b : Dev} (h : a.standingCores = b.standingCores) : a.standing = b.standing := congrArg Prod.fst h

theorem Dev.core_of_standingCores {a b : Dev} (h : a.standingCores = b.standingCores) (c : Nat) : a.core c = b.core c := by
  have hc : a.cores = b.cores := congrArg Prod.snd h
  rw [Dev.core, Dev.core, hc]

variable (s : Dev)

@[simp] theorem Dev.count_standingCores (b e k : Nat) : (s.count b e k).standingCores = s.standingCores :=
  Dev.standingCores_of_beside (s.count_beside b e k) (s.count_lowRegs b e k)

@[simp] theorem Dev.detect_standingCores (src : Src) (kind cls arg : Nat) : (s.detect src kind cls arg).standingCores = s.standingCores :=
  Dev.standingCores_of_beside (s.detect_beside src kind cls arg) (s.detect_lowRegs src kind cls arg)

@[simp] theorem Dev.clusterFault_standingCores (k unit arg : Nat) : (s.clusterFault k unit arg).standingCores = s.standingCores := by
  unfold Dev.clusterFault
  split
  · rfl
  · exact s.detect_standingCores _ _ _ _

@[simp] theorem Dev.coreFault_standingCores (c : Nat) (src : Src) (arg : Nat) : (s.coreFault c src arg).standingCores = s.standingCores := by
  unfold Dev.coreFault
  split
  · rfl
  · exact s.detect_standingCores _ _ _ _

@[simp] theorem Dev.setCs_standingCores (k : Nat) (st : Store) : (s.setCs k st).standingCores = s.standingCores := rfl

@[simp] theorem Dev.vWrite_standingCores (t : Nat) (src : Src) (cls va : Nat) (bs : List Byte) :
    (s.vWrite t src cls va bs).1.standingCores = s.standingCores :=
  Dev.standingCores_of_beside (s.vWrite_beside t src cls va bs) (s.vWrite_lowRegs t src cls va bs)

@[simp] theorem Dev.vRead_standingCores (t : Nat) (src : Src) (cls ucls va n : Nat) :
    (s.vRead t src cls ucls va n).1.standingCores = s.standingCores :=
  Dev.standingCores_of_beside (s.vRead_beside t src cls ucls va n) (s.vRead_lowRegs t src cls ucls va n)

@[simp] theorem Dev.endWork_standingCores (w : Option Work) (ok : Bool) : (s.endWork w ok).standingCores = s.standingCores := by
  unfold Dev.endWork
  split <;> rfl

/-! ### The cluster store -/

@[simp] theorem Dev.csReadOwn_standingCores (k a n : Nat) : (s.csReadOwn k a n).1.standingCores = s.standingCores := by
  refine foldl_keeps Dev.standingCores _ _ (fun d e _ => ?_) s
  cases e.2 <;> simp

@[simp] theorem Dev.csRead_standingCores (k a n : Nat) : (s.csRead k a n).1.standingCores = s.standingCores := by
  unfold Dev.csRead
  split
  · have hv := s.vRead_standingCores (baseTlb (k / 8)) (dieSrc (k / 8) 5) 0 2 (s.shadowAddr k a) n
    generalize s.vRead (baseTlb (k / 8)) (dieSrc (k / 8) 5) 0 2 (s.shadowAddr k a) n = x at hv
    obtain ⟨d, x⟩ := x
    cases x <;> exact hv
  · split
    · rfl
    · exact s.csReadOwn_standingCores k a n

@[simp] theorem Dev.csWrite_standingCores (k : Nat) (cells : List (Nat × Byte)) : (s.csWrite k cells).standingCores = s.standingCores := by
  unfold Dev.csWrite
  split
  · exact foldl_keeps Dev.standingCores _ cells (fun d c _ => d.vWrite_standingCores _ _ _ _ _) s
  · split
    · rfl
    · refine (foldl_keeps Dev.standingCores _ _ (fun d e _ => ?_) _).trans (s.setCs_standingCores k _)
      cases e.2 <;> simp

/-! ### A peer takes a segment up (R160, R356) -/

/-- `t` has the standing parts of `s` and its cores but for core `c`. -/
def Dev.SameBut (s t : Dev) (c : Nat) : Prop := t.standing = s.standing ∧ ∀ j, j ≠ c → t.core j = s.core j

theorem Dev.SameBut.of_standingCores {s t : Dev} (h : t.standingCores = s.standingCores) (c : Nat) : s.SameBut t c :=
  ⟨Dev.standing_of_standingCores h, fun j _ => Dev.core_of_standingCores h j⟩

theorem Dev.SameBut.trans {s t u : Dev} {c : Nat} (h : s.SameBut t c) (g : t.SameBut u c) : s.SameBut u c :=
  ⟨g.1.trans h.1, fun j hj => (g.2 j hj).trans (h.2 j hj)⟩

theorem Dev.sameBut_onCore (c : Nat) (f : Core → Core) : s.SameBut (s.onCore c f) c :=
  ⟨rfl, fun j hj => by rw [Dev.core_onCore, if_neg hj]⟩

@[simp] theorem Dev.moves_standingCores (c n : Nat) : (s.moves c n).standingCores = s.standingCores := by
  unfold Dev.moves
  split <;> rfl

theorem Dev.sameBut_lsWrite (c : Nat) (cells : List (Nat × Byte)) : s.SameBut (s.lsWrite c cells) c := by
  refine (s.sameBut_onCore c _).trans (.of_standingCores (foldl_keeps Dev.standingCores _ _ (fun d e _ => ?_) _) c)
  cases e.2 <;> simp

theorem Dev.sameBut_loadSegment (c : Nat) (w : Work) : s.SameBut (s.loadSegment c w).1 c := by
  have hcode := s.csRead_standingCores w.dom (bits w.w0.toNat 0 25) (256 * (bits w.w0.toNat 32 8 + 1))
  unfold Dev.loadSegment
  dsimp only
  generalize s.csRead w.dom (bits w.w0.toNat 0 25) (256 * (bits w.w0.toNat 32 8 + 1)) = x at hcode
  obtain ⟨d, x⟩ := x
  cases x with
  | none => exact .of_standingCores hcode c
  | some code =>
    have hargs := d.csRead_standingCores w.dom (bits w.w1.toNat 0 25) (8 * bits w.w1.toNat 25 5)
    dsimp only
    generalize d.csRead w.dom (bits w.w1.toNat 0 25) (8 * bits w.w1.toNat 25 5) = y at hargs
    obtain ⟨d', y⟩ := y
    have hread : s.SameBut d' c := .of_standingCores (hargs.trans hcode) c
    cases y with
    | none => exact hread
    | some args =>
      exact ((hread.trans (d'.sameBut_lsWrite c _)).trans (.of_standingCores (Dev.moves_standingCores _ _ _) c)).trans (Dev.sameBut_onCore _ c _)

theorem Dev.sameBut_resumeMoved (m : Moved) : s.SameBut (s.resumeMoved m) (s.physCore m.work.dom m.work.lcore) := by
  have hrec := s.csRead_standingCores (m.core / 16) (s.ctxSlot m.core) 0x140
  unfold Dev.resumeMoved
  extract_lets w c
  generalize s.csRead (m.core / 16) (s.ctxSlot m.core) 0x140 = x at hrec
  obtain ⟨d, x⟩ := x
  cases x with
  | none => exact .of_standingCores ((Dev.endWork_standingCores _ _ _).trans hrec) c
  | some r =>
    dsimp only
    have hctx : s.SameBut ((d.csWrite (c / 16) (cellsAt (d.ctxSlot c) (r.take 0xD))).csWrite (c / 16)
        (cellsAt ((d.csWrite (c / 16) (cellsAt (d.ctxSlot c) (r.take 0xD))).ctxSlot c + 0x40) (r.drop 0x40))) c :=
      .of_standingCores (by simp [hrec]) c
    generalize (d.csWrite (c / 16) (cellsAt (d.ctxSlot c) (r.take 0xD))).csWrite (c / 16)
        (cellsAt ((d.csWrite (c / 16) (cellsAt (d.ctxSlot c) (r.take 0xD))).ctxSlot c + 0x40) (r.drop 0x40)) = e at hctx ⊢
    have hload := hctx.trans (e.sameBut_loadSegment c w)
    generalize e.loadSegment c w = y at hload
    obtain ⟨e', y⟩ := y
    cases y with
    | false => exact hload.trans (.of_standingCores (Dev.endWork_standingCores _ _ _) c)
    | true => exact hload.trans (Dev.sameBut_onCore _ c _)

theorem Dev.fencedCore_down (c : Nat) (h : s.pkg.fences.core c = true) : s.coreDown c = true := by
  simp [Dev.coreDown, h]

/-- What starting the moved segments leaves alone: the standing parts, and a core that is fenced. -/
theorem Dev.startMoved_keeps (c : Nat) (h : s.pkg.fences.core c = true) :
    s.startMoved.standing = s.standing ∧ s.startMoved.core c = s.core c := by
  refine List.foldlRecOn (motive := fun d : Dev => d.standing = s.standing ∧ d.core c = s.core c) _ _ ⟨rfl, rfl⟩ ?_
  intro d ⟨hd, hc⟩ m _
  dsimp only
  split
  next hgo =>
    have hdown : d.coreDown c = true := d.fencedCore_down c (by rw [Dev.fences_of_standing hd, h])
    have hother : c ≠ d.physCore m.work.dom m.work.lcore := by
      rintro rfl
      simp [hdown] at hgo
    obtain ⟨hs, hcores⟩ := Dev.sameBut_resumeMoved { d with disp := { d.disp with moved := d.disp.moved.erase m } } m
    exact ⟨hs.trans hd, (hcores c hother).trans hc⟩
  next => exact ⟨hd, hc⟩

theorem Dev.startMoved_standing : s.startMoved.standing = s.standing := by
  refine foldl_keeps Dev.standing _ _ (fun d m _ => ?_) s
  dsimp only
  split
  · exact (Dev.sameBut_resumeMoved { d with disp := { d.disp with moved := d.disp.moved.erase m } } m).1
  · rfl

/-! ### What a fenced unit gives up -/

/-- A core with no segment, nothing queued and nothing running, as it gives its segments up. -/
def Core.emptied (k : Core) : Core :=
  { k with run := .idle, work := none, mq := [], vq := [], mmts := [], rest := none, vrun := none, slots := [], folds := [], saved := none }

@[simp] theorem Dev.dropContext_standingCores (c : Nat) : (s.dropContext c).standingCores = s.standingCores := by
  unfold Dev.dropContext
  split
  · split
    · exact s.csWrite_standingCores _ _
    · rfl
  · rfl

/-- A core that gives its segments up is emptied; of the standing parts and the other cores nothing changes. -/
theorem Dev.coreLeaves_standingCores (c : Nat) (move : Bool) :
    (s.coreLeaves c move).standingCores = (s.onCore c Core.emptied).standingCores := by
  have hdrop := s.dropContext_standingCores c
  have hempty : ((s.dropContext c).onCore c Core.emptied).standingCores = (s.onCore c Core.emptied).standingCores := by
    have hs : (s.dropContext c).standing = s.standing := Dev.standing_of_standingCores hdrop
    have hcs : (s.dropContext c).cores = s.cores := congrArg Prod.snd hdrop
    have hk := Dev.core_of_standingCores hdrop c
    simp only [Dev.standingCores, Prod.mk.injEq]
    refine ⟨hs, ?_⟩
    simp only [Dev.onCore, Dev.setCore, hcs, hk]
  refine (foldl_keeps Dev.standingCores _ _ (fun d x _ => ?_) _).trans hempty
  obtain ⟨w, n, accs⟩ := x
  dsimp only
  split
  · show (if (accs && !d.on memLedgerBaseEn) = true then d.detect (dispSrc w.disp) 0x17 2 w.arg else d).standingCores = d.standingCores
    split
    · exact d.detect_standingCores _ _ _ _
    · rfl
  · exact d.endWork_standingCores _ _

theorem Dev.coreLeaves_standing (c : Nat) (move : Bool) : (s.coreLeaves c move).standing = s.standing :=
  congrArg Prod.fst (s.coreLeaves_standingCores c move)

theorem Dev.coreLeaves_core (c : Nat) (move : Bool) : (s.coreLeaves c move).core c = (s.core c).emptied := by
  rw [Dev.core_of_standingCores (s.coreLeaves_standingCores c move), Dev.core_onCore, if_pos rfl]

@[simp] theorem Dev.leaveCommit_standingCores : s.leaveCommit.standingCores = s.standingCores := by
  unfold Dev.leaveCommit
  split <;> rfl

@[simp] theorem Dev.cutStreams_standingCores (c : Nat) : (s.cutStreams c).standingCores = s.standingCores := by
  refine foldl_keeps Dev.standingCores _ _ (fun d e _ => ?_) s
  split <;> rfl

@[simp] theorem Dev.takeChain_standingCores (h : Nat) : (s.takeChain h).standingCores = s.standingCores := by
  unfold Dev.takeChain
  split
  · rfl
  · split <;> rfl

@[simp] theorem Dev.chansLeave_standingCores (k : Nat) (move : Bool) : (s.chansLeave k move).standingCores = s.standingCores := by
  refine foldl_keeps Dev.standingCores _ _ (fun d e _ => ?_) _
  dsimp only
  split
  · split
    · exact Dev.endWork_standingCores _ _ _
    · exact Dev.takeChain_standingCores _ _
  · rfl

@[simp] theorem Dev.vUndefAt_standing (c : Nat) (x : QEnt) (puts : List (Nat × Nat)) : (s.vUndefAt c x puts).standing = s.standing := rfl

end Sys2Proof.Machine
end

section
/-! SUPPORT. Fences of cores, clusters and compute dies, and O47 (R19, R160, R356, R454 to R457). -/

namespace Sys2Proof.Machine

/-! ### Sets of unit numbers -/

@[simp] theorem mem_setAdd (l : List Nat) (x j : Nat) : j ∈ setAdd l x ↔ j = x ∨ j ∈ l := by
  induction l with
  | nil => simp [setAdd]
  | cons y l ih =>
    unfold setAdd
    split
    next => simp
    next =>
      split
      next h => simp [h]
      next => rw [List.mem_cons, List.mem_cons, ih, or_left_comm]

theorem contains_setAdd_self (l : List Nat) (x : Nat) : (setAdd l x).contains x = true := by simp

theorem contains_setAdd_other (l : List Nat) (x j : Nat) (h : j ≠ x) : (setAdd l x).contains j = l.contains j := by
  simp [h]

theorem contains_filter_ne (l : List Nat) (x j : Nat) : (l.filter (· != x)).contains j = (l.contains j && j != x) := by
  rw [Bool.eq_iff_iff]
  simp

/-- Writing one value at several keys. -/
theorem Sparse.get_setAll_const {α : Type} [DecidableEq α] (d : Nat → α) (key : Nat → Nat) (v : α) (l : List Nat) (j : Nat) :
    ∀ m : Sparse α, Sparse.get d (Sparse.setAll d m (l.map fun i => (key i, v))) j = if j ∈ l.map key then v else Sparse.get d m j := by
  induction l with
  | nil => intro m; rfl
  | cons i l ih =>
    intro m
    rw [List.map_cons, Sparse.setAll, ih, Sparse.get_set]
    by_cases hj : j = key i
    · simp [hj]
    · simp [hj]

variable (s : Dev)

/-! ### A core is fenced (R19, R160, R356) -/

/-- What a running vector instruction of core `c` was to write is undefined. -/
def Dev.vecCut (s : Dev) (c : Nat) : Dev :=
  match (s.core c).vrun with
  | some r => if s.vecBusy c then s.vUndefAt c r.ent r.puts else s
  | none => s

theorem Dev.vecCut_standing (c : Nat) : (s.vecCut c).standing = s.standing := by
  unfold Dev.vecCut
  split
  · split <;> rfl
  · rfl

/-- The logical cores of the cluster of core `c` with which core `c` runs, as their keys in the map. -/
def Dev.ownLogical (s : Dev) (c : Nat) : List Nat :=
  (List.range 16).filter fun l => Sparse.get (fun x => x) s.disp.lmap (16 * (c / 16) + l) == c

/-- The fence of core `c` is noted and peer `p` has its logical cores; its work has not gone yet. -/
def Dev.fenceNoted (s : Dev) (c p : Nat) : Dev :=
  let d := s.vecCut c
  { d with
    pkg := { d.pkg with faulted := setDel d.pkg.faulted c, fences := { d.pkg.fences with cores := setAdd d.pkg.fences.cores c } },
    disp := { d.disp with lmap := Sparse.setAll (fun x => x) d.disp.lmap ((d.ownLogical c).map fun l => (16 * (c / 16) + l, p)) } }

theorem Dev.fenceCoreOnly_of_peer (c p : Nat) (hp : s.peerOf c = some p) :
    s.fenceCoreOnly c = (((s.fenceNoted c p).leaveCommit.cutStreams c).coreLeaves c true).startMoved := by
  unfold Dev.fenceCoreOnly
  rw [hp]
  rfl

theorem Dev.fenceNoted_fences (c p : Nat) : (s.fenceNoted c p).pkg.fences = { s.pkg.fences with cores := setAdd s.pkg.fences.cores c } := by
  rw [← Dev.fences_of_standing (s.vecCut_standing c)]
  rfl

/-- The peer runs the logical cores that core `c` ran; the others stay where they are. -/
theorem Dev.fenceNoted_lmap (c p l : Nat) (hl : l < 16) :
    Sparse.get (fun i => i) (s.fenceNoted c p).disp.lmap (16 * (c / 16) + l) =
      if Sparse.get (fun i => i) s.disp.lmap (16 * (c / 16) + l) = c then p else Sparse.get (fun i => i) s.disp.lmap (16 * (c / 16) + l) := by
  obtain ⟨-, -, hmap, -⟩ := Dev.standing_eq_iff.mp (s.vecCut_standing c)
  have hmine : 16 * (c / 16) + l ∈ ((s.vecCut c).ownLogical c).map (fun l => 16 * (c / 16) + l) ↔
      Sparse.get (fun i => i) s.disp.lmap (16 * (c / 16) + l) = c := by
    simp [Dev.ownLogical, hmap, hl]
  refine (Sparse.get_setAll_const _ _ p _ _ _).trans ?_
  simp only [hmine, hmap]

theorem Dev.fenceNoted_leaves (c p : Nat) :
    (((s.fenceNoted c p).leaveCommit.cutStreams c).coreLeaves c true).standing = (s.fenceNoted c p).standing := by
  rw [Dev.coreLeaves_standing, Dev.standing_of_standingCores (Dev.cutStreams_standingCores _ c),
    Dev.standing_of_standingCores (Dev.leaveCommit_standingCores _)]

theorem Dev.fenceCoreOnly_standing (c p : Nat) (hp : s.peerOf c = some p) :
    (s.fenceCoreOnly c).standing = (s.fenceNoted c p).standing := by
  rw [s.fenceCoreOnly_of_peer c p hp, Dev.startMoved_standing, Dev.fenceNoted_leaves]

/-- A fenced core holds no work: what waits for a peer starts on no fenced core. -/
theorem Dev.fenceCoreOnly_core (c p : Nat) (hp : s.peerOf c = some p) :
    ∃ k : Core, (s.fenceCoreOnly c).core c = k.emptied := by
  rw [s.fenceCoreOnly_of_peer c p hp]
  obtain ⟨-, hcore⟩ := Dev.startMoved_keeps (((s.fenceNoted c p).leaveCommit.cutStreams c).coreLeaves c true) c (by
    rw [Dev.fences_of_standing (s.fenceNoted_leaves c p), Dev.fenceNoted_fences]
    simp [Fences.core])
  exact ⟨_, hcore.trans (Dev.coreLeaves_core _ c true)⟩

@[simp] theorem Dev.wired_core (t : Dev) (c : Nat) : (s.wired t).core c = t.core c := rfl

@[simp] theorem Dev.detect_pkg (src : Src) (kind cls arg : Nat) : (s.detect src kind cls arg).pkg = s.pkg :=
  congrArg Prod.fst (s.detect_beside src kind cls arg)

@[simp] theorem Dev.markFault_fences (u : Nat) : (s.markFault u).pkg.fences = s.pkg.fences := rfl

@[simp] theorem Dev.markFault_on (u : Nat) (f : Fld) : (s.markFault u).on f = s.on f := rfl

theorem Dev.fenceCore_of_peer (c p : Nat) (hf : s.pkg.fences.core c = false) (hp : s.peerOf c = some p) : s.fenceCore c = s.fenceCoreOnly c := by
  simp [Dev.fenceCore, hf, hp]

/-- The last core in service takes its cluster, which is not the last one of its die. -/
theorem Dev.fenceCore_of_last (c : Nat) (hf : s.pkg.fences.core c = false) (hp : s.peerOf c = none)
    (hk : s.pkg.fences.cluster (c / 16) = false)
    (hl : ((List.range 8).all fun i => c / 16 / 8 * 8 + i == c / 16 || s.pkg.fences.cluster (c / 16 / 8 * 8 + i)) = false) :
    s.fenceCore c = s.fenceClusterOnly (c / 16) := by
  unfold Dev.fenceCore Dev.fenceCluster
  rw [if_neg (by simp [hf]), if_pos (by simp [hp]), if_neg (by simp [hk]), if_neg (by simp [hl])]

/-- The source of a message of core `c` or of an engine of it. -/
def faultSrc (c : Nat) (eng : Bool) (unit : Nat) : Src := if eng then ⟨0, c / 128, c / 16 % 8, c % 16, unit⟩ else coreSrc c unit

/-- A fault of a core in service is reported and marked, then fences the core. -/
theorem coreFenceEffect_of_fault (c : Nat) (eng : Bool) (unit : Nat) (hc : c < 512) (hd : s.coreDown c = false)
    (hu : eng = true ∨ (unit ≠ 0 ∧ unit ≠ 4)) :
    coreFenceEffect c eng unit s = ((s.detect (faultSrc c eng unit) 0x02 1 0).markFault c).fenceCore c := by
  simp only [Dev.coreDown, Bool.or_eq_false_iff] at hd
  obtain ⟨⟨⟨hfence, hfault⟩, hclu⟩, hdie⟩ := hd
  have hown : s.coreFault c (faultSrc c eng unit) 0 = (s.detect (faultSrc c eng unit) 0x02 1 0).markFault c := by
    simp only [Dev.coreFault, hfence, hfault, Bool.or_false, Bool.false_eq_true, if_false]
  have hcluster : ((s.detect (faultSrc c eng unit) 0x02 1 0).markFault c).clusterDown (c / 16) = false := by
    simp only [Fences.core, Bool.or_eq_false_iff] at hfence
    obtain ⟨⟨-, hk⟩, hdies⟩ := hfence
    simp only [Dev.clusterDown, Dev.markFault, Dev.detect_pkg, Fences.cluster, Bool.or_eq_false_iff, Nat.div_div_eq_div_mul]
    refine ⟨⟨⟨hk, hdies⟩, ?_⟩, ?_⟩
    · rw [contains_setAdd_other _ _ _ (by omega), hclu]
    · rw [contains_setAdd_other _ _ _ (by omega), hdie]
  unfold coreFenceEffect
  extract_lets met r
  have hmet : (!met && !eng && (unit = 0 || unit = 4 : Bool)) = false := by
    rcases hu with rfl | ⟨h0, h4⟩
    · simp
    · simp [h0, h4]
  rw [if_neg (by simp [hfence, hmet])]
  show (if (s.coreFault c (faultSrc c eng unit) 0).clusterDown (c / 16) then s.coreFault c (faultSrc c eng unit) 0
    else (s.coreFault c (faultSrc c eng unit) 0).fenceCore c) = _
  rw [hown, if_neg (by simp [hcluster])]

/-! ### A cluster is fenced (R456) -/

/-- The fence of cluster `k` is noted; its work has not gone yet. -/
def Dev.clusterNoted (s : Dev) (k : Nat) : Dev :=
  { s with pkg := { s.pkg with
    faulted := s.pkg.faulted.filter fun u => !(u == 512 + k || (decide (u < 512) && u / 16 == k)),
    fences := { s.pkg.fences with clusters := setAdd s.pkg.fences.clusters k },
    shadows := if s.on dieShadowBaseEn then setAdd s.pkg.shadows k else s.pkg.shadows } }

/-- The work of cluster `k`, its fence noted, has gone. -/
def Dev.clusterEmptied (s : Dev) (k : Nat) : Dev :=
  (List.range 16).foldl (fun d i => d.coreLeaves (16 * k + i) true) ((s.clusterNoted k).leaveCommit.chansLeave k true)

theorem Dev.fenceClusterOnly_eq (k : Nat) :
    s.fenceClusterOnly k = if (s.clusterEmptied k).copyDue k then s.clusterEmptied k else (s.clusterEmptied k).startMoved := rfl

theorem Dev.clusterEmptied_standing (k : Nat) : (s.clusterEmptied k).standing = (s.clusterNoted k).standing := by
  rw [Dev.clusterEmptied, foldl_keeps Dev.standing _ _ fun d i _ => d.coreLeaves_standing (16 * k + i) true,
    Dev.standing_of_standingCores (Dev.chansLeave_standingCores _ _ _), Dev.standing_of_standingCores (Dev.leaveCommit_standingCores _)]

theorem Dev.fenceClusterOnly_standing (k : Nat) : (s.fenceClusterOnly k).standing = (s.clusterNoted k).standing := by
  rw [Dev.fenceClusterOnly_eq]
  split
  · exact s.clusterEmptied_standing k
  · rw [Dev.startMoved_standing, Dev.clusterEmptied_standing]

/-- A fenced cluster is in the fence map, and its store is to be copied where shadows are in use. -/
theorem Dev.fenceClusterOnly_noted (k : Nat) :
    (s.fenceClusterOnly k).pkg.fences.clusters.contains k = true ∧
      (s.on dieShadowBaseEn = true → (s.fenceClusterOnly k).pkg.shadows.contains k = true) := by
  rw [Dev.fences_of_standing (s.fenceClusterOnly_standing k), Dev.shadows_of_standing (s.fenceClusterOnly_standing k)]
  refine ⟨contains_setAdd_self _ _, fun h => ?_⟩
  simp only [Dev.clusterNoted, h, if_true]
  exact contains_setAdd_self _ _

theorem clusterFenceEffect_of_fault (k unit arg : Nat) (hk : k < 32) (hd : s.clusterDown k = false) :
    clusterFenceEffect k unit arg s = ((s.detect (clusterSrc k unit) 0x03 1 arg).markFault (512 + k)).fenceCluster k := by
  simp only [Dev.clusterDown, Bool.or_eq_false_iff] at hd
  obtain ⟨⟨hfence, hfault⟩, hdie⟩ := hd
  have hown : s.clusterFault k unit arg = (s.detect (clusterSrc k unit) 0x03 1 arg).markFault (512 + k) := by
    simp only [Dev.clusterFault, hfence, hfault, Bool.or_false, Bool.false_eq_true, if_false]
  have hnodie : ((s.detect (clusterSrc k unit) 0x03 1 arg).markFault (512 + k)).pkg.faulted.contains (544 + k / 8) = false := by
    simp only [Dev.markFault, Dev.detect_pkg]
    rw [contains_setAdd_other _ _ _ (by omega), hdie]
  unfold clusterFenceEffect
  rw [if_neg (by simp [hfence]), hown]
  exact if_neg (by rw [hnodie]; decide)

theorem Dev.fenceCluster_of_more (k : Nat) (hk : s.pkg.fences.cluster k = false)
    (hl : ((List.range 8).all fun i => k / 8 * 8 + i == k || s.pkg.fences.cluster (k / 8 * 8 + i)) = false) :
    s.fenceCluster k = s.fenceClusterOnly k := by
  unfold Dev.fenceCluster
  rw [if_neg (by simp [hk]), if_neg (by simp [hl])]

/-- The last cluster in service takes its die, the first one out of service. -/
theorem Dev.fenceCluster_of_last (k : Nat) (hk : s.pkg.fences.cluster k = false)
    (hl : ((List.range 8).all fun i => k / 8 * 8 + i == k || s.pkg.fences.cluster (k / 8 * 8 + i)) = true)
    (hd : s.pkg.fences.dies = []) : s.fenceCluster k = s.dieFaultOnly (k / 8) := by
  unfold Dev.fenceCluster Dev.fenceDie
  rw [if_neg (by simp [hk]), if_pos hl, if_neg (by simp [hd]), if_neg (by simp [hd])]

/-! ### A compute die is fenced (R455, R457) -/

/-- The fence of compute die `d` by a fault is noted; its work has not failed yet. -/
def Dev.dieNoted (s : Dev) (d : Nat) : Dev :=
  { s with pkg := { s.pkg with
    faulted := s.pkg.faulted.filter fun u =>
      !(u == 544 + d || (decide (u < 512) && u / 128 == d) || (decide (512 ≤ u) && decide (u < 544) && (u - 512) / 8 == d)),
    fences := { s.pkg.fences with dies := setAdd s.pkg.fences.dies d },
    shadows := s.pkg.shadows.filter fun k => k / 8 != d } }

/-- Compute die `d` has lost its work, a step retry not yet noted. -/
def Dev.dieEmptied (s : Dev) (d : Nat) : Dev :=
  let s := (List.range 8).foldl (fun s i => s.chansLeave (8 * d + i) false) (s.dieNoted d).leaveCommit
  let s := (List.range 128).foldl (fun s i => s.coreLeaves (128 * d + i) false) s
  (s.disp.moved.filter fun m => m.core / 128 == d).foldl (fun s m => s.endWork (some m.work) false)
    { s with disp := { s.disp with moved := s.disp.moved.filter fun m => m.core / 128 != d } }

theorem Dev.dieEmptied_standing (d : Nat) : (s.dieEmptied d).standing = (s.dieNoted d).standing := by
  unfold Dev.dieEmptied
  extract_lets chans cores
  have hleft : cores.standing = (s.dieNoted d).standing := by
    simp only [cores, chans]
    rw [foldl_keeps Dev.standing _ _ fun x i _ => x.coreLeaves_standing (128 * d + i) false,
      foldl_keeps Dev.standing _ _ fun x i _ => Dev.standing_of_standingCores (x.chansLeave_standingCores (8 * d + i) false),
      Dev.standing_of_standingCores (Dev.leaveCommit_standingCores _)]
  clear_value cores
  rw [foldl_keeps Dev.standing _ _ fun x m _ => Dev.standing_of_standingCores (x.endWork_standingCores _ _)]
  exact hleft

theorem Dev.dieFaultOnly_eq (d : Nat) :
    s.dieFaultOnly d = if (s.dieEmptied d).running then (s.dieEmptied d).noteRetry false else s.dieEmptied d := by
  unfold Dev.dieFaultOnly Dev.dieEmptied
  generalize List.range 128 = l
  rfl

theorem Dev.running_of_standing {a b : Dev} (h : a.standing = b.standing) : a.running = b.running := by
  obtain ⟨-, -, -, hr⟩ := Dev.standing_eq_iff.mp h
  rw [Dev.running, Dev.running, Dev.fld_of_lowRegs hr _ (by decide)]

theorem Dev.noteRetry_standing (brz : Bool) : (s.noteRetry brz).standing = s.standing := by
  unfold Dev.noteRetry
  split <;> rfl

theorem Dev.noteRetry_foreground : (s.noteRetry false).flt.retry = true := rfl

theorem Dev.dieFaultOnly_standing (d : Nat) : (s.dieFaultOnly d).standing = (s.dieNoted d).standing := by
  rw [← Dev.dieEmptied_standing, Dev.dieFaultOnly_eq]
  split
  · exact Dev.noteRetry_standing _ false
  · rfl

theorem Dev.dieFaultOnly_fenced (d : Nat) : (s.dieFaultOnly d).pkg.fences.dies.contains d = true := by
  rw [Dev.fences_of_standing (s.dieFaultOnly_standing d)]
  exact contains_setAdd_self _ _

/-- While the job runs the open step is to be retried. -/
theorem Dev.dieFaultOnly_retry (d : Nat) (h : s.running = true) : (s.dieFaultOnly d).flt.retry = true := by
  have hrun : (s.dieEmptied d).running = true := by
    rw [Dev.running_of_standing (s.dieEmptied_standing d)]
    exact h
  rw [Dev.dieFaultOnly_eq, if_pos hrun]
  exact Dev.noteRetry_foreground _

theorem dieFenceEffect_of_fault (d : Nat) (hd : s.pkg.fences.dies.contains d = false) (hf : s.pkg.faulted.contains (544 + d) = false) :
    dieFenceEffect d s = (s.detect (dieSrc d 0) 0x50 1 0).fenceDie d := by
  unfold dieFenceEffect
  rw [if_neg (by rw [hd]; decide), if_neg (by rw [hf]; decide)]

theorem Dev.fenceDie_of_first (d : Nat) (h : s.pkg.fences.dies = []) : s.fenceDie d = s.dieFaultOnly d := by
  unfold Dev.fenceDie
  rw [if_neg (by simp [h]), if_neg (by simp [h])]

/-- A second die out of service is fatal for the package (R455). -/
theorem Dev.fenceDie_of_second (d : Nat) (h : s.pkg.fences.dies ≠ []) (hd : s.pkg.fences.dies.contains d = false)
    (hf : s.pkg.faulted.contains (544 + d) = false) : s.fenceDie d = (s.detect (dieSrc d 1) 0x51 3 0).markFault (544 + d) := by
  unfold Dev.fenceDie
  rw [if_neg (by rw [hd]; decide), if_pos (by simpa using h), if_neg (by rw [hf]; decide)]

/-! ### A cluster store is copied (R456) -/

/-- Copying a store writes memory alone; where other copies are due, no segment starts yet. -/
theorem shadowCopyEffect_of_more (k : Nat) (hk : s.pkg.shadows.contains k = true) (hm : (s.pkg.shadows.any fun j => j != k) = true) :
    (shadowCopyEffect k s).beside = ({ s with pkg := { s.pkg with shadows := s.pkg.shadows.filter (· != k) } } : Dev).beside := by
  unfold shadowCopyEffect
  rw [if_neg (by simpa [Dev.copyDue] using hk)]
  extract_lets st copied pkg marked
  have hcopied : copied.beside = s.beside := by
    refine foldl_beside _ (fun d p => ?_) _ s
    have hx := d.xlate_beside (baseTlb (k / 8)) (dieSrc (k / 8) 5) 0 p.1 true
    generalize d.xlate (baseTlb (k / 8)) (dieSrc (k / 8) 5) 0 p.1 true = y at hx
    obtain ⟨e, y⟩ := y
    cases y with
    | ok pa => exact ((Dev.snoopBack_beside _ pa p.2).trans (e.countBytes_beside 4 16 pa p.2)).trans hx
    | wait a => exact hx
    | fail => exact hx
  have hpkg : copied.pkg = s.pkg := congrArg Prod.fst hcopied
  have hmarked : marked.beside = ({ s with pkg := { s.pkg with shadows := s.pkg.shadows.filter (· != k) } } : Dev).beside := by
    clear_value copied
    simp only [Dev.beside, Prod.mk.injEq] at hcopied ⊢
    simp [marked, pkg, hpkg, hcopied]
  have hmore : marked.pkg.shadows.isEmpty = false := by
    have hshadows : marked.pkg.shadows = s.pkg.shadows.filter (· != k) := congrArg Pkg.shadows (congrArg Prod.fst hmarked)
    rw [hshadows]
    simpa using hm
  rw [if_neg (by rw [hmore]; decide)]
  exact hmarked

end Sys2Proof.Machine

open Sys2Proof Sys2Proof.Machine

/-- Settles O47: what a fence has noted stands while the work moves; a fenced core takes nothing up. -/
theorem fencesTakeUnitsOut : Obligations.FencesTakeUnitsOut := by
  unfold Obligations.FencesTakeUnitsOut
  intro s c k d unit cu eng p r arg x src y
  have hc := c.isLt
  have hk := k.isLt
  refine ⟨?_, ?_, ?_, ?_, ?_, ?_⟩
  · intro _ hdown hu
    have heff : coreFenceEffect c eng unit x = y.fenceCore c :=
      coreFenceEffect_of_fault x c eng unit hc hdown (hu.imp_right fun ⟨h0, h4⟩ => ⟨fun h => h0 (Fin.ext h), fun h => h4 (Fin.ext h)⟩)
    have hfences : y.pkg.fences = x.pkg.fences := by
      rw [Dev.markFault_fences, Dev.detect_pkg]
    have hlive : y.pkg.fences.core c = false := by
      rw [hfences]
      simp only [Dev.coreDown, Bool.or_eq_false_iff] at hdown
      obtain ⟨⟨⟨h, -⟩, -⟩, -⟩ := hdown
      exact h
    have hlmap : y.disp.lmap = x.disp.lmap := by
      obtain ⟨-, -, h, -⟩ := Dev.standing_eq_iff.mp (Dev.standing_of_standingCores (x.detect_standingCores src 0x02 1 0))
      exact h
    refine ⟨fun hp => ?_, fun hp hclu hlast => State.run_eq (heff.trans (y.fenceCore_of_last c hlive hp hclu hlast))⟩
    have hstand := y.fenceCoreOnly_standing c p hp
    have hfenced := (Dev.fences_of_standing hstand).trans (y.fenceNoted_fences c p)
    obtain ⟨-, -, hmap, -⟩ := Dev.standing_eq_iff.mp hstand
    obtain ⟨e, hcore⟩ := y.fenceCoreOnly_core c p hp
    refine ⟨_, State.run_eq (heff.trans (y.fenceCore_of_peer c p hlive hp)), ?_, fun j hj => ?_, fun l hl => ?_, ?_⟩
    · rw [Dev.wired_pkg, hfenced]
      exact contains_setAdd_self _ _
    · rw [Dev.wired_pkg, hfenced, ← hfences]
      exact contains_setAdd_other _ _ _ hj
    · rw [Dev.wired_disp, hmap, y.fenceNoted_lmap c p l hl, hlmap]
    · rw [Dev.wired_core, hcore]
      exact ⟨rfl, rfl, rfl, rfl⟩
  · intro _ hdown z last
    have heff : clusterFaultEffect k (.hard cu arg) x = z.fenceCluster k := clusterFenceEffect_of_fault x k cu arg.toNat hk hdown
    have hfences : z.pkg.fences = x.pkg.fences := by
      rw [Dev.markFault_fences, Dev.detect_pkg]
    have hlive : z.pkg.fences.cluster k = false := by
      rw [hfences]
      simp only [Dev.clusterDown, Bool.or_eq_false_iff] at hdown
      obtain ⟨⟨h, -⟩, -⟩ := hdown
      exact h
    have hshadow : z.on dieShadowBaseEn = x.on dieShadowBaseEn := by
      rw [Dev.markFault_on, Dev.detect_on]
    refine ⟨fun hmore => ?_, fun hlast hd => State.run_eq (heff.trans (z.fenceCluster_of_last k hlive hlast hd))⟩
    refine ⟨{ s with dev := x.wired (z.fenceClusterOnly k) }, State.run_eq (heff.trans (z.fenceCluster_of_more k hlive hmore)), rfl, ?_⟩
    rw [← hshadow, Dev.wired_pkg]
    exact z.fenceClusterOnly_noted k
  · intro hd hf z
    have heff : dieFenceEffect d x = z.fenceDie d := dieFenceEffect_of_fault x d hd hf
    have hpkg : z.pkg = x.pkg := x.detect_pkg (dieSrc d 0) 0x50 1 0
    have hrun : z.running = x.running := by
      rw [Dev.running, Dev.running, Dev.detect_fld]
    refine ⟨fun hfirst => ⟨?_, z.dieFaultOnly_fenced d, fun hr => z.dieFaultOnly_retry d (hrun.trans hr)⟩, fun hsecond => ?_⟩
    · exact State.run_eq (f := dieFaultEffect (.compute d)) (heff.trans (z.fenceDie_of_first d (by rw [hpkg, hfirst])))
    · exact State.run_eq (f := dieFaultEffect (.compute d))
        (heff.trans (z.fenceDie_of_second d (by rwa [hpkg]) (by rw [hpkg, hd]) (by rw [hpkg, hf])))
  · rfl
  · exact fun hr => State.run_eq (f := dieFaultEffect (.base r)) (if_pos hr)
  · intro hs hm
    have hcopy := shadowCopyEffect_of_more x k hs hm
    have hshadows : (shadowCopyEffect k x).pkg.shadows = x.pkg.shadows.filter (· != k.val) :=
      congrArg Pkg.shadows (congrArg Prod.fst hcopy)
    simp only [Dev.beside, Prod.mk.injEq] at hcopy
    obtain ⟨-, hcores, hcs, -⟩ := hcopy
    refine ⟨_, State.run_eq (f := shadowCopyEffect k) rfl, ?_, ?_, fun j => ?_⟩
    · rw [Dev.wired_cs, hcs]
    · rw [Dev.wired_cores, hcores]
    · rw [Dev.wired_pkg, hshadows]
      exact contains_filter_ne _ _ _
end

section
/-! SUPPORT. Resets, what each leaves (R479 to R488, R493). -/

namespace Sys2Proof.Machine

/-- Whatever is asked of the fuses, they only burn (R493, R505). -/
theorem fusesKept_fuses (a b : Sec) : FusesKept a (a.fuses b) := by
  refine ⟨rfl, rfl, rfl, Nat.le_max_left _ _, fun i hi hu => ?_⟩
  have hslot : a.slots.getD i .unused = a.slots[i] := by simp [hi]
  rw [hslot] at hu ⊢
  simp [Sec.fuses, OSlot.after, hi, hu]

variable (s : Dev)

theorem Dev.wired_fusesKept (t : Dev) : FusesKept s.sec (s.wired t).sec := fusesKept_fuses s.sec t.sec

/-! ### A warm package reset (R480 to R483) -/

/-- What a package reset sets beside registers, memory, transport, update units and the security unit. -/
def Dev.setByReset (s : Dev) := (s.cores, s.cs, s.ev, s.chans, s.job, s.que, s.col, s.ring, s.car, s.flt, s.pkg)

theorem Dev.wired_setByReset (t : Dev) : (s.wired t).setByReset = t.setByReset := rfl

theorem Dev.setFld_setByReset (f : Fld) (v : Nat) : (s.setFld f v).setByReset = s.setByReset := rfl

theorem Dev.nextIncarnation_setByReset : s.nextIncarnation.setByReset = s.setByReset := rfl

theorem Dev.copyFlds_setByReset (old : Dev) (l : List Fld) : (s.copyFlds old l).setByReset = s.setByReset := by
  refine foldl_keeps Dev.setByReset _ l (fun d f _ => ?_) s
  rfl

theorem Dev.clearShares_setByReset (l : List Nat) : (l.foldl (fun d i => d.clearShare i) s).setByReset = s.setByReset := by
  refine foldl_keeps Dev.setByReset _ l (fun d i _ => ?_) s
  rfl

theorem Dev.warmed_setByReset :
    s.warmed.setByReset = ([], [], [], [], Dev.cold.job, Dev.cold.que, Dev.cold.col, Dev.cold.ring, { s.car with reset := false },
      { FaultUnit.cold with log := s.flt.log, uncl := s.flt.uncl, voted := s.flt.voted, redone := s.flt.redone },
      { Pkg.cold with fences := s.pkg.fences }) := by
  unfold Dev.warmed
  dsimp only
  rw [Dev.clearShares_setByReset, Dev.setFld_setByReset, Dev.nextIncarnation_setByReset, Dev.copyFlds_setByReset]
  rfl

theorem Dev.wired_upd (t : Dev) (d : Nat) : (s.wired t).upd d = t.upd d := rfl

theorem Dev.upd_setUpd (d e : Nat) (u : Upd) : (s.setUpd d u).upd e = if e = d then u else s.upd e := by
  simp [Dev.upd, Dev.setUpd, Sparse.get_set]

/-- The state once a warm package reset has torn, failed or left paused each update pass it meets (R214, R217). -/
def Dev.tornAll (s : Dev) : Dev := (List.range 4).foldl Dev.updReset s

/-- A warm package reset leaves what `warmed` sets, and the passes that stand paused. -/
theorem Dev.warmReset_eq :
    s.warmReset = (((s.tornAll.flushLog.warmed.setUpd 0 (s.tornAll.upd 0).survives).setUpd 1 (s.tornAll.upd 1).survives).setUpd 2
      (s.tornAll.upd 2).survives).setUpd 3 (s.tornAll.upd 3).survives := rfl

theorem Dev.setUpd_setByReset (d : Nat) (u : Upd) : (s.setUpd d u).setByReset = s.setByReset := rfl

theorem Dev.warmReset_setByReset : s.warmReset.setByReset = s.tornAll.flushLog.warmed.setByReset := by
  rw [Dev.warmReset_eq, Dev.setUpd_setByReset, Dev.setUpd_setByReset, Dev.setUpd_setByReset, Dev.setUpd_setByReset]

theorem Dev.warmReset_upd (e : Fin 4) : s.warmReset.upd e = (s.tornAll.upd e).survives := by
  rw [Dev.warmReset_eq]
  fin_cases e <;> simp [Dev.upd_setUpd]

theorem warmResetEffect_of_ready (by_ : ResetBy) (h : s.on dieBootReady = true) : warmResetEffect by_ s = s.warmReset := if_pos h

/-! ### A cold reset (R481) -/

theorem coldResetEffect_of_power (hf : s.car.fell = true) (hm : s.car.module = false) : coldResetEffect s = s.chilled :=
  if_pos (by simp [hf, hm])

theorem Dev.chilled_setByReset :
    s.chilled.setByReset = ([], [], [], [], Dev.cold.job, Dev.cold.que, Dev.cold.col, Dev.cold.ring,
      { s.car with board := false, fell := false, reset := false }, Dev.cold.flt, Pkg.cold) := by
  unfold Dev.chilled
  dsimp only
  split <;> rfl

theorem Dev.chilled_phys : s.chilled.phys = s.phys.outside := by
  unfold Dev.chilled
  dsimp only
  split <;> rfl

/-! ### Die and core resets (R485, R486, R488) -/

theorem bit_eq_testBit (x i : Nat) : bit x i = x.testBit i := by
  rw [bit, Nat.testBit_eq_decide_div_mod_eq]
  rfl

/-- A die reset ends with its pair marked busy. -/
theorem Dev.pairReset_ends (d : Nat) :
    ∃ v : Dev, s.pairReset d = v.setFld dieBootPairsBusy (v.fld dieBootPairsBusy ||| 2 ^ d) := ⟨_, rfl⟩

theorem Dev.pairReset_busy (d : Nat) (hd : d < 4) : bit ((s.pairReset d).fld dieBootPairsBusy) d = true := by
  obtain ⟨v, hv⟩ := s.pairReset_ends d
  rw [hv, Dev.fld_setFld_same _ _ _ (by decide), bit_eq_testBit, Nat.testBit_mod_two_pow, Nat.testBit_or, Nat.testBit_two_pow_self]
  simp [dieBootPairsBusy, hd]

/-- A core reset leaves its core cold and every other core as it was. -/
theorem Dev.coreReset_core (c j : Nat) : (s.coreReset c).core j = if j = c then Core.cold else s.core j :=
  s.core_setCore c j Core.cold

/-- A core reset leaves every counter of its core at zero. -/
theorem Dev.coreReset_ctr (c a : Nat) (h : a / 128 = coreBlk c) : (s.coreReset c).ctr a = 0 := by
  refine Sparse.get_of_not_mem _ _ a fun hmem => ?_
  obtain ⟨e, he, rfl⟩ := List.mem_map.mp hmem
  have hkeep := (List.mem_filter.mp he).2
  simp [h] at hkeep

end Sys2Proof.Machine
end

section
/-! SUPPORT. Bring-up and takeover, lateral widths, snapshots and samples, and O57 (R26, R399, R472 to R474, R487, R497, R524 to R527). -/

namespace Sys2Proof.Machine

variable (s : Dev)

/-! ### Bring-up leaves the carrier alone (R468, R471, R487, R497) -/

@[simp] theorem Dev.detect_car (src : Src) (kind cls arg : Nat) : (s.detect src kind cls arg).car = s.car :=
  Dev.car_of_standing (Dev.standing_of_standingCores (s.detect_standingCores src kind cls arg))

@[simp] theorem Dev.secDetect_car (kind cls arg : Nat) : (s.secDetect kind cls arg).car = s.car := s.detect_car _ _ _ _

@[simp] theorem Dev.fenceDie_car (d : Nat) : (s.fenceDie d).car = s.car := by
  unfold Dev.fenceDie
  split
  · rfl
  · split
    · split
      · rfl
      · exact s.detect_car _ _ _ _
    · exact (Dev.car_of_standing (s.dieFaultOnly_standing d)).trans rfl

@[simp] theorem Dev.fenceCluster_car (k : Nat) : (s.fenceCluster k).car = s.car := by
  unfold Dev.fenceCluster
  split
  · rfl
  · split
    · exact s.fenceDie_car _
    · exact (Dev.car_of_standing (s.fenceClusterOnly_standing k)).trans rfl

theorem Dev.fenceNoted_car (c p : Nat) : (s.fenceNoted c p).car = s.car := by
  rw [← Dev.car_of_standing (s.vecCut_standing c)]
  rfl

@[simp] theorem Dev.fenceCore_car (c : Nat) : (s.fenceCore c).car = s.car := by
  unfold Dev.fenceCore
  split
  · rfl
  · split
    · exact s.fenceCluster_car _
    next h =>
      obtain ⟨p, hp⟩ := Option.ne_none_iff_exists'.mp (Option.isNone_iff_eq_none.not.mp h)
      rw [Dev.car_of_standing (s.fenceCoreOnly_standing c p hp), Dev.fenceNoted_car]

@[simp] theorem Dev.bringFence_car (d : Nat) : (s.bringFence d).car = s.car := by
  unfold Dev.bringFence
  split
  · rfl
  · rw [Dev.fenceDie_car, Dev.detect_car]

@[simp] theorem Dev.selfTest_car (bu : BringUp) (p : Nat → Bool) : (s.selfTest bu p).car = s.car := by
  unfold Dev.selfTest
  dsimp only
  rw [foldl_keeps Dev.car _ _ fun d i _ => d.fenceDie_car i, foldl_keeps Dev.car _ _ fun d i _ => d.fenceCluster_car i,
    foldl_keeps Dev.car _ _ fun d i _ => d.fenceCore_car i]

@[simp] theorem Dev.bootConfig_car : s.bootConfig.car = s.car := by
  unfold Dev.bootConfig
  split
  · rfl
  · split
    · rfl
    · exact Dev.secDetect_car _ _ _ _

@[simp] theorem Dev.bootAmend_car : s.bootAmend.car = s.car := by
  unfold Dev.bootAmend
  extract_lets kept fresh_
  have hcar : fresh_.car = s.car := by
    simp only [fresh_, kept]
    split <;> rfl
  clear_value fresh_
  split
  · exact hcar
  · split
    · exact hcar
    · rw [Dev.secDetect_car]
      exact hcar

@[simp] theorem Dev.newNonce_car : s.newNonce.car = s.car := by
  refine foldl_keeps Dev.car _ _ (fun d i _ => ?_) s
  rfl

theorem Dev.secShow_car : s.secShow.car = s.car := rfl

theorem Dev.lockDebug_car : s.lockDebug.car = s.car := rfl

@[simp] theorem Dev.boot_car : s.boot.car = s.car := by
  unfold Dev.boot
  dsimp only
  rw [Dev.newNonce_car, Dev.secShow_car, Dev.setBit_car, Dev.setBit_car, Dev.lockDebug_car, Dev.bootAmend_car, Dev.bootConfig_car]

/-- Without a fuse mismatch and a reset held for command-ready, bring-up ends with stage 7, ready and the time it took. -/
theorem Dev.bringPackage_ends (bu : BringUp) (hb : bu.fuseBad = false) (hr : s.car.reset = false) :
    ∃ v : Dev, s.bringPackage bu = ((v.setFld dieBootStage 7).setBit dieBootReady true).setFld dieBootReadyMs (Nat.min 65535 bu.ms) := by
  unfold Dev.bringPackage
  rw [if_neg (by simp [hb])]
  extract_lets lead clocked caps pkg inForce shown stepped ready_ booted trained tested ends
  have hready : ready_.car = s.car := rfl
  have hbooted : booted.car = ready_.car := ready_.boot_car
  have htrained : trained.car = booted.car := foldl_keeps Dev.car _ _ (fun d i _ => d.bringFence_car i) _
  have htested : tested.car = trained.car := trained.selfTest_car bu _
  have hends : ends.car = tested.car := rfl
  have hreset : ends.car.reset = false := by rw [hends, htested, htrained, hbooted, hready, hr]
  rw [if_neg (by rw [hreset]; decide)]
  exact ⟨tested, rfl⟩

theorem readyEffect_of_reference (bu : BringUp) (h : s.on dieBootReady = false) (hs : s.fld dieBootStage ≠ 1)
    (hc : (s.on dieClkAOk || s.on dieClkBOk) = true) : readyEffect none bu s = s.bringPackage bu := by
  unfold readyEffect
  exact if_neg (by simp [h, hs, hc])

theorem Dev.bringPackage_of_fuse (bu : BringUp) (hb : bu.fuseBad = true) :
    s.bringPackage bu = (s.setFld dieBootStage 1).secDetect 0x66 3 4 := if_pos hb

/-- A pair comes back with the capabilities it showed at bring-up, or its compute die is fenced (R471, R486). -/
theorem readyEffect_of_pair (d : Nat) (bu : BringUp) (h : s.on dieBootReady = true) (hb : bit (s.fld dieBootPairsBusy) d = true) :
    readyEffect (some d) bu s =
      (let y := s.setFld dieBootPairsBusy (s.fld dieBootPairsBusy - 2 ^ d)
       let z : Dev := { y with pkg := { y.pkg with
         complex := if bu.complexes.contains d then setAdd y.pkg.complex d else setDel y.pkg.complex d } }
       (if bu.trained.contains d && wordAt bu.caps d == Sparse.get (always 0) z.pkg.caps d then z else z.bringFence d).selfTest bu (· == d)) := by
  unfold readyEffect
  simp only [h, if_true]
  unfold Dev.bringPair
  exact if_neg (by simp [hb])

/-! ### Lateral modules (R472 to R474) -/

variable (l m : Nat)

theorem trainingEffect_of_bringUp (side : Side) (w : Nat)
    (h : s.on dieBootReady = false ∨ bit (s.fld dieBootPairsBusy) (sideDie l side) = true) :
    trainingEffect l m side w s = ((s.setFld (widthFld l m side) w).setFld (dieLat l m 6 2) 0).carryShow l m := by
  unfold trainingEffect
  exact if_neg (by rcases h with h | h <;> simp [h])

/-- Both records after an attempt: each side that trains reaches no more than the width it trains towards. -/
def attemptWidths (a b lo hi : Nat) : Nat × Nat :=
  (match (attemptSides a b).1 with
    | some t => Nat.min t lo
    | none => a,
   match (attemptSides a b).2 with
    | some t => Nat.min t hi
    | none => b)

/-- The records after an attempt, and whether the module carries. -/
def Dev.attempted (s : Dev) (l m lo hi : Nat) : Dev :=
  let w := attemptWidths (s.fld (widthFld l m .lo)) (s.fld (widthFld l m .hi)) lo hi
  ((s.setFld (widthFld l m .lo) w.1).setFld (widthFld l m .hi) w.2).carryShow l m

/-- An attempt on a module in service whose records differ settles it, counts, or as the third one fences it. -/
theorem attemptEffect_of_open (lo hi : Nat) (hf : s.on (dieLat l m 5 1) = false)
    (ho : s.fld (widthFld l m .lo) = s.fld (widthFld l m .hi) → s.fld (widthFld l m .lo) = 0) :
    attemptEffect l m lo hi s =
      (let a := s.fld (widthFld l m .lo)
       let b := s.fld (widthFld l m .hi)
       let w := attemptWidths a b lo hi
       let y := s.attempted l m lo hi
       let tries := y.fld (dieLat l m 6 2) + 1
       if w.1 = w.2 ∧ w.1 ≠ 0 then y
       else if tries < 3 then y.setFld (dieLat l m 6 2) tries
       else ((y.setFld (dieLat l m 6 2) tries).detect ⟨3, l, m, 0, 3⟩ 0x34 1
         (if ((attemptSides a b).1.isSome && w.1 == 0) || ((attemptSides a b).2.isSome && w.2 == 0) then 2 else 1)).fenceLateral l m) := by
  unfold attemptEffect
  dsimp only
  rw [if_neg]
  · rfl
  · simpa [hf] using ho

/-! ### The lead moves (R26) -/

/-- The next complex leads: the commands that run end, but an admission whose copy has begun; restores and a commit begin again (R217, R336). -/
theorem takeoverEffect_of_missed (k : Nat) (hm : 3 ≤ s.pkg.hbMissed) (hk : s.nextLead = some k) {w y z : Dev} {commit : Option Commit}
    (hw : w = s.dropCmds (fun c => !(s.job.copying && (match c.what with
      | .admits _ => true
      | _ => false))) 0x0201)
    (hy : y = w.unparkRows ((w.regs.commit.map (·.stops)).getD []))
    (hz : z = (List.range 4).foldl (fun z e => if (z.upd e).restore.isSome then (z.unkeep e).updShow e else z) y)
    (hc : commit = z.regs.commit.map fun c => if c.lulled then c else { c with paused := [], stops := [] }) :
    takeoverEffect s =
      (({ z with pkg := { z.pkg with lead := k, hbMissed := 0 }, regs := { z.regs with commit } } : Dev).setFld hifStatusLead k).detect
        (pkgSrc s.pkg.lead 0) 0x48 1 k := by
  refine (if_neg (Nat.not_lt.mpr hm)).trans ?_
  unfold Dev.takeover
  rw [hk]
  dsimp -zeta only
  extract_lets old dropped going restored resumed
  obtain rfl : w = dropped := hw
  obtain rfl : y = going := hy
  obtain rfl : z = restored := hz
  obtain rfl : commit = resumed := hc
  rfl

/-! ### Snapshots and samples (R524 to R527) -/

theorem Dev.takeSnapshot_of_free (w : W64) (hg : fld64 w 0 1 = 1) (hb : s.on pmcSnapStatusBusy = false) :
    s.takeSnapshot w =
      ({ s with pmc := { s.pmc with snap := some ⟨s.snapTime, fld64 w 16 12, fld64 w 28 12 + 1, []⟩ } } : Dev).setBit pmcSnapStatusBusy true := by
  simp [Dev.takeSnapshot, hg, hb]

theorem Dev.takeSnapshot_of_busy (w : W64) (hg : fld64 w 0 1 = 1) (hb : s.on pmcSnapStatusBusy = true) :
    s.takeSnapshot w = s.setBit pmcSnapStatusRefused true := by
  simp [Dev.takeSnapshot, hg, hb]

/-- The record of snapshot `n` as it is written: made at its instant, or kept from then. -/
def Dev.snapMade (s : Dev) (n : Snap) : List Byte := if n.data.isEmpty then s.snapRecord n (s.fld pmcSnapStatusDone) else n.data

/-- The write of a snapshot's record. -/
def Dev.snapPut (s : Dev) (n : Snap) : Dev × VWrite :=
  s.vWrite (baseTlb 0) (pkgSrc 0 0) 0 (s.fld pmcSnapAddrAddr * 64) (s.snapMade n)

section
variable (n : Snap) (hn : s.pmc.snap = some n) (ht : n.t ≤ s.now 0)
include hn ht

theorem snapInstantEffect_of_due :
    snapInstantEffect s = match s.snapPut n with
      | (d, .wait _) => { d with pmc := { d.pmc with snap := some { n with data := s.snapMade n } } }
      | (d, _) => (({ d with pmc := { d.pmc with snap := none } } : Dev).setBit pmcSnapStatusBusy false).addFld pmcSnapStatusDone 1 := by
  simp only [snapInstantEffect, hn]
  rw [if_neg (Nat.not_lt.mpr ht)]
  rfl

theorem snapInstantEffect_of_written (h : (s.snapPut n).2 = .done ∨ (s.snapPut n).2 = .fail) :
    snapInstantEffect s = (({ (s.snapPut n).1 with pmc := { (s.snapPut n).1.pmc with snap := none } } : Dev).setBit
      pmcSnapStatusBusy false).addFld pmcSnapStatusDone 1 := by
  rw [snapInstantEffect_of_due s n hn ht]
  generalize s.snapPut n = put at h
  obtain ⟨d, x⟩ := put
  rcases h with rfl | rfl <;> rfl

theorem snapInstantEffect_of_moving (a : Nat) (h : (s.snapPut n).2 = .wait a) :
    snapInstantEffect s =
      { (s.snapPut n).1 with pmc := { (s.snapPut n).1.pmc with snap := some { n with data := s.snapMade n } } } := by
  rw [snapInstantEffect_of_due s n hn ht]
  generalize s.snapPut n = put at h
  obtain ⟨d, x⟩ := put
  cases h
  rfl

end

section
variable (i c pc skid : Nat)

/-- Sampler `i` of core `c` begins its next period, and a free value is drawn. -/
def Dev.sampTaken (s : Dev) (i c : Nat) : Dev :=
  let key := 512 * i + c
  let got := Sparse.get (always 0) s.pmc.samp key
  { s with pmc := { s.pmc with samp := Sparse.set (always 0) s.pmc.samp key (got - s.sampPeriod i c) }, freeCnt := s.freeCnt + 1 }

/-- The write of a sample at the ring's next place. -/
def Dev.sampPut (s : Dev) (i c pc skid : Nat) : Dev × VWrite :=
  let y := s.sampTaken i c
  y.vWrite (c / 16) (coreSrc c 0) 0 (y.fld pmcSampRingBase * 65536 + 32 * (y.fld pmcSampStatusProd % y.sampCap)) (y.sampBytes i c pc skid)

/-- The ring has been filled, and a free value has it full. -/
def Dev.sampFull (s : Dev) (i c : Nat) : Bool :=
  decide ((s.sampTaken i c).sampCap ≤ (s.sampTaken i c).fld pmcSampStatusProd) && (Config.freeWord s.freeCnt).getLsbD 0

variable (h : s.sampPeriod i c ≤ Sparse.get (always 0) s.pmc.samp (512 * i + c))
include h

theorem sampleEffect_of_due :
    sampleEffect i c pc skid s =
      if s.sampFull i c then (s.sampTaken i c).satFld pmcSampStatusLost 1
      else match s.sampPut i c pc skid with
        | (_, .wait _) => s
        | (d, _) => (d.addFld pmcSampStatusProd 1).sampSignal := by
  unfold sampleEffect
  exact if_neg (Nat.not_lt.mpr h)

theorem sampleEffect_of_written (hf : s.sampFull i c = false)
    (hp : (s.sampPut i c pc skid).2 = .done ∨ (s.sampPut i c pc skid).2 = .fail) :
    sampleEffect i c pc skid s = ((s.sampPut i c pc skid).1.addFld pmcSampStatusProd 1).sampSignal := by
  rw [sampleEffect_of_due s i c pc skid h, hf]
  generalize s.sampPut i c pc skid = put at hp
  obtain ⟨d, x⟩ := put
  rcases hp with rfl | rfl <;> rfl

theorem sampleEffect_of_moving (a : Nat) (hf : s.sampFull i c = false) (hp : (s.sampPut i c pc skid).2 = .wait a) :
    sampleEffect i c pc skid s = s := by
  rw [sampleEffect_of_due s i c pc skid h, hf]
  generalize s.sampPut i c pc skid = put at hp
  obtain ⟨d, x⟩ := put
  cases hp
  rfl

theorem sampleEffect_of_full (hf : s.sampFull i c = true) :
    sampleEffect i c pc skid s = (s.sampTaken i c).satFld pmcSampStatusLost 1 := by
  rw [sampleEffect_of_due s i c pc skid h, if_pos hf]

end

end Sys2Proof.Machine
open Sys2Proof Sys2Proof.Machine

/-- Settles O57: a package reset by what it sets (`Dev.setByReset`), bring-up by its end, which no fence of a self-test turns into a further reset;
every other clause by the equation of its command. -/
theorem resetsAndBringUp : Obligations.ResetsAndBringUp := by
  unfold Obligations.ResetsAndBringUp
  intro s c d p by_ bu l m side w lo hi k n i pc skid snp x ready torn met
  refine ⟨?_, ?_, ?_, ?_, ?_, ?_, ?_, ?_, ?_, ?_, ?_, ?_, ?_, ?_, ?_, ?_, ?_, ?_⟩
  · intro hr
    have hset := (x.wired_setByReset x.warmReset).trans (x.warmReset_setByReset.trans torn.flushLog.warmed_setByReset)
    simp only [Dev.setByReset, Prod.mk.injEq] at hset
    obtain ⟨hcores, hcs, hev, hchans, hjob, hque, hcol, hring, hcar, hflt, hpkg⟩ := hset
    refine ⟨_, State.run_eq (warmResetEffect_of_ready x by_ hr), hcores, hcs, hev, hchans, hjob, hque, hcol, hring, ?_, fun e => ?_, ?_, hpkg,
      x.wired_fusesKept _⟩
    · exact congrArg Carrier.reset hcar
    · rw [Dev.wired_upd]
      exact x.warmReset_upd e
    · have hlog := congrArg FaultUnit.log hflt
      exact hlog
  · exact fun hr => ⟨State.run_eq (if_neg (by simp [x, hr])), State.run_eq (if_neg (by simp [x, hr])), State.run_eq (if_neg (by simp [x, hr]))⟩
  · intro hf hm
    have hset := (x.wired_setByReset x.chilled).trans x.chilled_setByReset
    simp only [Dev.setByReset, Prod.mk.injEq] at hset
    obtain ⟨hcores, -, -, -, hjob, hque, -, -, hcar, hflt, hpkg⟩ := hset
    refine ⟨_, State.run_eq (coldResetEffect_of_power x hf hm), hcores, x.chilled_phys, hjob, hque, hflt, ?_, hpkg, x.wired_fusesKept _⟩
    exact congrArg Carrier.fell hcar
  · intro hr
    have heff : dieResetEffect d x = x.pairReset d := if_pos hr
    refine ⟨State.run_eq heff, _, State.run_eq heff, ?_⟩
    rw [Dev.wired_fld _ _ _ (by decide +kernel)]
    exact x.pairReset_busy d d.isLt
  · exact fun hr => State.run_eq (f := dieResetEffect d) (if_neg (by simp [x, hr]))
  · intro hr hf
    have heff : coreResetEffect c x = x.coreReset c := if_pos (by simpa using ⟨hr, hf⟩)
    refine ⟨_, State.run_eq heff, ?_, fun j hj => ?_, fun a ha => x.coreReset_ctr c a ha⟩
    · rw [Dev.wired_core, Dev.coreReset_core, if_pos rfl]
    · rw [Dev.wired_core, Dev.coreReset_core, if_neg hj]
  · exact fun h => State.run_eq (f := coreResetEffect c) (if_neg (by simpa using h))
  · rfl
  · rfl
  · intro hr hs hc hh
    have heff := readyEffect_of_reference x bu hr hs hc
    refine ⟨fun hb => ?_, fun hb => State.run_eq (heff.trans (x.bringPackage_of_fuse bu hb))⟩
    obtain ⟨v, hv⟩ := x.bringPackage_ends bu hb hh
    refine ⟨_, State.run_eq (heff.trans hv), ?_, ?_, ?_⟩
    · rw [Dev.wired_on _ _ _ (by decide +kernel), Dev.on, Dev.fld_setFld_other _ _ _ _ (by decide), ← Dev.on]
      exact Dev.on_setBit_same _ _ _ rfl (by decide)
    · rw [Dev.wired_fld _ _ _ (by decide +kernel), Dev.fld_setFld_other _ _ _ _ (by decide), Dev.setBit,
        Dev.fld_setFld_other _ _ _ _ (by decide), Dev.fld_setFld_same _ _ _ (by decide)]
      rfl
    · rw [Dev.wired_fld _ _ _ (by decide +kernel), Dev.fld_setFld_same _ _ _ (by decide)]
      exact Nat.mod_eq_of_lt (Nat.lt_succ_of_le (Nat.min_le_left _ _))
  · intro hr hb y z same
    have heff := readyEffect_of_pair x d bu hr hb
    refine ⟨fun h => State.run_eq (heff.trans ?_), fun h => State.run_eq (heff.trans ?_)⟩
    · exact congrArg (Dev.selfTest · bu (· == d.val)) (if_pos h)
    · exact congrArg (Dev.selfTest · bu (· == d.val)) (if_neg (Bool.eq_false_iff.mp h))
  · exact fun h => State.run_eq (trainingEffect_of_bringUp x l m side w h)
  · intro h v
    exact State.run_eq (f := retryFailureEffect l m lo hi) (if_neg (by simp [x, h]))
  · intro hf ho a b g a' b' y tries z
    have heff := attemptEffect_of_open x l m lo hi hf ho
    exact ⟨fun he hz => State.run_eq (heff.trans (if_pos ⟨he, hz⟩)),
      fun hn ht => State.run_eq (heff.trans ((if_neg hn).trans (if_pos ht))),
      fun hn ht => State.run_eq (heff.trans ((if_neg hn).trans (if_neg (Nat.not_lt.mpr ht))))⟩
  · intro hm hk w y back z commit
    exact State.run_eq (takeoverEffect_of_missed x k hm hk rfl rfl rfl rfl)
  · intro hg v n
    exact ⟨fun hb => State.run_eq (v.takeSnapshot_of_free snp hg hb), fun hb => State.run_eq (v.takeSnapshot_of_busy snp hg hb)⟩
  · intro hn ht made put y
    exact ⟨fun h => State.run_eq (snapInstantEffect_of_written x n hn ht h), fun a h => State.run_eq (snapInstantEffect_of_moving x n hn ht a h)⟩
  · intro key got y prod put full h
    exact ⟨fun hf => State.run_eq (sampleEffect_of_full x i c pc.toNat skid h hf),
      fun hf hp => State.run_eq (sampleEffect_of_written x i c pc.toNat skid h hf hp),
      fun a hf hp => State.run_eq (sampleEffect_of_moving x i c pc.toNat skid h a hf hp)⟩
end

section
/-! SUPPORT. What an access to memory leaves alone, for any part of the device: of the registers it changes the drain bits of the 16 stacks
alone (R246). -/

namespace Sys2Proof.Machine

/-- `g` reads nothing that an access to memory changes: memory and its state, faults, counters, transfers, what has left the block, free
values drawn, drain bits of the stacks. -/
structure MemoryKeeps {α : Type} (g : Dev → α) : Prop where
  rest  : ∀ a b : Dev, b = { a with mem := b.mem, phys := b.phys, flt := b.flt, pmc := b.pmc, ring := b.ring, out := b.out,
                                    hostOut := b.hostOut, freeCnt := b.freeCnt } → g b = g a
  drain : ∀ (s : Dev) (st v : Nat), st < 16 → g (s.setFld (memPcDrainDrain.nth st) v) = g s

theorem Dev.stackAddr_lt (s : Dev) (pa st sa : Nat) (h : s.stackAddr pa = some (st, sa)) : st < 16 := by
  unfold Dev.stackAddr at h
  split at h
  next d o hw =>
    have hd : d < 4 := by
      unfold Dev.window at hw
      dsimp only at hw
      split at hw
      · split at hw
        · simp only [Option.some.injEq, Prod.mk.injEq, Window.home.injEq] at hw
          omega
        · cases hw
      · split at hw
        · split at hw <;> simp at hw
        · split at hw
          · split at hw <;> simp at hw
          · split at hw
            · split at hw <;> simp at hw
            · cases hw
    simp only [Option.some.injEq, Prod.mk.injEq, bits] at h
    omega
  next o hw =>
    simp only [Option.some.injEq, Prod.mk.injEq, bits] at h
    omega
  next => cases h

section
variable {α : Type} {g : Dev → α} (h : MemoryKeeps g)
include h

namespace MemoryKeeps

theorem count (s : Dev) (b e k : Nat) : g (s.count b e k) = g s := by
  refine h.rest _ _ ?_
  unfold Dev.count
  split <;> rfl

theorem detect (s : Dev) (src : Src) (kind cls arg : Nat) : g (s.detect src kind cls arg) = g s := by
  refine h.rest _ _ ?_
  unfold Dev.detect Dev.detectN
  split
  · rfl
  · dsimp only
    split
    · split <;> rfl
    · rfl

theorem sendHost (s : Dev) (o : Output) : g (s.sendHost o) = g s := by
  refine h.rest _ _ ?_
  unfold Dev.sendHost Dev.sendHostFor
  split <;> rfl

theorem startDrain (s : Dev) (st pc : Nat) (hst : st < 16) : g (s.startDrain st pc) = g s := by
  unfold Dev.startDrain
  split
  · rfl
  · rw [h.detect, h.drain s st _ hst]

theorem countPc (s : Dev) (st pc : Nat) (hst : st < 16) : g (s.countPc st pc) = g s := by
  unfold Dev.countPc
  extract_lets t w l mem noted
  have hnoted : g noted = g s := h.rest _ _ rfl
  split
  · exact (h.startDrain noted st pc hst).trans hnoted
  · exact hnoted

theorem noteWord (s : Dev) (cls cw : Nat) (e : Ecc) : g (s.noteWord cls cw e) = g s := by
  unfold Dev.noteWord
  split
  next st sa hs =>
    have hst := s.stackAddr_lt cw st sa hs
    cases e with
    | clean => rfl
    | corrected p x => exact (h.count _ _ _ _).trans ((h.countPc _ st _ hst).trans (h.detect _ _ _ _ _))
    | uncorr => exact (h.startDrain _ st _ hst).trans (h.detect _ _ _ _ _)
    | poisoned => exact h.detect _ _ _ _ _
  next =>
    split
    · exact (h.detect _ _ _ _ _).trans (h.rest _ _ rfl)
    · exact h.detect _ _ _ _ _
    · exact h.detect _ _ _ _ _
    · exact h.detect _ _ _ _ _
    · exact h.detect _ _ _ _ _
    · rfl

theorem noteAll (s : Dev) (cls : Nat) (l : List (Nat × Ecc)) : g (s.noteAll cls l) = g s :=
  foldl_keeps g _ l (fun d x _ => h.noteWord d cls x.1 x.2) s

theorem countBytes (s : Dev) (e ec pa n : Nat) : g (s.countBytes e ec pa n) = g s := by
  refine foldl_keeps g _ _ (fun d x _ => ?_) s
  split
  · exact h.count _ _ _ _
  · exact h.count _ _ _ _
  · rfl

theorem cxlAsk (s : Dev) (pa : Nat) (f : Option (Nat × Nat) → Nat → Output) : g (s.cxlAsk pa f) = g s := by
  unfold Dev.cxlAsk
  split
  · dsimp only
    split
    · exact h.sendHost _ _
    · split
      · exact h.rest _ _ rfl
      · rfl
  · rfl

theorem preWrite (s : Dev) (cls pa n : Nat) : g (s.preWrite cls pa n) = g s :=
  (foldl_keeps g _ _ (fun d _ _ => h.sendHost d _) _).trans ((h.rest (s.noteAll cls (s.partials pa n)) _ rfl).trans (h.noteAll s cls _))

theorem physWrite (s : Dev) (pa : Nat) (bs : List Byte) : g (s.physWrite pa bs) = g s :=
  (h.rest (((s.preWrite 2 pa bs.length).countBytes 4 16 pa bs.length).cxlOut pa bs) _ rfl).trans
    ((h.cxlAsk _ _ _).trans ((h.countBytes _ _ _ _ _).trans (h.preWrite _ _ _ _)))

theorem carry (s : Dev) (t : Nat) (src : Src) (wr : Bool) (pa n : Nat) : g (s.carry t src wr pa n) = g s := by
  unfold Dev.carry
  extract_lets d core counted
  have hc : g counted = g s := by
    simp only [counted]
    split
    · exact h.count _ _ _ _
    · rfl
  refine (foldl_keeps g _ _ (fun d p _ => ?_) counted).trans hc
  split <;> exact h.rest _ _ rfl

theorem tlbFill (s : Dev) (t : Nat) (e : TlbEnt) : g (s.tlbFill t e) = g s := by
  unfold Dev.tlbFill
  dsimp only
  split <;> exact h.rest _ _ rfl

theorem markLeaf (s : Dev) (a : Nat) (e : W64) (wr : Bool) : g (s.markLeaf a e wr) = g s := by
  unfold Dev.markLeaf
  extract_lets e'
  split
  · rfl
  · unfold Dev.putLeaf
    split
    · exact h.rest _ _ rfl
    · exact (h.rest (s.preWrite 2 a (natLe 8 e'.toNat).length) _ rfl).trans (h.preWrite _ _ _ _)

theorem touchLeaf (s : Dev) (e : TlbEnt) (wr : Bool) : g (s.touchLeaf e wr) = g s := by
  unfold Dev.touchLeaf
  dsimp only
  split
  · exact h.markLeaf _ _ _ _
  · rfl

theorem walkFill (s : Dev) (t : Nat) (src : Src) (cls va : Nat) (wr : Bool) : g (s.walkFill t src cls va wr).1 = g s := by
  unfold Dev.walkFill
  extract_lets counted w noted
  have hc : g counted = g s := by
    simp only [counted]
    split <;> exact h.count _ _ _ _
  have hn : g noted = g s := by
    refine Eq.trans ?_ hc
    simp only [noted]
    split
    · exact h.noteAll _ _ _
    · rfl
  clear_value w noted
  cases w with
  | leaf a frame size e => exact (h.tlbFill _ _ _).trans ((h.markLeaf _ _ _ _).trans hn)
  | moving a => exact hn
  | fail => exact (h.detect _ _ _ _ _).trans hn
  | lost a => exact (h.detect _ _ _ _ _).trans hn

theorem xlate (s : Dev) (t : Nat) (src : Src) (cls va : Nat) (wr : Bool) : g (s.xlate t src cls va wr).1 = g s := by
  unfold Dev.xlate
  split
  · exact h.walkFill _ _ _ _ _ _
  · split
    · split
      · exact h.detect _ _ _ _ _
      · split
        · exact h.walkFill _ _ _ _ _ _
        · exact h.touchLeaf _ _ _
    · exact h.walkFill _ _ _ _ _ _

theorem xlateAll (t : Nat) (src : Src) (cls : Nat) (wr : Bool) (l : List (Nat × Nat)) :
    ∀ s : Dev, g (s.xlateAll t src cls wr l).1 = g s := by
  induction l with
  | nil => exact fun _ => rfl
  | cons p l ih =>
    intro s
    have hp := h.xlate s t src cls p.1 wr
    unfold Dev.xlateAll
    generalize s.xlate t src cls p.1 wr = x at hp
    obtain ⟨d, x⟩ := x
    cases x with
    | ok pa =>
      have hl := (ih d).trans hp
      dsimp only
      generalize d.xlateAll t src cls wr l = y at hl
      obtain ⟨d', y⟩ := y
      cases y <;> exact hl
    | wait a => exact hp
    | fail => exact hp

theorem writePieces (l : List (Nat × Nat)) : ∀ (s : Dev) (bs : List Byte), g (s.writePieces false l bs) = g s := by
  induction l with
  | nil => exact fun _ _ => rfl
  | cons p l ih => exact fun s bs => (ih _ _).trans (h.physWrite _ _ _)

theorem vWrite (s : Dev) (t : Nat) (src : Src) (cls va : Nat) (bs : List Byte) : g (s.vWrite t src cls va bs).1 = g s := by
  have hx : g (s.xlateRange t src cls va bs.length true).1 = g s := h.xlateAll t src cls true _ s
  unfold Dev.vWrite Dev.vWriteP
  generalize s.xlateRange t src cls va bs.length true = x at hx
  obtain ⟨d, x⟩ := x
  cases x with
  | ok ps => exact (h.writePieces _ _ _).trans ((foldl_keeps g _ ps (fun d p _ => h.carry d t src true p.1 p.2) d).trans hx)
  | wait a => exact hx
  | fail => exact hx

end MemoryKeeps
end

end Sys2Proof.Machine
end

section
/-! SUPPORT. A vector instruction issued on an idle engine: what it begins from, the elements it writes, what follows it (R103, R109, R128, R135). -/

namespace Sys2Proof.Machine

/-! ### Sparse maps written at several keys -/

theorem Sparse.get_setAll_of_not_mem {α : Type} [DecidableEq α] (d : Nat → α) (j : Nat) (es : List (Nat × α)) (h : ∀ e ∈ es, e.1 ≠ j) :
    ∀ m : Sparse α, Sparse.get d (Sparse.setAll d m es) j = Sparse.get d m j := by
  induction es with
  | nil => exact fun _ => rfl
  | cons e es ih =>
    intro m
    rw [Sparse.setAll, ih fun x hx => h x (by simp [hx]), Sparse.get_set_other _ _ _ _ _ (Ne.symm (h e (by simp)))]

/-- A key that is written, always with the same value. -/
theorem Sparse.get_setAll_of_mem {α : Type} [DecidableEq α] (d : Nat → α) (j : Nat) (v : α) (es : List (Nat × α))
    (hj : ∃ e ∈ es, e.1 = j) (h : ∀ e ∈ es, e.1 = j → e.2 = v) :
    ∀ m : Sparse α, Sparse.get d (Sparse.setAll d m es) j = v := by
  induction es with
  | nil => simp at hj
  | cons e es ih =>
    intro m
    by_cases htail : ∃ x ∈ es, x.1 = j
    · exact ih htail (fun x hx => h x (by simp [hx])) _
    · have hnot : ∀ x ∈ es, x.1 ≠ j := fun x hx hxj => htail ⟨x, hx, hxj⟩
      have he : e.1 = j := by
        obtain ⟨x, hx, hxj⟩ := hj
        rcases List.mem_cons.mp hx with rfl | hx
        · exact hxj
        · exact absurd hxj (hnot x hx)
      rw [Sparse.setAll, Sparse.get_setAll_of_not_mem d j es hnot, ← he, Sparse.get_set_same]
      exact h e (by simp) he

/-! ### The device as the body of an instruction finds it -/

/-- What the vector engine reads beside its core: the seed of the job, its step, the feature level. -/
def Dev.vecParams (s : Dev) := (s.job.seed, s.step, s.featLevel)

theorem memoryKeeps_vecParams : MemoryKeeps Dev.vecParams where
  rest a b h := by rw [h]; rfl
  drain s st v hst := by
    have hreg : ∀ o, o < 0x3100 ∨ 0x3180 ≤ o → (s.setFld (memPcDrainDrain.nth st) v).reg o = s.reg o := fun o ho => by
      rw [Dev.setFld, Dev.reg_setReg, if_neg]
      simp only [memPcDrainDrain, Fld.nth]
      omega
    have hstep : (s.setFld (memPcDrainDrain.nth st) v).step = s.step := hreg _ (by decide)
    have hcap : (s.setFld (memPcDrainDrain.nth st) v).fld dieCapCap = s.fld dieCapCap := by
      rw [Dev.fld, Dev.fld, hreg dieCapCap.off (by decide)]
    rw [Dev.vecParams, Dev.vecParams, hstep, Dev.featLevel, Dev.featLevel, hcap, Dev.setFld_job]

theorem Dev.tensor_of_vecParams {a b : Dev} (h : a.vecParams = b.vecParams) (id : W64) : a.tensor id = b.tensor id := by
  simp only [Dev.vecParams, Prod.mk.injEq] at h
  obtain ⟨hseed, hstep, -⟩ := h
  rw [Dev.tensor, Dev.tensor, hseed, hstep]

theorem Dev.vrand_of_vecParams {a b : Dev} (h : a.vecParams = b.vecParams) (x : QEnt) : a.vrand x = b.vrand x := by
  unfold Dev.vrand
  rw [Dev.tensor_of_vecParams h]

theorem Dev.featLevel_of_vecParams {a b : Dev} (h : a.vecParams = b.vecParams) : a.featLevel = b.featLevel := by
  simp only [Dev.vecParams, Prod.mk.injEq] at h
  exact h.2.2

theorem Dev.countIssue_vecParams (s : Dev) (c k : Nat) : (s.countIssue c k).vecParams = s.vecParams := by
  have hc : (((s.count (coreBlk c) 3 1).count (coreBlk c) (4 + k) 1)).vecParams = s.vecParams :=
    (memoryKeeps_vecParams.count _ _ _ _).trans (memoryKeeps_vecParams.count _ _ _ _)
  unfold Dev.countIssue
  extract_lets counted noted n pmc issued
  split
  · split
    · exact (memoryKeeps_vecParams.rest _ (issued.traceWrite _ _) rfl).trans ((memoryKeeps_vecParams.vWrite issued _ _ _ _ _).trans hc)
    · exact hc
  · exact hc

/-- Core `k` with the queue, the run and the counts of `m`: nothing that the body of a vector instruction reads is of these. -/
def Core.begun (k m : Core) : Core :=
  { k with since := m.since, redo := m.redo, seq := m.seq, vq := m.vq, vrun := m.vrun, vdone := m.vdone }

/-- `b` is `d` with an instruction begun on core `c`, its queue and counts those of `m`. -/
structure Dev.Begun (d b : Dev) (c : Nat) (m : Core) : Prop where
  core   : b.core c = (d.core c).begun m
  other  : ∀ j, j ≠ c → b.core j = d.core j
  params : b.vecParams = d.vecParams

theorem Dev.Begun.of_core {d b : Dev} {c : Nat} (hc : b.core c = (d.core c).begun (b.core c)) (ho : ∀ j, j ≠ c → b.core j = d.core j)
    (hp : b.vecParams = d.vecParams) : d.Begun b c (b.core c) := ⟨hc, ho, hp⟩

theorem Dev.count_core (s : Dev) (b e k j : Nat) : (s.count b e k).core j = s.core j := Dev.core_of_beside (s.count_beside b e k) j

theorem Dev.Begun.count {d b : Dev} {c : Nat} {m : Core} (h : d.Begun b c m) (blk e k : Nat) : d.Begun (b.count blk e k) c m where
  core := (b.count_core blk e k c).trans h.core
  other j hj := (b.count_core blk e k j).trans (h.other j hj)
  params := (memoryKeeps_vecParams.count b blk e k).trans h.params

/-! ### Issue on an idle engine (R128, R135) -/

theorem Dev.cycle_of_beside {a b : Dev} (h : a.beside = b.beside) (c : Nat) : a.cycle c = b.cycle c := by
  simp only [Dev.beside, Prod.mk.injEq] at h
  obtain ⟨-, -, -, -, -, hbases, -, -, -, -, -, -, -, -, -, -, hreal⟩ := h
  rw [Dev.cycle, Dev.cycle, Dev.base, Dev.base, hbases, hreal]

theorem Dev.cycle_countIssue (s : Dev) (c k j : Nat) : (s.countIssue c k).cycle j = s.cycle j :=
  (Dev.cycle_of_beside (s.countIssue_beside c k) j).trans rfl

/-- The engine takes the head of its queue. -/
theorem Dev.vstart_of_head (s : Dev) (c wait cost : Nat) (bank : Option Nat) (acts : Core → QEnt → Bool) (body : QEnt → Dev → Dev) (x : QEnt)
    (q : List QEnt) (h : (s.core c).vq = x :: q) :
    s.vstart c wait cost bank acts body = body x ((s.onCore c fun k =>
      { k with vq := q, vrun := some ⟨x, s.cycle c + wait, s.cycle c + wait + cost, x.dst, bank, false, acts k x, vPlaces k x⟩,
               vdone := Sparse.setAll (always 0) (k.vdone.filter fun d => decide (s.cycle c < d.2 + 6))
                 ((vMakes k x).map fun n => (n, s.cycle c + wait + cost)) }).count (engBlk c 4) 4 1) := by
  simp only [Dev.vstart, h]

/-- `d` with a vector instruction counted and put into the queue of core `c`. -/
def Dev.vqueued (d : Dev) (c : Nat) (w0 w1 : W64) : Dev := (d.countIssue c 2).vpush c w0 w1 (vlatch (d.core c) w0 w1)

theorem Dev.vqueued_core (d : Dev) (c : Nat) (w0 w1 : W64) : (d.vqueued c w0 w1).core c =
    { d.core c with since := (d.core c).since + 1, redo := (d.core c).redo - 1, seq := (d.core c).seq + 1,
                    vq := (d.core c).vq ++ [⟨w0, w1, vlatch (d.core c) w0 w1, (d.core c).seq, (d.core c).pc, d.cycle c⟩] } := by
  simp only [Dev.vqueued, Dev.vpush, Dev.core_onCore, Dev.core_countIssue, Dev.cycle_countIssue, if_true]

theorem Dev.vqueued_core_other (d : Dev) (c : Nat) (w0 w1 : W64) (j : Nat) (hj : j ≠ c) : (d.vqueued c w0 w1).core j = d.core j := by
  simp only [Dev.vqueued, Dev.vpush, Dev.core_onCore, Dev.core_countIssue, if_neg hj]

theorem Dev.vqueued_cycle (d : Dev) (c : Nat) (w0 w1 : W64) : (d.vqueued c w0 w1).cycle c = d.cycle c := d.cycle_countIssue c 2 c

theorem Dev.vqueued_vecParams (d : Dev) (c : Nat) (w0 w1 : W64) : (d.vqueued c w0 w1).vecParams = d.vecParams := d.countIssue_vecParams c 2

theorem Dev.vqueued_vecBusy (d : Dev) (c : Nat) (w0 w1 : W64) : (d.vqueued c w0 w1).vecBusy c = d.vecBusy c := by
  rw [Dev.vecBusy, Dev.vecBusy, Dev.vqueued_cycle, Dev.vqueued_core]

theorem Dev.vqueued_vecHeld (d : Dev) (c : Nat) (w0 w1 : W64) (x : QEnt) : (d.vqueued c w0 w1).vecHeld c x = d.vecHeld c x := by
  rw [Dev.vecHeld, Dev.vecHeld, Dev.vqueued_cycle, Dev.vqueued_core]
  rfl

section
variable {s d : Dev} {c op : Nat} {w0 w1 : W64} {own : Bool} {x : QEnt} (h : VectorRuns s d c op w0 w1 own x)
include h

/-- An instruction that `VectorRuns` describes enters the queue, starts and is gone on behind. -/
theorem vecIssue_of_vectorRuns (legal fit : Dev → Bool) (cost : Dev → Nat) (body : QEnt → Dev → Dev) (hl : legal d = true)
    (hf : fit d = true) : vecIssue c op w0 w1 legal fit cost body s =
      ((d.vqueued c w0 w1).vstart c 0 (cost (d.vqueued c w0 w1)) none vecActs body).advance c (instrLen w0) := by
  obtain ⟨⟨hi, ho, hfetch, hpc⟩, hlegal, -, hfree, hvq, -, hbusy, hheld, -⟩ := h
  have hb : (d.vqueued c w0 w1).vecBusy c = false := (d.vqueued_vecBusy c w0 w1).trans hbusy
  have hh := (d.vqueued_vecHeld c w0 w1 ⟨w0, w1, [], 0, 0, 0⟩).trans hheld
  unfold vecIssue
  rw [s.issue_ok c op w0 _ _ d hi ho hfetch (Nat.le_of_lt hpc) (by rw [hlegal, hl]; rfl)]
  simp only [Dev.vqueued] at hb hh
  simp [hfree, hvq, hf, hb, hh, Dev.vqueued]

/-- The body of the instruction finds `d` with it begun. -/
theorem vstart_of_vectorRuns (cost : Nat) (acts : Core → QEnt → Bool) (body : QEnt → Dev → Dev) :
    ∃ b m, d.Begun b c m ∧ (d.vqueued c w0 w1).vstart c 0 cost none acts body = body x b := by
  obtain ⟨-, -, -, -, hvq, -, -, -, hx⟩ := h
  have hq : ((d.vqueued c w0 w1).core c).vq = [x] := by rw [Dev.vqueued_core, hvq, hx]; rfl
  refine ⟨_, _, (Dev.Begun.of_core ?_ (fun j hj => ?_) ?_).count _ _ _, Dev.vstart_of_head _ c 0 cost none acts body x [] hq⟩
  · rw [Dev.core_onCore, if_pos rfl, Dev.vqueued_core]
    rfl
  · rw [Dev.core_onCore, if_neg hj, Dev.vqueued_core_other _ _ _ _ _ hj]
  · exact d.vqueued_vecParams c w0 w1

/-- Issue of the instruction as a command: core `c` is as the body leaves it, its PC behind the instruction; the other cores are as the body
leaves them. -/
theorem run_vecIssue_of_vectorRuns (u : State) (hu : u.dev = s) (legal fit : Dev → Bool) (cost : Dev → Nat) (body : QEnt → Dev → Dev)
    (hl : legal d = true) (hf : fit d = true) (hpc : ∀ b m, d.Begun b c m → ((body x b).core c).pc = (d.core c).pc) :
    ∃ b m t, d.Begun b c m ∧ u.run (vecIssue c op w0 w1 legal fit cost body) = .next t ∧
      t.dev.core c = { (body x b).core c with pc := (d.core c).pc + instrLen w0 } ∧ ∀ j, j ≠ c → t.dev.core j = (body x b).core j := by
  obtain ⟨b, m, hb, hstart⟩ := vstart_of_vectorRuns h (cost (d.vqueued c w0 w1)) vecActs body
  have hissue := vecIssue_of_vectorRuns h legal fit cost body hl hf
  obtain ⟨⟨-, -, -, hlen⟩, -⟩ := h
  have hbody := hpc b m hb
  rw [hstart, Dev.advance_ok _ _ _ (by rw [hbody]; exact hlen), hbody] at hissue
  subst hu
  refine ⟨b, m, _, hb, State.run_eq hissue, ?_, fun j hj => ?_⟩
  · show (u.dev.wired _).core c = _
    rw [Dev.wired_core, Dev.core, Dev.moves_cores, ← Dev.core, Dev.core_onCore, if_pos rfl]
  · show (u.dev.wired _).core j = _
    rw [Dev.wired_core, Dev.core, Dev.moves_cores, ← Dev.core, Dev.core_onCore, if_neg hj]

end

/-! ### The body over the active elements -/

theorem Dev.lsCheck_nil (s : Dev) (c : Nat) : s.lsCheck c [] = (s, true) := by simp [Dev.lsCheck, Dev.lsReact]

/-- With no coded line of the core in error the operands are read as they are. -/
theorem Dev.Begun.vCheck {d b : Dev} {c : Nat} {m : Core} (h : d.Begun b c m) (hcode : (d.core c).code = []) (w0 w1 : W64) :
    ∃ b', d.Begun b' c m ∧ b.vCheck c w0 w1 = (b', true) := by
  have hk : (b.core c).code = [] := by rw [h.core]; exact hcode
  refine ⟨b.onCore c (·.cleanLines (vFull w0 w1)), ⟨?_, fun j hj => ?_, h.params⟩, ?_⟩
  · rw [Dev.core_onCore, if_pos rfl, h.core]
    simp [Core.cleanLines, Core.begun, hcode]
  · rw [Dev.core_onCore, if_neg hj, h.other j hj]
  · simp [Dev.vCheck, Dev.lineCheck, Core.badLines, hk]

/-- Counting elements changes no core. -/
theorem Dev.Begun.vtally {d b : Dev} {c : Nat} {m : Core} (h : d.Begun b c m) (x : QEnt) (act : List Nat) : d.Begun (b.vtally c x act) c m :=
  ((h.count _ _ _).count _ _ _).count _ _ _

/-- In register form, with no coded line in error, a body runs on its core's active elements. -/
theorem vecBody_of_register {d b : Dev} {c : Nat} {m : Core} (h : d.Begun b c m) (hcode : (d.core c).code = []) (x : QEnt)
    (ht : tbOf x.w0 = false) (f : Core → List Nat → QEnt → Dev → Dev) :
    ∃ b', d.Begun b' c m ∧ vecBody c f x b = f ((d.core c).begun m) ((d.core c).actives x.w0 x.w1) x b' := by
  obtain ⟨b', hb, hcheck⟩ := h.vCheck hcode x.w0 x.w1
  refine ⟨_, hb.vtally x ((d.core c).actives x.w0 x.w1), ?_⟩
  have hranges : tbRanges (b.core c) x = [] := by simp [tbRanges, ht]
  simp only [vecBody, hranges, Dev.lsCheck_nil, hcheck, hb.core]
  rfl

end Sys2Proof.Machine
end

section
/-! SUPPORT. The elements that a vector instruction writes in its destination register, and O35 (R45, R103, R108 to R112, R119, R122). -/

namespace Sys2Proof.Machine

/-! ### Elements of a register -/

theorem vcount_le (w0 w1 : W64) (ht : tbOf w0 = false) : vcount w0 w1 ≤ 2048 := by
  have : fld64 w0 40 11 < 2048 := Nat.mod_lt _ (by decide)
  simp only [vcount, ht, Bool.false_eq_true, if_false]
  omega

theorem Core.mem_actives {k : Core} {w0 w1 : W64} {e : Nat} : e ∈ k.actives w0 w1 ↔ e < vcount w0 w1 ∧ k.active w0 w1 e = true := by
  simp [Core.actives]

theorem Core.lt_of_mem_actives {k : Core} {w0 w1 : W64} (ht : tbOf w0 = false) {e : Nat} (he : e ∈ k.actives w0 w1) : e < 2048 :=
  Nat.lt_of_lt_of_le (Core.mem_actives.mp he).1 (vcount_le w0 w1 ht)

theorem Core.actives_nodup (k : Core) (w0 w1 : W64) : (k.actives w0 w1).Nodup := List.nodup_range.filter _

/-- The results `res` give each element of `act`, and no other one, its value of `g`. -/
structure Fills (res : List (Nat × Nat)) (act : List Nat) (g : Nat → Nat) : Prop where
  value : ∀ r ∈ res, r.2 = g r.1
  keys  : ∀ e, (∃ r ∈ res, r.1 = e) ↔ e ∈ act

theorem fills_map (act : List Nat) (g : Nat → Nat) : Fills (act.map fun e => (e, g e)) act g where
  value r hr := by
    obtain ⟨e, -, rfl⟩ := List.mem_map.mp hr
    rfl
  keys e := by simp

theorem Fills.congr {res : List (Nat × Nat)} {act : List Nat} {g g' : Nat → Nat} (h : Fills res act g) (hg : ∀ e, g e = g' e) :
    Fills res act g' :=
  (funext hg : g = g') ▸ h

/-- Core `k` with the results `res` of type `ty` in register `n`, its status `w`. -/
def Core.filled (k : Core) (n ty : Nat) (res : List (Nat × Nat)) (w : W64) : Core :=
  { k with v := Sparse.setAll (always 0) k.v (res.map fun r => (n * 2048 + r.1, BitVec.ofNat 32 (r.2 % 2 ^ tyBits ty))), vstat := w }

theorem tyBits_le (ty : Nat) : tyBits ty ≤ 32 := by
  unfold tyBits elemBits
  split
  · decide
  · split <;> decide

theorem Core.velem_filled (k : Core) {n ty : Nat} {res : List (Nat × Nat)} {w : W64} {act : List Nat} {g : Nat → Nat} (h : Fills res act g)
    (hact : ∀ e ∈ act, e < 2048) (i e : Nat) (he : e < 2048) :
    (k.filled n ty res w).velem i e = if i = n ∧ e ∈ act then g e % 2 ^ tyBits ty else k.velem i e := by
  have hkey : ∀ r ∈ res, n * 2048 + r.1 = i * 2048 + e ↔ i = n ∧ r.1 = e := fun r hr => by
    have := hact r.1 ((h.keys r.1).mp ⟨r, hr, rfl⟩)
    omega
  unfold Core.velem Core.filled
  dsimp only
  split
  next hie =>
    obtain ⟨rfl, hea⟩ := hie
    obtain ⟨r, hr, hre⟩ := (h.keys e).mpr hea
    rw [Sparse.get_setAll_of_mem (always 0) (i * 2048 + e) (BitVec.ofNat 32 (g e % 2 ^ tyBits ty))]
    · have hlt : g e % 2 ^ tyBits ty < 2 ^ 32 :=
        Nat.lt_of_lt_of_le (Nat.mod_lt _ (Nat.two_pow_pos _)) (Nat.pow_le_pow_right (by decide) (tyBits_le ty))
      rw [BitVec.toNat_ofNat, Nat.mod_eq_of_lt hlt]
    · exact ⟨_, List.mem_map.mpr ⟨r, hr, rfl⟩, (hkey r hr).mpr ⟨rfl, hre⟩⟩
    · intro y hy hye
      obtain ⟨r', hr', rfl⟩ := List.mem_map.mp hy
      rw [h.value r' hr', ((hkey r' hr').mp hye).2]
  next hie =>
    rw [Sparse.get_setAll_of_not_mem]
    intro y hy hye
    obtain ⟨r, hr, rfl⟩ := List.mem_map.mp hy
    obtain ⟨hi, hre⟩ := (hkey r hr).mp hye
    exact hie ⟨hi, (h.keys e).mp ⟨r, hr, hre⟩⟩

/-- Device `t` is `d` with an instruction begun on core `c` that has given each element of `act` of register `n` its value of `g`, in the
container of type `ty`; the status of the core is `w`. -/
def Dev.Filled (d t : Dev) (c n ty : Nat) (act : List Nat) (g : Nat → Nat) (w : W64) : Prop :=
  ∃ m res, t.core c = ((d.core c).begun m).filled n ty res w ∧ Fills res act g ∧ ∀ j, j ≠ c → t.core j = d.core j

section
variable {d b : Dev} {c : Nat} {m : Core}

/-- Results written in register form. -/
theorem Dev.Begun.vdst (h : d.Begun b c m) {x : QEnt} (ht : tbOf x.w0 = false) {ty : Nat} {res : List (Nat × Nat)} {act : List Nat}
    {g : Nat → Nat} (hres : Fills res act g) : d.Filled (b.vdst c x ty res) c (vdOf x.w0) ty act g (d.core c).vstat := by
  have hv : b.vdst c x ty res = b.onCore c fun k =>
      { k with v := Sparse.setAll (always 0) k.v (res.map fun r => (vdOf x.w0 * 2048 + r.1, BitVec.ofNat 32 (r.2 % 2 ^ tyBits ty))) } := by
    simp [Dev.vdst, ht]
  refine ⟨m, res, ?_, hres, fun j hj => ?_⟩
  · rw [hv, Dev.core_onCore, if_pos rfl, h.core]
    rfl
  · rw [hv, Dev.core_onCore, if_neg hj, h.other j hj]

variable {n ty : Nat} {act : List Nat} {g : Nat → Nat} {w : W64} {t : Dev}

theorem Dev.Filled.count (h : d.Filled t c n ty act g w) (blk e k : Nat) : d.Filled (t.count blk e k) c n ty act g w := by
  obtain ⟨m, res, hc, hres, ho⟩ := h
  exact ⟨m, res, (t.count_core blk e k c).trans hc, hres, fun j hj => (t.count_core blk e k j).trans (ho j hj)⟩

theorem Dev.nonFinite_core (s : Dev) (b : Bool) (j : Nat) : (s.nonFinite b).core j = s.core j := by
  unfold Dev.nonFinite
  split <;> rfl

/-- A status word with saturations added and a non-finite block noted (R127). -/
def notedStatus (w : W64) (sats nfs : Nat) : W64 :=
  let v := putBits w 32 32 (satAdd (2 ^ 32 - 1) (fld64 w 32 32) sats)
  if nfs = 0 then v else putBits v 1 1 1

/-- Of the cores noting changes the status of core `c` alone. -/
theorem Dev.vnote_core (s : Dev) (c sats nfs j : Nat) :
    (s.vnote c sats nfs).core j = if j = c then { s.core c with vstat := notedStatus (s.core c).vstat sats nfs } else s.core j := by
  unfold Dev.vnote
  extract_lets noted marked
  have hm : marked.core j = noted.core j := by
    simp only [marked]
    split
    · rfl
    · exact Dev.nonFinite_core _ _ _
  rw [Dev.count_core, Dev.count_core, hm]
  exact s.core_onCore c j _

theorem Dev.Filled.vnote (h : d.Filled t c n ty act g w) (sats nfs : Nat) : ∃ w', d.Filled (t.vnote c sats nfs) c n ty act g w' := by
  obtain ⟨m, res, hc, hres, ho⟩ := h
  refine ⟨notedStatus w sats nfs, m, res, ?_, hres, fun j hj => ?_⟩
  · rw [Dev.vnote_core, if_pos rfl, hc]
    rfl
  · rw [Dev.vnote_core, if_neg hj, ho j hj]

end

/-! ### Conversion into BI16, block by block (R45, R46) -/

theorem mem_blocksOf {α : Type} (xs : List (Nat × α)) (b : Nat) : b ∈ blocksOf xs ↔ ∃ x ∈ xs, x.1 / 32 = b := by
  have hfold : ∀ l : List Nat, b ∈ xs.foldl (fun l x => setAdd l (x.1 / 32)) l ↔ b ∈ l ∨ ∃ x ∈ xs, x.1 / 32 = b := by
    induction xs with
    | nil => simp
    | cons x xs ih =>
      intro l
      rw [List.foldl_cons, ih, mem_setAdd, List.exists_mem_cons_iff, eq_comm (a := b), or_comm (a := _ = _), or_assoc]
  simpa [blocksOf] using hfold []

theorem toBi16Block_keys (code rnd : Nat) (xs : List (Nat × XVal)) (r : Nat → Nat) :
    (toBi16Block code rnd xs r).1.map Prod.fst = xs.map Prod.fst := by
  unfold toBi16Block
  split <;> simp

theorem toBi16All_results (code rnd : Nat) (xs : List (Nat × XVal)) (r : Nat → Nat) :
    (toBi16All code rnd xs r).1 = (blocksOf xs).flatMap fun b => (toBi16Block code rnd (inBlock b xs) r).1 := by
  have hfold : ∀ (l : List Nat) (acc : List (Nat × Nat) × Nat × Nat),
      (l.foldl (fun acc b =>
        let (l, n, f) := toBi16Block code rnd (inBlock b xs) r
        (acc.1 ++ l, acc.2.1 + n, acc.2.2 + b2n f)) acc).1 = acc.1 ++ l.flatMap fun b => (toBi16Block code rnd (inBlock b xs) r).1 := by
    intro l
    induction l with
    | nil => simp
    | cons b l ih =>
      intro acc
      rw [List.foldl_cons, ih, List.flatMap_cons, List.append_assoc]
  exact hfold _ _

/-- With distinct keys the result found for a key is the one that has it. -/
theorem find?_of_mem_of_nodup {α : Type} (l : List (Nat × α)) (h : (l.map Prod.fst).Nodup) {r : Nat × α} (hr : r ∈ l) :
    l.find? (fun y => y.1 == r.1) = some r := by
  induction l with
  | nil => simp at hr
  | cons y l ih =>
    rw [List.map_cons, List.nodup_cons] at h
    rcases List.mem_cons.mp hr with rfl | hr
    · simp
    · have hne : y.1 ≠ r.1 := fun he => h.1 (he ▸ List.mem_map_of_mem hr)
      rw [List.find?_cons_of_neg (by simpa using hne), ih h.2 hr]

/-- What conversion into BI16 makes of element `e` among the elements `act` of values `v`: its result in its block. -/
def intoBi16Elem (code rnd : Nat) (act : List Nat) (v : Nat → XVal) (r : Nat → Nat) (e : Nat) : Nat :=
  (((toBi16Block code rnd ((act.filter fun i => i / 32 == e / 32).map fun i => (i, v i)) r).1.find? fun y => y.1 == e).map Prod.snd).getD 0

theorem toBi16All_fills (code rnd : Nat) (act : List Nat) (hact : act.Nodup) (v : Nat → XVal) (r : Nat → Nat) :
    Fills (toBi16All code rnd (act.map fun e => (e, v e)) r).1 act (intoBi16Elem code rnd act v r) := by
  have hblock : ∀ b, inBlock b (act.map fun e => (e, v e)) = (act.filter fun i => i / 32 == b).map fun i => (i, v i) := fun b => by
    simp [inBlock, List.filter_map, Function.comp_def]
  have hkeys : ∀ b, (toBi16Block code rnd (inBlock b (act.map fun e => (e, v e))) r).1.map Prod.fst = act.filter fun i => i / 32 == b :=
    fun b => by rw [toBi16Block_keys, hblock]; simp [Function.comp_def]
  have hmem : ∀ y, y ∈ (toBi16All code rnd (act.map fun e => (e, v e)) r).1 ↔
      ∃ b ∈ blocksOf (act.map fun e => (e, v e)), y ∈ (toBi16Block code rnd (inBlock b (act.map fun e => (e, v e))) r).1 := fun y => by
    rw [toBi16All_results, List.mem_flatMap]
  constructor
  · intro y hy
    obtain ⟨b, -, hyb⟩ := (hmem y).mp hy
    have hyk : y.1 ∈ act.filter fun i => i / 32 == b := hkeys b ▸ List.mem_map_of_mem hyb
    obtain rfl : y.1 / 32 = b := by simpa using (List.mem_filter.mp hyk).2
    rw [intoBi16Elem, ← hblock, find?_of_mem_of_nodup _ (by rw [hkeys]; exact hact.filter _) hyb]
    rfl
  · intro e
    constructor
    · rintro ⟨y, hy, rfl⟩
      obtain ⟨b, -, hyb⟩ := (hmem y).mp hy
      have hyk : y.1 ∈ act.filter fun i => i / 32 == b := hkeys b ▸ List.mem_map_of_mem hyb
      exact (List.mem_filter.mp hyk).1
    · intro he
      have hek : e ∈ (toBi16Block code rnd (inBlock (e / 32) (act.map fun e => (e, v e))) r).1.map Prod.fst := by
        rw [hkeys]
        exact List.mem_filter.mpr ⟨he, by simp⟩
      obtain ⟨y, hy, hye⟩ := List.mem_map.mp hek
      exact ⟨y, (hmem y).mpr ⟨e / 32, (mem_blocksOf _ _).mpr ⟨(e, v e), List.mem_map.mpr ⟨e, he, rfl⟩, rfl⟩, hy⟩, hye⟩

/-- Conversion of the elements `act` of values `v`: each for itself, or into BI16 in its block. -/
theorem convAll_fills (src dst rnd : Nat) (sat : Bool) (code : Nat) (act : List Nat) (hact : act.Nodup) (v : Nat → XVal) (r : Nat → Nat) :
    Fills (convAll src dst rnd sat code (act.map fun e => (e, v e)) r).1 act fun e =>
      if dst ≠ 0xC then convElem src dst rnd sat (r e) (v e) else intoBi16Elem code rnd act v r e := by
  by_cases hdst : dst = 0xC
  · simp only [convAll, hdst, if_true, ne_eq, not_true, if_false]
    exact toBi16All_fills code rnd act hact v r
  · simp only [convAll, hdst, if_false, ne_eq, not_false_eq_true, if_true, List.map_map]
    exact fills_map act _

/-! ### The bodies of the element-wise instructions -/

section
variable {d b : Dev} {c : Nat} {m : Core} {x : QEnt} (h : d.Begun b c m) (hcode : (d.core c).code = []) (ht : tbOf x.w0 = false)
include h hcode ht

theorem arithBody_fills (hop : vop x.w0 ∈ [0x50, 0x51, 0x52, 0x53, 0x54, 0x55]) (hty : tyOf x.w0 ≠ 0xC) :
    d.Filled (arithBody c x b) c (vdOf x.w0) (tyOf x.w0) ((d.core c).actives x.w0 x.w1) (elemRes d (d.core c) x) (d.core c).vstat := by
  obtain ⟨b', hb, heq⟩ := vecBody_of_register h hcode x ht _
  rw [arithBody, heq, if_neg hty]
  refine hb.vdst ht ((fills_map _ _).congr fun e => ?_)
  rw [Dev.vrand_of_vecParams hb.params]
  simp only [List.mem_cons, List.not_mem_nil, or_false] at hop
  rcases hop with hop | hop | hop | hop | hop | hop <;> simp only [elemRes, hop] <;> rfl

theorem signBody_fills (hop : vop x.w0 ∈ [0x56, 0x57]) :
    d.Filled (signBody c x b) c (vdOf x.w0) (tyOf x.w0) ((d.core c).actives x.w0 x.w1) (elemRes d (d.core c) x) (d.core c).vstat := by
  obtain ⟨b', hb, heq⟩ := vecBody_of_register h hcode x ht _
  rw [signBody, heq]
  refine hb.vdst ht ((fills_map _ _).congr fun e => ?_)
  simp only [List.mem_cons, List.not_mem_nil, or_false] at hop
  rcases hop with hop | hop <;> simp only [elemRes, hop] <;> rfl

theorem bitBody_fills (hop : vop x.w0 ∈ [0x58, 0x59, 0x5A, 0x5B, 0x5C]) :
    d.Filled (bitBody c x b) c (vdOf x.w0) (tyOf x.w0) ((d.core c).actives x.w0 x.w1) (elemRes d (d.core c) x) (d.core c).vstat := by
  obtain ⟨b', hb, heq⟩ := vecBody_of_register h hcode x ht _
  rw [bitBody, heq]
  refine hb.vdst ht ((fills_map _ _).congr fun e => ?_)
  simp only [List.mem_cons, List.not_mem_nil, or_false] at hop
  rcases hop with hop | hop | hop | hop | hop <;> simp only [elemRes, hop] <;> rfl

theorem selBody_fills (hop : vop x.w0 = 0x5E) :
    d.Filled (selBody c x b) c (vdOf x.w0) (tyOf x.w0) ((d.core c).actives x.w0 x.w1) (elemRes d (d.core c) x) (d.core c).vstat := by
  obtain ⟨b', hb, heq⟩ := vecBody_of_register h hcode x ht _
  rw [selBody, heq]
  by_cases hty : tyOf x.w0 = 0xC
  · rw [if_pos hty, hty]
    refine (hb.vdst ht ((fills_map _ _).congr fun e => ?_)).count _ _ _
    simp only [elemRes, hop, hty, ne_eq, not_true, if_false]
    rfl
  · rw [if_neg hty]
    refine hb.vdst ht ((fills_map _ _).congr fun e => ?_)
    simp only [elemRes, hop, ne_eq, hty, not_false_eq_true, if_true]
    exact apply_ite (fun slot => (d.core c).vsrc x slot e) _ 0 1

theorem cvtBody_fills (hop : vop x.w0 = 0x5F) :
    ∃ w, d.Filled (cvtBody c x b) c (vdOf x.w0) (fld64 x.w0 18 4) ((d.core c).actives x.w0 x.w1) (elemRes d (d.core c) x) w := by
  obtain ⟨b', hb, heq⟩ := vecBody_of_register h hcode x ht _
  rw [cvtBody, heq]
  dsimp only
  rw [Dev.vrand_of_vecParams hb.params]
  have hconv := convAll_fills (tyOf x.w0) (fld64 x.w0 18 4) (rndOf x.w0) (satOf x.w0) ((wordAt x.lat 0).toNat % 256) _
    (Core.actives_nodup (d.core c) x.w0 x.w1) (fun e => srcVal ((d.core c).begun m) x e) (d.vrand x)
  refine (hb.vdst ht (hconv.congr fun e => ?_)).vnote _ _
  simp only [elemRes, hop]
  rfl

theorem sfuBody_fills (hop : vop x.w0 = 0x60) :
    d.Filled (sfuBody c x b) c (vdOf x.w0) (tyOf x.w0) ((d.core c).actives x.w0 x.w1) (elemRes d (d.core c) x) (d.core c).vstat := by
  obtain ⟨b', hb, heq⟩ := vecBody_of_register h hcode x ht _
  rw [sfuBody, heq]
  refine (hb.vdst ht ((fills_map _ _).congr fun e => ?_)).count _ _ _
  rw [Dev.vrand_of_vecParams hb.params, Dev.featLevel_of_vecParams hb.params]
  simp only [elemRes, hop]
  rfl

theorem bcastBody_fills (hop : vop x.w0 = 0x61) :
    d.Filled (bcastBody c x b) c (vdOf x.w0) (tyOf x.w0) ((d.core c).actives x.w0 x.w1) (elemRes d (d.core c) x) (d.core c).vstat := by
  obtain ⟨b', hb, heq⟩ := vecBody_of_register h hcode x ht _
  rw [bcastBody, heq]
  by_cases hty : tyOf x.w0 = 0xC
  · rw [if_pos hty, hty]
    refine (hb.vdst ht ((fills_map _ _).congr fun e => ?_)).count _ _ _
    simp only [elemRes, hop, hty, if_true]
  · rw [if_neg hty]
    refine hb.vdst ht ((fills_map _ _).congr fun e => ?_)
    simp only [elemRes, hop, hty, if_false]

theorem iotaBody_fills (hop : vop x.w0 = 0x62) :
    d.Filled (iotaBody c x b) c (vdOf x.w0) 0xB ((d.core c).actives x.w0 x.w1) (elemRes d (d.core c) x) (d.core c).vstat := by
  obtain ⟨b', hb, heq⟩ := vecBody_of_register h hcode x ht _
  rw [iotaBody, heq]
  refine hb.vdst ht ((fills_map _ _).congr fun e => ?_)
  simp only [elemRes, hop]

theorem rngBody_fills (hop : vop x.w0 = 0x63) :
    d.Filled (rngBody c x b) c (vdOf x.w0) 0xB ((d.core c).actives x.w0 x.w1) (elemRes d (d.core c) x) (d.core c).vstat := by
  obtain ⟨b', hb, heq⟩ := vecBody_of_register h hcode x ht _
  rw [rngBody, heq]
  refine hb.vdst ht ((fills_map _ _).congr fun e => ?_)
  rw [Dev.tensor_of_vecParams hb.params]
  simp only [elemRes, hop]

end

/-! ### The instructions -/

/-- What an element-wise instruction asks beside the general form: VCVT a destination type, VSFU a function. -/
def elementOwn (op : Nat) (w0 : W64) : Bool := !(op == 0x5F && !isVty (fld64 w0 18 4)) && !(op == 0x60 && fld64 w0 18 3 == 7)

/-- Instruction `i` is the issue of the body of opcode `op`, with a form that `elementOwn` grants. -/
def IssuesBody (c : Nat) (w0 w1 : W64) (i : Instr) (op : Nat) : Prop :=
  ∃ legal, (∀ s, exec i s = s.run (vecIssue c op w0 w1 legal vAny (vCostOf w0 w1) (vecBodyOf c op))) ∧
    ∀ d, elementOwn op w0 = true → legal d = true

theorem issuesBody_elementwise (c : Fin 512) (w0 w1 : W64) :
    ∀ y ∈ elementwise c w0 w1, (y.2 = 0x5E ∨ y.2 = 0x63 → w1 = 0) → IssuesBody c w0 w1 y.1 y.2 := by
  have plain : ∀ i op, (∀ s, exec i s = s.run (vecIssue c op w0 w1 vAny vAny (vCostOf w0 w1) (vecBodyOf c op))) →
      (op = 0x5E ∨ op = 0x63 → w1 = 0) → IssuesBody c w0 w1 i op := fun _ _ h _ => ⟨vAny, h, fun _ _ => rfl⟩
  have hsel : w1 = 0 → IssuesBody c w0 w1 (.vsel c w0) 0x5E := by
    rintro rfl
    exact ⟨vAny, fun _ => rfl, fun _ _ => rfl⟩
  have hcvt : IssuesBody c w0 w1 (.vcvt c w0 w1) 0x5F := ⟨_, fun _ => rfl, fun _ h => by simpa [elementOwn] using h⟩
  have hsfu : IssuesBody c w0 w1 (.vsfu c w0 w1) 0x60 := ⟨_, fun _ => rfl, fun _ h => by simpa [elementOwn] using h⟩
  have hrng : w1 = 0 → IssuesBody c w0 w1 (.vrng c w0) 0x63 := by
    rintro rfl
    exact ⟨vAny, fun _ => rfl, fun _ _ => rfl⟩
  simp only [elementwise, List.forall_mem_cons]
  exact ⟨plain _ _ fun _ => rfl, plain _ _ fun _ => rfl, plain _ _ fun _ => rfl, plain _ _ fun _ => rfl, plain _ _ fun _ => rfl,
    plain _ _ fun _ => rfl, plain _ _ fun _ => rfl, plain _ _ fun _ => rfl, plain _ _ fun _ => rfl, plain _ _ fun _ => rfl,
    plain _ _ fun _ => rfl, plain _ _ fun _ => rfl, plain _ _ fun _ => rfl, fun h => hsel (h (.inl trivial)), fun _ => hcvt, fun _ => hsfu,
    plain _ _ fun _ => rfl, plain _ _ fun _ => rfl, fun h => hrng (h (.inr trivial)), fun _ h => absurd h List.not_mem_nil⟩

/-- VADD to VMIN. -/
def arithOps : List Nat := [0x50, 0x51, 0x52, 0x53, 0x54, 0x55]
/-- VABS and VNEG. -/
def signOps : List Nat := [0x56, 0x57]
/-- VAND to VSHR. -/
def bitOps : List Nat := [0x58, 0x59, 0x5A, 0x5B, 0x5C]

/-- The opcodes of the element-wise instructions. -/
theorem opcode_of_mem_elementwise {c : Fin 512} {w0 w1 : W64} {y : Instr × Nat} (hy : y ∈ elementwise c w0 w1) :
    y.2 = 0x5F ∨ y.2 ∈ arithOps ∨ y.2 ∈ signOps ∨ y.2 ∈ bitOps ∨ y.2 = 0x5E ∨ y.2 = 0x60 ∨ y.2 = 0x61 ∨ y.2 = 0x62 ∨ y.2 = 0x63 := by
  have hmem : y.2 ∈ arithOps ++ signOps ++ bitOps ++ [0x5E, 0x5F, 0x60, 0x61, 0x62, 0x63] := List.mem_map_of_mem (f := Prod.snd) hy
  generalize y.2 = op at hmem
  revert op
  decide

theorem elemTy_of_vop {w0 : W64} {op : Nat} (hop : vop w0 = op) (h : op ≠ 0x5F ∧ op ≠ 0x62 ∧ op ≠ 0x63) : elemTy w0 = tyOf w0 := by
  simp [elemTy, hop, h]

/-- The type of an operand whose opcode takes no BI16. -/
theorem tyOf_ne_bi16 {op : Nat} {w0 w1 : W64} (h : vecLegal op w0 w1 = true) (hop : op ∈ [0x52, 0x53, 0x54, 0x55]) : tyOf w0 ≠ 0xC := by
  intro hty
  simp only [vecLegal, Bool.and_eq_true, hty] at h
  obtain ⟨⟨⟨⟨⟨⟨-, hok⟩, -⟩, -⟩, -⟩, -⟩, -⟩ := h
  exact absurd hok ((by decide : ∀ op ∈ [0x52, 0x53, 0x54, 0x55], ¬vtyOk op 0xC = true) op hop)

section
variable {d b : Dev} {c : Nat} {m : Core} {x : QEnt} (h : d.Begun b c m) (hcode : (d.core c).code = []) (ht : tbOf x.w0 = false)
include h hcode ht

/-- Each body but VCVT's gives the active elements their results and leaves the status. -/
theorem vecBodyOf_fills {op : Nat} (hop : vop x.w0 = op)
    (hmem : op ∈ arithOps ∨ op ∈ signOps ∨ op ∈ bitOps ∨ op = 0x5E ∨ op = 0x60 ∨ op = 0x61 ∨ op = 0x62 ∨ op = 0x63)
    (hty : op ∈ arithOps → tyOf x.w0 ≠ 0xC) :
    d.Filled (vecBodyOf c op x b) c (vdOf x.w0) (elemTy x.w0) ((d.core c).actives x.w0 x.w1) (elemRes d (d.core c) x) (d.core c).vstat := by
  rcases hmem with hm | hm | hm | rfl | rfl | rfl | rfl | rfl
  · have hbody : vecBodyOf c op = arithBody c := (by simp [arithOps, vecBodyOf] : ∀ op ∈ arithOps, vecBodyOf c op = arithBody c) op hm
    rw [hbody, elemTy_of_vop hop ((by decide : ∀ op ∈ arithOps, op ≠ 0x5F ∧ op ≠ 0x62 ∧ op ≠ 0x63) op hm)]
    exact arithBody_fills h hcode ht (hop ▸ hm) (hty hm)
  · have hbody : vecBodyOf c op = signBody c := (by simp [signOps, vecBodyOf] : ∀ op ∈ signOps, vecBodyOf c op = signBody c) op hm
    rw [hbody, elemTy_of_vop hop ((by decide : ∀ op ∈ signOps, op ≠ 0x5F ∧ op ≠ 0x62 ∧ op ≠ 0x63) op hm)]
    exact signBody_fills h hcode ht (hop ▸ hm)
  · have hbody : vecBodyOf c op = bitBody c := (by simp [bitOps, vecBodyOf] : ∀ op ∈ bitOps, vecBodyOf c op = bitBody c) op hm
    rw [hbody, elemTy_of_vop hop ((by decide : ∀ op ∈ bitOps, op ≠ 0x5F ∧ op ≠ 0x62 ∧ op ≠ 0x63) op hm)]
    exact bitBody_fills h hcode ht (hop ▸ hm)
  · rw [elemTy_of_vop hop (by decide)]
    exact selBody_fills h hcode ht hop
  · rw [elemTy_of_vop hop (by decide)]
    exact sfuBody_fills h hcode ht hop
  · rw [elemTy_of_vop hop (by decide)]
    exact bcastBody_fills h hcode ht hop
  · rw [show elemTy x.w0 = 0xB by simp [elemTy, hop]]
    exact iotaBody_fills h hcode ht hop
  · rw [show elemTy x.w0 = 0xB by simp [elemTy, hop]]
    exact rngBody_fills h hcode ht hop

/-- VCVT's gives the active elements their results in its destination type. -/
theorem vecBodyOf_cvt_fills (hop : vop x.w0 = 0x5F) :
    ∃ w, d.Filled (vecBodyOf c 0x5F x b) c (vdOf x.w0) (elemTy x.w0) ((d.core c).actives x.w0 x.w1) (elemRes d (d.core c) x) w := by
  rw [show elemTy x.w0 = fld64 x.w0 18 4 by simp [elemTy, hop]]
  exact cvtBody_fills h hcode ht hop

end

/-- What `Filled` says of the device behind the instruction. -/
structure Dev.Wrote (d t : Dev) (c n len : Nat) (ty : Nat) (act : List Nat) (g : Nat → Nat) : Prop where
  elems : ∀ i e, e < 2048 → (t.core c).velem i e = if i = n ∧ e ∈ act then g e % 2 ^ tyBits ty else (d.core c).velem i e
  s     : (t.core c).s = (d.core c).s
  p     : (t.core c).p = (d.core c).p
  ls    : (t.core c).ls = (d.core c).ls
  pc    : (t.core c).pc = (d.core c).pc + len
  other : ∀ j, j ≠ c → t.core j = d.core j

theorem Dev.Filled.pc {d t : Dev} {c n ty : Nat} {act : List Nat} {g : Nat → Nat} {w : W64} (h : d.Filled t c n ty act g w) :
    (t.core c).pc = (d.core c).pc := by
  obtain ⟨m, res, hc, -, -⟩ := h
  rw [hc]
  rfl

/-- An instruction whose body fills a register, issued on an idle engine in register form. -/
theorem run_vecIssue_of_filled {u : State} {d : Dev} {c op : Nat} {w0 w1 : W64} {own : Bool} {x : QEnt}
    (h : VectorRuns u.dev d c op w0 w1 own x) (legal : Dev → Bool) (cost : Dev → Nat) (body : QEnt → Dev → Dev) (hl : legal d = true)
    {n ty : Nat} {act : List Nat} {g : Nat → Nat} (hact : ∀ e ∈ act, e < 2048) (keep : Prop)
    (hbody : ∀ b m, d.Begun b c m → ∃ w, d.Filled (body x b) c n ty act g w ∧ (keep → w = (d.core c).vstat)) :
    ∃ t, u.run (vecIssue c op w0 w1 legal vAny cost body) = .next t ∧ d.Wrote t.dev c n (instrLen w0) ty act g ∧
      (keep → (t.dev.core c).vstat = (d.core c).vstat) := by
  have hpc : ∀ b m, d.Begun b c m → ((body x b).core c).pc = (d.core c).pc := fun b m hb => by
    obtain ⟨w, hw, -⟩ := hbody b m hb
    exact hw.pc
  obtain ⟨b, m, t, hb, hrun, hcore, hother⟩ := run_vecIssue_of_vectorRuns h u rfl legal vAny cost body hl rfl hpc
  obtain ⟨w, ⟨m', res, hc, hres, ho⟩, hkeep⟩ := hbody b m hb
  rw [hc] at hcore
  refine ⟨t, hrun, ⟨fun i e he => ?_, ?_, ?_, ?_, ?_, fun j hj => (hother j hj).trans (ho j hj)⟩, fun hk => ?_⟩
  · rw [hcore]
    exact Core.velem_filled _ (w := w) hres hact i e he
  · rw [hcore]; rfl
  · rw [hcore]; rfl
  · rw [hcore]; rfl
  · rw [hcore]
  · rw [hcore]; exact hkeep hk

end Sys2Proof.Machine

open Sys2Proof Sys2Proof.Machine

/-- Settles O35: each instruction is the issue of its opcode's body (`issuesBody_elementwise`), which gives the active elements of vd their
results (`vecBodyOf_fills`). -/
theorem vectorElements : Obligations.VectorElements := by
  unfold Obligations.VectorElements
  intro s d c w0 w1 x y hy k hruns htb hw1 hbi
  obtain ⟨legal, hexec, hlegal⟩ := issuesBody_elementwise c w0 w1 y hy hw1
  have hruns' := hruns
  obtain ⟨⟨-, hop, -, -⟩, hform, hown, -, -, hcode, -, -, hx⟩ := hruns'
  have hxw : x.w0 = w0 ∧ x.w1 = w1 := by rw [hx]; exact ⟨rfl, rfl⟩
  have hbody : ∀ b m, d.Begun b c m → ∃ w, d.Filled (vecBodyOf c y.2 x b) c (vdOf w0) (elemTy w0) (k.actives w0 w1) (elemRes d k x) w ∧
      (y.2 ≠ 0x5F → w = k.vstat) := by
    obtain ⟨rfl, rfl⟩ := hxw
    intro b m hb
    by_cases hcvt : y.2 = 0x5F
    · obtain ⟨w, hw⟩ := vecBodyOf_cvt_fills hb hcode htb (hop.trans hcvt)
      exact ⟨w, by rw [hcvt]; exact hw, fun hne => absurd hcvt hne⟩
    · refine ⟨_, vecBodyOf_fills hb hcode htb hop ?_ ?_, fun _ => rfl⟩
      · exact (opcode_of_mem_elementwise hy).resolve_left hcvt
      · intro hm
        have hsplit : y.2 ∈ [0x50, 0x51] ∨ y.2 ∈ [0x52, 0x53, 0x54, 0x55] := List.mem_append.mp hm
        rcases hsplit with hsum | hrest
        · exact hbi (by simpa using hsum)
        · exact tyOf_ne_bi16 hform hrest
  obtain ⟨t, hrun, hwrote, hvstat⟩ := run_vecIssue_of_filled hruns legal _ _ (hlegal d hown) (fun e => Core.lt_of_mem_actives htb) _ hbody
  exact ⟨t, (hexec s).trans hrun, fun i e _ he => hwrote.elems i e he, hwrote.s, hwrote.p, hwrote.ls, hwrote.pc, hvstat, hwrote.other⟩

end

section
/-! SUPPORT. Block sums of BI16, and O37 (R39, R48, R104, R111, R127). -/

namespace Sys2Proof.Machine

/-- The governing rules of a BI16 sum: no predicate, no scalar source, whole blocks (R111). -/
theorem bi16Ok_of_vecLegal {op : Nat} {w0 w1 : W64} (h : vecLegal op w0 w1 = true) (hop : vop w0 = 0x50 ∨ vop w0 = 0x51) (hty : tyOf w0 = 0xC) :
    pgOf w0 = 8 ∧ bscOf w0 = false ∧ vcount w0 w1 % 32 = 0 := by
  simp only [vecLegal, Bool.and_eq_true] at h
  obtain ⟨⟨-, hok⟩, -⟩ := h
  rcases hop with hop | hop <;> simpa [bi16Ok, hop, hty, and_assoc] using hok

theorem Core.active_of_unpredicated (k : Core) {w0 : W64} (w1 : W64) (ht : tbOf w0 = false) (hpg : pgOf w0 = 8) (e : Nat) :
    k.active w0 w1 e = true := by
  simp [Core.active, ht, hpg]

theorem Core.actives_of_unpredicated (k : Core) {w0 : W64} (w1 : W64) (ht : tbOf w0 = false) (hpg : pgOf w0 = 8) :
    k.actives w0 w1 = List.range (vcount w0 w1) :=
  List.filter_eq_self.mpr fun e _ => k.active_of_unpredicated w1 ht hpg e

/-- Element `e` of a sum of BI16 operands (R48): at the code of its block, or of a non-finite block. -/
def bi16SumElem (k : Core) (x : QEnt) (sub : Bool) (e : Nat) : Nat :=
  let code (slot : Nat) : Nat := bits (k.vsrc x slot (e / 32 * 32)) 16 8
  let p := (bi16Int (k.vsrc x 0 e)).1
  let q := (bi16Int (k.vsrc x 1 e)).1
  if code 0 = code 1 ∧ code 0 ≠ 0xFF then wrap 16 (max (-32767) (min 32767 (if sub then p - q else p + q))) + code 0 * 65536 else 0xFF0000

theorem bi16SumElem_of_code (k : Core) (x : QEnt) (sub : Bool) (e : Nat)
    (heq : bits (k.vsrc x 0 (e / 32 * 32)) 16 8 = bits (k.vsrc x 1 (e / 32 * 32)) 16 8) (hne : bits (k.vsrc x 0 (e / 32 * 32)) 16 8 ≠ 0xFF) :
    bi16SumElem k x sub e = wrap 16 (max (-32767) (min 32767 (if sub then (bi16Int (k.vsrc x 0 e)).1 - (bi16Int (k.vsrc x 1 e)).1
      else (bi16Int (k.vsrc x 0 e)).1 + (bi16Int (k.vsrc x 1 e)).1))) + bits (k.vsrc x 0 (e / 32 * 32)) 16 8 * 65536 := if_pos ⟨heq, hne⟩

theorem wrap_lt (n : Nat) (z : Int) : wrap n z < 2 ^ n := by
  have hpos : (0 : Int) < (2 ^ n : Nat) := by exact_mod_cast Nat.two_pow_pos n
  have h1 := Int.emod_lt_of_pos z hpos
  have h2 := Int.emod_nonneg z (Int.ne_of_gt hpos)
  unfold wrap
  omega

/-- It fits its container. -/
theorem bi16SumElem_lt (k : Core) (x : QEnt) (sub : Bool) (e : Nat) : bi16SumElem k x sub e < 2 ^ tyBits 0xC := by
  have hcode : ∀ v, bits v 16 8 < 256 := fun v => Nat.mod_lt _ (by decide)
  have hsum : ∀ z : Int, wrap 16 z < 65536 := wrap_lt 16
  have htop : tyBits 0xC = 24 := rfl
  rw [htop, bi16SumElem]
  dsimp only
  split
  next =>
    have hc := hcode (k.vsrc x 0 (e / 32 * 32))
    refine Nat.lt_of_lt_of_le (Nat.add_lt_add_right (hsum _) _) ?_
    omega
  next => decide

/-- A sum held to ±32,767. -/
theorem clamp_eq (z : Int) :
    (if decide (32767 < z.natAbs) = true then (if z < 0 then (-32767 : Int) else 32767) else z) = max (-32767) (min 32767 z) := by
  simp only [decide_eq_true_eq]
  split
  · split <;> omega
  · omega

/-- The elements of a list taken one after another, each with its own result, the rest of the record counted. -/
theorem foldl_results {α : Type} (l : List Nat) (f : Nat → Nat × Nat) (step : List (Nat × Nat) × α → Nat → List (Nat × Nat) × α)
    (hstep : ∀ acc, ∀ e ∈ l, (step acc e).1 = acc.1 ++ [f e]) : ∀ acc, (l.foldl step acc).1 = acc.1 ++ l.map f := by
  induction l with
  | nil => simp
  | cons e l ih =>
    intro acc
    rw [List.foldl_cons, ih fun acc i hi => hstep acc i (by simp [hi]), hstep acc e (by simp), List.append_assoc]
    rfl

/-- A block's results are those of its active elements. -/
theorem bi16Sum_results (k : Core) (x : QEnt) (sub : Bool) (act : List Nat) (b : Nat) :
    (bi16Sum k x sub act b).1 = (act.filter fun e => e / 32 == b).map fun e => (e, bi16SumElem k x sub e) := by
  have hin : ∀ e ∈ act.filter fun e => e / 32 == b, e / 32 * 32 = 32 * b := fun e he => by
    have : e / 32 = b := by simpa using (List.mem_filter.mp he).2
    omega
  unfold bi16Sum
  extract_lets src ca cb es
  split
  next hempty => rw [show (act.filter fun e => e / 32 == b) = [] from List.isEmpty_iff.mp hempty]; rfl
  next =>
    split
    next hcodes =>
      refine List.map_congr_left fun e he => ?_
      rw [bi16SumElem, hin e he, if_neg]
      rintro ⟨heq, hne⟩
      rcases hcodes with h | h | h
      · exact hne h
      · exact hne (heq.trans h)
      · exact h heq
    next hcodes =>
      simp only [not_or, not_not] at hcodes
      obtain ⟨hne, -, heq⟩ := hcodes
      refine (foldl_results es (fun e => (e, bi16SumElem k x sub e)) _ ?_ _).trans ?_
      · intro acc e he
        have hel := bi16SumElem_of_code k x sub e (by rw [hin e he]; exact heq) (by rw [hin e he]; exact hne)
        dsimp only
        rw [clamp_eq, hel, hin e he]
      · rfl

/-- Whole blocks: every element lies in one of them. -/
theorem bi16Sums_fill (k : Core) (x : QEnt) (sub : Bool) (n : Nat) (hn : n % 32 = 0) :
    Fills (((List.range (n / 32)).map (bi16Sum k x sub (List.range n))).flatMap fun y => y.1) (List.range n) (bi16SumElem k x sub) := by
  have hmem : ∀ r, r ∈ ((List.range (n / 32)).map (bi16Sum k x sub (List.range n))).flatMap (fun y => y.1) ↔
      r.1 < n ∧ r.2 = bi16SumElem k x sub r.1 := fun r => by
    simp only [List.flatMap_map, List.mem_flatMap, bi16Sum_results, List.mem_map, List.mem_filter, List.mem_range, beq_iff_eq]
    constructor
    · rintro ⟨b, -, e, ⟨he, -⟩, rfl⟩
      exact ⟨he, rfl⟩
    · rintro ⟨he, hv⟩
      exact ⟨r.1 / 32, by omega, r.1, ⟨he, rfl⟩, by rw [← hv]⟩
  constructor
  · exact fun r hr => ((hmem r).mp hr).2
  · intro e
    rw [List.mem_range]
    exact ⟨fun ⟨r, hr, hre⟩ => hre ▸ ((hmem r).mp hr).1, fun he => ⟨(e, bi16SumElem k x sub e), (hmem _).mpr ⟨he, rfl⟩, rfl⟩⟩

theorem arithBody_bi16_fills {d b : Dev} {c : Nat} {m : Core} {x : QEnt} (h : d.Begun b c m) (hcode : (d.core c).code = [])
    (ht : tbOf x.w0 = false) (hty : tyOf x.w0 = 0xC) (hpg : pgOf x.w0 = 8) (hn : vcount x.w0 x.w1 % 32 = 0) :
    ∃ w, d.Filled (arithBody c x b) c (vdOf x.w0) 0xC (List.range (vcount x.w0 x.w1)) (bi16SumElem (d.core c) x (vop x.w0 == 0x51)) w := by
  obtain ⟨b', hb, heq⟩ := vecBody_of_register h hcode x ht _
  rw [arithBody, heq, if_pos hty, hty, Core.actives_of_unpredicated _ _ ht hpg]
  exact (hb.vdst ht (bi16Sums_fill _ _ _ _ hn)).vnote _ _

end Sys2Proof.Machine

open Sys2Proof Sys2Proof.Machine

/-- Settles O37: every element is active and lies in a whole block, whose results are the block's sum (`bi16Sum_results`). -/
theorem blockIntegerSums : Obligations.BlockIntegerSums := by
  unfold Obligations.BlockIntegerSums
  intro s d c w0 w1 x sub k op code z hruns htb hty
  have hruns' := hruns
  obtain ⟨⟨-, hop, -, -⟩, hform, -, -, -, hcode, -, -, hx⟩ := hruns'
  have hvop : vop w0 = op := hop
  have hxw : x.w0 = w0 ∧ x.w1 = w1 := by rw [hx]; exact ⟨rfl, rfl⟩
  obtain ⟨hpg, -, hcount⟩ := bi16Ok_of_vecLegal hform (by cases sub <;> simp [hvop, op]) hty
  have hsub : (vop w0 == 0x51) = sub := by cases sub <;> simp [hvop, op]
  have hbody : ∀ b m, d.Begun b c m → ∃ w, d.Filled (arithBody c x b) c (vdOf w0) 0xC (List.range (vcount w0 w1)) (bi16SumElem k x sub) w ∧
      (False → w = k.vstat) := by
    obtain ⟨rfl, rfl⟩ := hxw
    intro b m hb
    obtain ⟨w, hw⟩ := arithBody_bi16_fills hb hcode htb hty hpg hcount
    exact ⟨w, hsub ▸ hw, False.elim⟩
  have hact : ∀ e ∈ List.range (vcount w0 w1), e < 2048 := fun e he =>
    Nat.lt_of_lt_of_le (List.mem_range.mp he) (vcount_le w0 w1 htb)
  obtain ⟨t, hrun, hwrote, -⟩ := run_vecIssue_of_filled hruns vAny (vCostOf w0 w1) _ rfl hact _ hbody
  refine ⟨t, ?_, fun n e _ he => ?_, hwrote.other⟩
  · cases sub <;> exact hrun
  · rw [hwrote.elems n e he, Nat.mod_eq_of_lt (bi16SumElem_lt k x sub e)]
    simp only [List.mem_range]
    rfl

end

section
/-! SUPPORT. Bytes written in a local store without damaged words, and what a vector instruction leaves beside them (R4, R140). -/

namespace Sys2Proof.Machine

/-! ### Bytes and numbers (R4) -/

theorem leNat_natLe (n : Nat) : ∀ x, leNat (natLe n x) = x % 256 ^ n := by
  induction n with
  | zero => intro x; simp [natLe, leNat, Nat.mod_one]
  | succ n ih =>
    intro x
    have hpow : 256 ^ (n + 1) = 256 * 256 ^ n := Nat.pow_succ'
    rw [natLe, leNat, ih, BitVec.toNat_ofNat, hpow, Nat.mod_mul]

theorem natLe_length (n : Nat) : ∀ x, (natLe n x).length = n := by
  induction n with
  | zero => exact fun _ => rfl
  | succ n ih => exact fun x => congrArg (· + 1) (ih _)

/-- The cells of bytes from `a`: the byte at each place. -/
theorem mem_cellsAt (bs : List Byte) : ∀ (a : Nat) (y : Nat × Byte), y ∈ cellsAt a bs ↔ a ≤ y.1 ∧ bs[y.1 - a]? = some y.2 := by
  induction bs with
  | nil => intro a y; simp [cellsAt]
  | cons b bs ih =>
    intro a y
    rw [cellsAt, List.mem_cons, ih]
    obtain ⟨i, v⟩ := y
    by_cases hi : i = a
    · subst hi
      simp [eq_comm]
    · by_cases hlt : a < i
      · have hsub : i - a = i - (a + 1) + 1 := by omega
        simp only [Prod.mk.injEq, hi, false_and, false_or, hsub, List.getElem?_cons_succ]
        constructor
        · exact fun h => ⟨by omega, h.2⟩
        · exact fun h => ⟨by omega, h.2⟩
      · simp only [Prod.mk.injEq, hi, false_and, false_or]
        constructor <;> intro h <;> omega

/-! ### The order of the store (R140) -/

/-- The line, word and byte of an address are read back from its place. -/
theorem unswzByte_place (q i j r : Nat) (hi : i < 16) (hj : j < 4) (hr : r < 16) :
    unswzByte (q * 1024 + i * 64 + j * 16 + r) = q * 1024 + j * 256 + i * 16 + r := by
  have hq : (q * 1024 + i * 64 + j * 16 + r) / 1024 = q := by omega
  have hline : (q * 1024 + i * 64 + j * 16 + r) / 16 % 4 = j := by omega
  have hword : (q * 1024 + i * 64 + j * 16 + r) / 64 % 16 = i := by omega
  have hbyte : (q * 1024 + i * 64 + j * 16 + r) % 16 = r := by omega
  rw [unswzByte, hq, hline, hword, hbyte]

theorem unswzByte_swz (a : Nat) : unswzByte (swz a) = a := by
  rw [swz, unswzByte_place _ _ _ _ (Nat.mod_lt _ (by decide)) (Nat.mod_lt _ (by decide)) (Nat.mod_lt _ (by decide))]
  omega

theorem swz_injective {a b : Nat} (h : swz a = swz b) : a = b := by
  rw [← unswzByte_swz a, h, unswzByte_swz]

/-! ### Writing without damaged words -/

/-- Core `k`, its store undamaged, with the bytes of `cells` written. -/
def Core.stored (k : Core) (cells : List (Nat × Byte)) : Core :=
  { k with ls := { k.ls with bytes := Sparse.setAll (always 0) k.ls.bytes (cells.map fun y => (swz y.1, y.2)) } }

/-- A write that meets no damaged word reports nothing. -/
theorem Dev.lsWrite_of_clean (s : Dev) (c : Nat) (cells : List (Nat × Byte)) (h : (s.core c).ls.chk = []) :
    s.lsWrite c cells = s.setCore c ((s.core c).stored cells) := by
  simp [Dev.lsWrite, Store.merged, Store.writeCells, Store.correct, Dev.onCore, Core.stored, h]

theorem Core.lsByte_stored_of_not_mem (k : Core) (cells : List (Nat × Byte)) (a : Nat) (h : ∀ y ∈ cells, y.1 ≠ a) :
    (k.stored cells).lsByte a = k.lsByte a := by
  refine Sparse.get_setAll_of_not_mem (always 0) _ _ (fun e he => ?_) _
  obtain ⟨y, hy, rfl⟩ := List.mem_map.mp he
  exact fun hs => h y hy (swz_injective hs)

/-- A byte that is written, always with the same value. -/
theorem Core.lsByte_stored_of_mem (k : Core) (cells : List (Nat × Byte)) (a : Nat) (v : Byte) (ha : (a, v) ∈ cells)
    (h : ∀ y ∈ cells, y.1 = a → y.2 = v) : (k.stored cells).lsByte a = v := by
  refine Sparse.get_setAll_of_mem (always 0) _ _ _ ⟨_, List.mem_map.mpr ⟨(a, v), ha, rfl⟩, rfl⟩ (fun e he hs => ?_) _
  obtain ⟨y, hy, rfl⟩ := List.mem_map.mp he
  exact h y hy (swz_injective hs)

/-- A number is read back from bytes that hold it. -/
theorem Core.lsNat_of_bytes (k : Core) (a n v : Nat) (h : ∀ i b, (natLe n v)[i]? = some b → k.lsByte (a + i) = b) :
    k.lsNat a n = v % 256 ^ n := by
  rw [← leNat_natLe, Core.lsNat, Core.lsBytes]
  congr 1
  apply List.ext_getElem
  · simp [natLe_length]
  · intro i h1 h2
    simp only [List.getElem_map, List.getElem_range]
    exact h i _ (List.getElem?_eq_getElem h2)

end Sys2Proof.Machine
end

section
/-! SUPPORT. VLD, VST, VPACK and VTOPK on an undamaged local store, and O40 (R39, R104, R112, R113, R121, R123 to R126). -/

namespace Sys2Proof.Machine

/-! ### What is written in the local store -/

/-- Device `t` is `d` with an instruction begun on core `c` that has written `cells` in its local store, and may have changed its status. -/
def Dev.Stored (d t : Dev) (c : Nat) (cells : List (Nat × Byte)) : Prop :=
  ∃ m w, t.core c = { ((d.core c).begun m).stored cells with vstat := w } ∧ ∀ j, j ≠ c → t.core j = d.core j

theorem Core.stored_stored (k : Core) (a b : List (Nat × Byte)) : (k.stored a).stored b = k.stored (a ++ b) := by
  have happ : ∀ (es fs : List (Nat × Byte)) (m : Sparse Byte),
      Sparse.setAll (always 0) (Sparse.setAll (always 0) m es) fs = Sparse.setAll (always 0) m (es ++ fs) := by
    intro es fs
    induction es with
    | nil => exact fun _ => rfl
    | cons e es ih => exact fun m => ih _
  simp only [Core.stored, happ, List.map_append]

section
variable {d b t : Dev} {c : Nat} {m : Core} {cells : List (Nat × Byte)}

theorem Dev.Begun.stored (h : d.Begun b c m) : d.Stored b c [] := ⟨m, (d.core c).vstat, h.core, h.other⟩

theorem Dev.Stored.lsWrite (h : d.Stored t c cells) (hclean : (d.core c).ls.chk = []) (more : List (Nat × Byte)) :
    d.Stored (t.lsWrite c more) c (cells ++ more) := by
  obtain ⟨m, w, hc, ho⟩ := h
  have htc : (t.core c).ls.chk = [] := by rw [hc]; exact hclean
  rw [t.lsWrite_of_clean c more htc]
  refine ⟨m, w, ?_, fun j hj => ?_⟩
  · rw [Dev.core_setCore, if_pos rfl, hc, ← Core.stored_stored]
    rfl
  · rw [Dev.core_setCore, if_neg hj, ho j hj]

theorem Dev.Stored.vnote (h : d.Stored t c cells) (sats nfs : Nat) : d.Stored (t.vnote c sats nfs) c cells := by
  obtain ⟨m, w, hc, ho⟩ := h
  refine ⟨m, notedStatus w sats nfs, ?_, fun j hj => ?_⟩
  · rw [Dev.vnote_core, if_pos rfl, hc]
  · rw [Dev.vnote_core, if_neg hj, ho j hj]

theorem Dev.Stored.vstick (h : d.Stored t c cells) (i : Nat) : d.Stored (t.vstick c i) c cells := by
  obtain ⟨m, w, hc, ho⟩ := h
  refine ⟨m, putBits w i 1 1, ?_, fun j hj => ?_⟩
  · rw [Dev.vstick, Dev.core_onCore, if_pos rfl, hc]
  · rw [Dev.vstick, Dev.core_onCore, if_neg hj, ho j hj]

end

/-- What `Stored` says of the device behind the instruction. -/
structure Dev.WroteBytes (d t : Dev) (c len : Nat) (cells : List (Nat × Byte)) : Prop where
  ls    : (t.core c).ls = ((d.core c).stored cells).ls
  v     : (t.core c).v = (d.core c).v
  s     : (t.core c).s = (d.core c).s
  p     : (t.core c).p = (d.core c).p
  pc    : (t.core c).pc = (d.core c).pc + len
  other : ∀ j, j ≠ c → t.core j = d.core j

/-- An instruction whose body writes the local store, issued on an idle engine. -/
theorem run_vecIssue_of_stored {u : State} {d : Dev} {c op : Nat} {w0 w1 : W64} {own : Bool} {x : QEnt}
    (h : VectorRuns u.dev d c op w0 w1 own x) (legal : Dev → Bool) (cost : Dev → Nat) (body : QEnt → Dev → Dev) (hl : legal d = true)
    (cells : List (Nat × Byte)) (hbody : ∀ b m, d.Begun b c m → d.Stored (body x b) c cells) :
    ∃ t, u.run (vecIssue c op w0 w1 legal vAny cost body) = .next t ∧ d.WroteBytes t.dev c (instrLen w0) cells := by
  have hpc : ∀ b m, d.Begun b c m → ((body x b).core c).pc = (d.core c).pc := fun b m hb => by
    obtain ⟨m', w, hc, -⟩ := hbody b m hb
    rw [hc]
    rfl
  obtain ⟨b, m, t, hb, hrun, hcore, hother⟩ := run_vecIssue_of_vectorRuns h u rfl legal vAny cost body hl rfl hpc
  obtain ⟨m', w, hc, ho⟩ := hbody b m hb
  rw [hc] at hcore
  refine ⟨t, hrun, ?_, ?_, ?_, ?_, ?_, fun j hj => (hother j hj).trans (ho j hj)⟩ <;> rw [hcore] <;> rfl

/-! ### The forms of these instructions -/

/-- An opcode without a tile-buffer form (R118, R133). -/
theorem tbOf_of_vecLegal {op : Nat} {w0 w1 : W64} (h : vecLegal op w0 w1 = true) (hop : tbAllowed op = false) : tbOf w0 = false := by
  simp only [vecLegal, Bool.and_eq_true] at h
  obtain ⟨-, htb⟩ := h
  simpa [hop] using htb

theorem Dev.Begun.lsCheck {d b : Dev} {c : Nat} {m : Core} (h : d.Begun b c m) (hclean : (d.core c).ls.chk = []) (ranges : List (Nat × Nat)) :
    b.lsCheck c ranges = (b, true) :=
  b.lsCheck_clean c ranges (by rw [h.core]; exact hclean)

/-- An access within the store goes on with the active elements. -/
theorem memGuard_of_fits {d b : Dev} {c : Nat} {m : Core} (h : d.Begun b c m) (hcode : (d.core c).code = [])
    (hclean : (d.core c).ls.chk = []) (x : QEnt) (hfits : ∀ r ∈ memRanges x.w1 ((d.core c).actives x.w0 0), r.1 + r.2 ≤ lsSize)
    (reads : Bool) (f : Core → List Nat → Dev → Dev) :
    ∃ b', d.Begun b' c m ∧ memGuard c x reads f b = f ((d.core c).begun m) ((d.core c).actives x.w0 0) b' := by
  obtain ⟨b', hb, hcheck⟩ := h.vCheck hcode x.w0 0
  have hact : (b.core c).actives x.w0 0 = (d.core c).actives x.w0 0 := by rw [h.core]; rfl
  have hany : ((memRanges x.w1 ((d.core c).actives x.w0 0)).any fun r => decide (lsSize < r.1 + r.2)) = false :=
    List.any_eq_false.mpr fun r hr => by simpa using hfits r hr
  refine ⟨_, hb.vtally x ((d.core c).actives x.w0 0), ?_⟩
  simp only [memGuard, hact, hany, h.lsCheck hclean, hcheck, hb.core]
  rfl

/-! ### VLD (R113) -/

/-- Element `e` as VLD brings it into its register: as it stands, a BI16 element with its code byte, or converted. -/
def loadedElem (d : Dev) (k : Core) (x : QEnt) (e : Nat) : Nat :=
  let mt := mtOf x.w1
  let ty := tyOf x.w0
  let held := k.lsNat (memAddr x.w1 e) (mtBytes mt)
  let code := k.lsNat (memScl x.w1 (e / 32)) 1
  if mt = 0xC then
    (if ty = 0xC then wrap 16 (bi16Int held).1 + code * 65536
     else convElem 0xC ty (rndOf x.w0) (satOf x.w0) (d.vrand x e) (bi16Val (wrap 16 (bi16Int held).1) code))
  else if mt = ty then held else convElem mt ty (rndOf x.w0) (satOf x.w0) (d.vrand x e) (tyVal mt held)

theorem vldBody_fills {d b : Dev} {c : Nat} {m : Core} {x : QEnt} (h : d.Begun b c m) (hcode : (d.core c).code = [])
    (hclean : (d.core c).ls.chk = []) (ht : tbOf x.w0 = false) (hbi : tyOf x.w0 = 0xC → mtOf x.w1 = 0xC)
    (hfits : ∀ r ∈ memRanges x.w1 ((d.core c).actives x.w0 0), r.1 + r.2 ≤ lsSize) :
    ∃ w, d.Filled (vldBody c x b) c (vdOf x.w0) (tyOf x.w0) ((d.core c).actives x.w0 0) (loadedElem d (d.core c) x) w := by
  obtain ⟨b', hb, heq⟩ := memGuard_of_fits h hcode hclean x hfits true _
  rw [vldBody, heq]
  by_cases hmt : mtOf x.w1 = tyOf x.w0
  · dsimp only
    rw [if_pos hmt]
    refine ⟨_, (hb.vdst ht ((fills_map _ _).congr fun e => ?_)).count _ _ _⟩
    by_cases hc : tyOf x.w0 = 0xC
    · simp only [loadedElem, hmt, hc, if_true]
      rfl
    · simp only [loadedElem, hmt, hc, if_false, if_true]
      rfl
  · have hty : tyOf x.w0 ≠ 0xC := fun hc => hmt ((hbi hc).trans hc.symm)
    dsimp only
    rw [if_neg hmt, Dev.vrand_of_vecParams hb.params]
    refine ((hb.vdst ht ((convAll_fills _ _ _ _ _ _ (Core.actives_nodup _ _ _) _ _).congr fun e => ?_)).count _ _ _).vnote _ _
    simp only [loadedElem, hmt, hty, if_false, ne_eq, not_false_eq_true, if_true]
    by_cases hc : mtOf x.w1 = 0xC
    · simp only [hc, if_true]
      rfl
    · simp only [hc, if_false]
      rfl

/-! ### VST (R113) -/

/-- Element `e` as VST puts it into memory of a type other than BI16: as it stands, or converted. -/
def storedElem (d : Dev) (k : Core) (x : QEnt) (e : Nat) : Nat :=
  let mt := mtOf x.w1
  let ty := tyOf x.w0
  let reg (e : Nat) : Nat := k.velem (vaOf x.w0) e
  if mt = ty then reg e
  else convElem ty mt (rndOf x.w0) (satOf x.w0) (d.vrand x e)
    (if ty = 0xC then bi16Val (reg e) (bits (reg (e / 32 * 32)) 16 8) else tyVal ty (reg e))

/-- The cells in memory of the elements `act`, element `e` of them `g e`. -/
def memCells (w1 : W64) (act : List Nat) (g : Nat → Nat) : List (Nat × Byte) :=
  act.flatMap fun e => cellsAt (memAddr w1 e) (natLe (mtBytes (mtOf w1)) (g e))

theorem mem_memCells {w1 : W64} {act : List Nat} {g : Nat → Nat} {y : Nat × Byte} :
    y ∈ memCells w1 act g ↔ ∃ e ∈ act, y ∈ cellsAt (memAddr w1 e) (natLe (mtBytes (mtOf w1)) (g e)) := List.mem_flatMap

/-- A byte of a number lies within it. -/
theorem lt_of_mem_cellsAt_natLe {a n v : Nat} {y : Nat × Byte} (h : y ∈ cellsAt a (natLe n v)) : a ≤ y.1 ∧ y.1 < a + n := by
  obtain ⟨hle, hget⟩ := (mem_cellsAt _ _ _).mp h
  obtain ⟨hlt, -⟩ := List.getElem?_eq_some_iff.mp hget
  rw [natLe_length] at hlt
  omega

/-- With a stride no two elements share a byte. -/
theorem eq_of_memAddr {w1 : W64} (hst : fld64 w1 20 12 ≠ 0) {a i j : Nat} (hi : memAddr w1 i ≤ a ∧ a < memAddr w1 i + mtBytes (mtOf w1))
    (hj : memAddr w1 j ≤ a ∧ a < memAddr w1 j + mtBytes (mtOf w1)) : i = j := by
  have hstep : ∀ p q, p < q → memAddr w1 p + mtBytes (mtOf w1) ≤ memAddr w1 q := by
    intro p q hpq
    have hnext : (p + 1) * (fld64 w1 20 12 * mtBytes (mtOf w1)) ≤ q * (fld64 w1 20 12 * mtBytes (mtOf w1)) := Nat.mul_le_mul_right _ hpq
    have hone : mtBytes (mtOf w1) ≤ fld64 w1 20 12 * mtBytes (mtOf w1) := Nat.le_mul_of_pos_left _ (Nat.pos_of_ne_zero hst)
    rw [Nat.succ_mul] at hnext
    simp only [memAddr, Nat.mul_assoc]
    omega
  rcases Nat.lt_trichotomy i j with h | h | h
  · have := hstep i j h
    omega
  · exact h
  · have := hstep j i h
    omega

theorem Core.lsNat_stored_memCells (k : Core) {w1 : W64} (hst : fld64 w1 20 12 ≠ 0) {act : List Nat} (g : Nat → Nat) {e : Nat} (he : e ∈ act) :
    (k.stored (memCells w1 act g)).lsNat (memAddr w1 e) (mtBytes (mtOf w1)) = g e % 256 ^ mtBytes (mtOf w1) := by
  refine Core.lsNat_of_bytes _ _ _ _ fun i v hv => ?_
  have hcell : (memAddr w1 e + i, v) ∈ cellsAt (memAddr w1 e) (natLe (mtBytes (mtOf w1)) (g e)) :=
    (mem_cellsAt _ _ _).mpr ⟨Nat.le_add_right _ _, by rwa [Nat.add_sub_cancel_left]⟩
  refine Core.lsByte_stored_of_mem k _ _ v (mem_memCells.mpr ⟨e, he, hcell⟩) fun y hy hya => ?_
  obtain ⟨e', -, hy'⟩ := mem_memCells.mp hy
  obtain rfl : e' = e := eq_of_memAddr hst (a := memAddr w1 e + i) (hya ▸ lt_of_mem_cellsAt_natLe hy') (lt_of_mem_cellsAt_natLe hcell)
  obtain ⟨-, hget⟩ := (mem_cellsAt _ _ _).mp hy'
  rw [hya, Nat.add_sub_cancel_left, hv] at hget
  exact (Option.some.inj hget).symm

theorem Core.lsByte_stored_memCells (k : Core) {w1 : W64} {act : List Nat} (g : Nat → Nat) (a : Nat)
    (ha : ∀ e ∈ act, a < memAddr w1 e ∨ memAddr w1 e + mtBytes (mtOf w1) ≤ a) : (k.stored (memCells w1 act g)).lsByte a = k.lsByte a := by
  refine Core.lsByte_stored_of_not_mem k _ a fun y hy hya => ?_
  obtain ⟨e, he, hy'⟩ := mem_memCells.mp hy
  have := ha e he
  have := lt_of_mem_cellsAt_natLe hy'
  omega

/-- A conversion into a type other than BI16 goes element by element. -/
theorem convAll_fst_of_ne_bi16 (src : Nat) {dst : Nat} (hdst : dst ≠ 0xC) (rnd : Nat) (sat : Bool) (code : Nat) (act : List Nat) (v : Nat → XVal)
    (r : Nat → Nat) :
    (convAll src dst rnd sat code (act.map fun e => (e, v e)) r).1 = act.map fun e => (e, convElem src dst rnd sat (r e) (v e)) := by
  simp only [convAll, if_neg hdst, List.map_map]
  rfl

/-- With a stride and a memory type other than BI16, VST writes its active elements and no scale code. -/
theorem vstBody_stores {d b : Dev} {c : Nat} {m : Core} {x : QEnt} (h : d.Begun b c m) (hcode : (d.core c).code = [])
    (hclean : (d.core c).ls.chk = []) (hmt : mtOf x.w1 ≠ 0xC) (hst : fld64 x.w1 20 12 ≠ 0)
    (hfits : ∀ r ∈ memRanges x.w1 ((d.core c).actives x.w0 0), r.1 + r.2 ≤ lsSize) :
    d.Stored (vstBody c x b) c (memCells x.w1 ((d.core c).actives x.w0 0) (storedElem d (d.core c) x)) := by
  obtain ⟨b', hb, heq⟩ := memGuard_of_fits h hcode hclean x hfits false _
  rw [vstBody, heq]
  dsimp only
  rw [if_neg hst, if_neg hmt, Dev.vrand_of_vecParams hb.params]
  have hcells : ∀ res : List (Nat × Nat), res = (((d.core c).actives x.w0 0).map fun e => (e, storedElem d (d.core c) x e)) →
      (res.flatMap fun r => cellsAt (memAddr x.w1 r.1) (natLe (mtBytes (mtOf x.w1)) r.2)) =
        memCells x.w1 ((d.core c).actives x.w0 0) (storedElem d (d.core c) x) := by
    rintro _ rfl
    exact List.flatMap_map _ _ _
  by_cases hty : mtOf x.w1 = tyOf x.w0
  · have hplain : tyOf x.w0 ≠ 0xC := hty ▸ hmt
    rw [if_pos hty, hcells _ (List.map_congr_left fun e _ => ?_)]
    · exact (hb.stored.lsWrite hclean _).vnote _ _
    · simp only [storedElem, hty, if_neg hplain, if_true]
      rfl
  · rw [if_neg hty, convAll_fst_of_ne_bi16 _ hmt, hcells _ (List.map_congr_left fun e _ => ?_)]
    · exact (hb.stored.lsWrite hclean _).vnote _ _
    · simp only [storedElem, if_neg hty]
      rfl

/-! ### VPACK (R121) -/

/-- The number whose bit `j` below `n` is `g j`. -/
def packedBits (g : Nat → Bool) (n : Nat) : Nat := (List.range n).foldl (fun v j => v + 2 ^ j * b2n (g j)) 0

theorem packedBits_succ (g : Nat → Bool) (n : Nat) : packedBits g (n + 1) = packedBits g n + 2 ^ n * b2n (g n) := by
  simp [packedBits, List.range_succ]

theorem packedBits_lt (g : Nat → Bool) : ∀ n, packedBits g n < 2 ^ n
  | 0 => Nat.one_pos
  | n + 1 => by
    have ih := packedBits_lt g n
    have hb : 2 ^ n * b2n (g n) ≤ 2 ^ n * 1 := Nat.mul_le_mul_left _ (by unfold b2n; split <;> decide)
    rw [packedBits_succ, Nat.pow_succ]
    omega

/-- A bit of `x` is not changed by what is added above it. -/
theorem bit_add_high (x b : Nat) {j n : Nat} (h : j < n) : bit (x + 2 ^ n * b) j = bit x j := by
  obtain ⟨i, rfl⟩ := Nat.exists_eq_add_of_lt h
  have hsplit : x + 2 ^ (j + i + 1) * b = x + 2 ^ j * (2 * (2 ^ i * b)) := by ring
  rw [bit, bit, hsplit, Nat.add_mul_div_left _ _ (Nat.two_pow_pos j), Nat.add_mul_mod_self_left]

theorem bit_packedBits (g : Nat → Bool) : ∀ n j, j < n → bit (packedBits g n) j = g j
  | n + 1, j, hj => by
    rw [packedBits_succ]
    rcases Nat.lt_succ_iff_lt_or_eq.mp hj with hlt | rfl
    · rw [bit_add_high _ _ hlt, bit_packedBits g n j hlt]
    · rw [bit, Nat.add_mul_div_left _ _ (Nat.two_pow_pos j), Nat.div_eq_of_lt (packedBits_lt g j)]
      cases g j <;> rfl

/-- The byte whose bits are `g 0` to `g 7`. -/
def packedByte (g : Nat → Bool) : Byte := BitVec.ofNat 8 (packedBits g 8)

theorem bit_packedByte (g : Nat → Bool) (j : Nat) (hj : j < 8) : bit (packedByte g).toNat j = g j := by
  rw [packedByte, BitVec.toNat_ofNat, Nat.mod_eq_of_lt (packedBits_lt g 8), bit_packedBits g 8 j hj]

/-- Byte `i` of a mask of `n` bits at `addr`; the last one keeps its bits from `n` on. -/
def maskByte (k : Core) (addr n : Nat) (f : Nat → Bool) (i : Nat) : Byte :=
  packedByte fun j => if 8 * i + j < n then f (8 * i + j) else k.maskBit addr (8 * i + j)

/-- The cells of that mask. -/
def maskCells (k : Core) (addr n : Nat) (f : Nat → Bool) : List (Nat × Byte) :=
  (List.range (ceilDiv n 8)).map fun i => (addr + i, maskByte k addr n f i)

theorem Core.maskBit_stored (k k' : Core) (addr n : Nat) (f : Nat → Bool) (e : Nat) (he : e < n) :
    (k.stored (maskCells k' addr n f)).maskBit addr e = f e := by
  have hbyte : (k.stored (maskCells k' addr n f)).lsByte (addr + e / 8) = maskByte k' addr n f (e / 8) := by
    have hin : e / 8 < ceilDiv n 8 := by unfold ceilDiv; omega
    refine Core.lsByte_stored_of_mem k _ _ _ (List.mem_map.mpr ⟨e / 8, List.mem_range.mpr hin, rfl⟩) fun y hy hye => ?_
    obtain ⟨i, -, rfl⟩ := List.mem_map.mp hy
    exact congrArg (maskByte k' addr n f) (Nat.add_left_cancel hye)
  rw [Core.maskBit, hbyte, maskByte, bit_packedByte _ _ (Nat.mod_lt _ (by decide)), Nat.div_add_mod, if_pos he]

theorem Core.lsByte_stored_maskCells (k k' : Core) (addr n : Nat) (f : Nat → Bool) (a : Nat) (ha : a < addr ∨ addr + ceilDiv n 8 ≤ a) :
    (k.stored (maskCells k' addr n f)).lsByte a = k.lsByte a := by
  refine Core.lsByte_stored_of_not_mem k _ a fun y hy hya => ?_
  obtain ⟨i, hi, rfl⟩ := List.mem_map.mp hy
  have hlt := List.mem_range.mp hi
  simp only at hya
  omega

theorem packBody_stores {d b : Dev} {c : Nat} {m : Core} {x : QEnt} (h : d.Begun b c m) (hcode : (d.core c).code = [])
    (hclean : (d.core c).ls.chk = []) (ht : tbOf x.w0 = false) :
    d.Stored (packBody c x b) c (maskCells (d.core c) (fld64 x.w1 0 20) (vcount x.w0 0) fun e => (d.core c).pbit (fld64 x.w0 13 3) e) := by
  obtain ⟨b', hb, heq⟩ := vecBody_of_register h hcode x ht _
  rw [packBody, heq, Dev.maskWrite, hb.core]
  exact hb.stored.lsWrite hclean _

/-! ### VTOPK without a valid expert (R124, R126) -/

/-- The cells of the empty selection records of the tokens `ts`. -/
def emptyRecords (sel : Nat) (ts : List Nat) : List (Nat × Byte) := ts.flatMap fun t => cellsAt (sel + 64 * t) (List.replicate 64 0)

theorem mem_emptyRecords {sel n : Nat} {y : Nat × Byte} :
    y ∈ emptyRecords sel (List.range n) ↔ (sel ≤ y.1 ∧ y.1 < sel + 64 * n) ∧ y.2 = 0 := by
  obtain ⟨a, v⟩ := y
  simp only [emptyRecords, List.mem_flatMap, List.mem_range, mem_cellsAt, List.getElem?_replicate, Option.ite_none_right_eq_some,
    Option.some.injEq]
  constructor
  · rintro ⟨t, ht, hle, hlt, hv⟩
    exact ⟨by omega, hv.symm⟩
  · rintro ⟨⟨hle, hlt⟩, hv⟩
    exact ⟨(a - sel) / 64, by omega, by omega, by omega, hv.symm⟩

/-- Every expert of token `t` is not eligible or has a NaN logit. -/
def NoExpert (k : Core) (x : QEnt) (t : Nat) : Prop :=
  ∀ e, e < topE x.w1 → k.active x.w0 0 (topE x.w1 * t + e) = false ∨ tyVal (tyOf x.w0) (k.velem (vaOf x.w0) (topE x.w1 * t + e)) = .nan

theorem topChoose_nil (v : Nat → XVal) (n : Nat) : topChoose v n [] = [] := by cases n <;> rfl

theorem topToken_of_noExpert {d b : Dev} {c : Nat} {x : QEnt} {k : Core} {t : Nat} {cells : List (Nat × Byte)} (h : d.Stored b c cells)
    (hclean : (d.core c).ls.chk = []) (hk : NoExpert k x t) :
    d.Stored (topToken c x k t b) c (cells ++ emptyRecords (topSel x.w1) [t]) := by
  have hnone : (((List.range (topE x.w1)).filter fun e => k.active x.w0 0 (topE x.w1 * t + e)).filter fun e =>
      tyVal (tyOf x.w0) (k.velem (vaOf x.w0) (topE x.w1 * t + e)) != .nan) = [] := by
    refine List.filter_eq_nil_iff.mpr fun e he => ?_
    obtain ⟨hlt, hactive⟩ := List.mem_filter.mp he
    rcases hk e (List.mem_range.mp hlt) with hoff | hnan
    · exact absurd hactive (Bool.eq_false_iff.mp hoff)
    · simp [hnan]
  have hone : emptyRecords (topSel x.w1) [t] = cellsAt (topSel x.w1 + 64 * t) (List.replicate 64 0) := by simp [emptyRecords]
  rw [hone]
  simp only [topToken, hnone, topChoose_nil]
  split
  · exact (h.vstick 2).lsWrite hclean _
  · exact h.lsWrite hclean _

theorem foldl_topToken_of_noExpert {d b : Dev} {c : Nat} {x : QEnt} {k : Core} {cells : List (Nat × Byte)} (ts : List Nat)
    (h : d.Stored b c cells) (hclean : (d.core c).ls.chk = []) (hk : ∀ t ∈ ts, NoExpert k x t) :
    d.Stored (ts.foldl (fun s t => topToken c x k t s) b) c (cells ++ emptyRecords (topSel x.w1) ts) := by
  induction ts generalizing b cells with
  | nil => simpa [emptyRecords] using h
  | cons t ts ih =>
    have hsplit : emptyRecords (topSel x.w1) (t :: ts) = emptyRecords (topSel x.w1) [t] ++ emptyRecords (topSel x.w1) ts := by
      simp [emptyRecords]
    rw [List.foldl_cons, hsplit, ← List.append_assoc]
    exact ih (topToken_of_noExpert h hclean (hk t (by simp))) fun y hy => hk y (by simp [hy])

theorem topkBody_stores {d b : Dev} {c : Nat} {m : Core} {x : QEnt} (h : d.Begun b c m) (hcode : (d.core c).code = [])
    (hclean : (d.core c).ls.chk = []) (hk : ∀ t, t < vcount x.w0 0 / topE x.w1 → NoExpert (d.core c) x t) :
    d.Stored (topkBody c x b) c (emptyRecords (topSel x.w1) (List.range (vcount x.w0 0 / topE x.w1))) := by
  obtain ⟨b', hb, hcheck⟩ := h.vCheck hcode x.w0 0
  simp only [topkBody, h.lsCheck hclean, hcheck]
  refine foldl_topToken_of_noExpert _ (hb.vtally x _).stored hclean fun t ht => ?_
  rw [hb.core]
  exact hk t (List.mem_range.mp ht)

theorem noExpert_of_elements {k : Core} {x : QEnt}
    (h : ∀ e, e < vcount x.w0 0 → e ∉ k.actives x.w0 0 ∨ tyVal (tyOf x.w0) (k.velem (vaOf x.w0) e) = .nan) (t : Nat)
    (ht : t < vcount x.w0 0 / topE x.w1) : NoExpert k x t := by
  intro e he
  have hin : topE x.w1 * t + e < vcount x.w0 0 := calc
    topE x.w1 * t + e < topE x.w1 * t + topE x.w1 := Nat.add_lt_add_left he _
    _ = topE x.w1 * (t + 1) := rfl
    _ ≤ topE x.w1 * (vcount x.w0 0 / topE x.w1) := Nat.mul_le_mul_left _ ht
    _ ≤ vcount x.w0 0 := Nat.mul_div_le _ _
  exact (h _ hin).imp_left fun hn => Bool.eq_false_iff.mpr fun hactive => hn (Core.mem_actives.mpr ⟨hin, hactive⟩)

/-! ### The instructions -/

/-- A number of the bytes of a memory type is one of its bits. -/
theorem pow_mtBytes {w0 w1 : W64} {d : Dev} (h : memLegal w0 w1 d = true) : 256 ^ mtBytes (mtOf w1) = 2 ^ elemBits (mtOf w1) := by
  have hall : ∀ mt, mt < 16 → isVty mt = true → 256 ^ mtBytes mt = 2 ^ elemBits mt := by decide
  simp only [memLegal, Bool.and_eq_true] at h
  obtain ⟨⟨⟨hmt, -⟩, -⟩, -⟩ := h
  exact hall _ (Nat.mod_lt _ (by decide)) hmt

/-- Of a core, bytes of the local store are read from the store alone. -/
theorem Core.lsByte_of_ls {k k' : Core} (h : k.ls = k'.ls) (a : Nat) : k.lsByte a = k'.lsByte a := by rw [Core.lsByte, Core.lsByte, h]

theorem Core.lsNat_of_ls {k k' : Core} (h : k.ls = k'.ls) (a n : Nat) : k.lsNat a n = k'.lsNat a n := by
  simp only [Core.lsNat, Core.lsBytes, Core.lsByte_of_ls h]

theorem Core.maskBit_of_ls {k k' : Core} (h : k.ls = k'.ls) (a e : Nat) : k.maskBit a e = k'.maskBit a e := by
  rw [Core.maskBit, Core.maskBit, Core.lsByte_of_ls h]

/-- The words of the entry of an instruction that `VectorRuns` describes. -/
theorem words_of_vectorRuns {s d : Dev} {c op : Nat} {w0 w1 : W64} {own : Bool} {x : QEnt} (h : VectorRuns s d c op w0 w1 own x) :
    x.w0 = w0 ∧ x.w1 = w1 := by
  obtain ⟨-, -, -, -, -, -, -, -, hx⟩ := h
  rw [hx]
  exact ⟨rfl, rfl⟩

/-- The form of an instruction that `VectorRuns` describes, of an opcode without a tile-buffer form. -/
theorem register_of_vectorRuns {s d : Dev} {c op : Nat} {w0 w1 : W64} {own : Bool} {x : QEnt} (h : VectorRuns s d c op w0 w1 own x)
    (hop : tbAllowed op = false) : own = true ∧ (d.core c).code = [] ∧ tbOf w0 = false := by
  obtain ⟨-, hform, hown, -, -, hcode, -⟩ := h
  exact ⟨hown, hcode, tbOf_of_vecLegal hform hop⟩

end Sys2Proof.Machine

open Sys2Proof Sys2Proof.Machine

/-- Settles O40: the active elements of VLD fill its register (`vldBody_fills`); the others write the cells of their results, their mask and
their empty records (`vstBody_stores`, `packBody_stores`, `topkBody_stores`), which an undamaged local store gives back. -/
theorem vectorMemory : Obligations.VectorMemory := by
  unfold Obligations.VectorMemory
  intro s d c w0 w1 x k ty mt act held code loaded reg stored run fits others
  refine ⟨fun hbi hfits hruns hclean => ?_, fun hmt hst hfits hruns hclean => ?_, fun hruns hclean => ?_, fun hnone hruns hclean => ?_⟩
  all_goals
    obtain ⟨hown, hcode, htb⟩ := register_of_vectorRuns hruns (by decide)
    obtain ⟨rfl, rfl⟩ := words_of_vectorRuns hruns
  · obtain ⟨t, hrun, hw, -⟩ := run_vecIssue_of_filled hruns (memLegal x.w0 x.w1) (memCostOf c x.w0 x.w1) (vldBody c) hown
      (fun e => Core.lt_of_mem_actives htb) False fun b m hb => by
        obtain ⟨w, hw⟩ := vldBody_fills hb hcode hclean htb hbi hfits
        exact ⟨w, hw, False.elim⟩
    exact ⟨t, hrun, ⟨hw.ls, fun r e _ he => hw.elems r e he⟩, hw.s, hw.p, hw.pc, hw.other⟩
  · obtain ⟨t, hrun, hw⟩ := run_vecIssue_of_stored hruns (memLegal x.w0 x.w1) (memCostOf c x.w0 x.w1) (vstBody c) hown _
      fun b m hb => vstBody_stores hb hcode hclean hmt hst hfits
    refine ⟨t, hrun, ⟨hw.v, fun e he => ?_, fun a _ ha => ?_⟩, hw.s, hw.p, hw.pc, hw.other⟩
    · rw [Core.lsNat_of_ls hw.ls, Core.lsNat_stored_memCells _ hst _ he, pow_mtBytes hown]
      rfl
    · exact (Core.lsByte_of_ls hw.ls a).trans (Core.lsByte_stored_memCells _ _ a ha)
  · obtain ⟨t, hrun, hw⟩ := run_vecIssue_of_stored hruns (packLegal x.w0 x.w1) (vCostOf x.w0 x.w1) (packBody c) hown _
      fun b m hb => packBody_stores hb hcode hclean htb
    refine ⟨t, hrun, ⟨hw.v, fun e he => ?_, fun a _ ha => ?_⟩, hw.s, hw.p, hw.pc, hw.other⟩
    · exact (Core.maskBit_of_ls hw.ls _ _).trans (Core.maskBit_stored _ _ _ _ _ e he)
    · exact (Core.lsByte_of_ls hw.ls a).trans (Core.lsByte_stored_maskCells _ _ _ _ _ a ha)
  · obtain ⟨t, hrun, hw⟩ := run_vecIssue_of_stored hruns (topkLegal x.w0 x.w1) (vCostOf x.w0 x.w1) (topkBody c) hown _
      fun b m hb => topkBody_stores hb hcode hclean (noExpert_of_elements hnone)
    refine ⟨t, hrun, ⟨hw.v, fun i hi => ?_, fun a _ ha => ?_⟩, hw.s, hw.p, hw.pc, hw.other⟩
    · exact (Core.lsByte_of_ls hw.ls _).trans (Core.lsByte_stored_of_mem _ _ _ 0
        (mem_emptyRecords.mpr ⟨⟨Nat.le_add_right _ _, Nat.add_lt_add_left hi _⟩, rfl⟩) fun y hy _ => (mem_emptyRecords.mp hy).2)
    · refine (Core.lsByte_of_ls hw.ls a).trans (Core.lsByte_stored_of_not_mem _ _ a fun y hy hya => ?_)
      obtain ⟨⟨hlo, hhi⟩, -⟩ := mem_emptyRecords.mp hy
      rw [hya] at hlo hhi
      rcases ha with ha | ha
      · exact absurd ha (Nat.not_lt.mpr hlo)
      · exact absurd hhi (Nat.not_lt.mpr ha)

end

section
/-! SUPPORT. BREEZE_CHAIN_PAUSE on a channel map that lists a channel twice, and O43 (R144). -/

namespace Sys2Proof.Machine

/-- The reset device with channel 0 listed twice: with a foreground chain, and behind it with a breeze chain. A lookup reads the first entry,
the channels of a cluster are both. `Sparse.set` makes no such map from one without it; the statement does not rule it out. -/
def twiceListed : Dev :=
  { State.reset.dev with chans := [(0, { Chan.idle with st := .ready }), (0, { Chan.idle with st := .ready, brz := true })] }

theorem twiceListed_fgReady : twiceListed.fgReady 0 = true := by decide

/-- The second entry of channel 0 pauses the foreground chain of the first. -/
theorem twiceListed_setPause : ((twiceListed.setPause 0 true).chan 0).pause = true := by decide

theorem Dev.chan_of_beside {a b : Dev} (h : a.beside = b.beside) (j : Nat) : a.chan j = b.chan j := by
  simp only [Dev.beside, Prod.mk.injEq] at h
  obtain ⟨-, -, -, -, hchans, -⟩ := h
  rw [Dev.chan, Dev.chan, hchans]

theorem exec_breezeChainPause_of_fgReady (s : State) (k : Fin 32) (h : s.dev.fgReady k = true) :
    ∃ u, exec (.breezeChainPause k) s = .next u ∧ ∀ j, u.dev.chan j = (s.dev.setPause k true).chan j := by
  refine ⟨_, State.run_eq (if_pos h), fun j => ?_⟩
  exact Dev.chan_of_beside (Dev.count_beside _ _ _ _) j

end Sys2Proof.Machine

open Sys2Proof Sys2Proof.Machine

/-- Refutes O43, on a state whose channel map is not canonical: where it lists channel 0 with a foreground chain and again with a breeze chain,
BREEZE_CHAIN_PAUSE goes by the second entry and pauses the chain that channel 0 reads as, which is not breeze and was not paused. -/
theorem not_dmaChainEvents : ¬ Obligations.DmaChainEvents := by
  unfold Obligations.DmaChainEvents
  intro h
  let s : State := { State.reset with dev := twiceListed }
  obtain ⟨-, -, -, -, -, -, hpause, -⟩ := h s (.cluster 0 0) s.dev s.dev s.dev false 0 0 0 0 [] true 0
  obtain ⟨u, hu, hchan, -⟩ := hpause twiceListed_fgReady
  obtain ⟨u', hu', hset⟩ := exec_breezeChainPause_of_fgReady s 0 twiceListed_fgReady
  obtain rfl : u' = u := by simpa using (hu'.symm.trans hu)
  have hfirst := hchan 0
  rw [hset] at hfirst
  exact absurd (twiceListed_setPause.symm.trans hfirst) (by decide)

end

section
/-! SUPPORT. What a check of the local store leaves alone, a refused issue, and O29 (R79, R136, R141). -/

namespace Sys2Proof.Machine

variable (s : Dev)

/-! ### The reaction to words that can be read -/

theorem Dev.detect_core (src : Src) (kind cls arg j : Nat) : (s.detect src kind cls arg).core j = s.core j :=
  Dev.core_of_beside (s.detect_beside src kind cls arg) j

theorem Dev.coreFault_core (c : Nat) (src : Src) (arg j : Nat) : (s.coreFault c src arg).core j = s.core j :=
  Dev.core_of_standingCores (s.coreFault_standingCores c src arg) j

theorem Dev.endWork_core (w : Option Work) (ok : Bool) (j : Nat) : (s.endWork w ok).core j = s.core j :=
  Dev.core_of_standingCores (s.endWork_standingCores w ok) j

theorem Dev.moves_core (c n j : Nat) : (s.moves c n).core j = s.core j := by rw [Dev.core, Dev.moves_cores, ← Dev.core]

theorem Dev.pkg_of_beside {a b : Dev} (h : a.beside = b.beside) : a.pkg = b.pkg := congrArg Prod.fst h

/-- The core as the reaction to words of its local store leaves it: the store alone can change. -/
theorem Dev.lsReact_core (c : Nat) (l : List (Nat × Ecc)) (s : Dev) (j : Nat) :
    (s.lsReact c l).1.core j = if j = c then { s.core c with ls := ((s.lsReact c l).1.core c).ls } else s.core j := by
  have same : ∀ t : Dev, t.core j = if j = c then { t.core c with ls := (t.core c).ls } else t.core j := fun t => by
    split
    next hj => rw [hj]
    next => rfl
  induction l generalizing s with
  | nil => exact same s
  | cons e l ih =>
    obtain ⟨w, e⟩ := e
    cases e with
    | clean => exact ih s
    | corrected p x =>
      rw [Dev.lsReact, ih]
      simp only [Dev.count_core, Dev.detect_core, Dev.core_onCore, if_true]
      split <;> rfl
    | uncorr => simpa only [Dev.lsReact, Dev.coreFault_core] using same s
    | poisoned => simpa only [Dev.lsReact, Dev.coreFault_core] using same s

/-- Words that can all be read fence and mark nothing. -/
theorem Dev.lsReact_pkg (c : Nat) (l : List (Nat × Ecc)) (s : Dev) (h : (s.lsReact c l).2 = true) : (s.lsReact c l).1.pkg = s.pkg := by
  induction l generalizing s with
  | nil => rfl
  | cons e l ih =>
    obtain ⟨w, e⟩ := e
    cases e with
    | clean => exact ih s h
    | corrected p x =>
      rw [Dev.lsReact] at h ⊢
      rw [ih _ h, Dev.pkg_of_beside (Dev.count_beside _ _ _ _), Dev.pkg_of_beside (Dev.detect_beside _ _ _ _ _), Dev.onCore_pkg]
    | uncorr => simp [Dev.lsReact] at h
    | poisoned => simp [Dev.lsReact] at h

theorem Dev.lsCheck_core (c : Nat) (ranges : List (Nat × Nat)) (j : Nat) : (s.lsCheck c ranges).1.core j =
    if j = c then { s.core c with ls := ((s.lsCheck c ranges).1.core c).ls } else s.core j := Dev.lsReact_core c _ s j

section
variable {s} {d : Dev} {c : Nat} {ranges : List (Nat × Nat)} {ok : Bool} (h : s.lsCheck c ranges = (d, ok))
include h

/-- Of core `c` a check of its local store can change the store alone. -/
theorem Dev.core_of_lsCheck : d.core c = { s.core c with ls := (d.core c).ls } := by
  have hc := s.lsCheck_core c ranges c
  rwa [h, if_pos rfl] at hc

theorem Dev.core_of_lsCheck_other {j : Nat} (hj : j ≠ c) : d.core j = s.core j := by
  have hc := s.lsCheck_core c ranges j
  rwa [h, if_neg hj] at hc

theorem Dev.sec_of_lsCheck : d.sec = s.sec := by
  have hs := s.lsCheck_sec c ranges
  rwa [h] at hs

theorem Dev.pkg_of_lsCheck (hok : ok = true) : d.pkg = s.pkg := by
  have hp : (s.lsCheck c ranges).1.pkg = s.pkg := Dev.lsReact_pkg c _ s ((congrArg Prod.snd h).trans hok)
  rwa [h] at hp

/-- A core that reads its store runs on. -/
theorem Dev.coreDown_of_lsCheck (hok : ok = true) (j : Nat) : d.coreDown j = s.coreDown j := by
  simp only [Dev.coreDown, Dev.pkg_of_lsCheck h hok]

end

/-! ### A refused issue (R79, R136) -/

/-- A word of another opcode that no table defines, or an illegal form, stops the segment. -/
theorem Dev.issue_refused (c op : Nat) (w : W64) (legal : Dev → Bool) (body : Dev → Dev) {d : Dev} (hi : s.issuing c = true)
    (hf : s.lsCheck c [((s.core c).pc, instrLen w)] = (d, true))
    (h : (fld64 w 0 8 ≠ op ∧ opDefined (fld64 w 0 8) = false) ∨ (fld64 w 0 8 = op ∧ legal d = false)) :
    s.issue c op w legal body = d.illegal c := by
  rcases h with ⟨hop, hdef⟩ | ⟨hop, hl⟩
  · simp [Dev.issue, hi, hf, hop, hdef]
  · simp [Dev.issue, hi, hf, hop, hl]

/-- Stopping a segment keeps the place in issue order. -/
theorem Dev.illegal_seq (c : Nat) : ((s.illegal c).core c).seq = (s.core c).seq := by
  simp only [Dev.illegal, Dev.stopSegment, Dev.endWork_core, Dev.core_onCore, Dev.detect_core, if_true]

/-- An MMT that has taken its place counts on each engine that it enables (R513). -/
def Dev.mmtCounted (s : Dev) (c : Nat) (w0 w1 : W64) : Dev :=
  (List.range 4).foldl (fun s e => if (mmtOf w0 w1).on e then s.count (engBlk c e) 6 1 else s) s

/-- MMT by what its issue makes of the device. -/
theorem exec_mmt_of_issue (s : State) (c : Fin 512) (w0 w1 : W64) (t : Dev)
    (h : matIssue c 0x40 w0 w1 (mmtRegs w1) (fun s => mmtLegal (s.core c) w0 w1) (fun _ => true) id s.dev = t) :
    exec (.mmt c w0 w1) s =
      .next { s with dev := s.dev.wired (if (t.core c).seq = (s.dev.core c).seq then t else t.mmtCounted c w0 w1) } := by
  subst h
  rfl

end Sys2Proof.Machine

open Sys2Proof Sys2Proof.Machine

/-- Settles O29: each row is an issue under its opcode, which refuses the word (`Dev.issue_refused`); a refused MMT keeps its place in issue
order and so counts on no engine. -/
theorem illegalInstructionStopsTheSegment : Obligations.IllegalInstructionStopsTheSegment := by
  unfold Obligations.IllegalInstructionStopsTheSegment
  intro s d c w hi hf stop
  refine ⟨fun hop hl => State.run_eq (s.dev.issue_refused c 0x01 w _ _ hi hf (.inr ⟨hop, hl⟩)), fun hdef => ?_⟩
  have refused : ∀ op legal body, opDefined op = true → s.dev.issue c op w legal body = stop := fun op legal body hop =>
    s.dev.issue_refused c op w legal body hi hf (.inl ⟨fun h => by simp [h, hop] at hdef, hdef⟩)
  have hmmt : Runs (.mmt c w 0) s stop := by
    have hseq : (stop.core c).seq = (s.dev.core c).seq := (d.illegal_seq c).trans (by rw [Dev.core_of_lsCheck hf])
    have hexec := exec_mmt_of_issue s c w 0 stop (refused 0x40 _ _ (by decide))
    rwa [if_pos hseq] at hexec
  simp only [List.forall_mem_cons]
  exact ⟨State.run_eq (refused 0x01 _ _ (by decide)), State.run_eq (refused 0x0A _ _ (by decide)), State.run_eq (refused 0x10 _ _ (by decide)),
    State.run_eq (refused 0x18 _ _ (by decide)), State.run_eq (refused 0x30 _ _ (by decide)), State.run_eq (refused 0x34 _ _ (by decide)),
    State.run_eq (refused 0x36 _ _ (by decide)), hmmt, State.run_eq (refused 0x50 _ _ (by decide)),
    State.run_eq (refused 0x5E _ _ (by decide)), fun i hi => absurd hi List.not_mem_nil⟩
end

section
/-! SUPPORT. How the heads of the two unit queues start, the writes of a tile complete, and O31 (R80, R87, R91, R95, R128, R135). -/

namespace Sys2Proof.Machine

variable (s : Dev) (c : Nat)

/-! ### The matrix queue -/

section
variable {s c} {x : QEnt} {q : List QEnt}

/-- With no tile standing by, the head of a clear queue leaves it and does its work. -/
theorem Dev.matStart_of_ready (hd : s.coreDown c = false) (hr : (s.core c).rest = none) (hq : (s.core c).mq = x :: q)
    (hx : s.matReady c x = true) : s.matStart c = matBody c x (s.onCore c fun y => { y with mq := q }) := by
  simp [Dev.matStart, Dev.matStart.headStart, hd, hr, hq, hx]

theorem Dev.matStart_of_waiting (hr : (s.core c).rest = none) (hq : (s.core c).mq = x :: q) (hx : s.matReady c x = false) :
    s.matStart c = s := by
  simp [Dev.matStart, Dev.matStart.headStart, hr, hq, hx]

/-- The rest of a tile feeds before the head of the queue. -/
theorem Dev.matStart_of_rest {lo : Nat} (hd : s.coreDown c = false) (hr : (s.core c).rest = some (x, lo)) (hp : s.matPaused c = false)
    (hx : s.tileReady c x lo = true) : s.matStart c = tileBody c x lo true s := by
  simp [Dev.matStart, hd, hr, hp, hx]

end

section
variable (x : QEnt)

theorem matBody_mwld (h : vop x.w0 = 0x42) : matBody c x s = mwldBody c x.w0 x.w1 s := by simp [matBody, h]

theorem matBody_mmt (h : vop x.w0 = 0x40) (hr : (mmtOf x.w0 x.w1).removed x.lat = false) : matBody c x s = tileBody c x 0 true s := by
  simp [matBody, h, hr]

theorem matBody_mmt_removed (h : vop x.w0 = 0x40) (hr : (mmtOf x.w0 x.w1).removed x.lat = true) :
    matBody c x s = ((mmtOf x.w0 x.w1).countRemoved c s).onCore c fun k => { k with mfree := Nat.max (s.cycle c) k.mfree + 1 } := by
  simp [matBody, h, hr]

theorem matBody_mrsv (h : vop x.w0 = 0x43) : matBody c x s =
    s.onCore c fun k => { k with mrsv := if (wordAt x.lat 0).msb then none else some (wordAt x.lat 0).toNat } := by
  simp [matBody, h]

end

/-! ### The writes of a tile (R80, R87) -/

/-- The first tile, whose writes to its one bank are complete, is dropped. -/
theorem releaseBank_of_last {t b : Nat} {r : MmtRun} (l : List MmtRun) (hb : r.banks = [b]) (ht : r.bankLast b + 12 ≤ t) :
    releaseBank t b (r :: l) = l := by
  simp [releaseBank, hb, ht]

theorem writesDone_of_first {b : Nat} {r : MmtRun} (l : List MmtRun) (hb : r.banks = [b]) :
    writesDone b (r :: l) = some (r.bankLast b + 12) := by
  simp [writesDone, hb]

theorem Dev.onCore_congr {f g : Core → Core} (h : f (s.core c) = g (s.core c)) : s.onCore c f = s.onCore c g := by
  rw [Dev.onCore, Dev.onCore, h]

/-! ### The vector queue (R94, R128) -/

section
variable {s c} {x : QEnt} {q : List QEnt} (hd : s.coreDown c = false) (hb : s.vecBusy c = false) (hq : (s.core c).vq = x :: q)
  (hr : s.vecReady c x = true) (hh : s.vecHeld c x = false)
include hd hb hq hr hh

theorem Dev.vecStart_of_drain (hop : vop x.w0 = 0x41) : s.vecStart c = s.drainStart c x := by
  simp [Dev.vecStart, hd, hb, hq, hr, hh, hop]

theorem Dev.vecStart_of_memory (hop : vop x.w0 = 0x68 ∨ vop x.w0 = 0x69) :
    s.vecStart c = s.vstart c 0 (memCostOf c x.w0 x.w1 s) none vecActs (vecBodyOf c (vop x.w0)) := by
  have h41 : vop x.w0 ≠ 0x41 := by rcases hop with h | h <;> rw [h] <;> decide
  simp only [Dev.vecStart, hd, hb, hq, hr, hh, h41, hop, Bool.or_false, Bool.not_true, Bool.false_eq_true, if_false, if_true]

theorem Dev.vecStart_of_plain (h41 : vop x.w0 ≠ 0x41) (h68 : vop x.w0 ≠ 0x68) (h69 : vop x.w0 ≠ 0x69) :
    s.vecStart c = s.vstart c 0 (vcost x.w0 x.w1) none vecActs (vecBodyOf c (vop x.w0)) := by
  simp [Dev.vecStart, hd, hb, hq, hr, hh, h41, h68, h69]

end

/-- The engine of core `c` has taken `x` off its queue, which is `q` then, to run from cycle `t` on for `cost` cycles. -/
def Dev.taken (s : Dev) (c : Nat) (x : QEnt) (q : List QEnt) (t cost : Nat) (bank : Option Nat) (live : Bool) : Dev :=
  (s.onCore c fun y =>
    { y with vq := q, vrun := some ⟨x, t, t + cost, x.dst, bank, false, live, vPlaces (s.core c) x⟩,
             vdone := Sparse.setAll (always 0) ((s.core c).vdone.filter fun d => decide (s.cycle c < d.2 + 6))
               ((vMakes (s.core c) x).map fun n => (n, t + cost)) }).count (engBlk c 4) 4 1

theorem Dev.vstart_taken {x : QEnt} {q : List QEnt} (h : (s.core c).vq = x :: q) (wait cost : Nat) (bank : Option Nat)
    (acts : Core → QEnt → Bool) (body : QEnt → Dev → Dev) :
    s.vstart c wait cost bank acts body = body x (s.taken c x q (s.cycle c + wait) cost bank (acts (s.core c) x)) :=
  s.vstart_of_head c wait cost bank acts body x q h

/-- The engine takes the MDRAIN at the head of its queue: the first read follows the end of the interlock by 4 cycles. -/
theorem Dev.drainStart_taken {x : QEnt} {q : List QEnt} (h : (s.core c).vq = x :: q) :
    s.drainStart c x =
      (let m := mdrainOf x.w0 x.w1
       let wait := if m.pr = true ∧ x.lat.getLastD 0 = 0 then 0 else Sparse.get (always 0) (s.core c).bdone m.bank + 4 - s.cycle c
       mdrainBody c x (s.taken c x q (s.cycle c + wait) (m.cost x.lat) (some m.bank) (m.acts (s.core c) x.lat))) := by
  unfold Dev.drainStart
  extract_lets m wait
  exact s.vstart_taken c h wait _ _ _ _

theorem escalateEffect_of_long {v : VecRun} (hv : (s.core c).vrun = some v) (hb : s.vecBusy c = true) (ht : v.start + 512 ≤ s.cycle c) :
    escalateEffect c s = s.onCore c fun y => { y with vrun := some { v with first := true } } := by
  simp [escalateEffect, hv, hb, ht]

/-! ### The commands -/

section
variable {u : State} {i : Fin 512} {d : Dev}

theorem runs_matrixInstructionStart (h : u.dev.matStart i = d) : Runs (.matrixInstructionStart i) u d :=
  State.run_eq (f := fun d => d.matStart i) h

theorem runs_vectorInstructionStart (h : u.dev.vecStart i = d) : Runs (.vectorInstructionStart i) u d :=
  State.run_eq (f := fun d => d.vecStart i) h

/-- The first tile's writes to its one bank are complete: the tile is dropped, the cycle kept (R80). -/
theorem runs_mmtWritesComplete (b : Fin 2) {r : MmtRun} {l : List MmtRun} (hm : (u.dev.core i).mmts = r :: l) (hb : r.banks = [b.val])
    (ht : r.bankLast b + 12 ≤ u.dev.cycle i) : Runs (.mmtWritesComplete i b) u (u.dev.onCore i fun y =>
      { y with mmts := l, bdone := Sparse.set (always 0) y.bdone b (r.bankLast b + 12) }) := by
  have hexec : exec (.mmtWritesComplete i b) u = u.run fun s => s.onCore i fun k =>
      { k with mmts := releaseBank (s.cycle i) b k.mmts
               bdone := match writesDone b k.mmts with
                 | some t => if t ≤ s.cycle i then Sparse.set (always 0) k.bdone b t else k.bdone
                 | none => k.bdone } := rfl
  refine hexec.trans (State.run_eq (Dev.onCore_congr _ _ ?_))
  rw [hm, writesDone_of_first l hb, releaseBank_of_last l hb ht]
  simp only [if_pos ht]

end

end Sys2Proof.Machine

open Sys2Proof Sys2Proof.Machine

/-- Settles O31: the queues start what `Dev.matStart_of_ready`, `Dev.matStart_of_rest` and the `Dev.vecStart_of_` lemmas say; the engine takes
the head of its queue (`Dev.vstart_taken`). -/
theorem matrixEngineEvents : Obligations.MatrixEngineEvents := by
  unfold Obligations.MatrixEngineEvents
  intro s c b x q r l v lo k rest
  refine ⟨fun hd hr hq hx => ?_, fun hr hq hx => runs_matrixInstructionStart (Dev.matStart_of_waiting hr hq hx),
    fun hd hr hp hx => runs_matrixInstructionStart (Dev.matStart_of_rest hd hr hp hx), fun hm hb ht => runs_mmtWritesComplete b hm hb ht, ?_,
    fun hv hb ht => State.run_eq (f := escalateEffect c) (escalateEffect_of_long _ _ hv hb ht)⟩
  · have start : ∀ d, matBody c x rest = d → Runs (.matrixInstructionStart c) s d := fun d h =>
      runs_matrixInstructionStart ((Dev.matStart_of_ready hd hr hq hx).trans h)
    exact ⟨fun hop => start _ (matBody_mwld _ _ x hop), fun hop hlive => start _ (matBody_mmt _ _ x hop hlive),
      fun hop hrem => start _ (matBody_mmt_removed _ _ x hop hrem), fun hop => start _ (matBody_mrsv _ _ x hop)⟩
  · intro hd hb hq hr hh on m first
    refine ⟨fun hop => runs_vectorInstructionStart ?_, fun h41 h68 h69 => runs_vectorInstructionStart ?_,
      fun hop => runs_vectorInstructionStart ?_⟩
    · exact (Dev.vecStart_of_drain hd hb hq hr hh hop).trans (s.dev.drainStart_taken c hq)
    · exact (Dev.vecStart_of_plain hd hb hq hr hh h41 h68 h69).trans (s.dev.vstart_taken c hq _ _ _ _ _)
    · exact (Dev.vecStart_of_memory hd hb hq hr hh hop).trans (s.dev.vstart_taken c hq _ _ _ _ _)
end

section
/-! SUPPORT. VRED, VSTAT, VTBASE and VRSV on an idle engine, and O39 (R95, R115, R116, R117, R127, R131). -/

namespace Sys2Proof.Machine

/-- With no coded line in error, and in tile-buffer form no damaged word, a body runs on its core's active elements. -/
theorem vecBody_of_readable {d b : Dev} {c : Nat} {m : Core} (h : d.Begun b c m) (hcode : (d.core c).code = []) (x : QEnt)
    (hclean : tbOf x.w0 = true → (d.core c).ls.chk = []) (f : Core → List Nat → QEnt → Dev → Dev) :
    ∃ b', d.Begun b' c m ∧ vecBody c f x b = f ((d.core c).begun m) ((d.core c).actives x.w0 x.w1) x b' := by
  cases ht : tbOf x.w0 with
  | false => exact vecBody_of_register h hcode x ht f
  | true =>
    obtain ⟨b', hb, hcheck⟩ := h.vCheck hcode x.w0 x.w1
    refine ⟨_, hb.vtally x ((d.core c).actives x.w0 x.w1), ?_⟩
    simp only [vecBody, h.lsCheck (hclean ht), hcheck, hb.core]
    rfl

/-- Device `t` is `d` with an instruction begun on core `c` that has changed the core by `f`. -/
def Dev.Changed (d t : Dev) (c : Nat) (f : Core → Core) : Prop :=
  ∃ m, t.core c = f ((d.core c).begun m) ∧ ∀ j, j ≠ c → t.core j = d.core j

section
variable {d b : Dev} {c : Nat} {m : Core}

theorem Dev.Begun.changed (h : d.Begun b c m) {f g : Core → Core} (hg : g (b.core c) = f (b.core c)) : d.Changed (b.onCore c g) c f := by
  refine ⟨m, ?_, fun j hj => ?_⟩
  · rw [Dev.core_onCore, if_pos rfl, hg, h.core]
  · rw [Dev.core_onCore, if_neg hj, h.other j hj]

theorem Dev.Changed.count {t : Dev} {f : Core → Core} (h : d.Changed t c f) (blk e k : Nat) : d.Changed (t.count blk e k) c f := by
  obtain ⟨m, hc, ho⟩ := h
  exact ⟨m, (t.count_core blk e k c).trans hc, fun j hj => (t.count_core blk e k j).trans (ho j hj)⟩

end

/-- What VRED makes of its core: the register and the status bit of an empty reduction (R115, R127). -/
def Core.reduced (w0 w1 : W64) (x : QEnt) (k y : Core) : Core :=
  let r := redValue (fld64 w0 23 3) (tyOf w0) (k.actives w0 w1) (k.vsrc x 0)
  { y.setS (vdOf w0) (BitVec.ofNat 64 (r.getD (redIdentity (fld64 w0 23 3) (tyOf w0)))) with vstat := putBits y.vstat 0 1 (b2n r.isNone) }

theorem redBody_changes {d b : Dev} {c : Nat} {m : Core} {x : QEnt} (h : d.Begun b c m) (hcode : (d.core c).code = [])
    (hclean : tbOf x.w0 = true → (d.core c).ls.chk = []) :
    d.Changed (redBody c x b) c (Core.reduced x.w0 x.w1 x (d.core c)) := by
  obtain ⟨b', hb, hbody⟩ := vecBody_of_readable h hcode x hclean fun k act x s =>
    let op := fld64 x.w0 23 3
    let r := redValue op (tyOf x.w0) act (k.vsrc x 0)
    let v := r.getD (redIdentity op (tyOf x.w0))
    (s.onCore c fun k => { k.setS (vdOf x.w0) (BitVec.ofNat 64 v) with vstat := putBits k.vstat 0 1 (b2n r.isNone) }).count
      (engBlk c 4) 7 (b2n r.isNone)
  rw [redBody, hbody]
  exact Dev.Changed.count (hb.changed rfl) _ _ _

/-- What VSTAT makes of its core (R127). -/
def Core.statusRead (w0 : W64) (y : Core) : Core :=
  { y.setS (vdOf w0) y.vstat with vstat := if fld64 w0 23 1 = 1 then y.vstat &&& 1 else y.vstat }

/-- What VTBASE makes of its core (R117). -/
def Core.baseTaken (w0 : W64) (y : Core) : Core := { y with tb := (y.sreg (scOf w0)).toNat }

/-- What VRSV makes of its core (R131). -/
def Core.reserveTaken (w0 : W64) (y : Core) : Core :=
  { y with vrsv := if (y.sreg (scOf w0)).msb then none else some (y.sreg (scOf w0)).toNat, vlive := (y.sreg (scOf w0 + 1)).setWidth 32 }

/-- A change of the scalars of a core: no vector register, predicate, byte or PC, nor what an instruction begun on it changes. -/
structure Core.ScalarOnly (f : Core → Core) : Prop where
  v     : ∀ k, (f k).v = k.v
  p     : ∀ k, (f k).p = k.p
  ls    : ∀ k, (f k).ls = k.ls
  pc    : ∀ k, (f k).pc = k.pc
  begun : ∀ k m, f (k.begun m) = (f k).begun m

theorem Core.scalarOnly_reduced (w0 w1 : W64) (x : QEnt) (k : Core) : Core.ScalarOnly (Core.reduced w0 w1 x k) :=
  ⟨fun _ => rfl, fun _ => rfl, fun _ => rfl, fun _ => rfl, fun _ _ => rfl⟩

theorem Core.scalarOnly_statusRead (w0 : W64) : Core.ScalarOnly (Core.statusRead w0) :=
  ⟨fun _ => rfl, fun _ => rfl, fun _ => rfl, fun _ => rfl, fun _ _ => rfl⟩

theorem Core.scalarOnly_baseTaken (w0 : W64) : Core.ScalarOnly (Core.baseTaken w0) :=
  ⟨fun _ => rfl, fun _ => rfl, fun _ => rfl, fun _ => rfl, fun _ _ => rfl⟩

theorem Core.scalarOnly_reserveTaken (w0 : W64) : Core.ScalarOnly (Core.reserveTaken w0) :=
  ⟨fun _ => rfl, fun _ => rfl, fun _ => rfl, fun _ => rfl, fun _ _ => rfl⟩

/-- An instruction whose body changes the scalars of its core, issued on an idle engine. -/
theorem run_vecIssue_of_changed {u : State} {d : Dev} {c op : Nat} {w0 w1 : W64} {own : Bool} {x : QEnt}
    (h : VectorRuns u.dev d c op w0 w1 own x) (legal fit : Dev → Bool) (cost : Dev → Nat) (body : QEnt → Dev → Dev) (hl : legal d = true)
    (hf : fit d = true) {f : Core → Core} (hs : Core.ScalarOnly f)
    (hbody : ∀ b m, d.Begun b c m → d.Changed (body x b) c f) :
    ∃ t m, u.run (vecIssue c op w0 w1 legal fit cost body) = .next t ∧
      t.dev.core c = { (f (d.core c)).begun m with pc := (d.core c).pc + instrLen w0 } ∧ ∀ j, j ≠ c → t.dev.core j = d.core j := by
  have hpc : ∀ b m, d.Begun b c m → ((body x b).core c).pc = (d.core c).pc := fun b m hb => by
    obtain ⟨m', hc, -⟩ := hbody b m hb
    rw [hc, hs.pc]
    rfl
  obtain ⟨b, m, t, hb, hrun, hcore, hother⟩ := run_vecIssue_of_vectorRuns h u rfl legal fit cost body hl hf hpc
  obtain ⟨m', hc, ho⟩ := hbody b m hb
  exact ⟨t, m', hrun, by rw [hcore, hc, hs.begun], fun j hj => (hother j hj).trans (ho j hj)⟩

/-- The scalars latched by an instruction that reads `n` registers from sc on. -/
theorem wordAt_vlatch (k : Core) (w0 w1 : W64) {i : Nat} (h : i < scRegs w0 w1) : wordAt (vlatch k w0 w1) i = k.sreg (scOf w0 + i) := by
  simp [wordAt, vlatch, h]

theorem scRegs_tbase {w0 : W64} (h : vop w0 = 0x67) (w1 : W64) : scRegs w0 w1 = 1 := by simp [scRegs, vdraws, vrounds, h]

theorem scRegs_rsv {w0 : W64} (h : vop w0 = 0x6F) (w1 : W64) : scRegs w0 w1 = 2 := by simp [scRegs, vdraws, vrounds, h]

end Sys2Proof.Machine

open Sys2Proof Sys2Proof.Machine

/-- Settles O39: each body changes scalars of its core alone (`redBody_changes`, `Dev.Begun.changed`), and VTBASE and VRSV find the registers
that they latched (`wordAt_vlatch`). -/
theorem vectorScalars : Obligations.VectorScalars := by
  unfold Obligations.VectorScalars
  intro s d c w0 w1 x k run r
  have settle : ∀ (i : Instr) (op : Nat) (own : Bool) (f : Core → Core) (legal fit : Dev → Bool) (cost : Dev → Nat) (body : QEnt → Dev → Dev),
      exec i s = s.run (vecIssue c op w0 w1 legal fit cost body) → (own = true → legal d = true ∧ fit d = true) → Core.ScalarOnly f →
      (∀ b m, VectorRuns s.dev d c op w0 w1 own x → (tbOf w0 = true → k.ls.chk = []) → d.Begun b c m → d.Changed (body x b) c f) →
      run i op own f := by
    intro i op own f legal fit cost body hexec hown hs hbody hruns hclean
    obtain ⟨-, -, ho, -⟩ := id hruns
    obtain ⟨hlegal, hfit⟩ := hown ho
    obtain ⟨t, m, hrun, hcore, hother⟩ := run_vecIssue_of_changed hruns legal fit cost body hlegal hfit hs
      fun b m => hbody b m hruns hclean
    refine ⟨t, hexec.trans hrun, ?_⟩
    rw [hcore]
    exact ⟨fun _ => rfl, rfl, rfl, rfl, rfl, hs.v k, hs.p k, hs.ls k, rfl, hother⟩
  refine ⟨?_, ?_, ?_, ?_⟩
  · refine settle (.vred c w0 w1) 0x64 (redLegal w0 d) (Core.reduced w0 w1 x k) (redLegal w0) vAny (vCostOf w0 w1) (redBody c) rfl
      (fun h => ⟨h, rfl⟩) (Core.scalarOnly_reduced w0 w1 x k) fun b m hruns hclean hb => ?_
    obtain ⟨-, -, -, -, -, hcode, -⟩ := id hruns
    obtain ⟨rfl, rfl⟩ := words_of_vectorRuns hruns
    exact redBody_changes hb hcode hclean
  · rintro rfl
    refine settle (.vstat c w0) 0x6B true (Core.statusRead w0) vAny vAny (vCostOf w0 0) (statBody c) rfl (fun _ => ⟨rfl, rfl⟩)
      (Core.scalarOnly_statusRead w0) fun b m hruns _ hb => hb.changed ?_
    rw [(words_of_vectorRuns hruns).1]
    rfl
  · rintro rfl
    refine settle (.vtbase c w0) 0x67 (tbaseLegal c w0 d) (Core.baseTaken w0) vAny (tbaseLegal c w0) (vCostOf w0 0) (tbaseBody c) rfl
      (fun h => ⟨rfl, h⟩) (Core.scalarOnly_baseTaken w0) fun b m hruns _ hb => hb.changed ?_
    obtain ⟨⟨-, hop, -⟩, -, -, -, -, -, -, -, rfl⟩ := hruns
    rw [wordAt_vlatch _ _ _ (by rw [scRegs_tbase hop]; decide), hb.core]
    rfl
  · rintro rfl
    refine settle (.vrsv c w0) 0x6F (rsvLegal c w0 d) (Core.reserveTaken w0) vAny (rsvLegal c w0) (vCostOf w0 0) (rsvBody c) rfl
      (fun h => ⟨rfl, h⟩) (Core.scalarOnly_reserveTaken w0) fun b m hruns _ hb => ?_
    obtain ⟨⟨-, hop, -⟩, -, -, -, -, -, -, -, rfl⟩ := hruns
    have hlat : ∀ i, i < 2 → wordAt (vlatch k w0 0) i = k.sreg (scOf w0 + i) := fun i hi => wordAt_vlatch k w0 0 (by rwa [scRegs_rsv hop])
    refine hb.changed (g := fun k' => { k' with
      vrsv := if (wordAt (vlatch k w0 0) 0).msb then none else some (wordAt (vlatch k w0 0) 0).toNat
      vlive := (wordAt (vlatch k w0 0) 1).setWidth 32 }) ?_
    rw [hlat 0 (by decide), hlat 1 (by decide), hb.core]
    rfl
end

section
/-! SUPPORT. The issue of a matrix instruction: its place in its queue, its start when it is alone and clear, what an instruction of 8 bytes
leaves (R76, R77, R95, R135). -/

namespace Sys2Proof.Machine

/-! ### Counting an issue -/

/-- What an access to memory and a change of a core leave alone, counting an issue does (R514, R521, R528). -/
theorem MemoryKeeps.countIssue {α : Type} {g : Dev → α} (h : MemoryKeeps g) (hcore : ∀ (s : Dev) c f, g (s.onCore c f) = g s) (s : Dev)
    (c k : Nat) : g (s.countIssue c k) = g s := by
  have hc : g ((s.count (coreBlk c) 3 1).count (coreBlk c) (4 + k) 1) = g s := (h.count _ _ _ _).trans (h.count _ _ _ _)
  unfold Dev.countIssue
  extract_lets counted noted n pmc issued
  have hn : g noted = g s := (hcore _ _ _).trans hc
  have hi : g issued = g s := (h.rest noted issued rfl).trans hn
  split
  · split
    · exact (h.rest _ (issued.traceWrite _ _) rfl).trans ((h.vWrite issued _ _ _ _ _).trans hi)
    · exact hi
  · exact hn

theorem memoryKeeps_commit : MemoryKeeps fun s : Dev => s.regs.commit where
  rest a b h := by rw [h]
  drain _ _ _ _ := rfl

/-- A commit under way is as it was behind the count of an issue, and so are the units that have paused for it. -/
theorem Dev.countIssue_matPaused (s : Dev) (c k j : Nat) : (s.countIssue c k).matPaused j = s.matPaused j := by
  have hcommit : (s.countIssue c k).regs.commit = s.regs.commit := memoryKeeps_commit.countIssue (fun _ _ _ => rfl) s c k
  simp only [Dev.matPaused, Dev.pausedUnit, hcommit]

theorem Dev.countIssue_coreDown (s : Dev) (c k j : Nat) : (s.countIssue c k).coreDown j = s.coreDown j := by
  simp only [Dev.coreDown, Dev.pkg_of_beside (s.countIssue_beside c k), Dev.onCore_pkg]

theorem instrLen_of_matrix {w0 : W64} (h : fld64 w0 0 8 = 0x40 ∨ fld64 w0 0 8 = 0x41 ∨ fld64 w0 0 8 = 0x42) : instrLen w0 = 16 := by
  rcases h with h | h | h <;> simp [instrLen, isWide, h]

theorem instrLen_of_mrsv {w0 : W64} (h : fld64 w0 0 8 = 0x43) : instrLen w0 = 8 := by simp [instrLen, isWide, h]

/-! ### The place in the matrix queue -/

/-- `d` with a matrix instruction counted and put at the end of the queue of core `c`, whose records it changes by `rec_`. -/
def Dev.mqueued (d : Dev) (c : Nat) (w0 w1 : W64) (lat : List W64) (rec_ : Core → Core) : Dev :=
  (d.countIssue c 1).onCore c fun y =>
    { rec_ y with mq := y.mq ++ [⟨w0, w1, lat, (d.core c).seq, (d.core c).pc, d.cycle c⟩], seq := y.seq + 1 }

theorem Dev.mqueued_core (d : Dev) (c : Nat) (w0 w1 : W64) (lat : List W64) (rec_ : Core → Core) :
    (d.mqueued c w0 w1 lat rec_).core c =
      { rec_ { d.core c with since := (d.core c).since + 1, redo := (d.core c).redo - 1 } with
        mq := (d.core c).mq ++ [⟨w0, w1, lat, (d.core c).seq, (d.core c).pc, d.cycle c⟩], seq := (d.core c).seq + 1 } := by
  simp only [Dev.mqueued, Dev.core_onCore, Dev.core_countIssue, if_true]

theorem Dev.mqueued_core_other (d : Dev) (c : Nat) (w0 w1 : W64) (lat : List W64) (rec_ : Core → Core) {j : Nat} (hj : j ≠ c) :
    (d.mqueued c w0 w1 lat rec_).core j = d.core j := by
  simp only [Dev.mqueued, Dev.core_onCore, Dev.core_countIssue, if_neg hj]

theorem Dev.mqueued_cycle (d : Dev) (c : Nat) (w0 w1 : W64) (lat : List W64) (rec_ : Core → Core) (j : Nat) :
    (d.mqueued c w0 w1 lat rec_).cycle j = d.cycle j := d.cycle_countIssue c 1 j

theorem Dev.mqueued_matPaused (d : Dev) (c : Nat) (w0 w1 : W64) (lat : List W64) (rec_ : Core → Core) (j : Nat) :
    (d.mqueued c w0 w1 lat rec_).matPaused j = d.matPaused j := d.countIssue_matPaused c 1 j

theorem Dev.mqueued_coreDown (d : Dev) (c : Nat) (w0 w1 : W64) (lat : List W64) (rec_ : Core → Core) (j : Nat) :
    (d.mqueued c w0 w1 lat rec_).coreDown j = d.coreDown j := d.countIssue_coreDown c 1 j

/-- The matrix instruction that core `c` has issued behind `d`: it has its place and, alone in the queue, has started where it may. -/
def Dev.mstarted (d : Dev) (c : Nat) (w0 w1 : W64) (lat : List W64) (rec_ : Core → Core) : Dev :=
  if (d.core c).mq = [] then (d.mqueued c w0 w1 lat rec_).matStart c else d.mqueued c w0 w1 lat rec_

section
variable {s d : Dev} {c op : Nat} {w0 : W64} (h : Fetches s d c w0 op)
include h

/-- A core that has fetched runs. -/
theorem coreDown_of_fetches : d.coreDown c = false := by
  obtain ⟨hi, -, hfetch, -⟩ := h
  rw [Dev.coreDown_of_lsCheck hfetch rfl]
  simp only [Dev.issuing, Bool.and_eq_true, Bool.not_eq_true'] at hi
  exact hi.1.2

theorem seq_of_fetches : (d.core c).seq = (s.core c).seq := by
  obtain ⟨-, -, hfetch, -⟩ := h
  rw [Dev.core_of_lsCheck hfetch]

theorem sec_of_fetches : d.sec = s.sec := by
  obtain ⟨-, -, hfetch, -⟩ := h
  exact Dev.sec_of_lsCheck hfetch

/-- A legal matrix instruction that awaits nothing takes a free place, unless its registers hold values that R79 refuses. -/
theorem matIssue_of_fetches (w1 : W64) (regs : List Nat) {legal : Dev → Bool} (fit : Dev → Bool) (rec_ : Core → Core) (hl : legal d = true)
    (hr : d.regsFree c regs = true) (hq : d.mqLen c < 4) :
    matIssue c op w0 w1 regs legal fit rec_ s =
      if fit d = true then (d.mstarted c w0 w1 (regs.map (d.core c).sreg) rec_).advance c (instrLen w0) else d.illegal c := by
  obtain ⟨hi, ho, hfetch, hpc⟩ := h
  have hput : ((d.countIssue c 1).onCore c fun k =>
      { rec_ k with mq := k.mq ++ [⟨w0, w1, regs.map k.sreg, k.seq, k.pc, (d.countIssue c 1).cycle c⟩], seq := k.seq + 1 }) =
      d.mqueued c w0 w1 (regs.map (d.core c).sreg) rec_ := by
    refine Dev.onCore_congr _ _ ?_
    rw [Dev.core_countIssue, if_pos rfl, Dev.cycle_countIssue]
    rfl
  unfold matIssue
  rw [s.issue_ok c op w0 _ _ d hi ho hfetch (Nat.le_of_lt hpc) hl]
  dsimp only
  rw [hput, hr, decide_eq_false (Nat.not_le.mpr hq)]
  cases fit d <;> simp [Dev.mstarted]

end

/-! ### The start of a queue's head keeps the place in issue order -/

section
variable (s : Dev) (c : Nat)

theorem Core.mendLine_seq (k : Core) (y : Nat) (e : Ecc) : (k.mendLine y e).seq = k.seq := by
  unfold Core.mendLine
  split
  · dsimp only
    split
    · rfl
    · split
      · rfl
      · split
        · rfl
        · split <;> rfl
  · rfl

theorem Dev.lineReact_seq (y : Nat) : ((s.lineReact c y).core c).seq = (s.core c).seq := by
  unfold Dev.lineReact
  dsimp only
  split
  · simp only [Dev.count_core, Dev.detect_core, Dev.core_onCore, if_true, Core.mendLine_seq]
    rfl
  · rw [Dev.coreFault_core]
  · rw [Dev.coreFault_core]
  · rfl

theorem Dev.lineCheck_seq (which : Nat → Bool) : ((s.lineCheck c which).1.core c).seq = (s.core c).seq :=
  foldl_keeps (fun d => (d.core c).seq) _ _ (fun d y _ => d.lineReact_seq c y) s

theorem Dev.seq_of_lsCheck {s d : Dev} {c : Nat} {ranges : List (Nat × Nat)} {ok : Bool} (h : s.lsCheck c ranges = (d, ok)) :
    (d.core c).seq = (s.core c).seq := by rw [Dev.core_of_lsCheck h]

theorem mwldBody_seq (w0 w1 : W64) : ((mwldBody c w0 w1 s).core c).seq = (s.core c).seq := by
  unfold mwldBody
  extract_lets m
  rcases hread : (s.moves c m.cycles).lsCheck c m.ranges with ⟨d, ok⟩
  have hd : (d.core c).seq = (s.core c).seq := by rw [Dev.seq_of_lsCheck hread, Dev.moves_core]
  cases ok with
  | false => exact hd
  | true =>
    dsimp only
    generalize hx : d.onCore c (fun k => k.cleanLines _) = x
    have hxs : (x.core c).seq = (s.core c).seq := by rw [← hx, Dev.core_onCore, if_pos rfl]; exact hd
    rcases hline : x.lineCheck c _ with ⟨z, ok⟩
    have hz : (z.core c).seq = (s.core c).seq := by rw [← hxs, ← x.lineCheck_seq c, hline]
    cases ok with
    | false => exact hz
    | true =>
      dsimp only
      rw [Dev.count_core, Dev.core_onCore, if_pos rfl]
      exact hz

theorem mmtFeed_seq (x : QEnt) (lo hi : Nat) (doInit : Bool) : ((mmtFeed c x lo hi doInit s).core c).seq = (s.core c).seq := by
  unfold mmtFeed
  extract_lets m
  rcases hmaps : s.lsCheck c (m.maps (s.core c)) with ⟨d, ok⟩
  have hd := Dev.seq_of_lsCheck hmaps
  cases ok with
  | false => exact hd
  | true =>
    dsimp only
    rcases hfeed : d.lsCheck c _ with ⟨e, ok⟩
    have he := (Dev.seq_of_lsCheck hfeed).trans hd
    cases ok with
    | false => exact he
    | true =>
      dsimp only
      rcases hline : e.lineCheck c _ with ⟨z, ok⟩
      have hz : (z.core c).seq = (s.core c).seq := by rw [← he, ← e.lineCheck_seq c, hline]
      cases ok with
      | false => exact hz
      | true =>
        simp only [Dev.core_onCore, if_true, Mmt.record]
        split
        · unfold Mmt.clear
          split <;> exact hz
        · exact hz

theorem tileBody_seq (x : QEnt) (lo : Nat) (doInit : Bool) : ((tileBody c x lo doInit s).core c).seq = (s.core c).seq := by
  unfold tileBody
  dsimp only
  split <;> rw [Dev.core_onCore, if_pos rfl] <;> exact mmtFeed_seq _ _ _ _ _ _

theorem Mmt.countRemoved_core (m : Mmt) (j : Nat) : (m.countRemoved c s).core j = s.core j := by
  refine foldl_keeps (fun d => d.core j) _ _ (fun d e _ => ?_) s
  split
  · rw [Dev.count_core, Dev.count_core, Dev.count_core]
  · rfl

theorem matBody_seq (x : QEnt) : ((matBody c x s).core c).seq = (s.core c).seq := by
  unfold matBody
  split
  · exact mwldBody_seq _ _ _ _
  · split
    · dsimp only
      split
      · rw [Dev.core_onCore, if_pos rfl, Mmt.countRemoved_core]
      · exact tileBody_seq _ _ _ _ _
    · dsimp only
      rw [Dev.core_onCore, if_pos rfl]

/-- Whatever starts, the next instruction's place in issue order stands. -/
theorem Dev.matStart_seq : ((s.matStart c).core c).seq = (s.core c).seq := by
  have hhead : ((Dev.matStart.headStart c s).core c).seq = (s.core c).seq := by
    unfold Dev.matStart.headStart
    split
    · rfl
    · split
      · rw [matBody_seq, Dev.core_onCore, if_pos rfl]
      · rfl
  unfold Dev.matStart
  split
  · rfl
  · split
    · split
      · exact tileBody_seq _ _ _ _ _
      · exact hhead
    · exact hhead

theorem Dev.advance_seq (n : Nat) : ((s.advance c n).core c).seq = (s.core c).seq := by
  unfold Dev.advance
  dsimp only
  split
  · exact s.illegal_seq c
  · rw [Dev.moves_core, Dev.core_onCore, if_pos rfl]

theorem Dev.mstarted_seq (d : Dev) (w0 w1 : W64) (lat : List W64) : ((d.mstarted c w0 w1 lat id).core c).seq = (d.core c).seq + 1 := by
  unfold Dev.mstarted
  split
  · rw [Dev.matStart_seq, Dev.mqueued_core]
  · rw [Dev.mqueued_core]

end

end Sys2Proof.Machine
end

section
/-! SUPPORT. MRSV on an empty queue: what an instruction of the core alone leaves (R95, R135). -/

namespace Sys2Proof.Machine

/-! ### What issuing leaves beside the cores -/

/-- All that `Dev.beside` shows but for the cores. -/
def Dev.besideCores (s : Dev) := ({ s with cores := [] } : Dev).beside

theorem Dev.besideCores_of_beside {a b : Dev} (h : a.beside = b.beside) : a.besideCores = b.besideCores := by
  simp only [Dev.beside, Prod.mk.injEq] at h
  simp only [Dev.besideCores, Dev.beside, h]

theorem Dev.countIssue_besideCores (s : Dev) (c k : Nat) : (s.countIssue c k).besideCores = s.besideCores :=
  (Dev.besideCores_of_beside (s.countIssue_beside c k)).trans rfl

theorem Dev.traceGrant_of_regs {a b : Dev} (h : a.regs = b.regs) : a.traceGrant = b.traceGrant := by
  simp only [Dev.traceGrant, Dev.on, Dev.fld, Dev.reg_of_regs h]

theorem Dev.onCore_coreless (s : Dev) (c : Nat) (f : Core → Core) : (s.onCore c f).coreless = s.coreless := rfl

theorem Dev.onCore_besideCores (s : Dev) (c : Nat) (f : Core → Core) : (s.onCore c f).besideCores = s.besideCores := rfl

theorem Dev.countIssue_coreless (s : Dev) (c k : Nat) (h : s.traceGrant = false) : (s.countIssue c k).coreless = s.coreless := by
  have hc : ((s.count (coreBlk c) 3 1).count (coreBlk c) (4 + k) 1).uncounted = s.uncounted := by simp only [Dev.count_uncounted]
  unfold Dev.countIssue
  extract_lets counted noted n pmc issued
  have hn : noted.coreless = s.coreless := (Dev.onCore_coreless _ _ _).trans (Dev.coreless_of_uncounted hc)
  have hgrant : noted.traceGrant = false := (Dev.traceGrant_of_regs (Dev.parts_of_coreless hn).1).trans h
  rw [if_neg (by simp [hgrant])]
  exact hn

/-- Moving on changes the counters of its core alone. -/
theorem Dev.moves_uncounted_eq (s : Dev) (c n : Nat) : s.moves c n = { s with pmc := (s.moves c n).pmc } := by
  unfold Dev.moves
  split <;> rfl

theorem Dev.moves_besideCores (s : Dev) (c n : Nat) : (s.moves c n).besideCores = s.besideCores := by rw [s.moves_uncounted_eq c n]; rfl

theorem Dev.moves_coreless (s : Dev) (c n : Nat) : (s.moves c n).coreless = s.coreless := by rw [s.moves_uncounted_eq c n]; rfl

/-- A device that follows `s`, made of `d` by an instruction of core `c`: of it the core is `k` behind an instruction of `n` bytes, and nothing
but cores and counters differs from the count of the issue. -/
theorem stepped_of_counted {s d u : Dev} {c n cls : Nat} {k : Core} (hsec : d.sec = s.sec)
    (hcore : u.core c = { k with pc := (d.core c).pc + n, since := (d.core c).since + 1, redo := (d.core c).redo - 1 })
    (hother : ∀ j, j ≠ c → u.core j = d.core j) (hbeside : u.besideCores = (d.countIssue c cls).besideCores)
    (hless : u.coreless = (d.countIssue c cls).coreless) : Stepped d (s.wired u) c n k := by
  have hu := hbeside.trans (d.countIssue_besideCores c cls)
  refine ⟨hcore, hother, ?_, fun hgrant => ?_⟩
  · simp only [Dev.besideCores, Dev.beside, Prod.mk.injEq] at hu
    obtain ⟨hpkg, -, hcs, hev, hchans, hbases, hque, hjob, hdisp, hupds, hcol, hfab, htim, hs, hpwr, hcar, hreal⟩ := hu
    simp only [Dev.beside, Dev.wired, hpkg, hcs, hev, hchans, hbases, hque, hjob, hdisp, hupds, hcol, hfab, htim, hs, hpwr, hcar, hreal, hsec,
      Sec.fuses_self]
  · have hd := Dev.eq_of_coreless (hless.trans (d.countIssue_coreless c cls hgrant))
    have hregs : u.regs = d.regs := by rw [hd]
    refine ⟨?_, ?_, fun o => ?_⟩
    · rw [hd]
      rfl
    · rw [← hregs]
      rfl
    · rw [Dev.wired_reg, Dev.reg_of_regs hregs]

/-! ### Alone and clear, MRSV starts at once -/

section
variable {s d : Dev} {c : Nat} {w0 w1 : W64} (h : Fetches s d c w0 0x43) (hq : (d.core c).mq = []) (hr : (d.core c).rest = none)
  (hp : d.matPaused c = false)
include h hq hr hp

/-- Setting the reserve is all that an MRSV does that finds the queue empty and nothing paused. -/
theorem mstarted_mrsv (lat : List W64) :
    d.mstarted c w0 w1 lat id = ((d.mqueued c w0 w1 lat id).onCore c fun y => { y with mq := [] }).onCore c fun y =>
      { y with mrsv := if (wordAt lat 0).msb then none else some (wordAt lat 0).toNat } := by
  have hop : vop w0 = 0x43 := h.2.1
  have hmq := d.mqueued_core c w0 w1 lat id
  rw [Dev.mstarted, if_pos hq, Dev.matStart_of_ready (q := []) ((d.mqueued_coreDown c w0 w1 lat id c).trans (coreDown_of_fetches h))
    (by rw [hmq]; exact hr) (by rw [hmq, hq]; rfl) (by simp [Dev.matReady, Dev.mqueued_matPaused, hp, hop]), matBody_mrsv _ _ _ hop]

theorem stepped_mrsv (lat : List W64) :
    Stepped d (s.wired ((d.mstarted c w0 w1 lat id).advance c 8)) c 8
      { d.core c with seq := (d.core c).seq + 1, mrsv := if (wordAt lat 0).msb then none else some (wordAt lat 0).toNat } := by
  have hlen : (d.core c).pc + 8 < lsSize := by
    obtain ⟨-, hop, -, hpc⟩ := h
    rwa [instrLen_of_mrsv hop] at hpc
  rw [mstarted_mrsv h hq hr hp, Dev.advance_ok _ _ _ (by simpa only [Dev.core_onCore, if_true, Dev.mqueued_core, id_eq] using hlen)]
  refine stepped_of_counted (cls := 1) (sec_of_fetches h) ?_ (fun j hj => ?_) ?_ ?_
  · simp only [Dev.moves_core, Dev.core_onCore, if_true, Dev.mqueued_core, id_eq, hq]
  · simp only [Dev.moves_core, Dev.core_onCore, if_neg hj, Dev.mqueued_core_other _ _ _ _ _ _ hj]
  · simp only [Dev.moves_besideCores, Dev.onCore_besideCores, Dev.mqueued]
  · simp only [Dev.moves_coreless, Dev.onCore_coreless, Dev.mqueued]

end

end Sys2Proof.Machine
end

section
/-! SUPPORT. MDRAIN on an idle engine, and O30 (R76, R77, R90 to R95, R128, R135, R173). -/

namespace Sys2Proof.Machine

/-! ### The cells of a drain -/

/-- The cells, row by row, of a drain that draws no random value. -/
def Mdrain.rowCells (m : Mdrain) (lvl : Nat) (k : Core) (lat : List W64) : List (List (Nat × Byte)) :=
  (List.range m.rows).map fun r => (m.row lvl k lat (fun _ => 0) r).cells

/-- A drain reads nothing that an instruction begun on its core changes. -/
theorem Mdrain.row_begun (m : Mdrain) (lvl : Nat) (k n : Core) (lat : List W64) (rand : Nat → Nat) (r : Nat) :
    m.row lvl (k.begun n) lat rand r = m.row lvl k lat rand r := by
  have hvalue : ∀ j, m.value lvl (k.begun n) r j = m.value lvl k r j := fun _ => rfl
  have hopen : ∀ j, m.open_ (k.begun n) j = m.open_ k j := fun _ => rfl
  simp only [Mdrain.row, hvalue, hopen]

/-- Device `t` is `d` with a drain begun on core `c`, as core `m` keeps it, that has written `cells`; it may have changed the status and the
statistics slots. -/
def Dev.Drained (d t : Dev) (c : Nat) (m : Core) (cells : List (Nat × Byte)) : Prop :=
  ∃ w sl, t.core c = { ((d.core c).begun m).stored cells with vstat := w, slots := sl } ∧ ∀ j, j ≠ c → t.core j = d.core j

section
variable {d b t : Dev} {c : Nat} {m : Core} {cells : List (Nat × Byte)}

theorem Dev.Begun.drained (h : d.Begun b c m) : d.Drained b c m [] := ⟨(d.core c).vstat, (d.core c).slots, h.core, h.other⟩

theorem Dev.Drained.lsWrite (h : d.Drained t c m cells) (hclean : (d.core c).ls.chk = []) (more : List (Nat × Byte)) :
    d.Drained (t.lsWrite c more) c m (cells ++ more) := by
  obtain ⟨w, sl, hc, ho⟩ := h
  have htc : (t.core c).ls.chk = [] := by rw [hc]; exact hclean
  rw [t.lsWrite_of_clean c more htc]
  refine ⟨w, sl, ?_, fun j hj => ?_⟩
  · rw [Dev.core_setCore, if_pos rfl, hc, ← Core.stored_stored]
    rfl
  · rw [Dev.core_setCore, if_neg hj, ho j hj]

theorem Dev.Drained.lsWrites (hclean : (d.core c).ls.chk = []) (outs : List RowOut) :
    ∀ {t : Dev} {cells : List (Nat × Byte)}, d.Drained t c m cells →
      d.Drained (outs.foldl (fun s o => if o.cells.isEmpty then s else s.lsWrite c o.cells) t) c m (cells ++ (outs.map RowOut.cells).flatten) := by
  induction outs with
  | nil => exact fun h => by simpa using h
  | cons o outs ih =>
    intro t cells h
    have hstep : d.Drained (if o.cells.isEmpty then t else t.lsWrite c o.cells) c m (cells ++ o.cells) := by
      split
      case isTrue he => rwa [List.isEmpty_iff.mp he, List.append_nil]
      case isFalse => exact h.lsWrite hclean o.cells
    simpa using ih hstep

theorem Dev.Drained.of_cores (h : d.Drained t c m cells) {u : Dev} (hu : ∀ j, u.core j = t.core j) : d.Drained u c m cells := by
  obtain ⟨w, sl, hc, ho⟩ := h
  exact ⟨w, sl, (hu c).trans hc, fun j hj => (hu j).trans (ho j hj)⟩

theorem Dev.Drained.setSlot (h : d.Drained t c m cells) (f : Core → Stat) (i : Nat) :
    d.Drained (t.onCore c fun k => k.setSlot i (f k)) c m cells := by
  obtain ⟨w, sl, hc, ho⟩ := h
  refine ⟨w, Sparse.set (always Stat.cleared) sl i (f (t.core c)), ?_, fun j hj => ?_⟩
  · rw [Dev.core_onCore, if_pos rfl, Core.setSlot, hc]
  · rw [Dev.core_onCore, if_neg hj, ho j hj]

theorem Dev.Drained.vnote (h : d.Drained t c m cells) (sats nfs : Nat) : d.Drained (t.vnote c sats nfs) c m cells := by
  obtain ⟨w, sl, hc, ho⟩ := h
  refine ⟨notedStatus w sats nfs, sl, ?_, fun j hj => ?_⟩
  · rw [Dev.vnote_core, if_pos rfl, hc]
  · rw [Dev.vnote_core, if_neg hj, ho j hj]

end

/-- A core without coded lines in error uses them as they are. -/
theorem Dev.lineCheck_of_clean (s : Dev) (c : Nat) (which : Nat → Bool) (h : (s.core c).code = []) : s.lineCheck c which = (s, true) := by
  simp [Dev.lineCheck, Core.badLines, h]

/-- On an undamaged core the drain writes its cells. -/
theorem mdrainBody_drained {d b : Dev} {c : Nat} {m : Core} (h : d.Begun b c m) (hclean : (d.core c).ls.chk = [])
    (hcode : (d.core c).code = []) (x : QEnt) {n : Mdrain} (hn : mdrainOf x.w0 x.w1 = n) (hchan : n.chan = none) (hrnd : n.rnd ≠ 2)
    (hpr : n.pr = true → x.lat.getLastD 0 ≠ 0) :
    d.Drained (mdrainBody c x b) c m (n.rowCells d.featLevel (d.core c) x.lat).flatten := by
  have hskip : ¬ (n.pr = true ∧ x.lat.getLastD 0 = 0) := fun ⟨hp, hl⟩ => hpr hp hl
  have hline := b.lineCheck_of_clean c (fun y => (List.range 4).any fun e => n.on e && accLine y e n.bank) (by rw [h.core]; exact hcode)
  unfold mdrainBody
  simp only [hn, if_neg hskip, h.lsCheck hclean, hline, hchan, if_neg hrnd, h.core, Mdrain.row_begun, Dev.featLevel_of_vecParams h.params]
  generalize houts : ((List.range n.rows).map fun r => n.row d.featLevel (d.core c) x.lat (fun _ => 0) r) = outs
  have hcells : (n.rowCells d.featLevel (d.core c) x.lat).flatten = (outs.map RowOut.cells).flatten := by
    rw [← houts, Mdrain.rowCells, List.map_map]
    rfl
  have hw := h.drained.lsWrites hclean outs
  rw [List.nil_append, ← hcells] at hw
  refine Dev.Drained.vnote (Dev.Drained.of_cores ?slotted fun j => foldl_keeps (fun d => d.core j) _ _ (fun d e _ => ?counted) _) _ _
  case slotted =>
    split
    · exact hw.setSlot _ _
    · exact hw
  case counted =>
    split
    · exact d.count_core _ _ _ j
    · rfl

/-! ### The place in the vector queue -/

/-- `d` with an MDRAIN counted and put at the end of the vector queue of core `c`. -/
def Dev.dqueued (d : Dev) (c : Nat) (w0 w1 : W64) (lat : List W64) : Dev := (d.countIssue c 1).vpush c w0 w1 lat

section
variable (d : Dev) (c : Nat) (w0 w1 : W64) (lat : List W64)

theorem Dev.dqueued_core : (d.dqueued c w0 w1 lat).core c =
    { d.core c with since := (d.core c).since + 1, redo := (d.core c).redo - 1, seq := (d.core c).seq + 1,
                    vq := (d.core c).vq ++ [⟨w0, w1, lat, (d.core c).seq, (d.core c).pc, d.cycle c⟩] } := by
  simp only [Dev.dqueued, Dev.vpush, Dev.core_onCore, Dev.core_countIssue, Dev.cycle_countIssue, if_true]

theorem Dev.dqueued_core_other {j : Nat} (hj : j ≠ c) : (d.dqueued c w0 w1 lat).core j = d.core j := by
  simp only [Dev.dqueued, Dev.vpush, Dev.core_onCore, Dev.core_countIssue, if_neg hj]

theorem Dev.dqueued_vecBusy : (d.dqueued c w0 w1 lat).vecBusy c = d.vecBusy c := by
  have hcycle : (d.dqueued c w0 w1 lat).cycle c = d.cycle c := d.cycle_countIssue c 1 c
  rw [Dev.vecBusy, Dev.vecBusy, hcycle, Dev.dqueued_core]

theorem Dev.dqueued_vecReady (x : QEnt) : (d.dqueued c w0 w1 lat).vecReady c x = d.vecReady c x := by
  simp only [Dev.vecReady, Dev.dqueued_core]

/-- The drain that starts alone finds `d` with it begun, its queue empty. -/
theorem drainStart_of_dqueued {x : QEnt} (hx : x = ⟨w0, w1, lat, (d.core c).seq, (d.core c).pc, d.cycle c⟩) (hvq : (d.core c).vq = []) :
    ∃ b m, d.Begun b c m ∧ m.vq = [] ∧ (d.dqueued c w0 w1 lat).drainStart c x = mdrainBody c x b := by
  have hq : ((d.dqueued c w0 w1 lat).core c).vq = [x] := by rw [Dev.dqueued_core, hvq, hx]; rfl
  refine ⟨_, _, Dev.Begun.of_core ?_ (fun j hj => ?_) ?_, ?_, (d.dqueued c w0 w1 lat).drainStart_taken c hq⟩
  · rw [Dev.taken, Dev.count_core, Dev.core_onCore, if_pos rfl, Dev.dqueued_core]
    rfl
  · rw [Dev.taken, Dev.count_core, Dev.core_onCore, if_neg hj, Dev.dqueued_core_other _ _ _ _ _ hj]
  · exact (memoryKeeps_vecParams.count _ _ _ _).trans (d.countIssue_vecParams c 1)
  · rw [Dev.taken, Dev.count_core, Dev.core_onCore, if_pos rfl]

end

section
variable {s d : Dev} {c : Nat} {w0 w1 : W64} (h : Fetches s d c w0 0x41) (hl : mdrainLegal (d.isBrz c) w0 w1 = true)
  (hr : d.regsFree c (mdrainRegs w0) = true)
include h hl hr

/-- A legal MDRAIN that awaits nothing enters the queue; alone in it, on an idle engine, it starts where it may. -/
theorem mdrainIssue_of_fetches (hv : (d.core c).vq.length < 8) :
    mdrainIssue c w0 w1 s =
      (let y := d.dqueued c w0 w1 ((mdrainRegs w0).map (d.core c).sreg)
       (match (y.core c).vq with
        | [x] => if !y.vecBusy c && y.vecReady c x then y.drainStart c x else y
        | _ => y).advance c 16) := by
  obtain ⟨hi, ho, hfetch, hpc⟩ := h
  unfold mdrainIssue
  rw [s.issue_ok c 0x41 w0 _ _ d hi ho hfetch (Nat.le_of_lt hpc) hl]
  dsimp only
  rw [hr, decide_eq_false (Nat.not_le.mpr hv)]
  rfl

theorem mdrainIssue_behind (hv : (d.core c).vq.length < 8) (hwait : (d.core c).vq ≠ [] ∨ d.vecBusy c = true) :
    mdrainIssue c w0 w1 s = (d.dqueued c w0 w1 ((mdrainRegs w0).map (d.core c).sreg)).advance c 16 := by
  rw [mdrainIssue_of_fetches h hl hr hv]
  dsimp only
  congr 1
  split
  case h_2 => rfl
  case h_1 x hx =>
    rw [Dev.dqueued_core] at hx
    rcases hwait with hq | hb
    · exact absurd (congrArg List.length hx) (by simpa using hq)
    · rw [Dev.dqueued_vecBusy, hb]
      rfl

theorem mdrainIssue_alone (hvq : (d.core c).vq = []) (hb : d.vecBusy c = false) :
    mdrainIssue c w0 w1 s =
      (let lat := (mdrainRegs w0).map (d.core c).sreg
       let x : QEnt := ⟨w0, w1, lat, (d.core c).seq, (d.core c).pc, d.cycle c⟩
       let y := d.dqueued c w0 w1 lat
       (if y.vecReady c x then y.drainStart c x else y).advance c 16) := by
  rw [mdrainIssue_of_fetches h hl hr (by rw [hvq]; decide)]
  simp only [Dev.dqueued_core, hvq, List.nil_append, Dev.dqueued_vecBusy, hb, Bool.not_false, Bool.true_and]

end

/-! ### What a drain leaves -/

section
variable {s d : Dev} {c : Nat} {w0 w1 : W64} {x : QEnt} (h : Fetches s d c w0 0x41) (hl : mdrainLegal (d.isBrz c) w0 w1 = true)
  (hr : d.regsFree c (mdrainRegs w0) = true) (hvq : (d.core c).vq = []) (hb : d.vecBusy c = false)
  (hx : x = ⟨w0, w1, (mdrainRegs w0).map (d.core c).sreg, (d.core c).seq, (d.core c).pc, d.cycle c⟩) (hready : d.vecReady c x = true)
include h hl hr hvq hb hx hready

/-- MDRAIN on an idle engine, its interlock clear: an undamaged core is as its cells leave it, the PC behind the instruction. -/
theorem mdrainIssue_drained (hclean : (d.core c).ls.chk = []) (hcode : (d.core c).code = []) {n : Mdrain} (hn : mdrainOf w0 w1 = n)
    (hchan : n.chan = none) (hrnd : n.rnd ≠ 2) (hpr : n.pr = true → x.lat.getLastD 0 ≠ 0) :
    ∃ t m, m.vq = [] ∧ d.Drained t c m (n.rowCells d.featLevel (d.core c) x.lat).flatten ∧
      ((mdrainIssue c w0 w1 s).core c) = { t.core c with pc := (d.core c).pc + 16 } ∧
      ∀ j, j ≠ c → (mdrainIssue c w0 w1 s).core j = d.core j := by
  obtain ⟨b, m, hbegun, hm, hstart⟩ := drainStart_of_dqueued d c w0 w1 _ hx hvq
  have hw : mdrainOf x.w0 x.w1 = n := by rw [hx]; exact hn
  have hdrain := mdrainBody_drained hbegun hclean hcode x hw hchan hrnd hpr
  have hissue := mdrainIssue_alone h hl hr hvq hb
  obtain ⟨-, hop, -, hpc⟩ := h
  rw [instrLen_of_matrix (.inr (.inl hop))] at hpc
  obtain ⟨w, sl, hcore, hother⟩ := id hdrain
  have hpc' : ((mdrainBody c x b).core c).pc = (d.core c).pc := by rw [hcore]; rfl
  dsimp only at hissue
  rw [← hx, Dev.dqueued_vecReady, if_pos hready, hstart, Dev.advance_ok _ _ _ (by rw [hpc']; exact hpc), hpc'] at hissue
  refine ⟨_, m, hm, hdrain, ?_, fun j hj => ?_⟩
  · rw [hissue, Dev.moves_core, Dev.core_onCore, if_pos rfl]
  · rw [hissue, Dev.moves_core, Dev.core_onCore, if_neg hj, hother j hj]

end

end Sys2Proof.Machine

open Sys2Proof Sys2Proof.Machine

/-- Settles O30: the first three take their place by `matIssue_of_fetches`, MRSV alone leaves what `stepped_mrsv` says (that a reserve which
does not fit stops the segment is the model's choice, log entry 113), MDRAIN enters by `mdrainIssue_behind` or `mdrainIssue_alone` and writes
its cells (`mdrainIssue_drained`). -/
theorem matrixInstructionsEnterTheirQueues : Obligations.MatrixInstructionsEnterTheirQueues := by
  unfold Obligations.MatrixInstructionsEnterTheirQueues
  intro s d c w0 w1 k ent put go m
  refine ⟨fun h hl hq => ?mwld, fun h hl hr hq => ?mmt, fun h hl hr hq => ?mrsv, fun h hl hr hv hwait => ?behind,
    fun h hl hr hvq hb => ?alone⟩
  case mwld =>
    have hissue := matIssue_of_fetches h w1 [] (legal := fun _ => mwldLegal w0 w1) (fun _ => true)
      (fun y => { y with wrec := Sparse.set (always 0) y.wrec m.key (2 * m.fmt + b2n m.sp) }) hl rfl hq
    rw [if_pos rfl, instrLen_of_matrix (.inr (.inr h.2.1))] at hissue
    exact State.run_eq hissue
  case mmt =>
    have hissue := matIssue_of_fetches h w1 (mmtRegs w1) (legal := fun s => mmtLegal (s.core c) w0 w1) (fun _ => true) id hl hr hq
    rw [if_pos rfl, instrLen_of_matrix (.inl h.2.1)] at hissue
    refine (exec_mmt_of_issue s c w0 w1 _ hissue).trans ?_
    rw [if_neg (by rw [Dev.advance_seq, Dev.mstarted_seq, seq_of_fetches h]; omega)]
    rfl
  case mrsv =>
    have hissue := matIssue_of_fetches h 0 [fld64 w0 8 5] (legal := fun _ => onlyBits w0 0x1FFF) (mrsvFits c w0) id hl hr hq
    rw [instrLen_of_mrsv h.2.1] at hissue
    refine ⟨fun hf hw => ?_, ?_, fun hf => ?_⟩
    · subst hw
      rw [if_pos hf] at hissue
      exact State.run_eq hissue
    · intro hf hmq hrest hp base
      rw [if_pos hf] at hissue
      exact ⟨_, State.run_eq hissue, stepped_mrsv h hmq hrest hp _⟩
    · rw [if_neg (Bool.not_eq_true _ ▸ hf)] at hissue
      exact State.run_eq hissue
  case behind => exact State.run_eq (mdrainIssue_behind h hl hr hv hwait)
  case alone =>
    intro x y n
    refine ⟨State.run_eq (mdrainIssue_alone h hl hr hvq hb), ?_⟩
    intro hready hclean hcode hchan hrnd hpr cells hnodup
    obtain ⟨t, w, hw, ⟨st, sl, hcore, -⟩, hissue, hother⟩ := mdrainIssue_drained h hl hr hvq hb rfl hready hclean hcode rfl hchan hrnd hpr
    refine ⟨_, State.run_eq (f := mdrainIssue c w0 w1) rfl, ?_⟩
    simp only [Dev.wired_core, hissue, hcore]
    refine ⟨rfl, hw, fun z hz => ?_, fun a _ ha => ?_, rfl, rfl, rfl, hother⟩
    · exact Core.lsByte_stored_of_mem k cells.flatten z.1 z.2 hz fun y hy hyz => congrArg Prod.snd (List.inj_on_of_nodup_map hnodup hy hz hyz)
    · exact Core.lsByte_stored_of_not_mem k cells.flatten a fun y hy hya => ha (List.mem_map.mpr ⟨y, hy, hya⟩)
end

section
/-! SUPPORT. What a weight load puts into its buffer, and O32 (R71, R74, R76, R79, R89, R135). -/

namespace Sys2Proof.Machine

/-! ### The bytes of a lane -/

theorem Core.lsBytes_length (k : Core) (a n : Nat) : (k.lsBytes a n).length = n := by simp [Core.lsBytes]

theorem Core.skewBytes_length (k : Core) (b r ch n : Nat) : (k.skewBytes b r ch n).length = n := by simp [Core.skewBytes]

/-- Bytes that a load puts into each lane. -/
def Mwld.laneSize (m : Mwld) : Nat :=
  (if m.col then m.depth * colBytes m.fmt else m.bytes) + (if isMx m.fmt then m.depth / 32 else 0) + (if m.sp then 4 * m.kc else 0)

theorem Mwld.lane_length (m : Mwld) (k : Core) (i : Nat) : (m.lane k i).length = m.laneSize := by
  have hels : (if m.col then (List.range m.depth).flatMap fun r => k.skewBytes m.base r (16 * m.wcol + i * colBytes m.fmt) (colBytes m.fmt)
      else k.skewBytes m.base i 0 m.bytes).length = if m.col then m.depth * colBytes m.fmt else m.bytes := by
    split <;> simp [Core.skewBytes_length, List.length_flatMap]
  rw [Mwld.lane, Mwld.laneSize, List.length_append, List.length_append, hels, apply_ite List.length, apply_ite List.length,
    Core.lsBytes_length, Core.lsBytes_length]
  rfl

theorem isMx_iff (f : Nat) : isMx f = true ↔ f = 2 ∨ f = 3 ∨ f = 6 ∨ f = 7 ∨ f = 8 := by simp [isMx, or_assoc]

theorem sp24Ok_iff (f : Nat) : sp24Ok f = true ↔ f = 0 ∨ f = 1 ∨ f = 4 ∨ f = 5 ∨ f = 9 := by simp [sp24Ok, or_assoc]

/-- The formats that a matrix engine takes are of an MX type or may be in 2:4 mode. -/
theorem sp24Ok_of_mclass {f : Nat} (h : mclass f < 4) (hx : isMx f = false) : sp24Ok f = true := by
  rw [sp24Ok_iff]
  rw [Bool.eq_false_iff, Ne, isMx_iff] at hx
  unfold mclass at h
  split at h <;> omega

/-- A lane of MX elements with their scale codes (R64). -/
theorem mxSize_le {f kc : Nat} (hx : isMx f = true) (hk : kc ≤ chunkMax f false) :
    kc * chunkBytes f false + kc * chunkDepth (mclass f) false / 32 ≤ 256 := by
  rcases (isMx_iff f).mp hx with rfl | rfl | rfl | rfl | rfl <;> simp [chunkMax, chunkBytes, chunkDepth, mclass] at hk ⊢ <;> omega

/-- A chunk of elements that are not MX has 16 bytes a lane, in either orientation, and at most 16 chunks are loaded (R64). -/
theorem plainSize {f : Nat} (hs : sp24Ok f = true) :
    chunkBytes f false = 16 ∧ chunkDepth (mclass f) false * colBytes f = 16 ∧ chunkMax f false = 16 := by
  rcases (sp24Ok_iff f).mp hs with rfl | rfl | rfl | rfl | rfl <;> decide

/-- A legal load fits in the 256 bytes of a lane (R64, R71). -/
theorem Mwld.laneSize_le {w0 w1 : W64} (h : mwldLegal w0 w1 = true) : (mwldOf w0 w1).laneSize ≤ 256 := by
  unfold mwldLegal at h
  generalize mwldOf w0 w1 = m at h
  simp only [Bool.and_eq_true, decide_eq_true_eq, and_assoc] at h
  obtain ⟨-, -, hclass, hkc, -, hsparse, -, hcol, -⟩ := h
  cases hsp : m.sp with
  | true =>
    simp only [hsp, Bool.not_true, Bool.false_or, Bool.and_eq_true, Bool.not_eq_true'] at hsparse
    obtain ⟨hs, hc⟩ := hsparse
    have hx : isMx m.fmt = false := by rcases (sp24Ok_iff _).mp hs with h | h | h | h | h <;> rw [h] <;> rfl
    have hk : m.kc ≤ 8 := by simpa [chunkMax, hsp] using hkc
    simp only [Mwld.laneSize, Mwld.bytes, hc, hx, hsp, Bool.false_eq_true, if_false, if_true]
    omega
  | false =>
    rw [hsp] at hkc
    cases hx : isMx m.fmt with
    | true =>
      have hc : m.col = false := by simpa [hx] using hcol
      simpa [Mwld.laneSize, Mwld.bytes, Mwld.depth, hc, hx, hsp] using mxSize_le hx hkc
    | false =>
      obtain ⟨hb, hd, hmax⟩ := plainSize (sp24Ok_of_mclass hclass hx)
      rw [hmax] at hkc
      simp only [Mwld.laneSize, Mwld.bytes, Mwld.depth, hx, hsp, hb, Nat.mul_assoc, hd, Bool.false_eq_true, if_false, ite_self]
      omega

/-! ### The buffer -/

/-- The gate bit that a load gives lane `i`. -/
def Mwld.gateBit (m : Mwld) (k : Core) (i : Nat) : Bool :=
  match m.gate with
  | some g => bit (k.lsByte (g + i / 8)).toNat (i % 8)
  | none => true

/-- The buffer cells of a load. -/
def Mwld.cells (m : Mwld) (k : Core) : List (Nat × Byte) := (List.range 128).flatMap fun i => cellsAt ((m.key * 128 + i) * 256) (m.lane k i)

/-- The gate bits of a load. -/
def Mwld.gates (m : Mwld) (k : Core) : List (Nat × Bool) := (List.range 128).map fun i => (m.key * 128 + i, m.gateBit k i)

section
variable (m : Mwld) (k : Core)

theorem Mwld.mem_cells (hsize : m.laneSize ≤ 256) {key i j : Nat} (hi : i < 128) (hj : j < 256) (v : Byte) :
    ((key * 128 + i) * 256 + j, v) ∈ m.cells k ↔ key = m.key ∧ (m.lane k i)[j]? = some v := by
  simp only [Mwld.cells, List.mem_flatMap, List.mem_range, mem_cellsAt]
  constructor
  · rintro ⟨l, hl, hle, hv⟩
    have hlt := (List.getElem?_eq_some_iff.mp hv).1
    rw [Mwld.lane_length] at hlt
    obtain ⟨rfl, rfl⟩ : key = m.key ∧ l = i := by omega
    exact ⟨rfl, by rwa [Nat.add_sub_cancel_left] at hv⟩
  · rintro ⟨rfl, hv⟩
    exact ⟨i, hi, by omega, by rwa [Nat.add_sub_cancel_left]⟩

/-- A byte of the buffers behind a load: the load's own, in its buffer; as before elsewhere. -/
theorem Mwld.get_cells (hsize : m.laneSize ≤ 256) {key i j : Nat} (hi : i < 128) (hj : j < 256) (wb : Sparse Byte) :
    Sparse.get (always (0 : Byte)) (Sparse.setAll (always 0) wb (m.cells k)) ((key * 128 + i) * 256 + j) =
      if key = m.key ∧ j < (m.lane k i).length then (m.lane k i).getD j 0 else Sparse.get (always 0) wb ((key * 128 + i) * 256 + j) := by
  split
  case isTrue h =>
    obtain ⟨hkey, hlen⟩ := h
    have hmem := fun v => m.mem_cells k hsize (key := key) hi hj v
    have hval : (m.lane k i)[j]? = some ((m.lane k i).getD j 0) := by simp [hlen]
    refine Sparse.get_setAll_of_mem _ _ _ _ ⟨_, (hmem _).mpr ⟨hkey, hval⟩, rfl⟩ ?_ wb
    rintro ⟨a, v⟩ hy rfl
    exact Option.some.inj (((hmem v).mp hy).2.symm.trans hval)
  case isFalse h =>
    refine Sparse.get_setAll_of_not_mem _ _ _ ?_ wb
    rintro ⟨a, v⟩ hy rfl
    obtain ⟨hkey, hv⟩ := (m.mem_cells k hsize hi hj v).mp hy
    exact h ⟨hkey, (List.getElem?_eq_some_iff.mp hv).1⟩

theorem Mwld.get_gates {key i : Nat} (hi : i < 128) (gate : Sparse Bool) :
    Sparse.get (always false) (Sparse.setAll (always false) gate (m.gates k)) (key * 128 + i) =
      if key = m.key then m.gateBit k i else Sparse.get (always false) gate (key * 128 + i) := by
  have hmem : ∀ v, (key * 128 + i, v) ∈ m.gates k ↔ key = m.key ∧ v = m.gateBit k i := fun v => by
    simp only [Mwld.gates, List.mem_map, List.mem_range, Prod.mk.injEq]
    constructor
    · rintro ⟨l, hl, hkey, rfl⟩
      obtain ⟨rfl, rfl⟩ : key = m.key ∧ l = i := by omega
      exact ⟨rfl, rfl⟩
    · rintro ⟨rfl, rfl⟩
      exact ⟨i, hi, rfl, rfl⟩
  split
  case isTrue h =>
    refine Sparse.get_setAll_of_mem _ _ _ _ ⟨_, (hmem _).mpr ⟨h, rfl⟩, rfl⟩ ?_ gate
    rintro ⟨a, v⟩ hy rfl
    exact ((hmem v).mp hy).2
  case isFalse h =>
    refine Sparse.get_setAll_of_not_mem _ _ _ ?_ gate
    rintro ⟨a, v⟩ hy rfl
    exact h ((hmem v).mp hy).1

end

/-- Core `k` with the load `m` of words `w0` and `w1` in its buffer, complete at cycle `t`. -/
def Mwld.loaded (m : Mwld) (w0 w1 : W64) (t : Nat) (k : Core) : Core :=
  { k with wb := Sparse.setAll (always 0) k.wb (m.cells k), gate := Sparse.setAll (always false) k.gate (m.gates k),
           wword := Sparse.set (always (0, 0)) k.wword m.key (w0, w1), wend := Sparse.set (always 0) k.wend m.key t, mwend := t }

theorem Core.cleanLines_of_clean (k : Core) (which : Nat → Bool) (h : k.code = []) : k.cleanLines which = k := by
  rw [Core.cleanLines, h, List.filter_nil, ← h]

/-- A load whose ranges are readable, of a core without a damaged coded line. -/
theorem mwldBody_of_readable {s d : Dev} {c : Nat} {w0 w1 : W64} {m : Mwld} (hm : mwldOf w0 w1 = m)
    (hread : (s.moves c m.cycles).lsCheck c m.ranges = (d, true)) (hcode : (d.core c).code = []) :
    ∃ t, (mwldBody c w0 w1 s).core c = m.loaded w0 w1 t (d.core c) ∧ ∀ j, j ≠ c → (mwldBody c w0 w1 s).core j = d.core j := by
  have hclean : ∀ which, (d.onCore c fun k => k.cleanLines which).core c = d.core c := fun which => by
    rw [Dev.core_onCore, if_pos rfl, Core.cleanLines_of_clean _ _ hcode]
  have hline := fun which all => (d.onCore c fun k => k.cleanLines which).lineCheck_of_clean c all (by rw [hclean]; exact hcode)
  obtain ⟨which, t, hbody⟩ : ∃ which t, mwldBody c w0 w1 s =
      ((d.onCore c fun k => k.cleanLines which).onCore c (m.loaded w0 w1 t)).count (engBlk c m.eng) 8 m.cycles := by
    simp only [mwldBody, hm, hread, hline]
    exact ⟨_, _, rfl⟩
  refine ⟨t, ?_, fun j hj => ?_⟩
  · rw [hbody, Dev.count_core, Dev.core_onCore, if_pos rfl, hclean]
  · rw [hbody, Dev.count_core, Dev.core_onCore, if_neg hj, Dev.core_onCore, if_neg hj]

/-! ### A matrix instruction alone in its queue -/

section
variable {d : Dev} {c : Nat} {w0 w1 : W64} {lat : List W64} {rec_ : Core → Core} {x : QEnt}

/-- Only the record of the loaded formats is changed by an issue. -/
def RecordsFormats (rec_ : Core → Core) : Prop := ∀ k, rec_ k = { k with wrec := (rec_ k).wrec }

/-- The place in the queue is no interlock. -/
theorem Dev.mqueued_matReady (hrec : RecordsFormats rec_) : (d.mqueued c w0 w1 lat rec_).matReady c x = d.matReady c x := by
  have hcore := d.mqueued_core c w0 w1 lat rec_
  rw [hrec] at hcore
  simp only [Dev.matReady, Dev.tileReady, Dev.drainAhead, Dev.mqueued_cycle, Dev.mqueued_matPaused, hcore]

/-- The device as the body of a matrix instruction finds it that has just been issued alone: its queue is empty. -/
def Dev.mtaken (d : Dev) (c : Nat) (w0 w1 : W64) (lat : List W64) (rec_ : Core → Core) : Dev :=
  (d.mqueued c w0 w1 lat rec_).onCore c fun y => { y with mq := [] }

theorem Dev.mtaken_core : (d.mtaken c w0 w1 lat rec_).core c =
    { rec_ { d.core c with since := (d.core c).since + 1, redo := (d.core c).redo - 1 } with mq := [], seq := (d.core c).seq + 1 } := by
  rw [Dev.mtaken, Dev.core_onCore, if_pos rfl, Dev.mqueued_core]

theorem Dev.mtaken_core_other {j : Nat} (hj : j ≠ c) : (d.mtaken c w0 w1 lat rec_).core j = d.core j := by
  rw [Dev.mtaken, Dev.core_onCore, if_neg hj, Dev.mqueued_core_other _ _ _ _ _ _ hj]

/-- Alone and clear, the instruction starts as it is issued. -/
theorem Dev.mstarted_of_ready (hd : d.coreDown c = false) (hq : (d.core c).mq = []) (hr : (d.core c).rest = none)
    (hrec : RecordsFormats rec_) (hx : x = ⟨w0, w1, lat, (d.core c).seq, (d.core c).pc, d.cycle c⟩) (hready : d.matReady c x = true) :
    d.mstarted c w0 w1 lat rec_ = matBody c x (d.mtaken c w0 w1 lat rec_) := by
  have hcore := d.mqueued_core c w0 w1 lat rec_
  rw [hrec] at hcore
  rw [Dev.mstarted, if_pos hq, Dev.matStart_of_ready (x := x) (q := [])]
  · rfl
  · rw [Dev.mqueued_coreDown]
    exact hd
  · rw [hcore]
    exact hr
  · rw [hcore, hq, hx]
    rfl
  · rw [Dev.mqueued_matReady hrec]
    exact hready

/-- Behind it the PC is 16 bytes on. -/
theorem Dev.advance_core {s : Dev} {n : Nat} (h : (s.core c).pc + n < lsSize) :
    (s.advance c n).core c = { s.core c with pc := (s.core c).pc + n } ∧ ∀ j, j ≠ c → (s.advance c n).core j = s.core j := by
  refine ⟨?_, fun j hj => ?_⟩
  · rw [Dev.advance_ok _ _ _ h, Dev.moves_core, Dev.core_onCore, if_pos rfl]
  · rw [Dev.advance_ok _ _ _ h, Dev.moves_core, Dev.core_onCore, if_neg hj]

end

/-- The record that MWLD makes of the format and the mode of a buffer. -/
def Mwld.recorded (m : Mwld) (y : Core) : Core := { y with wrec := Sparse.set (always 0) y.wrec m.key (2 * m.fmt + b2n m.sp) }

theorem Mwld.recordsFormats_recorded (m : Mwld) : RecordsFormats m.recorded := fun _ => rfl

/-- What a load leaves in the buffers, read by buffer, lane and byte. -/
theorem Mwld.loaded_reads {m : Mwld} (hsize : m.laneSize ≤ 256) {w0 w1 : W64} {t : Nat} (k : Core) :
    (∀ key i j, i < 128 → j < 256 → Sparse.get (always (0 : Byte)) (m.loaded w0 w1 t k).wb ((key * 128 + i) * 256 + j) =
      if key = m.key ∧ j < (m.lane k i).length then (m.lane k i).getD j 0
      else Sparse.get (always 0) k.wb ((key * 128 + i) * 256 + j)) ∧
    (∀ key i, i < 128 → (m.loaded w0 w1 t k).gateOf key i = if key = m.key then m.gateBit k i else k.gateOf key i) ∧
    (m.loaded w0 w1 t k).acc = k.acc :=
  ⟨fun _ _ _ hi hj => m.get_cells k hsize hi hj k.wb, fun _ _ hi => m.get_gates k hi k.gate, rfl⟩

end Sys2Proof.Machine

open Sys2Proof Sys2Proof.Machine

/-- Settles O32: both times the load's body runs on readable ranges (`mwldBody_of_readable`), and what it leaves is read back by buffer, lane
and byte (`Mwld.loaded_reads`). -/
theorem weightLoadFillsItsBuffer : Obligations.WeightLoadFillsItsBuffer := by
  unfold Obligations.WeightLoadFillsItsBuffer
  intro s d c x q m k loaded hop hlegal
  have hsize : m.laneSize ≤ 256 := Mwld.laneSize_le hlegal
  refine ⟨fun hd hr hq hready hcode hread => ?start, fun h hq hr hlen hcode hclean hx hready => ?issue⟩
  case start =>
    have hdc := Dev.core_of_lsCheck hread
    rw [Dev.moves_core, Dev.core_onCore, if_pos rfl] at hdc
    have hdo : ∀ j, j ≠ c.val → d.core j = s.dev.core j := fun j hj => by
      rw [Dev.core_of_lsCheck_other hread hj, Dev.moves_core, Dev.core_onCore, if_neg hj]
    obtain ⟨t, hcore, hother⟩ := mwldBody_of_readable rfl hread (by rw [hdc]; exact hcode)
    refine ⟨_, runs_matrixInstructionStart ((Dev.matStart_of_ready hd hr hq hready).trans (matBody_mwld _ _ x hop)), ?_⟩
    simp only [Dev.wired_core, hcore]
    exact ⟨Mwld.loaded_reads hsize k, congrArg Core.mq hdc, fun j hj => (hother j hj).trans (hdo j hj)⟩
  case issue =>
    have hissue := matIssue_of_fetches h x.w1 [] (legal := fun _ => mwldLegal x.w0 x.w1) (fun _ => true) m.recorded hlegal rfl hlen
    rw [if_pos rfl, List.map_nil, Dev.mstarted_of_ready (coreDown_of_fetches h) hq hr m.recordsFormats_recorded hx hready,
      matBody_mwld _ _ x hop] at hissue
    obtain ⟨-, -, -, hpc⟩ := h
    set b := d.mtaken c x.w0 x.w1 [] m.recorded with hb
    have hbc : b.core c = { m.recorded { k with since := k.since + 1, redo := k.redo - 1 } with mq := [], seq := k.seq + 1 } := Dev.mtaken_core
    have hread : (b.moves c m.cycles).lsCheck c m.ranges = (b.moves c m.cycles, true) :=
      Dev.lsCheck_clean _ _ _ (by rw [Dev.moves_core, hbc]; exact hclean)
    obtain ⟨t, hcore, hother⟩ := mwldBody_of_readable rfl hread (by rw [Dev.moves_core, hbc]; exact hcode)
    rw [Dev.moves_core, hbc] at hcore
    obtain ⟨hac, hao⟩ := Dev.advance_core (c := c) (n := instrLen x.w0) (s := mwldBody c x.w0 x.w1 b) (by rw [hcore]; exact hpc)
    refine ⟨_, State.run_eq hissue, ?_⟩
    simp only [Dev.wired_core, hac, hcore]
    refine ⟨Mwld.loaded_reads hsize (w0 := x.w0) (w1 := x.w1) (t := t) _, rfl, ?_, fun y => ?_, rfl, rfl, rfl, fun j hj => ?_⟩
    · rw [instrLen_of_matrix (.inr (.inr hop))]
      rfl
    · exact Sparse.get_set _ _ _ _ _
    · rw [hao j hj, hother j hj, Dev.moves_core, hb, Dev.mtaken_core_other hj]
end

section
/-! SUPPORT. What a tile makes of the accumulators, and O33 (R66, R69, R77, R79 to R81, R84, R87, R135). -/

namespace Sys2Proof.Machine

/-! ### An accumulator has 32 bits -/

theorem fp32_signBits_le (neg : Bool) : fp32.signBits neg ≤ 2 ^ 31 := by cases neg <;> decide

/-- A rounded value that does not overflow has an exponent field of 8 bits. -/
theorem fp32_exponent_le {mode r m : Nat} {e : Int} (hm : m ≠ 0) (h : fp32.overflows mode r m e = false) :
    let u := fp32.grid m e
    let k := roundAt mode r m e u
    let k' := if k = 2 ^ (fp32.mw + 1) then k / 2 else k
    let u' := if k = 2 ^ (fp32.mw + 1) then u + 1 else u
    (if k' < 2 ^ fp32.mw then 0 else (u' + fp32.mw + fp32.bias).toNat) ≤ 255 := by
  intro u k k' u'
  have hmax : fp32.maxMag = (2 ^ 24 - 1, 104) := by decide
  have hmw : fp32.mw = 23 := rfl
  have hbias : fp32.bias = 127 := rfl
  have hmag : ¬ (104 ≤ u ∧ 2 ^ 24 - 1 < k * 2 ^ (u - 104).toNat) := by
    rw [Fmt.overflows, if_neg hm, hmax] at h
    exact of_decide_eq_false h
  split
  case isTrue => omega
  case isFalse hk =>
    by_cases hu : u ≤ 104
    · have hu' : u' ≤ u + 1 := by simp only [u']; split <;> omega
      rw [hmw, hbias]
      omega
    · have hpow : 2 ^ 1 ≤ 2 ^ (u - 104).toNat := Nat.pow_le_pow_right (by decide) (by omega)
      have htwice : k * 2 ^ 1 ≤ k * 2 ^ (u - 104).toNat := Nat.mul_le_mul_left k hpow
      have hk' : k' = k := if_neg (by rw [hmw]; omega)
      rw [hmw] at hk
      omega

theorem rne32_lt (x : XVal) : rne32 x < 2 ^ 32 := by
  unfold rne32
  match x with
  | .nan => decide
  | .inf neg => cases neg <;> decide
  | .fin neg m e =>
    have hsign := fp32_signBits_le neg
    unfold Fmt.encode
    dsimp only
    split
    · omega
    · next hm =>
      split
      · cases neg <;> decide
      · next hover =>
        have hexp := fp32_exponent_le hm (Bool.not_eq_true _ ▸ hover)
        have hmant : ∀ k, k % 2 ^ fp32.mw < 2 ^ 23 := fun k => Nat.mod_lt k (by decide)
        calc _ ≤ 2 ^ 31 + 255 * 2 ^ 23 + (2 ^ 23 - 1) :=
              Nat.add_le_add (Nat.add_le_add hsign (Nat.mul_le_mul_right _ hexp)) (Nat.le_pred_of_lt (hmant _))
          _ < 2 ^ 32 := by decide

section
variable (m : Mmt) (lat : List W64) (k : Core)

theorem Mmt.addChunk_lt (acc : Nat) (as : List Nat) (ca cw : Nat) (ps : List (Nat × Nat)) : m.addChunk acc as ca cw ps < 2 ^ 32 := by
  unfold Mmt.addChunk
  split
  · exact wrap_lt 32 _
  · exact rne32_lt _

theorem Mmt.laneRow_lt (fed : List (Nat × List Nat × Nat)) (e i : Nat) {acc : Nat} (h : acc < 2 ^ 32) : m.laneRow lat k fed e i acc < 2 ^ 32 := by
  unfold Mmt.laneRow
  dsimp only
  split
  · exact h
  · refine List.foldlRecOn (motive := (· < 2 ^ 32)) fed _ h fun acc hacc c _ => ?_
    split
    · exact hacc
    · exact m.addChunk_lt _ _ _ _ _

/-! ### The rows of a tile -/

/-- What row `r` of the tile makes of the accumulators, of the values that they have in `k`. -/
def Mmt.addRow (acc : Sparse W32) (r : Nat) : Sparse W32 :=
  Sparse.setAll (always 0) acc ((m.engines lat).flatMap fun e => (List.range 128).map fun i =>
    ((e * 128 + i) * 128 + (64 * m.half + r), BitVec.ofNat 32 (m.laneRow lat k (m.fedRow lat k r) e i (k.accOf e i (64 * m.half + r)))))

theorem Mmt.addRows_eq_foldl (rows : List Nat) : m.addRows lat k rows = rows.foldl (m.addRow lat k) k.acc := rfl

/-- What row `a - 64 * half` of the tile makes of accumulator `a` of lane (e, i). -/
def Mmt.sum (e i a : Nat) : W32 := BitVec.ofNat 32 (m.laneRow lat k (m.fedRow lat k (a - 64 * m.half)) e i (k.accOf e i a))

variable {e i a : Nat} (hi : i < 128) (ha : a < 128)
include hi ha

theorem Mmt.get_addRow {r : Nat} (hr : 64 * m.half + r < 128) (acc : Sparse W32) :
    Sparse.get (always 0) (m.addRow lat k acc r) ((e * 128 + i) * 128 + a) =
      if e ∈ m.engines lat ∧ 64 * m.half + r = a then m.sum lat k e i a else Sparse.get (always 0) acc ((e * 128 + i) * 128 + a) := by
  have hmem : ∀ v, ((e * 128 + i) * 128 + a, v) ∈ ((m.engines lat).flatMap fun e => (List.range 128).map fun i =>
      ((e * 128 + i) * 128 + (64 * m.half + r),
        BitVec.ofNat 32 (m.laneRow lat k (m.fedRow lat k r) e i (k.accOf e i (64 * m.half + r))))) ↔
      (e ∈ m.engines lat ∧ 64 * m.half + r = a) ∧ v = m.sum lat k e i a := fun v => by
    simp only [List.mem_flatMap, List.mem_map, List.mem_range, Prod.mk.injEq]
    constructor
    · rintro ⟨e', he, i', hi', hkey, rfl⟩
      obtain ⟨rfl, rfl, rfl⟩ : e' = e ∧ i' = i ∧ 64 * m.half + r = a := by omega
      exact ⟨⟨he, rfl⟩, by rw [Mmt.sum, Nat.add_sub_cancel_left]⟩
    · rintro ⟨⟨he, rfl⟩, rfl⟩
      exact ⟨e, he, i, hi, rfl, by rw [Mmt.sum, Nat.add_sub_cancel_left]⟩
  unfold Mmt.addRow
  split
  case isTrue h =>
    refine Sparse.get_setAll_of_mem _ _ _ _ ⟨_, (hmem _).mpr ⟨h, rfl⟩, rfl⟩ ?_ acc
    rintro ⟨x, v⟩ hy rfl
    exact ((hmem v).mp hy).2
  case isFalse h =>
    refine Sparse.get_setAll_of_not_mem _ _ _ ?_ acc
    rintro ⟨x, v⟩ hy rfl
    exact h ((hmem v).mp hy).1

theorem Mmt.get_addRow_foldl (rows : List Nat) (hrows : ∀ r ∈ rows, 64 * m.half + r < 128) : ∀ acc : Sparse W32,
    Sparse.get (always 0) (rows.foldl (m.addRow lat k) acc) ((e * 128 + i) * 128 + a) =
      if e ∈ m.engines lat ∧ ∃ r ∈ rows, 64 * m.half + r = a then m.sum lat k e i a
      else Sparse.get (always 0) acc ((e * 128 + i) * 128 + a) := by
  induction rows with
  | nil => simp
  | cons r rows ih =>
    intro acc
    rw [List.foldl_cons, ih fun r hr => hrows r (by simp [hr]), m.get_addRow lat k hi ha (hrows r (by simp))]
    by_cases he : e ∈ m.engines lat <;> by_cases htail : ∃ r ∈ rows, 64 * m.half + r = a <;> simp [he, htail]

end

/-! ### The init of a tile -/

/-- A map of which only the keys of `p` are kept. -/
theorem Sparse.get_filter_key {α : Type} (d : Nat → α) (p : Nat → Bool) (l : Sparse α) (j : Nat) :
    Sparse.get d (l.filter fun x => p x.1) j = if p j then Sparse.get d l j else d j := by
  induction l with
  | nil => simp
  | cons x l ih =>
    rw [List.filter_cons]
    by_cases hj : j = x.1
    · subst hj
      by_cases hp : p x.1 = true
      · simp [Sparse.get_cons, hp]
      · simpa [Sparse.get_cons, hp] using ih
    · by_cases hp : p x.1 = true
      · simpa [Sparse.get_cons, hp, hj] using ih
      · simpa [Sparse.get_cons, hp, hj] using ih

/-- The accumulators of core `k` behind the init of the tile. -/
def Mmt.cleared (m : Mmt) (k : Core) : Core := { k with acc := if m.init then k.acc.filter fun x => !m.owns 0 128 x.1 else k.acc }

theorem Mmt.clear_of_clean (m : Mmt) (k : Core) (h : k.code = []) : m.clear 0 128 k = m.cleared k := by
  unfold Mmt.clear Mmt.cleared
  rw [Core.cleanLines_of_clean _ _ h]
  cases m.init <;> rfl

/-- The value of an accumulator before the rows are added: zero where the init of the tile clears it. -/
def Mmt.start (m : Mmt) (k : Core) (e i a : Nat) : Nat :=
  if m.init ∧ m.on e = true ∧ 64 * m.half ≤ a ∧ a < 64 * m.half + m.rows then 0 else k.accOf e i a

/-- The rows of a tile lie in the two banks (R79). -/
theorem Mmt.rows_of_legal {k : Core} {w0 w1 : W64} (h : mmtLegal k w0 w1 = true) :
    64 * (mmtOf w0 w1).half + (mmtOf w0 w1).rows ≤ 128 := by
  have hrows : (mmtOf w0 w1).rows ≤ 128 := Nat.mod_lt _ (by decide)
  have hhalf : (mmtOf w0 w1).half < 2 := Nat.mod_lt _ (by decide)
  unfold mmtLegal at h
  generalize mmtOf w0 w1 = m at *
  simp only [Bool.and_eq_true, and_assoc] at h
  obtain ⟨-, -, -, -, -, -, -, -, -, hbank, -⟩ := h
  have hbank : ¬ m.half = 1 ∨ m.rows ≤ 64 := by simpa using hbank
  omega

section
variable {m : Mmt} {lat : List W64} {k : Core} {e i a : Nat} (hi : i < 128) (ha : a < 128) (hrows : 64 * m.half + m.rows ≤ 128)
include hi ha hrows

theorem Mmt.accOf_cleared : (m.cleared k).accOf e i a = m.start k e i a := by
  have hkey : ((e * 128 + i) * 128 + a) / 16384 = e ∧ ((e * 128 + i) * 128 + a) % 128 = a := by omega
  have howns : m.owns 0 128 ((e * 128 + i) * 128 + a) = true ↔ m.on e = true ∧ 64 * m.half ≤ a ∧ a < 64 * m.half + m.rows := by
    have hmin : Nat.min 128 m.rows = m.rows := Nat.min_eq_right (by omega)
    simp [Mmt.owns, hkey, hmin, and_assoc]
  unfold Mmt.start
  cases hinit : m.init with
  | false => simp [Mmt.cleared, hinit, Core.accOf]
  | true =>
    simp only [Mmt.cleared, hinit, if_true, Core.accOf, true_and, ← howns]
    rw [Sparse.get_filter_key _ fun y => !m.owns 0 128 y]
    cases m.owns 0 128 ((e * 128 + i) * 128 + a) <;> rfl

/-- An accumulator behind the tile. -/
theorem Mmt.accOf_added (he : e < 4) {t : Core} (hacc : t.acc = m.addRows lat (m.cleared k) ((m.liveRows k 0).filter (· < 128))) :
    t.accOf e i a =
      if m.on e = true ∧ m.idle lat e = false ∧ 64 * m.half ≤ a ∧ a - 64 * m.half < m.rows ∧ m.live k (a - 64 * m.half) = true then
        m.laneRow lat k (m.fedRow lat k (a - 64 * m.half)) e i (m.start k e i a)
      else m.start k e i a := by
  have hlive : ∀ r, r ∈ (m.liveRows k 0).filter (· < 128) ↔ r < m.rows ∧ m.live k r = true := fun r => by
    simp only [Mmt.liveRows, List.mem_filter, List.mem_range, Nat.zero_le, decide_true, Bool.true_and, decide_eq_true_eq]
    exact ⟨fun ⟨h, _⟩ => h, fun h => ⟨h, by have := h.1; omega⟩⟩
  have hcond : (e ∈ m.engines lat ∧ ∃ r ∈ (m.liveRows k 0).filter (· < 128), 64 * m.half + r = a) ↔
      m.on e = true ∧ m.idle lat e = false ∧ 64 * m.half ≤ a ∧ a - 64 * m.half < m.rows ∧ m.live k (a - 64 * m.half) = true := by
    simp only [Mmt.engines, List.mem_filter, List.mem_range, he, true_and, Bool.and_eq_true, Bool.not_eq_true', hlive, and_assoc]
    refine and_congr_right fun _ => and_congr_right fun _ => ?_
    constructor
    · rintro ⟨r, hr, hlv, rfl⟩
      exact ⟨by omega, by rwa [Nat.add_sub_cancel_left], by rwa [Nat.add_sub_cancel_left]⟩
    · rintro ⟨hle, hr, hlv⟩
      exact ⟨_, hr, hlv, by omega⟩
  have hstart : m.start k e i a < 2 ^ 32 := by
    rw [← Mmt.accOf_cleared hi ha hrows]
    exact BitVec.isLt _
  have hget := m.get_addRow_foldl lat (m.cleared k) (e := e) hi ha _ (fun r hr => by have := (hlive r).mp hr; omega) (m.cleared k).acc
  rw [Core.accOf, hacc, Mmt.addRows_eq_foldl, hget, apply_ite BitVec.toNat]
  refine if_congr hcond ?_ (Mmt.accOf_cleared hi ha hrows)
  rw [Mmt.sum, BitVec.toNat_ofNat, Mmt.accOf_cleared hi ha hrows]
  exact Nat.mod_eq_of_lt (m.laneRow_lt lat k _ e i hstart)

end

/-! ### The tile that feeds -/

/-- Core `k` behind all rows of the tile `m`, with the bank records `bank` and the tiles `runs`. -/
def Mmt.fedCore (m : Mmt) (lat : List W64) (bank : Sparse Nat) (runs : List MmtRun) (k : Core) : Core :=
  { k with acc := m.addRows lat (m.cleared k) ((m.liveRows k 0).filter (· < 128)), bank := bank, mmts := runs, rest := none }

theorem exists_fedCore {m : Mmt} {lat : List W64} {k t : Core} (h : t = m.fedCore lat t.bank t.mmts k) :
    ∃ bank runs, t = m.fedCore lat bank runs k := ⟨_, _, h⟩

/-- A tile that no drain holds, its maps and feeds readable, of a core without a damaged coded line, feeds all its rows. -/
theorem tileBody_of_readable {s d e : Dev} {c : Nat} {x : QEnt} {m : Mmt} (hm : mmtOf x.w0 x.w1 = m)
    (hmaps : s.lsCheck c (m.maps (s.core c)) = (d, true))
    (hfeeds : d.lsCheck c (m.ranges (d.core c) (m.rowPlans x.lat (d.core c) 0 128 (d.firstFeed c x 0 128) (d.ocSkip c) (d.bmSkip c))) = (e, true))
    (hcode : (e.core c).code = []) (hdrain : s.drainAhead c x.seq 1 = false) :
    (∃ bank runs, (tileBody c x 0 true s).core c = m.fedCore x.lat bank runs (e.core c)) ∧
      ∀ j, j ≠ c → (tileBody c x 0 true s).core j = e.core j := by
  have hline := fun which => e.lineCheck_of_clean c which hcode
  have hclear : (if m.init = true then m.clear 0 128 (e.core c) else e.core c) = m.cleared (e.core c) := by
    rw [← m.clear_of_clean _ hcode]
    unfold Mmt.clear
    cases m.init <;> rfl
  have hbody : tileBody c x 0 true s = (mmtFeed c x 0 128 true s).onCore c fun k => { k with rest := none } := by
    simp [tileBody, hdrain]
  rw [hbody]
  unfold mmtFeed
  simp only [hm, hmaps, hfeeds, hline, Bool.true_and]
  refine ⟨exists_fedCore ?_, fun j hj => ?_⟩
  · simp only [Dev.core_onCore, if_true, hclear]
    rfl
  · simp only [Dev.core_onCore, if_neg hj]

/-- Counting on the engines changes no core. -/
theorem Dev.mmtCounted_core (s : Dev) (c : Nat) (w0 w1 : W64) (j : Nat) : (s.mmtCounted c w0 w1).core j = s.core j := by
  refine foldl_keeps (fun d => d.core j) _ _ (fun d e _ => ?_) s
  split
  · exact d.count_core _ _ _ j
  · rfl

/-- The queues' heads and the engine's run are no part of what a tile waits for at its drain's bank. -/
theorem Dev.drainAhead_congr {a b : Dev} {c : Nat} (hv : (a.core c).vq = (b.core c).vq) (hr : (a.core c).vrun = (b.core c).vrun)
    (ht : a.cycle c = b.cycle c) (n k : Nat) : a.drainAhead c n k = b.drainAhead c n k := by
  simp only [Dev.drainAhead, hv, hr, ht]

theorem Dev.mtaken_cycle (d : Dev) (c : Nat) (w0 w1 : W64) (lat : List W64) (rec_ : Core → Core) :
    (d.mtaken c w0 w1 lat rec_).cycle c = d.cycle c := d.mqueued_cycle c w0 w1 lat rec_ c

/-- What a fed tile leaves of its core. -/
theorem Mmt.fedCore_reads {m : Mmt} {k : Core} (hrows : 64 * m.half + m.rows ≤ 128) (lat : List W64) (bank : Sparse Nat) (runs : List MmtRun) :
    (∀ e i a, e < 4 → i < 128 → a < 128 → (m.fedCore lat bank runs k).accOf e i a =
      if m.on e = true ∧ m.idle lat e = false ∧ 64 * m.half ≤ a ∧ a - 64 * m.half < m.rows ∧ m.live k (a - 64 * m.half) = true then
        m.laneRow lat k (m.fedRow lat k (a - 64 * m.half)) e i (m.start k e i a)
      else m.start k e i a) ∧
    (m.fedCore lat bank runs k).s = k.s ∧ (m.fedCore lat bank runs k).v = k.v ∧ (m.fedCore lat bank runs k).ls = k.ls :=
  ⟨fun _ _ _ he hi ha => Mmt.accOf_added hi ha hrows he rfl, rfl, rfl, rfl⟩

end Sys2Proof.Machine

open Sys2Proof Sys2Proof.Machine

/-- Settles O33: both times the tile's body feeds all its rows (`tileBody_of_readable`), and what that leaves is read back by accumulator
(`Mmt.fedCore_reads`). -/
theorem tileAddsToItsAccumulators : Obligations.TileAddsToItsAccumulators := by
  unfold Obligations.TileAddsToItsAccumulators
  intro s d c x q m added hop hremoved
  refine ⟨?start, ?issue⟩
  case start =>
    intro e hd hr hq hlegal hready hdrain hcode rest hmaps hfeeds
    have hrc : rest.core c = { s.dev.core c with mq := q } := by rw [Dev.core_onCore, if_pos rfl]
    have hcode' : (e.core c).code = [] := by
      rw [Dev.core_of_lsCheck hfeeds, Dev.core_of_lsCheck hmaps, hrc]
      exact hcode
    have hdrain' : rest.drainAhead c x.seq 1 = false :=
      (Dev.drainAhead_congr (a := rest) (b := s.dev) (by rw [hrc]) (by rw [hrc]) rfl _ _).trans hdrain
    obtain ⟨⟨bank, runs, hcore⟩, hother⟩ := tileBody_of_readable rfl hmaps hfeeds hcode' hdrain'
    refine ⟨_, runs_matrixInstructionStart ((Dev.matStart_of_ready hd hr hq hready).trans (matBody_mmt _ _ x hop hremoved)), ?_⟩
    simp only [Dev.wired_core]
    refine ⟨?_, fun j hj => ?_⟩
    · rw [hcore]
      exact Mmt.fedCore_reads (Mmt.rows_of_legal hlegal) _ _ _
    · rw [hother j hj, Dev.core_of_lsCheck_other hfeeds hj, Dev.core_of_lsCheck_other hmaps hj, Dev.core_onCore, if_neg hj]
  case issue =>
    intro k h hlegal hfree hq hr hlen hcode hclean hx hready hdrain
    have hissue := matIssue_of_fetches h x.w1 (mmtRegs x.w1) (legal := fun s => mmtLegal (s.core c) x.w0 x.w1) (fun _ => true) id hlegal
      hfree hlen
    have hseq := d.mstarted_seq c x.w0 x.w1 ((mmtRegs x.w1).map k.sreg)
    rw [if_pos rfl] at hissue
    have hexec := exec_mmt_of_issue s c x.w0 x.w1 _ hissue
    rw [if_neg (by rw [Dev.advance_seq, hseq, seq_of_fetches h]; omega),
      Dev.mstarted_of_ready (coreDown_of_fetches h) hq hr (fun _ => rfl) hx hready, matBody_mmt _ _ x hop hremoved] at hexec
    obtain ⟨-, -, -, hpc⟩ := h
    set b := d.mtaken c x.w0 x.w1 ((mmtRegs x.w1).map k.sreg) id with hb
    have hbc : b.core c = { k with since := k.since + 1, redo := k.redo - 1, mq := [], seq := k.seq + 1 } := Dev.mtaken_core
    have hclean' : (b.core c).ls.chk = [] := by rw [hbc]; exact hclean
    have hdrain' : b.drainAhead c x.seq 1 = false :=
      (Dev.drainAhead_congr (b := d) (by rw [hbc]) (by rw [hbc]) (d.mtaken_cycle c _ _ _ _) _ _).trans hdrain
    obtain ⟨⟨bank, runs, hcore⟩, hother⟩ := tileBody_of_readable (m := m) rfl (b.lsCheck_clean c _ hclean') (b.lsCheck_clean c _ hclean')
      (by rw [hbc]; exact hcode) hdrain'
    obtain ⟨hac, hao⟩ := Dev.advance_core (c := c) (n := instrLen x.w0) (s := tileBody c x 0 true b) (by rw [hcore, hbc]; exact hpc)
    refine ⟨_, hexec, ?_⟩
    simp only [Dev.wired_core, Dev.mmtCounted_core, hac, hcore, hbc]
    refine ⟨Mmt.fedCore_reads (Mmt.rows_of_legal hlegal) _ bank runs, rfl, ?_, fun j hj => ?_⟩
    · rw [instrLen_of_matrix (.inl hop)]
      rfl
    · rw [hao j hj, hother j hj, hb, Dev.mtaken_core_other hj]
end

section
/-! SUPPORT. A vector save of a register that lists an element twice, and O41 (R131, R161). -/

namespace Sys2Proof.Machine

/-- Breeze work. -/
def breezeWork : Work := { disp := 0, brz := true, entry := 0, round := 0, lcore := 0, dom := 0, w0 := 0, w1 := 0, one := none }

/-- A core that runs breeze work with a vector reserve at 0, and lists element 0 of its live register v0 twice. A lookup reads the first entry,
the save writes both. `Sparse.set` makes no such map from one without it; the statement does not rule it out. -/
def doubleListed : Core := { Core.cold with run := .issuing, work := some breezeWork, vrsv := some 0, vlive := 1, v := [(0, 1), (0, 2)] }

/-- The reset device with that core as its core 0. -/
def doubleDev : Dev := State.reset.dev.setCore 0 doubleListed

theorem doubleDev_core : doubleDev.core 0 = doubleListed := by rw [doubleDev, Dev.core_setCore, if_pos rfl]

/-- The breeze context and the release leave the local store as it is. -/
theorem ctxSave_core (s : Dev) (c j : Nat) : (ctxSave c s).core j = s.core j := by
  refine Dev.core_of_standingCores ?_ j
  unfold ctxSave
  dsimp only
  split <;> split <;> split <;> simp only [Dev.csWrite_standingCores]

theorem preemptRelease_ls (c t : Nat) (w : Work) (s : Dev) : ((preemptRelease c t w s).core c).ls = (s.core c).ls := by
  unfold preemptRelease
  split
  · rw [Dev.core_of_standingCores (Dev.csWrite_standingCores _ _ _)]
  · dsimp only
    rw [Dev.count_core, Dev.core_onCore, if_pos rfl]

/-- The register's entries are written in their order. -/
theorem lsFill_core (s : Dev) (c lo n : Nat) (data : List (Nat × Byte)) (h : (s.core c).ls.chk = []) :
    (s.lsFill c lo n data).core c = { s.core c with ls := (s.core c).ls.fill lo n data } := by
  simp [Dev.lsFill, h, Dev.lsReact]

/-- Of an undamaged core with v0 alone live a vector save writes v0's entries last. -/
theorem vecSave_ls_of_v0 (s : Dev) (c base : Nat) (hlive : (s.core c).vlive = 1) (hclean : (s.core c).ls.chk = []) (hcode : (s.core c).code = []) :
    ∃ st : Store, ((vecSave c base s).core c).ls = st.fill (base + 0x1000) 8192 ((Sparse.range (s.core c).v 0 2048).flatMap fun x =>
      cellsAt (base + 0x1000 + 4 * x.1) (natLe 4 x.2.toNat)) := by
  have hdead : ∀ n ∈ (List.range 31).map Nat.succ, bit 1 n = false := by decide
  have hrange : List.range 32 = 0 :: (List.range 31).map Nat.succ := List.range_succ_eq_map
  have hnat : (s.core c).vlive.toNat = 1 := by rw [hlive]; rfl
  unfold vecSave
  rw [s.lineCheck_of_clean c _ hcode]
  dsimp only
  rw [s.lsWrite_of_clean c _ hclean, hnat]
  generalize cellsAt (base + 0x100) _ = preds
  generalize hd : Dev.lsWrite _ c preds = d
  have hclean' : (d.core c).ls.chk = [] := by
    rw [← hd, Dev.lsWrite_of_clean _ c _ (by rw [Dev.moves_core, Dev.core_setCore, if_pos rfl]; exact hclean), Dev.core_setCore, if_pos rfl,
      Dev.moves_core, Dev.core_setCore, if_pos rfl]
    exact hclean
  refine ⟨(d.core c).ls, ?_⟩
  have hfold : ∀ (f : Dev → Nat → Dev), ((List.range 32).foldl (fun x n => if !bit 1 n then x else f x n) d) = f d 0 := fun f => by
    rw [hrange, List.foldl_cons, foldl_keeps (fun x => x) _ _ fun x n hn => by rw [hdead n hn]; rfl]
    rfl
  rw [hfold, lsFill_core _ _ _ _ _ hclean']

/-- The last of two entries of one place stays in a range that is written. -/
theorem fill_last (st : Store) : (st.fill 0x1000 8192 (cellsAt 0x1000 (natLe 4 1) ++ cellsAt 0x1000 (natLe 4 2))).byte (swz 0x1000) = 2 := by
  simp [Store.fill, Store.byte, cellsAt, natLe, Sparse.setAll, Sparse.get_set, swz]

theorem vecSave_doubleDev : ((vecSave 0 0 doubleDev).core 0).lsByte 0x1000 = 2 := by
  have hk := doubleDev_core
  obtain ⟨st, hls⟩ := vecSave_ls_of_v0 doubleDev 0 0 (by rw [hk]; rfl) (by rw [hk]; rfl) (by rw [hk]; rfl)
  rw [Core.lsByte, hls, hk]
  exact fill_last st

/-- The low byte of a number in the local store. -/
theorem Core.lsNat_mod (k : Core) (a n : Nat) : k.lsNat a (n + 1) % 256 = (k.lsByte a).toNat := by
  rw [Core.lsNat, Core.lsBytes, List.range_succ_eq_map, List.map_cons, leNat, Nat.add_mul_mod_self_left]
  exact Nat.mod_eq_of_lt (k.lsByte a).isLt

theorem preemptEffect_of_reserve {s : Dev} {c lag b : Nat} {w : Work} (hw : (s.core c).work = some w) (hbrz : w.brz = true)
    (hd : s.coreDown c = false) (hrun : (s.core c).run = .issuing) (htile : s.tile c (s.lagged c lag) = none) (hb : (s.core c).vrsv = some b) :
    ∃ t, preemptEffect c lag s = preemptRelease c t w (ctxSave c (vecSave c b s)) := by
  refine ⟨s.lagged c lag + saveCycles (s.core c) false, ?_⟩
  simp [preemptEffect, preemptRest, hw, hbrz, hd, hrun, htile, hb]

/-- No tile runs on it. -/
theorem tile_doubleDev : doubleDev.tile 0 (doubleDev.lagged 0 0) = none := by decide +kernel

/-- Behind the pre-emption the place of element 0 of v0 in the reserve holds the second value. -/
theorem exec_preemptionRequest_doubleDev :
    ∃ u, exec (.preemptionRequest 0 0) { State.reset with dev := doubleDev } = .next u ∧ (u.dev.core 0).lsByte 0x1000 = 2 := by
  have hk := doubleDev_core
  obtain ⟨done, heffect⟩ := preemptEffect_of_reserve (s := doubleDev) (c := 0) (lag := 0) (b := 0) (w := breezeWork) (by rw [hk]; rfl) rfl
    (by decide +kernel) (by rw [hk]; rfl) tile_doubleDev (by rw [hk]; rfl)
  refine ⟨_, State.run_eq (f := preemptEffect 0 0) heffect, ?_⟩
  rw [Dev.wired_core, Core.lsByte_of_ls (preemptRelease_ls _ _ _ _), ctxSave_core, vecSave_doubleDev]

end Sys2Proof.Machine

open Sys2Proof Sys2Proof.Machine

/-- Refutes O41, on a state whose vector map is not canonical: where it lists element 0 of v0 with 1 and again with 2, v0 reads as 1 there, and
the reserve holds 2 behind the pre-emption. -/
theorem not_preemptionSavesAndRestores : ¬ Obligations.PreemptionSavesAndRestores := by
  unfold Obligations.PreemptionSavesAndRestores
  intro h
  have hk := doubleDev_core
  let saved : Saved := ⟨breezeWork, none, 0, none, 0, 0, false, [], [], [], 0⟩
  obtain ⟨hsave, -⟩ := h { State.reset with dev := doubleDev } 0 0 breezeWork saved doubleDev []
  obtain ⟨-, hreserve, -⟩ := hsave (congrArg Core.work hk) rfl (by decide +kernel) (congrArg Core.run hk)
  obtain ⟨t, ht, -, -, -, -, hreg⟩ := hreserve 0 tile_doubleDev (congrArg Core.vrsv hk) rfl (by decide) (congrArg (·.ls.chk) hk)
    (congrArg Core.code hk) (by decide +kernel)
  obtain ⟨u, hu, hbyte⟩ := exec_preemptionRequest_doubleDev
  obtain rfl : u = t := Host.Outcome.next.inj (hu.symm.trans ht)
  have hread : (u.dev.core 0).lsNat 0x1000 4 = (doubleDev.core 0).velem 0 0 :=
    hreg 0 0 (by decide) (by decide) (congrArg (fun k => bit k.vlive.toNat 0) hk)
  have hlow := (u.dev.core 0).lsNat_mod 0x1000 3
  rw [hread, hbyte, hk] at hlow
  exact absurd hlow (by decide)
end

section
/-! SUPPORT. A vector instruction that waits behind others, and O34 (R106, R128, R133, R135). -/

namespace Sys2Proof.Machine

/-- A vector instruction issued behind others enters the queue and does not start. -/
theorem vecIssue_behind {s d : Dev} {c op : Nat} {w0 w1 : W64} (h : Fetches s d c w0 op) (hform : vecLegal op w0 w1 = true)
    (hfree : d.regsFree c (vregs w0 w1 ++ (⟨w0, w1, [], 0, 0, 0⟩ : QEnt).dst.toList) = true) (hv : (d.core c).vq.length < 8)
    (hwait : (d.core c).vq ≠ [] ∨ d.vecBusy c = true) (legal fit : Dev → Bool) (cost : Dev → Nat) (body : QEnt → Dev → Dev)
    (hl : legal d = true) (hf : fit d = true) :
    vecIssue c op w0 w1 legal fit cost body s = (d.vqueued c w0 w1).advance c (instrLen w0) := by
  obtain ⟨hi, ho, hfetch, hpc⟩ := h
  have hstay : ((d.core c).vq.isEmpty && !(d.vqueued c w0 w1).vecBusy c) = false := by
    rw [Dev.vqueued_vecBusy]
    rcases hwait with hq | hb
    · simp [hq]
    · simp [hb]
  unfold vecIssue
  rw [s.issue_ok c op w0 _ _ d hi ho hfetch (Nat.le_of_lt hpc) (by rw [hform, hl]; rfl)]
  dsimp only
  rw [hfree, decide_eq_false (Nat.not_le.mpr hv), hf, ← Dev.vqueued, hstay]
  rfl

/-- The instruction leaves its entry at the end of the queue. -/
theorem stepped_vqueued {s d : Dev} {c op : Nat} {w0 : W64} (h : Fetches s d c w0 op) (w1 : W64) :
    Stepped d (s.wired ((d.vqueued c w0 w1).advance c (instrLen w0))) c (instrLen w0)
      { d.core c with
        vq := (d.core c).vq ++ [⟨w0, w1, vlatch (d.core c) w0 w1, (d.core c).seq, (d.core c).pc, d.cycle c⟩], seq := (d.core c).seq + 1 } := by
  have hcore := d.vqueued_core c w0 w1
  have hsec := sec_of_fetches h
  obtain ⟨-, -, -, hlen⟩ := h
  rw [Dev.advance_ok _ _ _ (by rw [hcore]; exact hlen)]
  refine stepped_of_counted (cls := 2) hsec ?_ (fun j hj => ?_) ?_ ?_
  · simp only [Dev.moves_core, Dev.core_onCore, if_true, hcore]
  · simp only [Dev.moves_core, Dev.core_onCore, if_neg hj, Dev.vqueued_core_other _ _ _ _ _ hj]
  · simp only [Dev.moves_besideCores, Dev.onCore_besideCores, Dev.vqueued, Dev.vpush]
  · simp only [Dev.moves_coreless, Dev.onCore_coreless, Dev.vqueued, Dev.vpush]

/-- Instruction `i` is the issue of a vector instruction of opcode `op`; `own`, judged on `d`, is what its own rule asks of its form and of
the values of its registers. -/
def IssuesVector (d : Dev) (c : Nat) (w0 w1 : W64) (i : Instr) (op : Nat) (own : Bool) : Prop :=
  ∃ legal fit cost body, (∀ s, exec i s = s.run (vecIssue c op w0 w1 legal fit cost body)) ∧ (own = true → legal d = true ∧ fit d = true)

namespace IssuesVector

variable {d : Dev} {c : Nat} {w0 w1 : W64} {i : Instr} {op : Nat} {cost : Dev → Nat} {body : QEnt → Dev → Dev}

/-- A row whose rule asks nothing, or something of the words alone. -/
theorem of_form {own : Bool} (h : exec i = fun s => s.run (vecIssue c op w0 w1 (fun _ => own) vAny cost body)) :
    IssuesVector d c w0 w1 i op own := ⟨fun _ => own, vAny, cost, body, congrFun h, fun hl => ⟨hl, rfl⟩⟩

/-- A row whose rule asks something of the values of its registers. -/
theorem of_values {fit : Dev → Bool} (h : exec i = fun s => s.run (vecIssue c op w0 w1 vAny fit cost body)) :
    IssuesVector d c w0 w1 i op (fit d) := ⟨vAny, fit, cost, body, congrFun h, fun hf => ⟨rfl, hf⟩⟩

end IssuesVector

end Sys2Proof.Machine

open Sys2Proof Sys2Proof.Machine

/-- Settles O34: each row is the issue of its opcode, which behind others only enters the queue (`vecIssue_behind`, `stepped_vqueued`). -/
theorem vectorInstructionsEnterTheirQueue : Obligations.VectorInstructionsEnterTheirQueue := by
  unfold Obligations.VectorInstructionsEnterTheirQueue
  intro s d c w0 w1 x hx
  have hissue : IssuesVector d c w0 x.2.2.1 x.1 x.2.1 x.2.2.2 := by
    revert x
    simp only [List.forall_mem_cons]
    exact ⟨.of_form rfl, .of_form rfl, .of_form rfl, .of_form rfl, .of_form rfl, .of_form rfl, .of_form rfl, .of_form rfl, .of_form rfl,
      .of_form rfl, .of_form rfl, .of_form rfl, .of_form rfl, .of_form rfl, .of_form rfl, .of_form rfl, .of_form rfl, .of_form rfl, .of_form rfl,
      .of_form rfl, .of_form rfl, .of_form rfl, .of_form rfl, .of_values rfl, .of_form rfl, .of_form rfl, .of_form rfl, .of_form rfl, .of_form rfl,
      .of_form rfl, .of_form rfl, .of_values rfl, fun _ h => absurd h List.not_mem_nil⟩
  intro k hfetch hform hown hfree hv hwait
  obtain ⟨legal, fit, cost, body, hexec, hasks⟩ := hissue
  obtain ⟨hl, hf⟩ := hasks hown
  exact ⟨_, (hexec s).trans (State.run_eq (vecIssue_behind hfetch hform hfree hv hwait legal fit cost body hl hf)),
    stepped_vqueued hfetch x.2.2.1⟩
end

section
/-! SUPPORT. VCMP in register form, PAND, POR, PXOR and VUNPACK on an idle engine, and O38 (R108, R109, R110, R121). -/

namespace Sys2Proof.Machine

/-- An instruction issued on an idle engine, of whose core every body makes what `Q` says: core `c` is that behind the instruction. -/
theorem run_vecIssue_of_body {u : State} {d : Dev} {c op : Nat} {w0 w1 : W64} {own : Bool} {x : QEnt}
    (h : VectorRuns u.dev d c op w0 w1 own x) (legal : Dev → Bool) (cost : Dev → Nat) (body : QEnt → Dev → Dev) (hl : legal d = true)
    {Q : Core → Prop} (hpc : ∀ k, Q k → k.pc = (d.core c).pc)
    (hbody : ∀ b m, d.Begun b c m → Q ((body x b).core c) ∧ ∀ j, j ≠ c → (body x b).core j = d.core j) :
    ∃ t k, u.run (vecIssue c op w0 w1 legal vAny cost body) = .next t ∧ Q k ∧
      t.dev.core c = { k with pc := (d.core c).pc + instrLen w0 } ∧ ∀ j, j ≠ c → t.dev.core j = d.core j := by
  obtain ⟨b, m, t, hb, hrun, hcore, hother⟩ :=
    run_vecIssue_of_vectorRuns h u rfl legal vAny cost body hl rfl fun b m hb => hpc _ (hbody b m hb).1
  obtain ⟨hq, ho⟩ := hbody b m hb
  exact ⟨t, _, hrun, hq, hcore, fun j hj => (hother j hj).trans (ho j hj)⟩

/-! ### Elements of a predicate register -/

/-- Core `k` with the elements `act` of predicate register `n` as `f` gives them. -/
def Core.predicated (n : Nat) (act : List Nat) (f : Nat → Bool) (k : Core) : Core :=
  { k with p := Sparse.setAll (always false) k.p ((act.map fun e => (e, f e)).map fun r => (n * 2048 + r.1, r.2)) }

theorem Core.pbit_predicated (k : Core) {n : Nat} {act : List Nat} (f : Nat → Bool) (hact : ∀ e ∈ act, e < 2048) (i e : Nat) (he : e < 2048) :
    (k.predicated n act f).pbit i e = if i = n ∧ e ∈ act then f e else k.pbit i e := by
  have hkey : ∀ y ∈ (act.map fun e => (e, f e)).map fun r => (n * 2048 + r.1, r.2), y.1 = i * 2048 + e → i = n ∧ e ∈ act ∧ y.2 = f e := by
    intro y hy hye
    simp only [List.map_map, List.mem_map, Function.comp_apply] at hy
    obtain ⟨e', he', rfl⟩ := hy
    have := hact e' he'
    obtain rfl : e' = e := by dsimp only at hye; omega
    exact ⟨by dsimp only at hye; omega, he', rfl⟩
  unfold Core.pbit Core.predicated
  dsimp only
  split
  case isTrue hie =>
    obtain ⟨rfl, hea⟩ := hie
    exact Sparse.get_setAll_of_mem (always false) _ _ _ ⟨_, List.mem_map.mpr ⟨_, List.mem_map.mpr ⟨e, hea, rfl⟩, rfl⟩, rfl⟩
      (fun y hy hye => (hkey y hy hye).2.2) _
  case isFalse hie =>
    refine Sparse.get_setAll_of_not_mem (always false) _ _ (fun y hy hye => hie ?_) _
    obtain ⟨hi, hea, -⟩ := hkey y hy hye
    exact ⟨hi, hea⟩

/-- An instruction whose body sets elements of a predicate register, issued on an idle engine. -/
theorem run_vecIssue_of_predicated {u : State} {d : Dev} {c op : Nat} {w0 w1 : W64} {own : Bool} {x : QEnt}
    (h : VectorRuns u.dev d c op w0 w1 own x) (legal : Dev → Bool) (cost : Dev → Nat) (body : QEnt → Dev → Dev) (hl : legal d = true)
    {n : Nat} {act : List Nat} {f : Nat → Bool} (hact : ∀ e ∈ act, e < 2048)
    (hbody : ∀ b m, d.Begun b c m → d.Changed (body x b) c (Core.predicated n act f)) :
    ∃ t, u.run (vecIssue c op w0 w1 legal vAny cost body) = .next t ∧
      (∀ i e, e < 2048 → (t.dev.core c).pbit i e = if i = n ∧ e ∈ act then f e else (d.core c).pbit i e) ∧
      (t.dev.core c).s = (d.core c).s ∧ (t.dev.core c).v = (d.core c).v ∧ (t.dev.core c).ls = (d.core c).ls ∧
      (t.dev.core c).pc = (d.core c).pc + instrLen w0 ∧ ∀ j, j ≠ c → t.dev.core j = d.core j := by
  obtain ⟨t, k, hrun, ⟨m, rfl⟩, hcore, hother⟩ := run_vecIssue_of_body h legal cost body hl
    (Q := fun k => ∃ m, k = ((d.core c).begun m).predicated n act f) (by rintro _ ⟨m, rfl⟩; rfl) fun b m hb => by
      obtain ⟨m', hc, ho⟩ := hbody b m hb
      exact ⟨⟨m', hc⟩, ho⟩
  refine ⟨t, hrun, fun i e he => ?_, ?_⟩
  · rw [hcore]
    exact Core.pbit_predicated _ f hact i e he
  · rw [hcore]
    exact ⟨rfl, rfl, rfl, rfl, hother⟩

/-! ### The bodies -/

/-- Element `e` of a comparison (R108). -/
def comparison (k : Core) (x : QEnt) (e : Nat) : Bool := cmpElem (fld64 x.w0 23 3) (tyOf x.w0) (k.vsrc x 0 e) (k.vsrc x 1 e)

/-- The predicate operations take every element below the count (R110). -/
theorem Core.actives_of_predicateOp (k : Core) {w0 : W64} (w1 : W64) (ht : tbOf w0 = false) (hop : vop w0 ∈ [0x6C, 0x6D, 0x6E]) :
    k.actives w0 w1 = List.range (vcount w0 w1) := by
  refine List.filter_eq_self.mpr fun e _ => ?_
  simp only [List.mem_cons, List.not_mem_nil, or_false] at hop
  simp [Core.active, ht, hop]

section
variable {d b : Dev} {c : Nat} {m : Core} {x : QEnt} (h : d.Begun b c m) (hcode : (d.core c).code = []) (ht : tbOf x.w0 = false)
include h hcode

include ht in
theorem cmpBody_changes : d.Changed (cmpBody c x b) c
    (Core.predicated (fld64 x.w0 8 3) ((d.core c).actives x.w0 x.w1) (comparison (d.core c) x)) := by
  obtain ⟨b', hb, heq⟩ := vecBody_of_register h hcode x ht _
  rw [cmpBody, heq]
  simp only [ht, Bool.false_eq_true, if_false]
  exact hb.changed rfl

include ht in
theorem predBody_changes (f : Bool → Bool → Bool) (hop : vop x.w0 ∈ [0x6C, 0x6D, 0x6E]) : d.Changed (predBody c f x b) c
    (Core.predicated (fld64 x.w0 8 3) (List.range (vcount x.w0 x.w1)) fun e =>
      f ((d.core c).pbit (fld64 x.w0 13 3) e) ((d.core c).pbit (fld64 x.w0 18 3) e)) := by
  obtain ⟨b', hb, heq⟩ := vecBody_of_register h hcode x ht _
  rw [predBody, heq, (d.core c).actives_of_predicateOp x.w1 ht hop]
  exact hb.changed rfl

theorem unpackBody_changes (hclean : (d.core c).ls.chk = []) : d.Changed (unpackBody c x b) c
    (Core.predicated (fld64 x.w0 8 3) (List.range (vcount x.w0 0)) fun e => (d.core c).maskBit (fld64 x.w1 0 20) e) := by
  obtain ⟨b', hb, hcheck⟩ := h.vCheck hcode x.w0 0
  simp only [unpackBody, h.lsCheck hclean, hcheck, hb.core]
  exact hb.changed rfl

end

end Sys2Proof.Machine

open Sys2Proof Sys2Proof.Machine

/-- Settles O38: each body sets the elements that it names of one predicate register (`cmpBody_changes`, `predBody_changes`,
`unpackBody_changes`) and changes nothing else of its core. -/
theorem vectorPredicates : Obligations.VectorPredicates := by
  unfold Obligations.VectorPredicates
  intro s d c w0 w1 x k run
  have hbelow : tbOf w0 = false → ∀ e ∈ List.range (vcount w0 0), e < 2048 := fun htb e he =>
    Nat.lt_of_lt_of_le (List.mem_range.mp he) (vcount_le w0 0 htb)
  have predicateOp : ∀ (i : Instr) (op : Nat) (f : Bool → Bool → Bool), op ∈ [0x6C, 0x6D, 0x6E] → w1 = 0 →
      exec i s = s.run (vecIssue c op w0 0 vAny vAny (vCostOf w0 0) (predBody c f)) →
      run i op true (List.range (vcount w0 0)) fun e => f (k.pbit (fld64 w0 13 3) e) (k.pbit (fld64 w0 18 3) e) := by
    rintro i op f hop rfl hexec hruns
    obtain ⟨-, hcode, htb⟩ := register_of_vectorRuns hruns
      ((by decide : ∀ op ∈ [0x6C, 0x6D, 0x6E], tbAllowed op = false) op hop)
    obtain ⟨⟨-, hopcode, -⟩, -⟩ := id hruns
    obtain ⟨rfl, hw1⟩ := words_of_vectorRuns hruns
    obtain ⟨t, hrun, hbits, hrest⟩ := run_vecIssue_of_predicated hruns vAny (vCostOf x.w0 0) (predBody c f) rfl (hbelow htb)
      fun b m hb => by simpa only [hw1] using predBody_changes hb hcode htb f (by rwa [vop, hopcode])
    exact ⟨t, hexec.trans hrun, fun n e _ => hbits n e, hrest⟩
  refine ⟨fun htb hruns => ?cmp, fun hw1 => ?ops, fun hclean hruns => ?unpack⟩
  case cmp =>
    obtain ⟨-, -, hown, -, -, hcode, -⟩ := id hruns
    obtain ⟨rfl, rfl⟩ := words_of_vectorRuns hruns
    obtain ⟨t, hrun, hbits, hrest⟩ := run_vecIssue_of_predicated hruns (cmpLegal x.w0) (vCostOf x.w0 x.w1) (cmpBody c) hown
      (fun e => Core.lt_of_mem_actives htb) fun b m hb => cmpBody_changes hb hcode htb
    exact ⟨t, hrun, fun n e _ => hbits n e, hrest⟩
  case ops =>
    simp only [List.forall_mem_cons]
    exact ⟨predicateOp _ _ _ (by decide) hw1 rfl, predicateOp _ _ _ (by decide) hw1 rfl, predicateOp _ _ _ (by decide) hw1 rfl,
      fun _ h => absurd h List.not_mem_nil⟩
  case unpack =>
    obtain ⟨hown, hcode, htb⟩ := register_of_vectorRuns hruns (by decide)
    obtain ⟨rfl, rfl⟩ := words_of_vectorRuns hruns
    obtain ⟨t, hrun, hbits, hrest⟩ := run_vecIssue_of_predicated hruns (packLegal x.w0 x.w1) (vCostOf x.w0 x.w1) (unpackBody c) hown
      (hbelow htb) fun b m hb => unpackBody_changes hb hcode hclean
    exact ⟨t, hrun, fun n e _ => hbits n e, hrest⟩
end

section
/-! SUPPORT. The tile-buffer form on an idle engine and an undamaged local store, and O36 (R107, R108, R117, R118). -/

namespace Sys2Proof.Machine

/-! ### Elements of a tile buffer -/

/-- The cells of the results `res` of type `ty` in tile buffer `n` of core `k`. -/
def tileCells (k : Core) (n ty : Nat) (res : List (Nat × Nat)) : List (Nat × Byte) :=
  res.flatMap fun r => cellsAt (k.tb + 65536 * n + 4 * r.1) (natLe 4 (r.2 % 2 ^ tyBits ty))

/-- A cell of results lies in the container of its element. -/
theorem mem_tileCells {k : Core} {n ty : Nat} {res : List (Nat × Nat)} {act : List Nat} {g : Nat → Nat} (h : Fills res act g)
    {y : Nat × Byte} : y ∈ tileCells k n ty res ↔ ∃ e ∈ act, y ∈ cellsAt (k.tb + 65536 * n + 4 * e) (natLe 4 (g e % 2 ^ tyBits ty)) := by
  rw [tileCells, List.mem_flatMap]
  constructor
  · rintro ⟨r, hr, hy⟩
    exact ⟨r.1, (h.keys r.1).mp ⟨r, hr, rfl⟩, h.value r hr ▸ hy⟩
  · rintro ⟨e, he, hy⟩
    obtain ⟨r, hr, rfl⟩ := (h.keys e).mpr he
    exact ⟨r, hr, h.value r hr ▸ hy⟩

section
variable {k : Core} {n ty : Nat} {res : List (Nat × Nat)} {act : List Nat} {g : Nat → Nat} (h : Fills res act g)
include h

theorem Core.telem_stored_tileCells {e : Nat} (he : e ∈ act) :
    (k.stored (tileCells k n ty res)).telem n e = g e % 2 ^ tyBits ty := by
  have hlt : g e % 2 ^ tyBits ty < 256 ^ 4 :=
    Nat.lt_of_lt_of_le (Nat.mod_lt _ (Nat.two_pow_pos _)) (Nat.pow_le_pow_right (n := 2) (by decide) (tyBits_le ty))
  have hread : (k.stored (tileCells k n ty res)).lsNat (k.tb + 65536 * n + 4 * e) 4 = g e % 2 ^ tyBits ty % 256 ^ 4 := by
    refine Core.lsNat_of_bytes _ _ _ _ fun i v hv => ?_
    have hcell : (k.tb + 65536 * n + 4 * e + i, v) ∈ cellsAt (k.tb + 65536 * n + 4 * e) (natLe 4 (g e % 2 ^ tyBits ty)) :=
      (mem_cellsAt _ _ _).mpr ⟨Nat.le_add_right _ _, by rwa [Nat.add_sub_cancel_left]⟩
    refine Core.lsByte_stored_of_mem k _ _ v ((mem_tileCells h).mpr ⟨e, he, hcell⟩) fun y hy hya => ?_
    obtain ⟨e', -, hy'⟩ := (mem_tileCells h).mp hy
    have hin := lt_of_mem_cellsAt_natLe hcell
    have hin' := lt_of_mem_cellsAt_natLe hy'
    obtain rfl : e' = e := by dsimp only at hin hya; omega
    obtain ⟨-, hget⟩ := (mem_cellsAt _ _ _).mp hy'
    rw [hya, Nat.add_sub_cancel_left, hv] at hget
    exact (Option.some.inj hget).symm
  exact hread.trans (Nat.mod_eq_of_lt hlt)

theorem Core.lsByte_stored_tileCells {a : Nat} (ha : ∀ e ∈ act, a < k.tb + 65536 * n + 4 * e ∨ k.tb + 65536 * n + 4 * e + 4 ≤ a) :
    (k.stored (tileCells k n ty res)).lsByte a = k.lsByte a := by
  refine Core.lsByte_stored_of_not_mem k _ a fun y hy hya => ?_
  obtain ⟨e, he, hy'⟩ := (mem_tileCells h).mp hy
  have := ha e he
  have := lt_of_mem_cellsAt_natLe hy'
  omega

end

/-! ### What a body puts into its destination tile -/

/-- Device `t` is `d` with an instruction begun on core `c` that has given each element of `act` of tile buffer `n` its value of `g`, in the
container of type `ty`, and may have changed its status. -/
def Dev.TileFilled (d t : Dev) (c n ty : Nat) (act : List Nat) (g : Nat → Nat) : Prop :=
  ∃ res, Fills res act g ∧ d.Stored t c (tileCells (d.core c) n ty res)

section
variable {d t : Dev} {c n ty : Nat} {act : List Nat} {g : Nat → Nat} (h : d.TileFilled t c n ty act g)
include h

theorem Dev.TileFilled.vnote (sats nfs : Nat) : d.TileFilled (t.vnote c sats nfs) c n ty act g := by
  obtain ⟨res, hres, hs⟩ := h
  exact ⟨res, hres, hs.vnote sats nfs⟩

theorem Dev.TileFilled.count (blk e i : Nat) : d.TileFilled (t.count blk e i) c n ty act g := by
  obtain ⟨res, hres, m, w, hc, ho⟩ := h
  exact ⟨res, hres, m, w, (t.count_core blk e i c).trans hc, fun j hj => (t.count_core blk e i j).trans (ho j hj)⟩

end

section
variable {d b : Dev} {c : Nat} {m : Core} {x : QEnt} (h : d.Begun b c m) (hcode : (d.core c).code = []) (hclean : (d.core c).ls.chk = [])
  (ht : tbOf x.w0 = true)
include h hclean

include ht in
/-- Results written in tile-buffer form. -/
theorem Dev.Begun.vdst_tile {ty : Nat} {res : List (Nat × Nat)} {act : List Nat} {g : Nat → Nat} (hres : Fills res act g) :
    d.TileFilled (b.vdst c x ty res) c (fld64 x.w1 6 2) ty act g := by
  refine ⟨res, hres, ?_⟩
  rw [Dev.vdst, if_pos ht, h.core]
  exact h.stored.lsWrite hclean _

include hcode

/-- A body fills the tile if what it does on the active elements fills it. -/
theorem vecBody_tile {ty : Nat} {g : Nat → Nat} (f : Core → List Nat → QEnt → Dev → Dev)
    (hf : ∀ b', d.Begun b' c m →
      d.TileFilled (f ((d.core c).begun m) ((d.core c).actives x.w0 x.w1) x b') c (fld64 x.w1 6 2) ty ((d.core c).actives x.w0 x.w1) g) :
    d.TileFilled (vecBody c f x b) c (fld64 x.w1 6 2) ty ((d.core c).actives x.w0 x.w1) g := by
  obtain ⟨b', hb, heq⟩ := vecBody_of_readable h hcode x (fun _ => hclean) f
  rw [heq]
  exact hf b' hb

end

/-- The body of opcode `op`, begun on core `c` of `d`, gives the active elements of its destination tile their results. -/
def FillsTile (d b : Dev) (c op : Nat) (x : QEnt) : Prop :=
  d.TileFilled (vecBodyOf c op x b) c (fld64 x.w1 6 2) (elemTy x.w0) ((d.core c).actives x.w0 x.w1) (elemRes d (d.core c) x)

section
variable {d b : Dev} {c : Nat} {m : Core} {x : QEnt} (h : d.Begun b c m) (hcode : (d.core c).code = []) (hclean : (d.core c).ls.chk = [])
  (ht : tbOf x.w0 = true)
include h hcode hclean ht

theorem arithBody_tile {op : Nat} (hop : vop x.w0 = op) (hm : op ∈ arithOps) (hty : tyOf x.w0 ≠ 0xC) : FillsTile d b c op x := by
  have hbody : vecBodyOf c op = arithBody c := (by simp [arithOps, vecBodyOf] : ∀ op ∈ arithOps, vecBodyOf c op = arithBody c) op hm
  rw [FillsTile, hbody, elemTy_of_vop hop ((by decide : ∀ op ∈ arithOps, op ≠ 0x5F ∧ op ≠ 0x62 ∧ op ≠ 0x63) op hm)]
  refine vecBody_tile h hcode hclean _ fun b' hb => ?_
  rw [if_neg hty, Dev.vrand_of_vecParams hb.params]
  refine hb.vdst_tile hclean ht ((fills_map _ _).congr fun e => ?_)
  subst hop
  simp only [arithOps, List.mem_cons, List.not_mem_nil, or_false] at hm
  rcases hm with hop | hop | hop | hop | hop | hop <;> simp only [elemRes, hop] <;> rfl

theorem signBody_tile {op : Nat} (hop : vop x.w0 = op) (hm : op ∈ signOps) : FillsTile d b c op x := by
  have hbody : vecBodyOf c op = signBody c := (by simp [signOps, vecBodyOf] : ∀ op ∈ signOps, vecBodyOf c op = signBody c) op hm
  rw [FillsTile, hbody, elemTy_of_vop hop ((by decide : ∀ op ∈ signOps, op ≠ 0x5F ∧ op ≠ 0x62 ∧ op ≠ 0x63) op hm)]
  refine vecBody_tile h hcode hclean _ fun b' hb => hb.vdst_tile hclean ht ((fills_map _ _).congr fun e => ?_)
  subst hop
  simp only [signOps, List.mem_cons, List.not_mem_nil, or_false] at hm
  rcases hm with hop | hop <;> simp only [elemRes, hop] <;> rfl

theorem bitBody_tile {op : Nat} (hop : vop x.w0 = op) (hm : op ∈ bitOps) : FillsTile d b c op x := by
  have hbody : vecBodyOf c op = bitBody c := (by simp [bitOps, vecBodyOf] : ∀ op ∈ bitOps, vecBodyOf c op = bitBody c) op hm
  rw [FillsTile, hbody, elemTy_of_vop hop ((by decide : ∀ op ∈ bitOps, op ≠ 0x5F ∧ op ≠ 0x62 ∧ op ≠ 0x63) op hm)]
  refine vecBody_tile h hcode hclean _ fun b' hb => hb.vdst_tile hclean ht ((fills_map _ _).congr fun e => ?_)
  subst hop
  simp only [bitOps, List.mem_cons, List.not_mem_nil, or_false] at hm
  rcases hm with hop | hop | hop | hop | hop <;> simp only [elemRes, hop] <;> rfl

theorem cvtBody_tile (hop : vop x.w0 = 0x5F) : FillsTile d b c 0x5F x := by
  rw [FillsTile, show elemTy x.w0 = fld64 x.w0 18 4 by simp [elemTy, hop]]
  refine vecBody_tile h hcode hclean _ fun b' hb => ?_
  rw [Dev.vrand_of_vecParams hb.params]
  have hconv := convAll_fills (tyOf x.w0) (fld64 x.w0 18 4) (rndOf x.w0) (satOf x.w0) ((wordAt x.lat 0).toNat % 256) _
    (Core.actives_nodup (d.core c) x.w0 x.w1) (fun e => srcVal ((d.core c).begun m) x e) (d.vrand x)
  refine (hb.vdst_tile hclean ht (hconv.congr fun e => ?_)).vnote _ _
  simp only [elemRes, hop]
  rfl

theorem sfuBody_tile (hop : vop x.w0 = 0x60) : FillsTile d b c 0x60 x := by
  rw [FillsTile, elemTy_of_vop hop (by decide)]
  refine vecBody_tile h hcode hclean _ fun b' hb => (hb.vdst_tile hclean ht ((fills_map _ _).congr fun e => ?_)).count _ _ _
  rw [Dev.vrand_of_vecParams hb.params, Dev.featLevel_of_vecParams hb.params]
  simp only [elemRes, hop]
  rfl

theorem bcastBody_tile (hop : vop x.w0 = 0x61) : FillsTile d b c 0x61 x := by
  rw [FillsTile, elemTy_of_vop hop (by decide)]
  refine vecBody_tile h hcode hclean _ fun b' hb => ?_
  dsimp only
  split
  case isTrue hty =>
    rw [hty]
    refine (hb.vdst_tile hclean ht ((fills_map _ _).congr fun e => ?_)).count _ _ _
    simp only [elemRes, hop, hty, if_true]
  case isFalse hty =>
    refine hb.vdst_tile hclean ht ((fills_map _ _).congr fun e => ?_)
    simp only [elemRes, hop, hty, if_false]

theorem iotaBody_tile (hop : vop x.w0 = 0x62) : FillsTile d b c 0x62 x := by
  rw [FillsTile, show elemTy x.w0 = 0xB by simp [elemTy, hop]]
  refine vecBody_tile h hcode hclean _ fun b' hb => hb.vdst_tile hclean ht ((fills_map _ _).congr fun e => ?_)
  simp only [elemRes, hop]

/-- The element-wise instructions that have the form. -/
theorem fillsTile_of_elementwise {w0 w1 : W64} {y : Instr × Nat} {c' : Fin 512} (hy : y ∈ elementwise c' w0 w1) (hop : vop x.w0 = y.2)
    (hsel : y.2 ≠ 0x5E) (hrng : y.2 ≠ 0x63) (hty : y.2 ∈ arithOps → tyOf x.w0 ≠ 0xC) : FillsTile d b c y.2 x := by
  have hops := opcode_of_mem_elementwise hy
  generalize y.2 = op at hops hop hsel hrng hty ⊢
  rcases hops with rfl | hm | hm | hm | rfl | rfl | rfl | rfl | rfl
  · exact cvtBody_tile h hcode hclean ht hop
  · exact arithBody_tile h hcode hclean ht hop hm (hty hm)
  · exact signBody_tile h hcode hclean ht hop hm
  · exact bitBody_tile h hcode hclean ht hop hm
  · exact absurd rfl hsel
  · exact sfuBody_tile h hcode hclean ht hop
  · exact bcastBody_tile h hcode hclean ht hop
  · exact iotaBody_tile h hcode hclean ht hop
  · exact absurd rfl hrng

end

/-! ### The packed mask of VCMP -/

/-- A bit of the bytes of a written mask: of the mask below `n`, from there on as it was. -/
theorem Core.maskBit_stored_maskCells (k k' : Core) (addr n : Nat) (f : Nat → Bool) {e : Nat} (he : e < 8 * ceilDiv n 8) :
    (k.stored (maskCells k' addr n f)).maskBit addr e = if e < n then f e else k'.maskBit addr e := by
  have hbyte : (k.stored (maskCells k' addr n f)).lsByte (addr + e / 8) = maskByte k' addr n f (e / 8) := by
    refine Core.lsByte_stored_of_mem k _ _ _ (List.mem_map.mpr ⟨e / 8, List.mem_range.mpr (by omega), rfl⟩) fun y hy hye => ?_
    obtain ⟨i, -, rfl⟩ := List.mem_map.mp hy
    exact congrArg (maskByte k' addr n f) (Nat.add_left_cancel hye)
  rw [Core.maskBit, hbyte, maskByte, bit_packedByte _ _ (Nat.mod_lt _ (by decide)), Nat.div_add_mod]

theorem cmpBody_stores {d b : Dev} {c : Nat} {m : Core} {x : QEnt} (h : d.Begun b c m) (hcode : (d.core c).code = [])
    (hclean : (d.core c).ls.chk = []) (ht : tbOf x.w0 = true) :
    d.Stored (cmpBody c x b) c (maskCells (d.core c) (maskAddr x.w1) (vcount x.w0 x.w1) (comparison (d.core c) x)) := by
  obtain ⟨b', hb, heq⟩ := vecBody_of_readable h hcode x (fun _ => hclean) _
  rw [cmpBody, heq]
  simp only [ht, if_true, Dev.maskWrite, hb.core]
  exact hb.stored.lsWrite hclean _

/-! ### The instructions -/

theorem instrLen_of_tile {op : Nat} {w0 w1 : W64} (h : vecLegal op w0 w1 = true) (hop : fld64 w0 0 8 = op) (ht : tbOf w0 = true) :
    instrLen w0 = 16 := by
  have hallowed : tbAllowed op = true := by
    simp only [vecLegal, Bool.and_eq_true, ht, Bool.not_true, Bool.false_or] at h
    obtain ⟨-, ⟨⟨⟨hop, -⟩, -⟩, -⟩, -⟩ := h
    exact hop
  have hrange : 0x50 ≤ op ∧ op ≤ 0x6F := by
    simp only [tbAllowed, Bool.or_eq_true, Bool.and_eq_true, decide_eq_true_eq, beq_iff_eq] at hallowed
    omega
  have hwide : isWide w0 = true := by
    have hbit : (fld64 w0 57 1 == 1) = true := ht
    simp [isWide, hop, hrange, hbit]
  rw [instrLen, if_pos hwide]

/-- An instruction whose body writes cells that `P` holds of in the local store, issued on an idle engine in tile-buffer form. -/
theorem run_vecIssue_of_tile {u : State} {d : Dev} {c op : Nat} {w0 w1 : W64} {own : Bool} {x : QEnt}
    (h : VectorRuns u.dev d c op w0 w1 own x) (ht : tbOf w0 = true) (legal : Dev → Bool) (cost : Dev → Nat) (body : QEnt → Dev → Dev)
    (hl : legal d = true) {P : List (Nat × Byte) → Prop} (hbody : ∀ b m, d.Begun b c m → ∃ cells, P cells ∧ d.Stored (body x b) c cells) :
    ∃ t cells, u.run (vecIssue c op w0 w1 legal vAny cost body) = .next t ∧ P cells ∧ d.WroteBytes t.dev c 16 cells ∧
      (t.dev.core c).tb = (d.core c).tb := by
  obtain ⟨⟨-, hop, -⟩, hform, -⟩ := id h
  obtain ⟨t, _, hrun, ⟨cells, m, w, hcells, rfl⟩, hcore, hother⟩ := run_vecIssue_of_body h legal cost body hl
    (Q := fun k => ∃ cells m w, P cells ∧ k = { ((d.core c).begun m).stored cells with vstat := w }) (by rintro _ ⟨_, _, _, -, rfl⟩; rfl)
    fun b m hb => by
      obtain ⟨cells, hcells, m', w, hc, ho⟩ := hbody b m hb
      exact ⟨⟨cells, m', w, hcells, hc⟩, ho⟩
  rw [instrLen_of_tile hform hop ht] at hcore
  refine ⟨t, cells, hrun, hcells, ⟨?_, ?_, ?_, ?_, ?_, hother⟩, ?_⟩ <;> rw [hcore] <;> rfl

theorem Core.telem_of_ls {k k' : Core} (hls : k.ls = k'.ls) (htb : k.tb = k'.tb) (n e : Nat) : k.telem n e = k'.telem n e := by
  rw [Core.telem, htb]
  exact Core.lsNat_of_ls hls _ _

end Sys2Proof.Machine

open Sys2Proof Sys2Proof.Machine

/-- Settles O36: the body of an element-wise instruction fills its destination tile (`fillsTile_of_elementwise`), VCMP's writes its packed
mask (`cmpBody_stores`), and an undamaged local store gives back the cells written and keeps every other byte. -/
theorem tileBufferForms : Obligations.TileBufferForms := by
  unfold Obligations.TileBufferForms
  intro s d c w0 w1 x k dst regs hclean _ htb
  refine ⟨fun y hy hruns hsum hsel hrng => ?elementwise, fun hruns => ?cmp⟩
  case elementwise =>
    obtain ⟨legal, hexec, hlegal⟩ := issuesBody_elementwise c w0 w1 y hy fun h => (h.elim hsel hrng).elim
    obtain ⟨⟨-, hop, -⟩, hform, hown, -, -, hcode, -⟩ := id hruns
    obtain ⟨rfl, rfl⟩ := words_of_vectorRuns hruns
    have hty : y.2 ∈ arithOps → tyOf x.w0 ≠ 0xC := fun hm => by
      have hsplit : y.2 ∈ [0x50, 0x51] ∨ y.2 ∈ [0x52, 0x53, 0x54, 0x55] := List.mem_append.mp hm
      exact hsplit.elim (fun h => hsum (by simpa using h)) (tyOf_ne_bi16 hform)
    obtain ⟨t, _, hrun, ⟨res, hres, rfl⟩, hw, hbase⟩ := run_vecIssue_of_tile hruns htb legal (vCostOf x.w0 x.w1) (vecBodyOf c y.2)
      (hlegal d hown)
      (P := fun cells => ∃ res, Fills res (k.actives x.w0 x.w1) (elemRes d k x) ∧ cells = tileCells k (fld64 x.w1 6 2) (elemTy x.w0) res)
      fun b m hb => by
        obtain ⟨res, hres, hs⟩ := fillsTile_of_elementwise hb hcode hclean htb hy hop hsel hrng hty
        exact ⟨_, ⟨res, hres, rfl⟩, hs⟩
    refine ⟨t, (hexec s).trans hrun, ⟨hw.s, hw.p, hw.v, hw.pc⟩, fun e he => ?_, fun a _ ha => ?_, hw.other⟩
    · exact (Core.telem_of_ls hw.ls hbase _ e).trans (Core.telem_stored_tileCells hres he)
    · exact (Core.lsByte_of_ls hw.ls a).trans (Core.lsByte_stored_tileCells hres ha)
  case cmp =>
    obtain ⟨-, -, hown, -, -, hcode, -⟩ := id hruns
    obtain ⟨rfl, rfl⟩ := words_of_vectorRuns hruns
    obtain ⟨t, _, hrun, rfl, hw, -⟩ := run_vecIssue_of_tile hruns htb (cmpLegal x.w0) (vCostOf x.w0 x.w1) (cmpBody c) hown
      (P := (· = maskCells k (maskAddr x.w1) (vcount x.w0 x.w1) (comparison k x)))
      fun b m hb => ⟨_, rfl, cmpBody_stores hb hcode hclean htb⟩
    refine ⟨t, hrun, ⟨hw.s, hw.p, hw.v, hw.pc⟩, fun e he => ?_, fun a _ ha => ?_, hw.other⟩
    · exact (Core.maskBit_of_ls hw.ls _ _).trans (Core.maskBit_stored_maskCells _ _ _ _ _ he)
    · exact (Core.lsByte_of_ls hw.ls a).trans (Core.lsByte_stored_maskCells _ _ _ _ _ a ha)
end

section
/-! SUPPORT. The issue of a scalar instruction, what an instruction of the core alone leaves, and O24 (R134, R135, R136). -/

namespace Sys2Proof.Machine

/-! ### What an instruction of 8 bytes leaves -/

theorem Dev.besideCores_of_coreless {a b : Dev} (h : a.coreless = b.coreless) : a.besideCores = b.besideCores := by
  rw [Dev.eq_of_coreless h]
  rfl

/-- Of a device that follows `s`, made of `d` by an instruction of core `c`, which without a debug trace differs from `d` in cores and counters
alone. -/
theorem stepped_of_coreless {s d u : Dev} {c n : Nat} {k : Core} (hsec : d.sec = s.sec)
    (hcore : u.core c = { k with pc := (d.core c).pc + n, since := (d.core c).since + 1, redo := (d.core c).redo - 1 })
    (hother : ∀ j, j ≠ c → u.core j = d.core j) (hbeside : u.besideCores = d.besideCores)
    (hless : d.traceGrant = false → u.coreless = d.coreless) : Stepped d (s.wired u) c n k := by
  by_cases hgrant : d.traceGrant = false
  · refine stepped_of_counted (cls := 0) hsec hcore hother (hbeside.trans (d.countIssue_besideCores c 0).symm) ?_
    exact (hless hgrant).trans (d.countIssue_coreless c 0 hgrant).symm
  · refine ⟨hcore, hother, ?_, fun h => absurd h hgrant⟩
    simp only [Dev.besideCores, Dev.beside, Prod.mk.injEq] at hbeside
    obtain ⟨hpkg, -, hcs, hev, hchans, hbases, hque, hjob, hdisp, hupds, hcol, hfab, htim, hs, hpwr, hcar, hreal⟩ := hbeside
    simp only [Dev.beside, Dev.wired, hpkg, hcs, hev, hchans, hbases, hque, hjob, hdisp, hupds, hcol, hfab, htim, hs, hpwr, hcar, hreal, hsec,
      Sec.fuses_self]

/-- Going on behind an instruction of 8 bytes that has been counted and has made `k` of its core. -/
theorem stepped_advance {s d u : Dev} {c : Nat} {k : Core} (hsec : d.sec = s.sec) (hpc : (d.core c).pc + 8 < lsSize)
    (hcore : u.core c = { k with pc := (d.core c).pc, since := (d.core c).since + 1, redo := (d.core c).redo - 1 })
    (hother : ∀ j, j ≠ c → u.core j = d.core j) (hbeside : u.besideCores = d.besideCores)
    (hless : d.traceGrant = false → u.coreless = d.coreless) : Stepped d (s.wired (u.advance c 8)) c 8 k := by
  have hupc : (u.core c).pc = (d.core c).pc := by rw [hcore]
  rw [Dev.advance_ok u c 8 (by rw [hupc]; exact hpc), hupc]
  refine stepped_of_coreless hsec ?_ (fun j hj => ?_) ?_ (fun hgrant => ?_)
  · rw [Dev.moves_core, Dev.core_onCore, if_pos rfl, hcore]
  · rw [Dev.moves_core, Dev.core_onCore, if_neg hj, hother j hj]
  · rw [Dev.moves_besideCores, Dev.onCore_besideCores, hbeside]
  · rw [Dev.moves_coreless, Dev.onCore_coreless, hless hgrant]

/-- A scalar register written, the instruction counted and gone on behind; `b` is `d` but for counters. -/
theorem stepped_setS {s d b : Dev} {c : Nat} (hsec : d.sec = s.sec) (hpc : (d.core c).pc + 8 < lsSize) (hcores : ∀ j, b.core j = d.core j)
    (hless : b.coreless = d.coreless) (f : Core → Core) (x : Nat) (v : W64) (hf : f (d.core c) = (d.core c).setS x v) :
    Stepped d (s.wired (((b.onCore c f).countIssue c 0).advance c 8)) c 8 ((d.core c).setS x v) := by
  refine stepped_advance hsec hpc ?_ (fun j hj => ?_) ?_ (fun hgrant => ?_)
  · rw [Dev.core_countIssue, if_pos rfl, Dev.core_onCore, if_pos rfl, hcores, hf]
    rfl
  · rw [Dev.core_countIssue, if_neg hj, Dev.core_onCore, if_neg hj, hcores]
  · rw [Dev.countIssue_besideCores, Dev.onCore_besideCores, Dev.besideCores_of_coreless hless]
  · have hb : (b.onCore c f).traceGrant = false := (Dev.traceGrant_of_regs (Dev.parts_of_coreless hless).1).trans hgrant
    rw [Dev.countIssue_coreless _ _ _ hb, Dev.onCore_coreless, hless]

/-- The registers of a core behind an instruction that writes one of them. -/
theorem sreg_of_stepped {d t : Dev} {c n x : Nat} {v : W64} (h : Stepped d t c n ((d.core c).setS x v)) (r : Nat) :
    (t.core c).sreg r = if r = x then v else (d.core c).sreg r := by
  obtain ⟨hcore, -⟩ := h
  rw [hcore]
  exact (d.core c).sreg_setS x r v

/-! ### The issue of a scalar instruction -/

theorem instrLen_of_scalar {w : W64} (h : fld64 w 0 8 < 0x40) : instrLen w = 8 := by
  have hwide : isWide w = false := by
    simp only [isWide, Bool.or_eq_false_iff, Bool.and_eq_false_iff, beq_eq_false_iff_ne, decide_eq_false_iff_not]
    omega
  rw [instrLen, hwide]
  rfl

section
variable {s d : Dev} {c op : Nat} {w : W64} (h : Fetches s d c w op)
include h

/-- A legal word that is fetched before the end of the store is executed. -/
theorem issue_of_fetches (legal : Dev → Bool) (body : Dev → Dev) (hl : legal d = true) : s.issue c op w legal body = body d := by
  obtain ⟨hi, ho, hfetch, hpc⟩ := h
  exact s.issue_ok c op w legal body d hi ho hfetch (Nat.le_of_lt hpc) hl

theorem pc_of_fetches (hop : op < 0x40) : (d.core c).pc + 8 < lsSize := by
  obtain ⟨-, ho, -, hpc⟩ := h
  rwa [instrLen_of_scalar (by rw [ho]; exact hop)] at hpc

/-- A legal register instruction that awaits nothing writes its result. -/
theorem aluEffect_of_fetches (n : Nat) (f : W64 → W64 → W64) (hl : legalAlu w n = true) (hr : d.regsFree c (aluRegs w) = true) :
    aluEffect c op n f w s =
      ((d.onCore c fun k => k.setS (sdOf w) (f (k.sreg (saOf w)) (opB k w))).countIssue c 0).advance c 8 := by
  rw [aluEffect, issue_of_fetches h _ _ hl]
  simp [hr]

/-- A legal instruction that sets a register from its immediate, and awaits nothing, writes it. -/
theorem immEffect_of_fetches (n : Nat) (f : W64 → W64) (hl : (imOf w && onlyBits w (scalarMask true false false true n)) = true)
    (hr : d.regsFree c [sdOf w] = true) :
    immEffect c op n f w s = ((d.onCore c fun k => k.setS (sdOf w) (f (k.sreg (sdOf w)))).countIssue c 0).advance c 8 := by
  rw [immEffect, issue_of_fetches h _ _ hl]
  simp [hr]

end

/-- What a command does that writes one scalar register of core `c` and goes on behind an instruction of 8 bytes. -/
theorem writes_of_stepped {i : Instr} {s : State} {f : Dev → Dev} {d u : Dev} {c x : Nat} {v : W64} (hi : exec i s = s.run f) (hf : f s.dev = u)
    (hs : Stepped d (s.dev.wired u) c 8 ((d.core c).setS x v)) :
    ∃ t, exec i s = .next t ∧ Stepped d t.dev c 8 ((d.core c).setS x v) ∧
      ∀ r, (t.dev.core c).sreg r = if r = x then v else (d.core c).sreg r :=
  ⟨_, hi.trans (State.run_eq hf), hs, sreg_of_stepped hs⟩

end Sys2Proof.Machine

open Sys2Proof Sys2Proof.Machine

/-- Settles O24: each operation is the register instruction of its opcode, which writes its result and goes on (`stepped_setS`). -/
theorem scalarArithmetic : Obligations.ScalarArithmetic := by
  unfold Obligations.ScalarArithmetic
  intro s d c w x hx
  have hrow : x.2.1 < 0x40 ∧ exec (x.1 c w) s = s.run (aluEffect c x.2.1 x.2.2.1 x.2.2.2 w) := by
    revert x
    simp only [List.forall_mem_cons]
    exact ⟨⟨by decide, rfl⟩, ⟨by decide, rfl⟩, ⟨by decide, rfl⟩, ⟨by decide, rfl⟩, ⟨by decide, rfl⟩, ⟨by decide, rfl⟩,
      ⟨by decide, rfl⟩, ⟨by decide, rfl⟩, ⟨by decide, rfl⟩, fun _ h => absurd h List.not_mem_nil⟩
  obtain ⟨hop, hexec⟩ := hrow
  intro hfetch hlegal hfree k b
  exact writes_of_stepped hexec (aluEffect_of_fetches hfetch _ _ hlegal hfree)
    (stepped_setS (sec_of_fetches hfetch) (pc_of_fetches hfetch hop) (fun _ => rfl) rfl _ _ _ rfl)
end

section
/-! SUPPORT. SLD, STIME and PRD, and O25 (R134, R136, R339, R523). -/

namespace Sys2Proof.Machine

section
variable {s d : Dev} {c : Nat} {w : W64}

/-- SLD of an aligned address inside the store, whose word can be read. -/
theorem sldEffect_of_fetches {e : Dev} (h : Fetches s d c w 0x10)
    (hl : (imOf w && onlyBits w (scalarMask true true false true 40)) = true) (hr : d.regsFree c [sdOf w, saOf w] = true)
    (ha : lsAddr (d.core c) w % 8 = 0) (hin : lsAddr (d.core c) w < lsSize)
    (hread : d.lsCheck c [(lsAddr (d.core c) w, 8)] = (e, true)) :
    sldEffect c w s = (((e.moves c 1).onCore c fun k =>
      k.setS (sdOf w) (BitVec.ofNat 64 (k.lsNat (lsAddr (d.core c) w) 8))).countIssue c 0).advance c 8 := by
  have hok : lsAddrOk (lsAddr (d.core c) w) = true := by simp [lsAddrOk, ha, hin]
  rw [sldEffect, issue_of_fetches h _ _ hl]
  simp [hr, hok, hread]

theorem stimeEffect_of_fetches (h : Fetches s d c w 0x20) (hl : onlyBits w (scalarMask true false false false 0) = true)
    (hr : d.regsFree c [sdOf w] = true) :
    stimeEffect c w s =
      ((d.onCore c fun k => k.setS (sdOf w) (BitVec.ofNat 64 (d.now (c / 128)))).countIssue c 0).advance c 8 := by
  rw [stimeEffect, issue_of_fetches h _ _ hl]
  simp [hr]

/-- PRD reads behind the count of its own issue. -/
theorem prdEffect_of_fetches (h : Fetches s d c w 0x36) (hl : (imOf w && onlyBits w (scalarMask true true false true 40)) = true)
    (hr : d.regsFree c [sdOf w, saOf w] = true) :
    prdEffect c w s = ((d.countIssue c 0).onCore c fun k => k.setS (sdOf w)
      ((d.countIssue c 0).prdRead k.grant ((k.sreg (saOf w) + immOf w).toNat % 2 ^ 19))).advance c 8 := by
  rw [prdEffect, issue_of_fetches h _ _ hl]
  simp [hr]

/-- A register written behind the count of the issue. -/
theorem stepped_setS_counted (hsec : d.sec = s.sec) (hpc : (d.core c).pc + 8 < lsSize) (f : Core → Core) (x : Nat) (v : W64)
    (hf : f { d.core c with since := (d.core c).since + 1, redo := (d.core c).redo - 1 } =
      { (d.core c).setS x v with since := (d.core c).since + 1, redo := (d.core c).redo - 1 }) :
    Stepped d (s.wired (((d.countIssue c 0).onCore c f).advance c 8)) c 8 ((d.core c).setS x v) := by
  refine stepped_advance hsec hpc ?_ (fun j hj => ?_) ?_ (fun hgrant => ?_)
  · rw [Dev.core_onCore, if_pos rfl, Dev.core_countIssue, if_pos rfl, hf]
    rfl
  · rw [Dev.core_onCore, if_neg hj, Dev.core_countIssue, if_neg hj]
  · rw [Dev.onCore_besideCores, Dev.countIssue_besideCores]
  · rw [Dev.onCore_coreless, Dev.countIssue_coreless _ _ _ hgrant]

/-- A core whose store has been read runs on from where it was. -/
theorem pc_of_lsCheck {e : Dev} {ranges : List (Nat × Nat)} {ok : Bool} (h : d.lsCheck c ranges = (e, ok)) : (e.core c).pc = (d.core c).pc := by
  rw [Dev.core_of_lsCheck h]

end

end Sys2Proof.Machine

open Sys2Proof Sys2Proof.Machine

/-- Settles O25: each row finds the value that its rule names and writes it as the register instructions do (`stepped_setS`); PRD counts its
issue first. -/
theorem scalarImmediatesLoadsCounters : Obligations.ScalarImmediatesLoadsCounters := by
  unfold Obligations.ScalarImmediatesLoadsCounters
  intro s d e c w k done
  refine ⟨fun h hl hr => ?_, fun h hl hr => ?_, fun h hl hr ha hin hread => ?_, fun h hl hr => ?_, fun h hl hr => ?_⟩
  all_goals
    have hsec := sec_of_fetches h
    have hpc := pc_of_fetches h (by decide)
  · exact writes_of_stepped rfl (immEffect_of_fetches h _ _ hl hr) (stepped_setS hsec hpc (fun _ => rfl) rfl _ _ _ rfl)
  · exact writes_of_stepped rfl (immEffect_of_fetches h _ _ hl hr) (stepped_setS hsec hpc (fun _ => rfl) rfl _ _ _ rfl)
  · exact writes_of_stepped rfl (sldEffect_of_fetches h hl hr ha hin hread)
      (stepped_setS ((Dev.sec_of_lsCheck hread).trans hsec) (by rw [pc_of_lsCheck hread]; exact hpc) (fun j => e.moves_core c 1 j)
        (e.moves_coreless c 1) _ _ _ rfl)
  · exact writes_of_stepped rfl (stimeEffect_of_fetches h hl hr) (stepped_setS hsec hpc (fun _ => rfl) rfl _ _ _ rfl)
  · exact writes_of_stepped rfl (prdEffect_of_fetches h hl hr) (stepped_setS_counted hsec hpc _ _ _ rfl)
end

section
/-! SUPPORT. SST, the branches, and O26 (R134, R136, R140). -/

namespace Sys2Proof.Machine

/-! ### Bytes stored in a row -/

theorem Core.lsByte_stored_cellsAt (k : Core) (a i : Nat) (bs : List Byte) (b : Byte) (h : bs[i]? = some b) :
    (k.stored (cellsAt a bs)).lsByte (a + i) = b := by
  refine k.lsByte_stored_of_mem _ _ _ ((mem_cellsAt bs a _).mpr ⟨Nat.le_add_right a i, ?_⟩) fun y hy hya => ?_
  · rw [Nat.add_sub_cancel_left]
    exact h
  · obtain ⟨-, hb⟩ := (mem_cellsAt bs a y).mp hy
    rw [hya, Nat.add_sub_cancel_left, h] at hb
    exact (Option.some.inj hb).symm

theorem Core.lsByte_stored_cellsAt_outside (k : Core) (a j : Nat) (bs : List Byte) (h : j < a ∨ a + bs.length ≤ j) :
    (k.stored (cellsAt a bs)).lsByte j = k.lsByte j := by
  refine k.lsByte_stored_of_not_mem _ _ fun y hy hya => ?_
  obtain ⟨hlo, hb⟩ := (mem_cellsAt bs a y).mp hy
  obtain ⟨hlt, -⟩ := List.getElem?_eq_some_iff.mp hb
  omega

/-! ### Going on, or elsewhere -/

theorem Dev.core_countIssue_pc (s : Dev) (c k : Nat) : ((s.countIssue c k).core c).pc = (s.core c).pc := by
  rw [Dev.core_countIssue, if_pos rfl]

/-- A branch to an aligned target inside the local store. -/
theorem Dev.branchTo_ok (s : Dev) (c : Nat) (tgt : Int) (h0 : 0 ≤ tgt) (hlt : tgt < lsSize) (h8 : tgt % 8 = 0) :
    s.branchTo c tgt = ((s.onCore c fun k => { k with pc := tgt.toNat }).count (coreBlk c) 11 1).moves c 1 :=
  if_neg fun h => by omega

/-- Behind an instruction of 8 bytes whose core, before the count of the issue, was `k`. -/
theorem Dev.core_advance_counted {x y d : Dev} {c : Nat} {k : Core} (hy : y.cores = (x.countIssue c 0).cores) (hx : x.core c = k)
    (hother : ∀ j, j ≠ c → x.core j = d.core j) (hpc : k.pc + 8 < lsSize) :
    (y.advance c 8).core c = { k with pc := k.pc + 8, since := k.since + 1, redo := k.redo - 1 } ∧
      ∀ j, j ≠ c → (y.advance c 8).core j = d.core j := by
  have hcore : ∀ j, y.core j = if j = c then { k with since := k.since + 1, redo := k.redo - 1 } else x.core j := fun j => by
    rw [Dev.core, hy, ← Dev.core, Dev.core_countIssue, hx]
  obtain ⟨hsame, hothers⟩ := Dev.advance_core (s := y) (c := c) (n := 8) (by rw [hcore, if_pos rfl]; exact hpc)
  refine ⟨hsame.trans (by rw [hcore, if_pos rfl]), fun j hj => (hothers j hj).trans ?_⟩
  rw [hcore, if_neg hj, hother j hj]

section
variable {s d : Dev} {c : Nat} {w : W64}

/-- SST on an undamaged local store. -/
theorem sstEffect_of_fetches (h : Fetches s d c w 0x11)
    (hl : (!imOf w && onlyBits w (scalarMask false true true false 40)) = true) (hr : d.regsFree c [saOf w, sbOf w] = true)
    (ha : lsAddr (d.core c) w % 8 = 0) (hin : lsAddr (d.core c) w < lsSize) (hclean : (d.core c).ls.chk = []) :
    sstEffect c w s = (((d.setCore c ((d.core c).stored
      (cellsAt (lsAddr (d.core c) w) (natLe 8 ((d.core c).sreg (sbOf w)).toNat)))).moves c 1).countIssue c 0).advance c 8 := by
  have hok : lsAddrOk (lsAddr (d.core c) w) = true := by simp [lsAddrOk, ha, hin]
  rw [sstEffect, issue_of_fetches h _ _ hl, ← d.lsWrite_of_clean c _ hclean]
  simp [hr, hok]

theorem brEffect_of_fetches (h : Fetches s d c w 0x18) (hl : (imOf w && onlyBits w (scalarMask false false false true 40)) = true) :
    brEffect c w s = (d.countIssue c 0).branchTo c (branchTarget (d.core c) w) :=
  issue_of_fetches h _ _ hl

theorem branchEffect_of_fetches {op : Nat} (h : Fetches s d c w op) (cond : W64 → W64 → Bool)
    (hl : (!imOf w && onlyBits w (scalarMask false true true false 40)) = true) (hr : d.regsFree c [saOf w, sbOf w] = true) :
    branchEffect c op cond w s = if cond ((d.core c).sreg (saOf w)) ((d.core c).sreg (sbOf w)) = true then
      (d.countIssue c 0).branchTo c (branchTarget (d.core c) w) else (d.countIssue c 0).advance c 8 := by
  rw [branchEffect, issue_of_fetches h _ _ hl]
  simp [hr]

end

end Sys2Proof.Machine

open Sys2Proof Sys2Proof.Machine

/-- Settles O26: SST writes the cells of its 8 bytes, which an undamaged store gives back; a branch is `Dev.branchTo_ok` or going on. -/
theorem scalarStoresAndBranches : Obligations.ScalarStoresAndBranches := by
  unfold Obligations.ScalarStoresAndBranches
  intro s d c w k a tgt goTo taken
  refine ⟨fun h hl hr ha hin hclean => ?_, fun h hl h0 hlt h8 => ?_, fun x hx => ?_⟩
  · let stored := (d.setCore c (k.stored (cellsAt a (natLe 8 (k.sreg (sbOf w)).toNat)))).moves c 1
    have hstored : ∀ j, stored.core j = if j = c.val then k.stored (cellsAt a (natLe 8 (k.sreg (sbOf w)).toNat)) else d.core j := fun j => by
      rw [Dev.moves_core, Dev.core_setCore]
    obtain ⟨hcore, hother⟩ := Dev.core_advance_counted (y := stored.countIssue c 0) rfl ((hstored c).trans (if_pos rfl))
      (fun j hj => (hstored j).trans (if_neg hj)) (pc_of_fetches h (by decide))
    refine ⟨_, State.run_eq (sstEffect_of_fetches h hl hr ha hin hclean), ?_, fun r => ?_, ?_, fun b hb => ?_, hother⟩
    · exact congrArg Core.pc hcore
    · exact (congrArg (Core.sreg · r) hcore).trans rfl
    · refine (congrArg (Core.lsNat · a 8) hcore).trans ((Core.lsNat_of_bytes _ a 8 _ fun i b hi => ?_).trans
        (Nat.mod_eq_of_lt (k.sreg (sbOf w)).isLt))
      exact k.lsByte_stored_cellsAt a i _ b hi
    · refine (congrArg (Core.lsByte · b) hcore).trans (k.lsByte_stored_cellsAt_outside a b _ ?_)
      rwa [natLe_length]
  · exact State.run_eq ((brEffect_of_fetches h hl).trans (Dev.branchTo_ok _ _ _ h0 hlt h8))
  · have hrow : x.2.1 < 0x40 ∧ exec (x.1 c w) s = s.run (branchEffect c x.2.1 x.2.2 w) := by
      revert x
      simp only [List.forall_mem_cons]
      exact ⟨⟨by decide, rfl⟩, ⟨by decide, rfl⟩, ⟨by decide, rfl⟩, ⟨by decide, rfl⟩, fun _ h => absurd h List.not_mem_nil⟩
    obtain ⟨hop, hexec⟩ := hrow
    intro h hl hr
    have hbranch := branchEffect_of_fetches h x.2.2 hl hr
    refine ⟨fun htaken h0 hlt h8 => hexec.trans (State.run_eq ?_), fun hnot => hexec.trans (State.run_eq ?_)⟩
    · rw [hbranch, if_pos htaken]
      exact Dev.branchTo_ok _ _ _ h0 hlt h8
    · have hpc := d.core_countIssue_pc c 0
      rw [hbranch, if_neg (ne_true_of_eq_false hnot), Dev.advance_ok _ _ _ (by rw [hpc]; exact pc_of_fetches h hop), hpc]
end

section
/-! SUPPORT. Events and the start of chains by a core, and O27 (R138, R139, R144). -/

namespace Sys2Proof.Machine

/-- Going on behind an instruction of 8 bytes, where counting it has left `d`'s place and what the instruction did before leaves the cores. -/
theorem Dev.advance_counted {x d : Dev} {c : Nat} (hcores : x.cores = d.cores) (hpc : (d.core c).pc + 8 < lsSize) :
    (x.countIssue c 0).advance c 8 =
      ((x.countIssue c 0).onCore c fun y => { y with pc := y.pc + 8 }).moves c (fetchLines (d.core c).pc 8) := by
  have hx : ((x.countIssue c 0).core c).pc = (d.core c).pc := by rw [Dev.core_countIssue_pc, Dev.core, hcores, ← Dev.core]
  rw [Dev.advance_ok _ _ _ (by rw [hx]; exact hpc), hx, ← hx]
  rfl

theorem Dev.evGet_arrive (s : Dev) (dom n : Nat) : (s.arrive dom n).evGet dom n = s.evGet dom n + 1 :=
  Sparse.get_set_same _ _ _ _

theorem Dev.ev_of_beside {a b : Dev} (h : a.beside = b.beside) : a.ev = b.ev := by
  simp only [Dev.beside, Prod.mk.injEq] at h
  obtain ⟨-, -, -, hev, -⟩ := h
  exact hev

/-- Counting an issue leaves the counter that the core's work names. -/
theorem Dev.evGet_countIssue (s : Dev) (c k n : Nat) : (s.countIssue c k).evGet ((s.countIssue c k).dom c) n = s.evGet (s.dom c) n := by
  have hdom : (s.countIssue c k).dom c = s.dom c := by rw [Dev.dom, Dev.core_countIssue, if_pos rfl]; rfl
  rw [hdom, Dev.evGet, Dev.ev_of_beside (s.countIssue_beside c k)]
  rfl

/-- The difference modulo 2^32 lies in the lower half (R138). -/
theorem reaches_iff (a b : W32) : reaches a b = true ↔ (a.toNat + 2 ^ 32 - b.toNat) % 2 ^ 32 < 2 ^ 31 := by
  have hb := b.isLt
  have hsum : a.toNat + 2 ^ 32 - b.toNat = 2 ^ 32 - b.toNat + a.toNat := by omega
  rw [reaches, Bool.not_eq_true', BitVec.msb_eq_decide, BitVec.toNat_sub, decide_eq_false_iff_not, Nat.not_le, hsum]

section
variable {s d : Dev} {c : Nat} {w : W64}

theorem evsigEffect_of_fetches (h : Fetches s d c w 0x30) (hl : (imOf w && onlyBits w (scalarMask false false false true 8)) = true)
    (hstores : d.storesDone c = true) (hfolds : d.foldsDone c = true) :
    evsigEffect c w s = ((d.arrive (d.dom c) (immLow w 8)).countIssue c 0).advance c 8 := by
  rw [evsigEffect, issue_of_fetches h _ _ hl]
  simp [hstores, hfolds]

theorem evwaitEffect_of_fetches (h : Fetches s d c w 0x31) (hl : (imOf w && onlyBits w (scalarMask false true false true 8)) = true)
    (hr : d.regsFree c [saOf w] = true) :
    evwaitEffect c w s = if reaches (d.evGet (d.dom c) (immLow w 8)) (((d.core c).sreg (saOf w)).setWidth 32) = true then
      (d.countIssue c 0).advance c 8 else (d.countIssue c 0).onCore c fun y =>
        { y with pc := y.pc + 8, run := .waiting (immLow w 8) (((d.core c).sreg (saOf w)).setWidth 32) } := by
  rw [evwaitEffect, issue_of_fetches h _ _ hl]
  simp only [hr, Bool.not_true, Bool.false_eq_true, if_false, Dev.evGet_countIssue]

theorem dmagoEffect_of_fetches (h : Fetches s d c w 0x32) (hl : (imOf w && onlyBits w (scalarMask false true false true 4)) = true)
    (hr : d.regsFree c [saOf w] = true) (hstores : d.storesDone c = true) (hidle : (d.chan (16 * (c / 16) + immLow w 4)).st = .idle) :
    dmagoEffect c w s = ((d.startChain (16 * (c / 16) + immLow w 4) ((d.core c).sreg (saOf w)).toNat (d.isBrz c) (some c) (.core c)
      (d.core c).work).countIssue c 0).advance c 8 := by
  rw [dmagoEffect, issue_of_fetches h _ _ hl]
  simp [hr, hstores, hidle]

theorem evwaitResumeEffect_of_reached {n : Nat} {v : W32} (hdown : d.coreDown c = false) (hrun : (d.core c).run = .waiting n v)
    (hreach : reaches (d.evGet (d.dom c) n) v = true) (hpc : (d.core c).pc < lsSize) :
    evwaitResumeEffect c d = d.onCore c fun y => { y with run := .issuing } := by
  rw [evwaitResumeEffect, hdown, hrun]
  simp [hreach, hpc]

end

end Sys2Proof.Machine

open Sys2Proof Sys2Proof.Machine

/-- Settles O27: each row does its own and goes on behind itself (`Dev.advance_counted`); a core that waits goes on when its counter has
reached the value. -/
theorem eventsAndChains : Obligations.EventsAndChains := by
  unfold Obligations.EventsAndChains
  intro s d c w n v k next
  refine ⟨fun h hl hstores hfolds => ⟨State.run_eq ?_, d.evGet_arrive _ _⟩, fun h hl hr => ⟨fun hreach _ => State.run_eq ?_,
    fun hreach _ => State.run_eq ?_⟩, reaches_iff, fun hdown hrun hreach hpc =>
    State.run_eq (evwaitResumeEffect_of_reached hdown hrun hreach hpc), fun h hl hr hstores hidle => State.run_eq ?_⟩
  · exact (evsigEffect_of_fetches h hl hstores hfolds).trans (Dev.advance_counted rfl (pc_of_fetches h (by decide)))
  · rw [evwaitEffect_of_fetches h hl hr, if_pos hreach]
    exact Dev.advance_counted rfl (pc_of_fetches h (by decide))
  · rw [evwaitEffect_of_fetches h hl hr, if_neg (ne_true_of_eq_false hreach)]
  · exact (dmagoEffect_of_fetches h hl hr hstores hidle).trans (Dev.advance_counted rfl (pc_of_fetches h (by decide)))
end

section
/-! SUPPORT. Restart marks, the end of a segment, statistics folds, and O28 (R137, R153, R159, R172, R174, R175). -/

namespace Sys2Proof.Machine

section
variable {s d : Dev} {c : Nat} {w : W64}

/-- The restart record is written where the context slot can be read. -/
theorem rmarkEffect_of_fetches {e : Dev} {o : List Byte} (h : Fetches s d c w 0x33) (hl : onlyBits w 0xFF = true) (hquiet : d.quiet c = true)
    (hread : d.csRead (c / 16) (d.ctxSlot c + 8) 4 = (e, some o)) :
    rmarkEffect c w s =
      (let x := e.csWrite (c / 16) (cellsAt (d.ctxSlot c) (natLe 8 ((e.core c).pc + 8) ++ natLe 4 (leNat o + 1) ++ [1]))
       let x := (x.csWrite (c / 16) (cellsAt (d.ctxSlot c + 0x40) (e.core c).sBytes)).countIssue c 0
       let x := (x.onCore c fun y => { y with since := 0 }).count (coreBlk c) 17 1
       x.advance c 8) := by
  rw [rmarkEffect, issue_of_fetches h _ _ hl]
  simp only [hquiet, hread, Bool.not_true, Bool.false_eq_true, if_false]

/-- The segment ends, also at the last 8 bytes of the local store. -/
theorem segendEffect_of_done (hi : s.issuing c = true) (ho : fld64 w 0 8 = 0x34)
    (hfetch : s.lsCheck c [((s.core c).pc, instrLen w)] = (d, true)) (hpc : (d.core c).pc + 8 ≤ lsSize) (hl : onlyBits w 0xFF = true)
    (hdone : d.segDone c = true) :
    segendEffect c w s = ((d.countIssue c 0).onCore c fun y => { y with run := .idle, work := none }).endWork (d.core c).work true := by
  have hlen : instrLen w = 8 := instrLen_of_scalar (by rw [ho]; decide)
  rw [segendEffect, s.issue_ok c 0x34 w _ _ d hi ho hfetch (by rw [hlen]; exact hpc) hl]
  simp only [hdone, Bool.not_true, Bool.false_eq_true, if_false]

/-- Core `k` with slot `i` put at the end of its fold requests and cleared. -/
def Core.folding (k : Core) (i va : Nat) (tag : W32) : Core :=
  { k.setSlot i Stat.cleared with folds := k.folds ++ [⟨k.slot i, va, tag⟩], accs := true }

theorem Core.slot_folding (k : Core) (i va : Nat) (tag : W32) (j : Nat) :
    (k.folding i va tag).slot j = if j = i then Stat.cleared else k.slot j :=
  Sparse.get_set (always Stat.cleared) k.slots i j Stat.cleared

theorem isBrz_of_fetches {op : Nat} (h : Fetches s d c w op) : s.isBrz c = d.isBrz c := by
  obtain ⟨-, -, hfetch, -⟩ := h
  rw [Dev.isBrz, Dev.isBrz, Dev.core_of_lsCheck hfetch]

theorem stfoldEffect_of_fetches (h : Fetches s d c w 0x35) (hl : (imOf w && onlyBits w (scalarMask false true false true 19)) = true)
    (hfg : d.isBrz c = false) (hr : d.regsFree c [saOf w] = true) (hstats : d.statsBusy c = false)
    (h32 : ((d.core c).sreg (saOf w)).toNat % 32 = 0) (hlt : ((d.core c).sreg (saOf w)).toNat < 2 ^ 52)
    (hin : d.mappedOutside ((d.core c).sreg (saOf w)).toNat = false) :
    stfoldEffect c w s = (((d.onCore c fun k => k.folding (fld64 w 40 3) ((d.core c).sreg (saOf w)).toNat
      (BitVec.ofNat 32 (0x80000000 + fld64 w 24 16))).countIssue c 0).count (coreBlk c) 20 1).advance c 8 := by
  have hok : ¬ (((d.core c).sreg (saOf w)).toNat % 32 ≠ 0 ∨ 2 ^ 52 ≤ ((d.core c).sreg (saOf w)).toNat ∨
      d.mappedOutside ((d.core c).sreg (saOf w)).toNat = true) := by
    simp only [h32, hin, ne_eq, not_true_eq_false, Bool.false_eq_true, or_false, false_or, Nat.not_le, hlt]
  rw [stfoldEffect, issue_of_fetches h _ _ (by rw [hl, isBrz_of_fetches h, hfg]; rfl)]
  simp only [hr, hstats, Bool.not_true, Bool.or_self, Bool.false_eq_true, if_false]
  rw [if_neg hok]
  rfl

/-- With the ledger disabled every unit is applied, and no entry is written (R154). -/
theorem Dev.ledgerAsk_of_disabled (t : Nat) (tag : W32) (u : Nat) (h : s.on memLedgerBaseEn = false) : s.ledgerAsk t tag u = (s, .apply) := by
  simp [Dev.ledgerAsk, h]

theorem Dev.ledgerPut_of_disabled (t : Nat) (tag : W32) (n : Nat) (h : s.on memLedgerBaseEn = false) : s.ledgerPut t tag n = s := by
  simp [Dev.ledgerPut, h]

/-- The oldest fold request is taken off and its record, which can be read, written folded with it. -/
theorem foldApplyEffect_of_disabled {q : Fold} {l : List Fold} {a fr size : Nat} {x : W64} {f g : Dev} {bs : List Byte} {ecc : Ecc}
    (hfolds : (s.core c).folds = q :: l) (hin : s.mappedOutside q.addr = false) (hwalk : s.walk q.addr true = .leaf a fr size x)
    (hoff : s.on memLedgerBaseEn = false) (hread : s.vRead (c / 16) (clusterSrc (c / 16) 1) 2 2 q.addr 32 = (f, .data bs ecc))
    (hecc : ecc.lost = false)
    (hwrite : (f.dropFold c).vWrite (c / 16) (clusterSrc (c / 16) 1) 2 q.addr ((Stat.decode bs).fold q.stat).encode = (g, .done))
    (hg : g.on memLedgerBaseEn = false) : foldApplyEffect c s = g := by
  rw [foldApplyEffect, hfolds]
  simp [hin, hwalk, Dev.ledgerAsk_of_disabled _ _ _ hoff, hread, hecc, hwrite, Dev.ledgerPut_of_disabled _ _ _ hg]

end

end Sys2Proof.Machine

open Sys2Proof Sys2Proof.Machine

/-- Settles O28: each row is its effect where its waits are over (`segendEffect_of_done`, `foldApplyEffect_of_disabled`, …); STFOLD leaves its
core as `Core.folding` says. -/
theorem segmentInstructions : Obligations.SegmentInstructions := by
  unfold Obligations.SegmentInstructions
  intro s d e f g c w o bs ecc k
  refine ⟨fun h hl hquiet hread => State.run_eq (rmarkEffect_of_fetches h hl hquiet hread),
    fun hi ho hfetch hpc hl hdone => State.run_eq (segendEffect_of_done hi ho hfetch hpc hl hdone),
    fun h hl hfg hr hstats h32 hlt hin => ?_,
    fun q l a fr size x hfolds hin hwalk hoff hread hecc _ hwrite hg =>
      State.run_eq (foldApplyEffect_of_disabled hfolds hin hwalk hoff hread hecc hwrite hg),
    fun a b => ⟨rfl, rfl, rfl, rfl, rfl⟩⟩
  let va := (k.sreg (saOf w)).toNat
  let tag : W32 := BitVec.ofNat 32 (0x80000000 + fld64 w 24 16)
  let folding := d.onCore c fun y => y.folding (fld64 w 40 3) va tag
  have hfolding : ∀ j, folding.core j = if j = c.val then k.folding (fld64 w 40 3) va tag else d.core j := fun j => d.core_onCore _ _ _
  obtain ⟨hcore, hother⟩ := Dev.core_advance_counted (Dev.cores_of_beside (Dev.count_beside (folding.countIssue c 0) (coreBlk c) 20 1))
    ((hfolding c).trans (if_pos rfl)) (fun j hj => (hfolding j).trans (if_neg hj)) (pc_of_fetches h (by decide))
  exact ⟨_, State.run_eq (stfoldEffect_of_fetches h hl hfg hr hstats h32 hlt hin), congrArg Core.folds hcore,
    fun i => (congrArg (Core.slot · i) hcore).trans (k.slot_folding _ va tag i), congrArg Core.accs hcore, hother⟩
end

section
/-! SUPPORT. A channel keeps its turn when its own descriptor begins (R17, R144). -/

namespace Sys2Proof.Machine

/-! ### A key written twice -/

theorem Sparse.erase_insert {α : Type} (m : Sparse α) (k : Nat) (v : α) (hk : ∀ e ∈ m, e.1 ≠ k) :
    Sparse.erase (Sparse.insert m k v) k = m := by
  induction m with
  | nil => simp [Sparse.insert, Sparse.erase]
  | cons e m ih =>
    obtain ⟨he, hm⟩ := List.forall_mem_cons.mp hk
    have herase : Sparse.erase m k = m := List.filter_eq_self.mpr fun x hx => by simpa using hm x hx
    have htail := ih hm
    simp only [Sparse.erase] at herase htail ⊢
    unfold Sparse.insert
    split
    · simp [he, herase]
    · simp [he, htail]

theorem Sparse.set_set {α : Type} [DecidableEq α] (d : Nat → α) (m : Sparse α) (k : Nat) (v w : α) :
    Sparse.set d (Sparse.set d m k v) k w = Sparse.set d m k w := by
  have herase : Sparse.erase (Sparse.set d m k v) k = Sparse.erase m k := by
    unfold Sparse.set
    split
    · exact List.filter_eq_self.mpr fun x hx => by simpa using Sparse.key_of_mem_erase m k x hx
    · exact Sparse.erase_insert _ _ _ (Sparse.key_of_mem_erase m k)
  have hset : ∀ m' : Sparse α, Sparse.set d m' k w = if w = d k then Sparse.erase m' k else Sparse.insert (Sparse.erase m' k) k w := fun _ => rfl
  rw [hset, herase, ← hset]

theorem Sparse.mem_insert {α : Type} (m : Sparse α) (k : Nat) (v : α) (e : Nat × α) : e ∈ Sparse.insert m k v ↔ e = (k, v) ∨ e ∈ m := by
  induction m with
  | nil => simp [Sparse.insert]
  | cons x m ih =>
    unfold Sparse.insert
    split
    · simp
    · simp only [List.mem_cons, ih]
      tauto

/-- The entries behind a write of a value that is not the default. -/
theorem Sparse.mem_set {α : Type} [DecidableEq α] (d : Nat → α) (m : Sparse α) (k : Nat) (v : α) (hv : v ≠ d k) (e : Nat × α) :
    e ∈ Sparse.set d m k v ↔ e = (k, v) ∨ (e ∈ m ∧ e.1 ≠ k) := by
  rw [Sparse.set, if_neg hv, Sparse.mem_insert, Sparse.erase, List.mem_filter]
  simp

theorem Sparse.mem_of_get_ne {α : Type} (d : Nat → α) (m : Sparse α) (k : Nat) (h : Sparse.get d m k ≠ d k) :
    (k, Sparse.get d m k) ∈ m := by
  induction m with
  | nil => exact absurd rfl h
  | cons e m ih =>
    rw [Sparse.get_cons] at h ⊢
    split
    next hk => simp [hk]
    next hk => exact List.mem_cons_of_mem _ (ih (by rwa [if_neg hk] at h))

theorem Dev.setChan_setChan (s : Dev) (h : Nat) (y z : Chan) : (s.setChan h y).setChan h z = s.setChan h z := by
  simp only [Dev.setChan, Sparse.set_set]

/-! ### The turn -/

/-- Who is served stays, where no other asks anew. -/
theorem turn_of_fewer {n last c : Nat} {p q : Nat → Bool} (h : turn n last p = some c) (hc : q c = true) (hq : ∀ x, q x = true → p x = true) :
    turn n last q = some c := by
  obtain ⟨-, before, after, hlist, hnone⟩ := List.find?_eq_some_iff_append.mp h
  refine List.find?_eq_some_iff_append.mpr ⟨hc, before, after, hlist, fun a ha => ?_⟩
  have hp := hnone a ha
  rw [Bool.not_eq_true'] at hp ⊢
  exact Bool.eq_false_iff.mpr fun hqa => Bool.eq_false_iff.mp hp (hq a hqa)

theorem Chan.ne_idle_of_wants {y : Chan} (h : y.wants = true) : y ≠ Chan.idle := by
  rintro rfl
  exact absurd h (by decide)

section
variable {s : Dev} {h : Nat} {y : Chan} (hh : h < 512) (hy : y.wants = true) (hx : (s.chan h).wants = true)
include hy

theorem Dev.mem_chansOf_setChan (e : Nat × Chan) :
    e ∈ (s.setChan h y).chansOf (h / 16) ↔ e = (h, y) ∨ (e ∈ s.chansOf (h / 16) ∧ e.1 ≠ h) := by
  have hset : e ∈ (s.setChan h y).chans ↔ e = (h, y) ∨ (e ∈ s.chans ∧ e.1 ≠ h) :=
    Sparse.mem_set (always Chan.idle) s.chans h y (Chan.ne_idle_of_wants hy) e
  simp only [Dev.chansOf, Sparse.range, List.mem_filter, hset, Bool.and_eq_true, decide_eq_true_eq]
  constructor
  · rintro ⟨rfl | ⟨he, hne⟩, hin⟩
    · exact .inl rfl
    · exact .inr ⟨⟨he, hin⟩, hne⟩
  · rintro (rfl | ⟨⟨he, hin⟩, hne⟩)
    · exact ⟨.inl rfl, by simp only; omega⟩
    · exact ⟨.inr ⟨he, hne⟩, hin⟩

omit hy
include hx

theorem Dev.mem_chansOf_self : (h, s.chan h) ∈ s.chansOf (h / 16) := by
  refine List.mem_filter.mpr ⟨Sparse.mem_of_get_ne (always Chan.idle) s.chans h (Chan.ne_idle_of_wants hx), ?_⟩
  simp only [Bool.and_eq_true, decide_eq_true_eq]
  omega

variable (hbrz : y.brz = (s.chan h).brz) (hpause : y.pause = (s.chan h).pause) (hcore : y.core = (s.chan h).core)
  (hmay : s.chanMay h = true)
include hy hh hbrz hmay

/-- A channel that may move leaves its cluster as ready for foreground chains as it is, whatever it goes on to want. -/
theorem Dev.fgReady_setChan : (s.setChan h y).fgReady (h / 16) = s.fgReady (h / 16) := by
  have hfg : ∀ d : Dev, d.fgReady (h / 16) = true ↔ ∃ e ∈ d.chansOf (h / 16), e.2.wants = true ∧ e.2.brz = false := fun d => by
    simp [Dev.fgReady, List.any_eq_true]
  rw [Bool.eq_iff_iff, hfg, hfg]
  cases hb : (s.chan h).brz with
  | false =>
    exact ⟨fun _ => ⟨_, Dev.mem_chansOf_self hx, hx, hb⟩,
      fun _ => ⟨_, (Dev.mem_chansOf_setChan hy _).mpr (.inl rfl), hy, hbrz.trans hb⟩⟩
  | true =>
    have hnone : s.fgReady (h / 16) = false := by
      simp only [Dev.chanMay, chanCluster, if_pos hh, hb, Bool.true_and, Bool.and_eq_true, Bool.not_eq_true'] at hmay
      exact hmay.1.2
    refine ⟨?_, fun hex => absurd ((hfg s).mpr hex) (ne_true_of_eq_false hnone)⟩
    rintro ⟨e, he, hwants, hfore⟩
    rcases (Dev.mem_chansOf_setChan hy e).mp he with rfl | ⟨hold, -⟩
    · exact absurd (hbrz.trans hb) (ne_true_of_eq_false hfore)
    · exact absurd ((hfg s).mpr ⟨e, hold, hwants, hfore⟩) (ne_true_of_eq_false hnone)

include hpause

theorem Dev.chanMay_setChan {j : Nat} (hj : j / 16 = h / 16) : (s.setChan h y).chanMay j = s.chanMay j := by
  have hchan : ((s.setChan h y).chan j).brz = (s.chan j).brz ∧ ((s.setChan h y).chan j).pause = (s.chan j).pause := by
    rw [Dev.chan_setChan]
    split
    next hjh => rw [hjh]; exact ⟨hbrz, hpause⟩
    next => exact ⟨rfl, rfl⟩
  have hlt : j < 512 := by omega
  have hfg := Dev.fgReady_setChan hh hy hx hbrz hmay
  simp only [Dev.chanMay, chanCluster, if_pos hlt, hj, hchan, hfg]
  rfl

include hcore

/-- The turn of a channel that goes on to want to move. -/
theorem Dev.chanTurn_setChan (hturn : s.chanTurn h = true) : (s.setChan h y).chanTurn h = true := by
  have hof : ((s.setChan h y).chan h).coreOf = (s.chan h).coreOf := by
    rw [Dev.chan_setChan, if_pos rfl, Chan.coreOf, Chan.coreOf, hcore]
  have hdiv : ∀ (d : Dev) (e : Nat × Chan), e ∈ d.chansOf (h / 16) → e.1 / 16 = h / 16 := fun d e he => by
    have hin := (List.mem_filter.mp he).2
    simp only [Bool.and_eq_true, decide_eq_true_eq] at hin
    omega
  have hmem : ∀ (p : Nat × Chan → Bool), p (h, y) = p (h, s.chan h) →
      (((s.setChan h y).chansOf (h / 16)).filter fun e => e.2.wants && (s.setChan h y).chanMay e.1).any p = true →
      ((s.chansOf (h / 16)).filter fun e => e.2.wants && s.chanMay e.1).any p = true := fun p hp hany => by
    simp only [List.any_eq_true, List.mem_filter, Bool.and_eq_true] at hany ⊢
    obtain ⟨e, ⟨he, hwants, hmaye⟩, hpe⟩ := hany
    rcases (Dev.mem_chansOf_setChan hy e).mp he with rfl | ⟨hold, -⟩
    · exact ⟨_, ⟨Dev.mem_chansOf_self hx, hx, hmay⟩, hp ▸ hpe⟩
    · exact ⟨e, ⟨hold, hwants, (Dev.chanMay_setChan hh hy hx hbrz hpause hmay (hdiv s e hold)) ▸ hmaye⟩, hpe⟩
  have hself : (h, y) ∈ ((s.setChan h y).chansOf (h / 16)).filter fun e => e.2.wants && (s.setChan h y).chanMay e.1 :=
    List.mem_filter.mpr ⟨(Dev.mem_chansOf_setChan hy _).mpr (.inl rfl), by
      rw [Dev.chanMay_setChan hh hy hx hbrz hpause hmay rfl, hmay, hy]; rfl⟩
  have hysame : y.coreOf = (s.chan h).coreOf := by rw [Chan.coreOf, Chan.coreOf, hcore]
  simp only [Dev.chanTurn, chanCluster, if_pos hh, Bool.and_eq_true, beq_iff_eq] at hturn ⊢
  rw [hof]
  refine ⟨turn_of_fewer hturn.1 ?_ fun _ => hmem _ ?_, turn_of_fewer hturn.2 ?_ fun _ => hmem _ ?_⟩
  · exact List.any_eq_true.mpr ⟨_, hself, by simp [hysame]⟩
  · simp only [hysame]
  · exact List.any_eq_true.mpr ⟨_, hself, by simp [hysame]⟩
  · simp only [hysame]

end

end Sys2Proof.Machine
end

section
/-! SUPPORT. Whole rows of one unit: what the channel reads and where it writes (R145, R147, R151, R152, R155). -/

namespace Sys2Proof.Machine

/-! ### Undamaged stores are read as they are -/

theorem Store.raw_eq (st : Store) : ∀ n a, st.raw a n = (List.range n).map fun i => st.byte (a + i) := by
  intro n
  induction n with
  | zero => exact fun _ => rfl
  | succ n ih =>
    intro a
    rw [Store.raw, ih, List.range_succ_eq_map, List.map_cons, List.map_map]
    refine congrArg _ (List.map_congr_left fun i _ => ?_)
    rw [Function.comp_apply, Nat.add_right_comm, Nat.add_assoc]

theorem Dev.csRead_of_clean {s : Dev} {k : Nat} (hup : s.pkg.fences.cluster k = false) (hclean : (s.cstore k).chk = []) (a n : Nat) :
    s.csRead k a n = (s, some ((List.range n).map fun i => (s.cstore k).byte (a + i))) := by
  have hbad : (s.cstore k).bad 64 a n = [] := by rw [Store.bad, hclean]; rfl
  have hshadow : s.shadowed k = false := by rw [Dev.shadowed, hup]; rfl
  rw [Dev.csRead, hshadow, hup, Dev.csReadOwn, Store.read, hbad, ← Store.raw_eq]
  rfl

/-- A read of an undamaged local store counts the accesses of the move slot. -/
theorem Dev.dRead_of_clean (s : Dev) {c : Nat} (hclean : (s.core c).ls.chk = []) (h a n : Nat) :
    s.dRead h (some c) 0 a n = (s.moves c (ceilDiv n 256), .ok ((s.core c).lsBytes a n)) := by
  have hcheck := s.lsCheck_clean c [(a, n)] hclean
  simp only [Dev.dRead, hcheck]
  rfl

/-- A field of bytes that were read from the local store. -/
theorem Core.leAt_lsBytes (k : Core) (a : Nat) {o m n : Nat} (h : o + m ≤ n) : leAt (k.lsBytes a n) o m = k.lsNat (a + o) m := by
  rw [leAt, Core.lsNat]
  congr 1
  apply List.ext_getElem
  · simp only [Core.lsBytes, List.length_take, List.length_drop, List.length_map, List.length_range]
    omega
  · intro i _ _
    simp [Core.lsBytes, Nat.add_assoc]

/-! ### A descriptor of whole rows -/

/-- Channel `h` of a cluster in service is at `y`, whose descriptor moves whole rows of no block format, unconverted, unmasked, unmapped and
unturned, from the cluster store into the local store of core `c`, which holds its list too; both stores are undamaged. -/
structure Dev.MovesRows (s : Dev) (h c : Nat) (y : Chan) : Prop where
  cluster : h < 512
  up      : s.pkg.fences.cluster (h / 16) = false
  work    : y.work = none
  core    : dCore h y = some c
  list    : dLists y.q = true → dListCore h y = some c
  alive   : s.pkg.fences.core c = false
  ls      : (s.core c).ls.chk = []
  cs      : (s.cstore (h / 16)).chk = []
  dest    : dDs y.q = 0
  source  : dOp y.q ≠ 1 → dSs y.q = 1
  formats : dOp y.q ≠ 1 → dSf y.q = dDf y.q
  plain   : isBlock (dDf y.q) = false
  overwrites : dOp y.q ≠ 3
  mask    : dRm y.q = false
  occ     : dOc y.q = false
  skew    : dSkew y.q = false
  xpose   : dXpose y.q = false

/-- Device `t` has channel `h` at `y`; its stores and fences are those of `s`. -/
structure Dev.Working (s t : Dev) (h : Nat) (y : Chan) : Prop where
  chan  : t.chan h = y
  cores : t.cores = s.cores
  cs    : t.cs = s.cs
  pkg   : t.pkg = s.pkg

/-- Rows of the descriptor (R151). -/
def Chan.rows (y : Chan) : Nat := if dLists y.q then Nat.min y.lcount (dRows y.q) else dRows y.q

/-- The row that list entry `r` names. -/
def Chan.listRow (y : Chan) (k : Core) (r : Nat) : Nat := k.lsNat (y.lbase + 8 * r) 4

/-- The rank that list entry `r` names. -/
def Chan.listRank (y : Chan) (k : Core) (r : Nat) : Nat := bits (k.lsNat (y.lbase + 8 * r) 8) 32 3

/-- Where row `r` comes from; the list stands in the local store of `k`. -/
def Chan.rowFrom (y : Chan) (k : Core) (r : Nat) : Nat :=
  if dOp y.q = 2 then rowAt (dSrc y.q) (y.listRow k r) (qf y.q 6 32 32) (dSp y.q) else dSrc y.q + r * dSp y.q

/-- Where row `r` goes. -/
def Chan.rowTo (y : Chan) (k : Core) (r : Nat) : Nat :=
  if dOp y.q = 4 then (rowAt (dDst y.q) (y.listRow k r) (qf y.q 6 32 32) (dDp y.q) + y.listRank k r * qf y.q 5 0 32) % 2 ^ 52
  else dDst y.q + r * dDp y.q

/-- Byte `i` of row `r`: of the fill pattern, or of the source row. -/
def Chan.rowByte (y : Chan) (k : Core) (st : Store) (r i : Nat) : Byte :=
  if dOp y.q = 1 then BitVec.ofNat 8 ((wordAt y.q 6).toNat / 2 ^ (8 * (i % 8))) else st.byte (y.rowFrom k r + i)

/-- The bytes of row `r`. -/
def Chan.rowBytes (y : Chan) (k : Core) (st : Store) (r : Nat) : List Byte := (List.range (dDb y.q)).map (y.rowByte k st r)

theorem Chan.rowBytes_length (y : Chan) (k : Core) (st : Store) (r : Nat) : (y.rowBytes k st r).length = dDb y.q := by
  simp [Chan.rowBytes]

theorem Chan.rowBytes_of_fill (y : Chan) (k : Core) (st : Store) (r : Nat) (h : dOp y.q = 1) : y.rowBytes k st r =
    (List.range (dDb y.q)).map fun i => BitVec.ofNat 8 ((wordAt y.q 6).toNat / 2 ^ (8 * (i % 8))) :=
  List.map_congr_left fun _ _ => if_pos h

theorem Chan.rowBytes_of_source (y : Chan) (k : Core) (st : Store) (r : Nat) (h : dOp y.q ≠ 1) :
    y.rowBytes k st r = (List.range (dDb y.q)).map fun i => st.byte (y.rowFrom k r + i) :=
  List.map_congr_left fun _ _ => if_neg h

/-- The cells of all rows. -/
def Chan.rowCells (y : Chan) (k : Core) (st : Store) : List (Nat × Byte) :=
  ((List.range y.rows).map fun r => (y.rowTo k r, y.rowBytes k st r)).flatMap fun p => cellsAt p.1 p.2

section
variable {s t : Dev} {h c : Nat} {y : Chan}

/-! ### What leaves a channel at work -/

theorem Dev.Working.core (hw : s.Working t h y) (j : Nat) : t.core j = s.core j := by rw [Dev.core, hw.cores, ← Dev.core]

theorem Dev.Working.cstore (hw : s.Working t h y) (k : Nat) : t.cstore k = s.cstore k := by rw [Dev.cstore, hw.cs, ← Dev.cstore]

theorem Dev.Working.of_uncounted {u : Dev} (hw : s.Working t h y) (hu : u.uncounted = t.uncounted) : s.Working u h y := by
  rw [Dev.eq_of_uncounted hu]
  exact ⟨hw.chan, hw.cores, hw.cs, hw.pkg⟩

theorem Dev.moves_uncounted (s : Dev) (c n : Nat) : (s.moves c n).uncounted = s.uncounted := by
  rw [s.moves_uncounted_eq c n]
  rfl

theorem Dev.dTally_uncounted (s : Dev) (h i n : Nat) : (s.dTally h i n).uncounted = s.uncounted := by
  unfold Dev.dTally
  split
  · exact s.count_uncounted _ _ _
  · rfl

/-! ### Writing -/

/-- Device `t` has channel `h` at `y` and the fences of `s`; of the cores `c` alone differs, by `cells` written in its local store. -/
structure Dev.Delivered (s t : Dev) (h c : Nat) (y : Chan) (cells : List (Nat × Byte)) : Prop where
  chan : t.chan h = y
  pkg  : t.pkg = s.pkg
  core : ∀ j, t.core j = if j = c then (s.core c).stored cells else s.core j

theorem Dev.Working.delivered (hw : s.Working t h y) (c : Nat) : s.Delivered t h c y [] where
  chan := hw.chan
  pkg := hw.pkg
  core j := by
    rw [hw.core]
    split
    next hj => rw [hj]; rfl
    next => rfl

section
variable {cells : List (Nat × Byte)}

theorem Dev.Delivered.of_uncounted {u : Dev} (hw : s.Delivered t h c y cells) (hu : u.uncounted = t.uncounted) : s.Delivered u h c y cells := by
  rw [Dev.eq_of_uncounted hu]
  exact ⟨hw.chan, hw.pkg, hw.core⟩

/-- Pieces written in an undamaged local store of a core in service. -/
theorem Dev.Delivered.dWrite (hw : s.Delivered t h c y cells) (halive : s.pkg.fences.core c = false) (hclean : (s.core c).ls.chk = [])
    (ps : List (Nat × List Byte)) : s.Delivered (t.dWrite h (some c) 0 ps) h c y (cells ++ ps.flatMap fun p => cellsAt p.1 p.2) := by
  have htc : (t.core c).ls.chk = [] := by
    rw [hw.core, if_pos rfl]
    exact hclean
  have hwrite : t.dWrite h (some c) 0 ps = (t.setCore c ((t.core c).stored (ps.flatMap fun p => cellsAt p.1 p.2))).moves c
      (ceilDiv (ps.foldl (fun n p => n + p.2.length) 0) 256) := by
    rw [← t.lsWrite_of_clean c _ htc, Dev.dWrite, hw.pkg, halive]
    rfl
  have hset : s.Delivered (t.setCore c ((t.core c).stored (ps.flatMap fun p => cellsAt p.1 p.2))) h c y
      (cells ++ ps.flatMap fun p => cellsAt p.1 p.2) := by
    refine ⟨hw.chan, hw.pkg, fun j => ?_⟩
    rw [Dev.core_setCore]
    split
    · rw [hw.core, if_pos rfl, Core.stored_stored]
    next hj => rw [hw.core, if_neg hj]
  rw [hwrite]
  exact hset.of_uncounted (Dev.moves_uncounted _ _ _)

theorem Dev.Delivered.dTally (hw : s.Delivered t h c y cells) (i n : Nat) : s.Delivered (t.dTally h i n) h c y cells :=
  hw.of_uncounted (t.dTally_uncounted _ _ _)

end

/-- A destination that is no device memory has no page to translate. -/
theorem Dev.dReady_of_store (s : Dev) (h : Nat) {sp : Nat} (hsp : sp ≠ 2) (ps : List (Nat × List Byte)) : s.dReady h sp ps = (s, .ok false) := by
  cases ps with
  | nil => rfl
  | cons p ps => rw [Dev.dReady, if_pos hsp]

/-! ### Reading (R151) -/

section
variable (hm : s.MovesRows h c y) (hw : s.Working t h y)
include hm hw

theorem Dev.MovesRows.readCluster (a n : Nat) :
    t.dRead h (dCore h y) 1 a n = (t, .ok ((List.range n).map fun i => (s.cstore (h / 16)).byte (a + i))) := by
  have hstore : t.chanStore h = some (h / 16) := by
    rw [Dev.chanStore, chanCluster, if_pos hm.cluster, hw.chan, hm.work]
  have hread := Dev.csRead_of_clean (s := t) (by rw [hw.pkg]; exact hm.up) (by rw [hw.cstore]; exact hm.cs) a n
  rw [hw.cstore] at hread
  simp only [Dev.dRead, hstore, hread]
  rfl

theorem Dev.MovesRows.readLocal {core : Option Nat} (hc : core = some c) (a n : Nat) :
    ∃ u, t.dRead h core 0 a n = (u, .ok ((s.core c).lsBytes a n)) ∧ s.Working u h y := by
  refine ⟨t.moves c (ceilDiv n 256), ?_, hw.of_uncounted (t.moves_uncounted _ _)⟩
  rw [hc, t.dRead_of_clean (by rw [hw.core]; exact hm.ls), hw.core]

/-- A list entry: the row and the rank that it names. -/
theorem Dev.MovesRows.listEntry (hl : dLists y.q = true) (r : Nat) :
    ∃ u, t.listEntry h y r = (u, .ok (y.listRow (s.core c) r, y.listRank (s.core c) r)) ∧ s.Working u h y := by
  obtain ⟨u, hread, hu⟩ := hm.readLocal hw (hm.list hl) (y.lbase + 8 * r) 8
  refine ⟨u, ?_, hu⟩
  rw [Dev.listEntry, hread]
  simp only [Core.leAt_lsBytes _ _ (show 0 + 4 ≤ 8 by decide), Core.leAt_lsBytes _ _ (show 0 + 8 ≤ 8 by decide), Nat.add_zero]
  rfl

theorem Dev.MovesRows.srcRow (r : Nat) : ∃ u, t.srcRow h y r = (u, .ok (y.rowFrom (s.core c) r)) ∧ s.Working u h y := by
  by_cases hop : dOp y.q = 2
  · obtain ⟨u, hentry, hu⟩ := hm.listEntry hw (by rw [dLists, hop]; rfl) r
    exact ⟨u, by rw [Dev.srcRow, if_pos hop, hentry, Chan.rowFrom, if_pos hop], hu⟩
  · exact ⟨t, by rw [Dev.srcRow, if_neg hop, Chan.rowFrom, if_neg hop], hw⟩

theorem Dev.MovesRows.dstRow (r : Nat) : ∃ u, t.dstRow h y r r = (u, .ok (y.rowTo (s.core c) r)) ∧ s.Working u h y := by
  by_cases hop : dOp y.q = 4
  · obtain ⟨u, hentry, hu⟩ := hm.listEntry hw (by rw [dLists, hop]; rfl) r
    exact ⟨u, by rw [Dev.dstRow, if_pos hop, hentry, Chan.rowTo, if_pos hop], hu⟩
  · exact ⟨t, by rw [Dev.dstRow, if_neg hop, Chan.rowTo, if_neg hop], hw⟩

end

/-- The rows of an unmasked descriptor are its own, in order. -/
theorem Dev.MovesRows.order (hm : s.MovesRows h c y) : dOrder y = List.range y.rows := by
  rw [dOrder, hm.mask]
  exact List.filter_eq_self.mpr fun _ _ => rfl

theorem Dev.MovesRows.order_getD (hm : s.MovesRows h c y) {r : Nat} (hr : r < y.rows) : (dOrder y).getD r 0 = r := by
  rw [hm.order, List.getD_eq_getElem _ _ (by simpa using hr), List.getElem_range]

section
variable (hm : s.MovesRows h c y)
include hm

/-- A whole row as it is written. -/
theorem Dev.MovesRows.dstSlice (hw : s.Working t h y) {r : Nat} (hr : r < y.rows) :
    ∃ u, t.dstSlice h y r 0 (dDb y.q) = (u, .ok (y.rowBytes (s.core c) (s.cstore (h / 16)) r)) ∧ s.Working u h y := by
  rw [Dev.dstSlice, hm.xpose, hm.order_getD hr]
  simp only [Bool.false_eq_true, if_false]
  by_cases hop : dOp y.q = 1
  · refine ⟨t, ?_, hw⟩
    rw [Dev.rowSlice, if_pos hop, hm.plain, y.rowBytes_of_fill _ _ _ hop]
    simp only [Bool.false_eq_true, if_false, Nat.zero_add]
  · obtain ⟨u, hsrc, hu⟩ := hm.srcRow hw r
    have hbi : (dSf y.q == 0xC && dDf y.q == 0xC) = false := by
      have hplain := hm.plain
      cases hdf : dDf y.q == 0xC with
      | false => rw [Bool.and_false]
      | true => rw [eq_of_beq hdf] at hplain; exact absurd hplain (by decide)
    refine ⟨u.dTally h 1 (dDb y.q), ?_, hu.of_uncounted (u.dTally_uncounted _ _ _)⟩
    rw [Dev.rowSlice, if_neg hop, hsrc, y.rowBytes_of_source _ _ _ hop]
    simp only [if_pos (hm.formats hop), hbi, Bool.false_eq_true, if_false, Nat.add_zero, Nat.sub_zero, hm.source hop, hm.readCluster hu]

/-- The slices of whole rows. -/
theorem Dev.MovesRows.sliceBytes (l : List Nat) (hl : ∀ r ∈ l, r < y.rows) (t : Dev) (hw : s.Working t h y) :
    ∃ u, t.sliceBytes h y (l.map fun r => (r, 0, dDb y.q)) =
      (u, .ok (l.map fun r => (r, 0, y.rowBytes (s.core c) (s.cstore (h / 16)) r))) ∧ s.Working u h y := by
  induction l generalizing t with
  | nil => exact ⟨t, rfl, hw⟩
  | cons r l ih =>
    obtain ⟨hr, hrest⟩ := List.forall_mem_cons.mp hl
    obtain ⟨u, hslice, hu⟩ := hm.dstSlice hw hr
    obtain ⟨v, hslices, hv⟩ := ih hrest u hu
    exact ⟨v, by simp only [List.map_cons, Dev.sliceBytes, hslice, hslices], hv⟩

/-- Their places. -/
theorem Dev.MovesRows.slicePlaces (f : Nat → List Byte) (l : List Nat) (hl : ∀ r ∈ l, r < y.rows) (t : Dev) (hw : s.Working t h y) :
    ∃ u, t.slicePlaces h y (l.map fun r => (r, 0, f r)) = (u, .ok (l.map fun r => (y.rowTo (s.core c) r, f r))) ∧ s.Working u h y := by
  induction l generalizing t with
  | nil => exact ⟨t, rfl, hw⟩
  | cons r l ih =>
    obtain ⟨hr, hrest⟩ := List.forall_mem_cons.mp hl
    obtain ⟨u, hplace, hu⟩ := hm.dstRow hw r
    obtain ⟨v, hplaces, hv⟩ := ih hrest u hu
    refine ⟨v, ?_, hv⟩
    simp only [List.map_cons, Dev.slicePlaces, hm.order_getD hr, hplace, hplaces, hm.skew]
    rfl

/-- Without an occupancy map no word of it is made. -/
theorem Dev.MovesRows.occRows (l : List (Nat × Nat × List Byte)) : t.occRows h y l = (t, .ok []) := by
  induction l with
  | nil => rfl
  | cons x l ih => simpa [Dev.occRows, hm.occ] using ih

theorem Dev.MovesRows.fillCodes (l : List (Nat × Nat × Nat)) : fillCodes y l = [] := by
  rw [Machine.fillCodes, if_pos (.inr (by simp [hm.plain]))]

/-! ### The unit -/

theorem Dev.MovesRows.total : dTotal y = y.rows * dDb y.q := by
  rw [dTotal, dDstRows, hm.xpose, hm.order, List.length_range]
  rfl

variable (hrows : 0 < y.rows) (hbytes : 0 < dDb y.q) (hone : y.rows * dDb y.q ≤ 4096)
include hrows hbytes hone

/-- The one unit holds every row whole. -/
theorem Dev.MovesRows.unitSlices : unitSlices y 0 = (List.range y.rows).map fun r => (r, 0, dDb y.q) := by
  have hcount : (y.rows * dDb y.q - 1) / dDb y.q + 1 = y.rows := by
    obtain ⟨n, hn⟩ : ∃ n, y.rows = n + 1 := ⟨y.rows - 1, by omega⟩
    have hlast : (n + 1) * dDb y.q - 1 = dDb y.q - 1 + n * dDb y.q := by rw [Nat.add_mul, Nat.one_mul]; omega
    rw [hn, hlast, Nat.add_mul_div_right _ _ hbytes, Nat.div_eq_of_lt (by omega), Nat.zero_add]
  have hhi : Nat.min (4096 * 0 + 4096) (dTotal y) = y.rows * dDb y.q := by
    rw [hm.total]
    exact Nat.min_eq_right (by omega)
  rw [Machine.unitSlices]
  simp only [hhi, hcount, if_neg (Nat.ne_of_gt hbytes), Nat.mul_zero, Nat.zero_div, Nat.sub_zero, Nat.zero_add]
  refine List.map_congr_left fun r hr => ?_
  have hle : (r + 1) * dDb y.q ≤ y.rows * dDb y.q := Nat.mul_le_mul_right _ (List.mem_range.mp hr)
  have hmax : Nat.max 0 (r * dDb y.q) = r * dDb y.q := Nat.max_eq_right (Nat.zero_le _)
  have hmin : Nat.min (y.rows * dDb y.q) ((r + 1) * dDb y.q) = (r + 1) * dDb y.q := Nat.min_eq_right hle
  rw [hmax, hmin, Nat.sub_self, Nat.add_mul, Nat.one_mul, Nat.add_sub_cancel_left]

theorem Dev.MovesRows.units : dUnits y = 1 := by
  have hpos := Nat.mul_pos hrows hbytes
  rw [dUnits, hm.total, ceilDiv]
  omega

/-- The unit writes the cells of all rows in the local store, and the channel stands behind it. -/
theorem Dev.MovesRows.unitMove (hpos : y.pos = 0) (hw : s.Working t h y) :
    ∃ u tail, t.unitMove h = (u, true) ∧ u.chan h = { y with pos := 1, tail := tail } ∧
      ∀ j, u.core j = if j = c then (s.core c).stored (y.rowCells (s.core c) (s.cstore (h / 16))) else s.core j := by
  have hall : ∀ r ∈ List.range y.rows, r < y.rows := fun r hr => List.mem_range.mp hr
  let ps := (List.range y.rows).map fun r => (y.rowTo (s.core c) r, y.rowBytes (s.core c) (s.cstore (h / 16)) r)
  obtain ⟨a, hslices, ha⟩ := hm.sliceBytes _ hall t hw
  obtain ⟨b, hplaces, hb⟩ := hm.slicePlaces (y.rowBytes (s.core c) (s.cstore (h / 16))) _ hall a ha
  let x := ((((b.dWrite h (some c) 0 ps).dWrite h (some c) 0 []).dTally h 2 ((ps.map fun p => p.2.length).foldl (· + ·) 0)).dWrite h
    (some c) 0 []).dTally h 4 0
  have hx : s.Delivered x h c y (y.rowCells (s.core c) (s.cstore (h / 16))) := by
    have hdone := (((((hb.delivered c).dWrite hm.alive hm.ls ps).dWrite hm.alive hm.ls []).dTally 2
      ((ps.map fun p => p.2.length).foldl (· + ·) 0)).dWrite hm.alive hm.ls []).dTally 4 0
    rwa [List.flatMap_nil, List.append_nil, List.append_nil, List.nil_append] at hdone
  let tail := rowTail y ((List.range y.rows).map fun r => (r, 0, y.rowBytes (s.core c) (s.cstore (h / 16)) r))
  refine ⟨x.onChan h fun ch => { ch with pos := ch.pos + 1, tail := tail }, tail, ?_, ?_, hx.core⟩
  · rw [Dev.unitMove]
    simp only [hw.chan, hpos, hm.unitSlices hrows hbytes hone, hslices, hplaces, hm.occRows, hm.fillCodes, hm.dest,
      Dev.dReady_of_store _ _ (show (0 : Nat) ≠ 2 by decide), hm.core, List.append_nil]
    rfl
  · rw [Dev.onChan, Dev.chan_setChan, if_pos rfl, hx.chan, hpos]

/-- One unit is all there is: the descriptor finishes behind it. -/
theorem Dev.MovesRows.dUnitsRun (hpos : y.pos = 0) (hw : s.Working t h y) (hturn : t.chanTurn h = true) (n : Nat) :
    (((t.dUnitsRun h (n + 1)).chan h).st = .finished 0) ∧ ∀ j, (t.dUnitsRun h (n + 1)).core j =
      if j = c then (s.core c).stored (y.rowCells (s.core c) (s.cstore (h / 16))) else s.core j := by
  have hserved : s.Working (t.chanServed h) h y := by
    unfold Dev.chanServed
    split
    · exact hw
    · exact ⟨hw.chan, hw.cores, hw.cs, hw.pkg⟩
  obtain ⟨u, tail, hmove, hchan, hcore⟩ := hm.unitMove hrows hbytes hone hpos hserved
  have hbefore : ¬ dUnits (t.chan h) ≤ (t.chan h).pos := by
    rw [hw.chan, hm.units hrows hbytes hone, hpos]
    decide
  have hbehind : dUnits (u.chan h) ≤ (u.chan h).pos := by
    rw [hchan]
    exact Nat.le_of_eq (hm.units hrows hbytes hone)
  have hrun : t.dUnitsRun h (n + 1) = u.dFinish h 0 := by
    have hop3 : dOp (t.chan h).q ≠ 3 := by rw [hw.chan]; exact hm.overwrites
    rw [Dev.dUnitsRun]
    simp only [if_neg hbefore, hturn, Bool.not_true, Bool.false_eq_true, if_false, if_neg hop3, hmove, if_pos hbehind]
  rw [hrun]
  refine ⟨?_, hcore⟩
  rw [Dev.dFinish, Dev.onChan, Dev.chan_setChan, if_pos rfl]

end

end

end Sys2Proof.Machine
end

section
/-! SUPPORT. The bytes that whole rows leave, how their descriptor begins, and O42 (R145, R147, R151, R152, R155). -/

namespace Sys2Proof.Machine

section
variable {s t : Dev} {h c : Nat} {y : Chan}

/-! ### The cells of the rows -/

theorem Chan.mem_rowCells {k : Core} {st : Store} {z : Nat × Byte} :
    z ∈ y.rowCells k st ↔ ∃ r < y.rows, ∃ i < dDb y.q, z = (y.rowTo k r + i, y.rowByte k st r i) := by
  have hrow : ∀ r, z ∈ cellsAt (y.rowTo k r) (y.rowBytes k st r) ↔ ∃ i < dDb y.q, z = (y.rowTo k r + i, y.rowByte k st r i) := fun r => by
    rw [mem_cellsAt, List.getElem?_eq_some_iff]
    constructor
    · rintro ⟨hle, hlt, hz⟩
      refine ⟨z.1 - y.rowTo k r, by rwa [Chan.rowBytes_length] at hlt, Prod.ext (by simp only; omega) ?_⟩
      simpa [Chan.rowBytes] using hz.symm
    · rintro ⟨i, hi, rfl⟩
      simp [Chan.rowBytes, hi]
  simp only [Chan.rowCells, List.mem_flatMap, List.mem_map, List.mem_range]
  constructor
  · rintro ⟨_, ⟨r, hr, rfl⟩, hz⟩
    exact ⟨r, hr, (hrow r).mp hz⟩
  · rintro ⟨r, hr, hz⟩
    exact ⟨_, ⟨r, hr, rfl⟩, (hrow r).mpr hz⟩

/-- Rows that do not overlap are read back. -/
theorem Chan.lsByte_stored_rowCells (k : Core) (st : Store)
    (hapart : ∀ i j, i < y.rows → j < y.rows → i ≠ j → y.rowTo k i + dDb y.q ≤ y.rowTo k j ∨ y.rowTo k j + dDb y.q ≤ y.rowTo k i)
    {r i : Nat} (hr : r < y.rows) (hi : i < dDb y.q) :
    (k.stored (y.rowCells k st)).lsByte (y.rowTo k r + i) = y.rowByte k st r i := by
  refine k.lsByte_stored_of_mem _ _ _ (Chan.mem_rowCells.mpr ⟨r, hr, i, hi, rfl⟩) fun z hz hza => ?_
  obtain ⟨r', hr', i', hi', rfl⟩ := Chan.mem_rowCells.mp hz
  by_cases hrr : r' = r
  · subst hrr
    rw [Nat.add_left_cancel hza]
  · have := hapart r' r hr' hr hrr
    simp only at hza
    omega

/-- A byte outside every row stays. -/
theorem Chan.lsByte_stored_rowCells_outside (k : Core) (st : Store) (a : Nat)
    (ha : ∀ r, r < y.rows → a < y.rowTo k r ∨ y.rowTo k r + dDb y.q ≤ a) : (k.stored (y.rowCells k st)).lsByte a = k.lsByte a := by
  refine k.lsByte_stored_of_not_mem _ _ fun z hz hza => ?_
  obtain ⟨r, hr, i, hi, rfl⟩ := Chan.mem_rowCells.mp hz
  have := ha r hr
  simp only at hza
  omega

/-- The entries of a list that passes its check lie in the local store (R151). -/
theorem Dev.list_inside (hl : dLists y.q = true) (hin : s.listRanges h y = true) {r : Nat} (hr : r < y.rows) : y.lbase + 8 * r < lsSize := by
  rw [Dev.listRanges, Bool.and_eq_true, decide_eq_true_eq, List.length_range] at hin
  rw [Chan.rows, if_pos hl] at hr
  omega

/-! ### The beginning -/

/-- A channel that may move is of a cluster in service. -/
theorem Dev.clusterUp_of_chanMay (hh : h < 512) (hmay : s.chanMay h = true) : s.pkg.fences.cluster (h / 16) = false := by
  simp only [Dev.chanMay, chanCluster, if_pos hh, Dev.clusterDown, Bool.and_eq_true, Bool.not_eq_true', Bool.or_eq_false_iff] at hmay
  obtain ⟨⟨⟨⟨⟨hup, -⟩, -⟩, -⟩, -⟩, -⟩ := hmay
  exact hup

/-- Channel `x`, its descriptor fetched and passed, when it begins to move: its list is found by the routing table in `k`. -/
def Chan.begun (x : Chan) (k : Core) : Chan :=
  { x with st := .moving, tail := [],
           lbase := if dLists x.q then k.lsNat (dList x.q) 4 else x.lbase,
           lcount := if dLists x.q then k.lsNat (dList x.q + 8) 2 else x.lcount }

theorem Chan.begun_of_list {x : Chan} {k : Core} (hl : dLists x.q = true) : x.begun k =
    { x with st := .moving, tail := [], lbase := k.lsNat (dList x.q) 4, lcount := k.lsNat (dList x.q + 8) 2 } := by
  rw [Chan.begun, if_pos hl, if_pos hl]

theorem Chan.rows_begun (x : Chan) (k : Core) :
    (x.begun k).rows = if dLists x.q then Nat.min (k.lsNat (dList x.q + 8) 2) (dRows x.q) else dRows x.q := by
  cases hl : dLists x.q with
  | true => rw [Chan.begun_of_list hl]; exact if_pos hl
  | false => exact if_neg (ne_true_of_eq_false hl)

/-- The address of a list entry inside the local store. -/
theorem Chan.entry_begun {x : Chan} {k : Core} {r : Nat} (hl : dLists x.q = true) (hin : (x.begun k).lbase + 8 * r < lsSize) :
    (x.begun k).lbase + 8 * r = (k.lsNat (dList x.q) 4 + 8 * r) % lsSize := by
  rw [← Nat.mod_eq_of_lt hin, Chan.begun_of_list hl]

theorem Chan.rowFrom_begun {x : Chan} {k : Core} {r : Nat} (hin : dLists x.q = true → (x.begun k).lbase + 8 * r < lsSize) :
    (x.begun k).rowFrom k r = if dOp x.q = 2 then
      rowAt (dSrc x.q) (k.lsNat ((k.lsNat (dList x.q) 4 + 8 * r) % lsSize) 4) (qf x.q 6 32 32) (dSp x.q) else dSrc x.q + r * dSp x.q := by
  by_cases hop : dOp x.q = 2
  · have hl : dLists x.q = true := by rw [dLists, hop]; rfl
    rw [if_pos hop, ← Chan.entry_begun hl (hin hl)]
    exact if_pos hop
  · rw [if_neg hop]
    exact if_neg hop

theorem Chan.rowTo_begun {x : Chan} {k : Core} {r : Nat} (hin : dLists x.q = true → (x.begun k).lbase + 8 * r < lsSize) :
    (x.begun k).rowTo k r = if dOp x.q = 4 then
      (rowAt (dDst x.q) (k.lsNat ((k.lsNat (dList x.q) 4 + 8 * r) % lsSize) 4) (qf x.q 6 32 32) (dDp x.q) +
        bits (k.lsNat ((k.lsNat (dList x.q) 4 + 8 * r) % lsSize) 8) 32 3 * qf x.q 5 0 32) % 2 ^ 52 else dDst x.q + r * dDp x.q := by
  by_cases hop : dOp x.q = 4
  · have hl : dLists x.q = true := by rw [dLists, hop]; rfl
    rw [if_pos hop, ← Chan.entry_begun hl (hin hl)]
    exact if_pos hop
  · rw [if_neg hop]
    exact if_neg hop

theorem Dev.setChan_uncounted {a b : Dev} (hab : a.uncounted = b.uncounted) (h : Nat) (y : Chan) :
    (a.setChan h y).uncounted = (b.setChan h y).uncounted := by
  rw [Dev.eq_of_uncounted hab]
  rfl

theorem Dev.chan_of_uncounted {a b : Dev} (hab : a.uncounted = b.uncounted) (h : Nat) : a.chan h = b.chan h := by
  rw [Dev.eq_of_uncounted hab]
  rfl

theorem Dev.chanTurn_of_uncounted {a b : Dev} (hab : a.uncounted = b.uncounted) (h : Nat) : a.chanTurn h = b.chanTurn h := by
  rw [Dev.eq_of_uncounted hab]
  rfl

theorem Dev.listRanges_of_cores {a b : Dev} (hab : a.cores = b.cores) (h : Nat) (y : Chan) : a.listRanges h y = b.listRanges h y := by
  have hcores : a.listRanges h y = ({ b with cores := a.cores } : Dev).listRanges h y := rfl
  rw [hcores, hab]

/-- Channel `h` with a descriptor fetched. -/
def Dev.chanWith (s : Dev) (h : Nat) (bs : List Byte) : Chan := { s.chan h with q := descWords bs, pos := 0 }

/-- Without mask and list nothing is read once before the rows. -/
theorem Dev.dOnce_of_none (hmask : dRm (s.chan h).q = false) (hl : dLists (s.chan h).q = false) : s.dOnce h = (s, .ok ()) := by
  rw [Dev.dOnce, hmask, hl]
  rfl

/-- A list's base and count are read from its entry in the routing table. -/
theorem Dev.dOnce_of_list (hmask : dRm (s.chan h).q = false) (hl : dLists (s.chan h).q = true) (hlist : dListCore h (s.chan h) = some c)
    (hclean : (s.core c).ls.chk = []) : s.dOnce h = ((s.moves c 1).onChan h fun ch =>
      { ch with lbase := (s.core c).lsNat (dList (s.chan h).q) 4, lcount := (s.core c).lsNat (dList (s.chan h).q + 8) 2 }, .ok ()) := by
  rw [Dev.dOnce, hmask, hl, hlist]
  simp only [Bool.false_eq_true, if_false, if_true, s.dRead_of_clean hclean, Core.leAt_lsBytes _ _ (show 0 + 4 ≤ 16 by decide),
    Core.leAt_lsBytes _ _ (show 8 + 2 ≤ 16 by decide), Nat.add_zero]
  rfl

section
variable {x : Chan} (hm : s.MovesRows h c (x.begun (s.core c)))
include hm

/-- What is read once before the rows changes the channel and counters alone. -/
theorem Dev.MovesRows.dOnce (hs : t.chan h = x) (hcores : t.cores = s.cores) : ∃ u, t.dOnce h = (u, .ok ()) ∧
    u.chan h = { x.begun (s.core c) with st := x.st, tail := x.tail } ∧ u.cores = s.cores ∧
    ∀ z, (u.setChan h z).uncounted = (t.setChan h z).uncounted := by
  subst hs
  have hmask : dRm (t.chan h).q = false := hm.mask
  have hcore : t.core c = s.core c := by rw [Dev.core, hcores, ← Dev.core]
  cases hl : dLists (t.chan h).q with
  | true =>
    refine ⟨_, Dev.dOnce_of_list hmask hl (hm.list hl) (by rw [hcore]; exact hm.ls), ?_, (t.moves_cores c 1).trans hcores, fun z => ?_⟩
    · rw [Dev.onChan, Dev.chan_setChan, if_pos rfl, Chan.begun, hl, if_pos rfl, if_pos rfl, hcore, Dev.chan_of_uncounted (t.moves_uncounted c 1)]
    · rw [Dev.onChan, Dev.setChan_setChan, Dev.setChan_uncounted (t.moves_uncounted c 1)]
  | false =>
    refine ⟨t, Dev.dOnce_of_none hmask hl, ?_, hcores, fun _ => rfl⟩
    rw [Chan.begun, hl]
    rfl

end

/-- A descriptor that passes its checks begins: the channel alone changes, and counters. -/
theorem Dev.MovesRows.dBegin {bs : List Byte} (hm : s.MovesRows h c ((s.chanWith h bs).begun (s.core c)))
    (hfetch : s.dFetch h = (s, .ok bs)) {ok : Nat → Bool} (hok : ok (dOp (descWords bs)) = true) (hcheck : s.dCheck h (s.chanWith h bs) = 0)
    (hlist : dLists (descWords bs) = true → s.listRanges h ((s.chanWith h bs).begun (s.core c)) = true) :
    ∃ u, s.dBegin h ok = (u, true) ∧ u.uncounted = (s.setChan h ((s.chanWith h bs).begun (s.core c))).uncounted := by
  let z : Chan := { s.chanWith h bs with tail := [] }
  have hz : (s.setChan h z).chan h = z := by rw [Dev.chan_setChan, if_pos rfl]
  have hset : (s.onChan h fun ch => { ch with q := descWords bs, pos := 0, tail := [] }) = s.setChan h z := rfl
  have hchecks : (s.setChan h z).dCheck h z = 0 := hcheck
  have hop3 : dOp (descWords bs) ≠ 3 := hm.overwrites
  obtain ⟨u, hread, hchan, hcores, hsame⟩ := Dev.MovesRows.dOnce (x := z) (t := s.setChan h z) hm hz rfl
  have hinside : (dLists (descWords bs) && !u.listRanges h (u.chan h)) = false := by
    cases hl : dLists (descWords bs) with
    | false => rfl
    | true =>
      have hin : u.listRanges h (u.chan h) = true := by
        rw [Dev.listRanges_of_cores hcores, hchan]
        exact hlist hl
      rw [hin]
      rfl
  refine ⟨u.onChan h fun ch => { ch with st := .moving }, ?_, ?_⟩
  · rw [Dev.dBegin, hfetch]
    simp only [hok, hset, hz, hchecks, if_neg hop3, hread, hinside, Bool.not_true, Bool.false_eq_true, if_false]
    rfl
  · rw [Dev.onChan, hchan, hsame, Dev.setChan_setChan]
    rfl

/-- The row whose descriptor begins on a ready channel, with at least one unit. -/
theorem Dev.MovesRows.dmaEffect {id : ChanId} (hid : chanKey id = h) {bs : List Byte}
    (hm : s.MovesRows h c ((s.chanWith h bs).begun (s.core c))) (hmay : s.chanMay h = true) (hturn : s.chanTurn h = true)
    (hready : (s.chan h).st = .ready) (hfetch : s.dFetch h = (s, .ok bs)) (hcheck : s.dCheck h (s.chanWith h bs) = 0)
    (hlist : dLists (descWords bs) = true → s.listRanges h ((s.chanWith h bs).begun (s.core c)) = true)
    (hrows : 0 < ((s.chanWith h bs).begun (s.core c)).rows) (hbytes : 0 < dDb (descWords bs))
    (hone : ((s.chanWith h bs).begun (s.core c)).rows * dDb (descWords bs) ≤ 4096) {n : Nat} (hn : 0 < n) {op : Nat}
    (hop : dOp (descWords bs) = op) :
    ((dmaEffect op id n s).chan h).st = .finished 0 ∧ ∀ j, (dmaEffect op id n s).core j = if j = c then
      (s.core c).stored (((s.chanWith h bs).begun (s.core c)).rowCells (s.core c) (s.cstore (h / 16))) else s.core j := by
  let y := (s.chanWith h bs).begun (s.core c)
  obtain ⟨u, hbegin, hu⟩ := hm.dBegin hfetch (ok := fun o => o == op || decide (5 ≤ o)) (by simp [hop]) hcheck hlist
  have hwants : y.wants = true := by
    have hop3 : (fld64 (wordAt y.q 0) 0 4 == 3) = false := beq_eq_false_iff_ne.mpr hm.overwrites
    simp only [Chan.wants, Chan.starved, hop3, Bool.and_false, Bool.false_and]
    rfl
  have hwanted : (s.chan h).wants = true := by rw [Chan.wants, hready]; rfl
  have hworking : s.Working u h y := by
    refine Dev.Working.of_uncounted (t := s.setChan h y) ⟨?_, rfl, rfl, rfl⟩ hu
    rw [Dev.chan_setChan, if_pos rfl]
  have huturn : u.chanTurn h = true := by
    rw [Dev.chanTurn_of_uncounted hu]
    exact Dev.chanTurn_setChan hm.cluster hwants hwanted rfl rfl rfl hmay hturn
  have heffect : Machine.dmaEffect op id n s = u.dUnitsRun h (n - 1 + 1) := by
    rw [Machine.dmaEffect, hid, Nat.sub_add_cancel hn]
    simp only [hmay, hturn, hready, hbegin, Bool.not_true, Bool.or_self, Bool.false_eq_true, if_false]
  rw [heffect]
  exact hm.dUnitsRun hrows hbytes hone rfl hworking huturn (n - 1)

end

end Sys2Proof.Machine

open Sys2Proof Sys2Proof.Machine

/-- Settles O42: the descriptor begins and keeps its turn (`Dev.chanTurn_setChan`), its one unit writes the cells of every row
(`Dev.MovesRows.unitMove`), and rows apart are read back from an undamaged store. -/
theorem rowsAreMoved : Obligations.RowsAreMoved := by
  unfold Obligations.RowsAreMoved
  intro s k ch bs c n h q x ls lb rows row rank from_ dstAt byte hmay hturn hready hwork _ hfetch hcheck hdest hsource hformats hplain hflags hcore
    hlistCore _ halive hls hcs hlist hrows hbytes hone hn hapart y hy hop
  have hh : h < 512 := by have := k.isLt; have := ch.isLt; omega
  have hk : h / 16 = k.val := by have := ch.isLt; omega
  simp only [Bool.or_eq_false_iff] at hflags
  obtain ⟨⟨⟨hmask, hocc⟩, hskew⟩, hxpose⟩ := hflags
  have hrow : y.2 ≠ 3 ∧ exec y.1 s = s.run (dmaEffect y.2 (.cluster k ch) n) := by
    revert y
    simp only [List.forall_mem_cons]
    exact ⟨fun _ => ⟨by decide, rfl⟩, fun _ => ⟨by decide, rfl⟩, fun _ => ⟨by decide, rfl⟩, fun _ => ⟨by decide, rfl⟩,
      fun _ h => absurd h List.not_mem_nil⟩
  obtain ⟨hop3, hexec⟩ := hrow
  let z := x.begun ls
  have hm : s.dev.MovesRows h c z :=
    { cluster := hh, up := Dev.clusterUp_of_chanMay hh hmay, work := hwork, core := hcore, list := hlistCore, alive := halive, ls := hls,
      cs := hk ▸ hcs, dest := hdest, source := hsource, formats := hformats, plain := hplain, overwrites := hop ▸ hop3, mask := hmask,
      occ := hocc, skew := hskew, xpose := hxpose }
  have hranges : dLists q = true → s.dev.listRanges h z = true := fun hl => by
    have hz : z = _ := Chan.begun_of_list hl
    rw [hz]
    exact hlist hl
  have hzrows : z.rows = rows := Chan.rows_begun x ls
  have hinside : ∀ r < rows, dLists q = true → z.lbase + 8 * r < lsSize := fun r hr hl => Dev.list_inside (y := z) hl (hranges hl) (hzrows ▸ hr)
  have hto : ∀ r < rows, z.rowTo ls r = dstAt r := fun r hr => Chan.rowTo_begun (hinside r hr)
  have hfrom : ∀ r < rows, z.rowFrom ls r = from_ r := fun r hr => Chan.rowFrom_begun (hinside r hr)
  have hzapart : ∀ i j, i < z.rows → j < z.rows → i ≠ j → z.rowTo ls i + dDb z.q ≤ z.rowTo ls j ∨
      z.rowTo ls j + dDb z.q ≤ z.rowTo ls i :=
    fun i j hi hj hij => by
      rw [hzrows] at hi hj
      rw [hto i hi, hto j hj]
      exact hapart i j hi hj hij
  obtain ⟨u, hu, hst, hcores⟩ : ∃ u, dmaEffect y.2 (.cluster k ch) n s.dev = u ∧ (u.chan h).st = .finished 0 ∧
      ∀ j, u.core j = if j = c then ls.stored (z.rowCells ls (s.dev.cstore (h / 16))) else s.dev.core j :=
    ⟨_, rfl, hm.dmaEffect (id := .cluster k ch) rfl hmay hturn hready hfetch hcheck hranges (hzrows ▸ hrows) hbytes (hzrows ▸ hone) hn hop⟩
  have hdone : u.core c = ls.stored (z.rowCells ls (s.dev.cstore (h / 16))) := (hcores c).trans (if_pos rfl)
  refine ⟨_, hexec.trans (State.run_eq hu), hst, fun r i hr hi => ?_, fun a _ ha => ?_, fun j hj => (hcores j).trans (if_neg hj)⟩
  · refine (congrArg (Core.lsByte · (dstAt r + i)) hdone).trans ?_
    have hread := Chan.lsByte_stored_rowCells ls (s.dev.cstore (h / 16)) hzapart (hzrows ▸ hr) hi
    rw [hto r hr] at hread
    refine hread.trans ?_
    simp only [byte, Chan.rowByte, hfrom r hr, hk]
    rfl
  · refine (congrArg (Core.lsByte · a) hdone).trans (Chan.lsByte_stored_rowCells_outside ls _ a fun r hr => ?_)
    have hr : r < rows := hzrows ▸ hr
    exact (hto r hr).symm ▸ ha r hr
end

section
/-! SUPPORT. What reads of memory, zeroed ranges and the completion of an entry leave alone, for any part of the device that reads none of
what they change (R246, R287 to R290, R297, R302 to R304). -/

namespace Sys2Proof.Machine

/-! ### Reads and zeroed ranges -/

section
variable {α : Type} {g : Dev → α} (h : MemoryKeeps g)
include h

theorem MemoryKeeps.vRead (s : Dev) (t : Nat) (src : Src) (cls ucls va n : Nat) : g (s.vRead t src cls ucls va n).1 = g s := by
  have hx : g (s.xlateRange t src cls va n false).1 = g s := h.xlateAll t src cls false _ s
  unfold Dev.vRead
  generalize s.xlateRange t src cls va n false = x at hx
  obtain ⟨d, x⟩ := x
  cases x with
  | ok ps => exact (h.noteAll _ _ _).trans ((foldl_keeps g _ ps (fun d p _ =>
      (h.cxlAsk _ _ _).trans ((h.carry _ _ _ _ _ _).trans (h.countBytes _ _ _ _ _))) d).trans hx)
  | wait a => exact hx
  | fail => exact hx

theorem MemoryKeeps.snoopBack (s : Dev) (pa n : Nat) : g (s.snoopBack pa n) = g s :=
  (foldl_keeps g _ _ (fun d _ _ => h.sendHost d _) _).trans (h.rest s _ rfl)

theorem MemoryKeeps.zeroRange (s : Dev) (va n : Nat) : g (s.zeroRange va n) = g s := by
  refine foldl_keeps g _ _ (fun d p _ => ?_) s
  have hx := h.xlate d (baseTlb d.pkg.lead) d.sysSrc 2 p.1 true
  generalize d.xlate (baseTlb d.pkg.lead) d.sysSrc 2 p.1 true = x at hx
  obtain ⟨e, x⟩ := x
  cases x with
  | ok pa =>
    have hb : g ((e.countBytes 4 16 pa p.2).snoopBack pa p.2) = g e := (h.snoopBack _ _ _).trans (h.countBytes _ _ _ _ _)
    exact (h.rest _ _ rfl).trans (hb.trans hx)
  | wait a => exact hx
  | fail => exact hx

end

/-! ### The completion of an entry -/

/-- `g` reads nothing that the completion of an entry changes: what an access to memory changes, the queues, QTB_STATUS. -/
structure QueueKeeps {α : Type} (g : Dev → α) : Prop extends MemoryKeeps g where
  que : ∀ (s : Dev) (q : QueueUnit), g { s with que := q } = g s
  qtb : ∀ (s : Dev) (f : Fld) (v : Nat), f.off = qtbStatusBusy.off → g (s.setFld f v) = g s

namespace QueueKeeps

section
variable {α : Type} {g : Dev → α} (h : QueueKeeps g)
include h

theorem sendHostFor (s : Dev) (q : Option Nat) (o : Output) : g (s.sendHostFor q o) = g s := by
  refine h.rest _ _ ?_
  unfold Dev.sendHostFor
  split <;> rfl

theorem msix (s : Dev) (v : Nat) : g (s.msix v) = g s := by
  unfold Dev.msix
  split
  · exact h.que s _
  · exact h.sendHost s _

theorem qErrShow (s : Dev) : g s.qErrShow = g s := by
  unfold Dev.qErrShow
  split
  · exact (h.qtb _ qtbStatusErrQ _ rfl).trans (h.qtb s qtbStatusErrAny (b2n true) rfl)
  · exact (h.qtb _ qtbStatusErrQ _ rfl).trans (h.qtb s qtbStatusErrAny (b2n false) rfl)

theorem setQ (s : Dev) (q : Nat) (c : QCtx) : g (s.setQ q c) = g s := by
  unfold Dev.setQ
  extract_lets was que put
  have hput : g put = g s := h.que s _
  split
  · exact (h.qErrShow put).trans hput
  · exact hput

theorem qErrSignal (s : Dev) : g s.qErrSignal = g s := by
  unfold Dev.qErrSignal
  split
  · exact h.msix s _
  · rfl

theorem qError (s : Dev) (q code : Nat) : g (s.qError q code) = g s := by
  unfold Dev.qError
  extract_lets c
  split
  · rfl
  · split
    · exact h.setQ s q _
    · exact (h.qErrSignal _).trans (h.setQ s q _)

theorem qWrite (s : Dev) (q addr : Nat) (bs : List Byte) : g (s.qWrite q addr bs) = g s := by
  unfold Dev.qWrite
  split
  · exact h.que s _
  · split
    · have hw := h.vWrite s (baseTlb 0) (pkgSrc 0 4) 0 addr bs
      generalize s.vWrite (baseTlb 0) (pkgSrc 0 4) 0 addr bs = x at hw
      obtain ⟨d, x⟩ := x
      cases x with
      | done => exact hw
      | wait a => exact (h.que d _).trans hw
      | fail => exact (h.qError d q 3).trans hw
    · exact h.sendHostFor s _ _

theorem qWriteBack (s : Dev) (q : Nat) : g (s.qWriteBack q) = g s := by
  unfold Dev.qWriteBack
  extract_lets c
  split
  · exact h.qWrite s q _ _
  · rfl

theorem setDevCount (s : Dev) (q n : Nat) : g (s.setDevCount q n) = g s := (h.qWriteBack _ q).trans (h.setQ s q _)

theorem qSignal (s : Dev) (q n : Nat) : g (s.qSignal q n) = g s := by
  unfold Dev.qSignal
  extract_lets c f m
  split
  · rfl
  · split
    · have hf : g (s.setFresh q ⟨0, 0⟩) = g s := h.que s _
      refine Eq.trans ?_ hf
      unfold Dev.qMessage
      split
      · exact h.que _ _
      · exact h.msix _ _
    · exact h.que s _

theorem qAppend (s : Dev) (q : Nat) (slots : List (List Byte)) : g (s.qAppend q slots) = g s :=
  (h.qSignal _ q _).trans ((h.setDevCount _ q _).trans (foldl_keeps g _ _ (fun d _ _ => h.qWrite d q _ _) s))

theorem post (s : Dev) (m : Cpl) : g (s.post m) = g s := by
  unfold Dev.post Dev.putCpl
  split
  · exact h.qAppend s _ _
  · exact h.que s _

theorem completeOne (s : Dev) (q : Nat) (cid : BitVec 16) (quiet : Bool) (status : Nat) (result : W64) (n : Nat) :
    g (s.completeOne q cid quiet status result n) = g s := by
  unfold Dev.completeOne
  extract_lets c counted que dropped
  have hd : g dropped = g s := (h.que counted _).trans (h.setDevCount s q _)
  split
  · exact hd
  · exact (h.post dropped _).trans hd

theorem drainBad (q n : Nat) : ∀ s : Dev, g (s.drainBad q n) = g s := by
  induction n with
  | zero => exact fun _ => rfl
  | succ n ih =>
    intro s
    unfold Dev.drainBad
    split
    · split
      · exact (ih _).trans (h.completeOne s q _ _ _ _ _)
      · rfl
    · rfl

theorem stopped (s : Dev) (q : Nat) (c : QCtx) (p : Prop) [Decidable p] : g (if p then (s.setQ q c).qErrSignal else s) = g s := by
  split
  · exact (h.qErrSignal _).trans (h.setQ s q c)
  · rfl

theorem qSettle (s : Dev) (q : Nat) : g (s.qSettle q) = g s := by
  unfold Dev.qSettle
  extract_lets c stopped
  have hs (d : Dev) : g (stopped d) = g d := h.stopped d q _ _
  clear_value stopped
  split
  · rfl
  · split
    next q' k _ =>
      split
      · have hb : g (({ s with que := { s.que with op := none } } : Dev).setBit qtbStatusBusy false) = g s :=
          (h.qtb _ qtbStatusBusy (b2n false) rfl).trans (h.que s _)
        split
        · exact (h.setQ _ q _).trans ((h.que _ _).trans hb)
        · split
          · exact (hs _).trans hb
          · exact (h.setQ _ q _).trans hb
      · exact hs s
    next => exact hs s

/-- An entry's completion (R297). -/
theorem complete (s : Dev) (q : Nat) (cid : BitVec 16) (quiet : Bool) (status : Nat) (result : W64) (n : Nat) :
    g (s.complete q cid quiet status result n) = g s :=
  (h.qSettle _ q).trans ((h.drainBad q _ _).trans (h.completeOne s q cid quiet status result n))

end

theorem job : QueueKeeps fun s : Dev => s.job where
  rest a b h := by rw [h]
  drain _ _ _ _ := rfl
  que _ _ := rfl
  qtb _ _ _ _ := rfl

theorem col : QueueKeeps fun s : Dev => s.col where
  rest a b h := by rw [h]
  drain _ _ _ _ := rfl
  que _ _ := rfl
  qtb _ _ _ _ := rfl

theorem ev : QueueKeeps fun s : Dev => s.ev where
  rest a b h := by rw [h]
  drain _ _ _ _ := rfl
  que _ _ := rfl
  qtb _ _ _ _ := rfl

end QueueKeeps

/-! ### Registers that memory and queues do not touch -/

/-- The field stands in a register beside MEM_PC_DRAIN and QTB_STATUS. -/
abbrev Fld.quiet (f : Fld) : Prop := (f.off < memPcDrainDrain.off ∨ (memPcDrainDrain.nth 16).off ≤ f.off) ∧ f.off ≠ qtbStatusBusy.off

theorem QueueKeeps.fld {f : Fld} (hf : f.quiet) : QueueKeeps fun s : Dev => s.fld f where
  rest a b h := by rw [h]; rfl
  drain s st v hst := by
    obtain ⟨hd, -⟩ := hf
    refine s.fld_setFld_other _ f v (.inl ?_)
    simp only [memPcDrainDrain, Fld.nth] at hd ⊢
    omega
  que _ _ := rfl
  qtb s p v hp := s.fld_setFld_other p f v (.inl (hp ▸ hf.2))

end Sys2Proof.Machine
end

section
/-! SUPPORT. What becomes active at a close leaves the event counters alone: the pager's undoing of a move, the transport's next try, the end of
a commit (R7, R23, R138, R191, R226, R255, R280, R375, R396). -/

namespace Sys2Proof.Machine

variable (s : Dev)

@[simp] theorem Dev.count_ev (b e k : Nat) : (s.count b e k).ev = s.ev := QueueKeeps.ev.count s b e k
@[simp] theorem Dev.detect_ev (src : Src) (kind cls arg : Nat) : (s.detect src kind cls arg).ev = s.ev := QueueKeeps.ev.detect s src kind cls arg
@[simp] theorem Dev.msix_ev (v : Nat) : (s.msix v).ev = s.ev := QueueKeeps.ev.msix s v
@[simp] theorem Dev.complete_ev (q : Nat) (cid : BitVec 16) (quiet : Bool) (status : Nat) (result : W64) (n : Nat) :
    (s.complete q cid quiet status result n).ev = s.ev := QueueKeeps.ev.complete s q cid quiet status result n

/-! ### The pager undoes a move (R255, R262, R483) -/

theorem Dev.hdmRead_beside (off : Nat) (own : Bool) : (s.hdmRead off own).beside = s.beside := by
  unfold Dev.hdmRead
  split
  · rfl
  · split
    · simp
    next va _ =>
      have hx := s.xlate_beside (baseTlb 0) (pkgSrc 0 4) 0 va false
      generalize s.xlate (baseTlb 0) (pkgSrc 0 4) 0 va false = x at hx
      obtain ⟨d, x⟩ := x
      cases x with
      | ok pa =>
        have hd (l : List (Nat × Ecc)) (o : Output) : (((((d.noteAll 0 l).countBytes 0 15 pa 64).carry (baseTlb 0) (pkgSrc 0 4) false pa
            64).cxlAsk pa fun via tgt => .cxlRead via tgt 64).sendHost o).beside = d.beside := by simp
        dsimp only
        split <;> exact (hd _ _).trans hx
      | wait a => exact hx
      | fail => exact (d.sendHost_beside _).trans hx

theorem Dev.hdmWrite_beside (off : Nat) (data : List Byte) : (s.hdmWrite off data).beside = s.beside := by
  unfold Dev.hdmWrite
  split
  · rfl
  · split
    · rfl
    next va _ =>
      have hx := s.xlate_beside (baseTlb 0) (pkgSrc 0 4) 0 va true
      generalize s.xlate (baseTlb 0) (pkgSrc 0 4) 0 va true = x at hx
      obtain ⟨d, x⟩ := x
      cases x with
      | ok pa => exact (Dev.physWriteC_beside _ 0 pa _).trans ((Dev.carry_beside _ _ _ true pa 64).trans hx)
      | wait a => exact hx
      | fail => exact hx

theorem Dev.setPool_beside (frame : Nat) (free : Bool) : (s.setPool frame free).beside = s.beside := by
  unfold Dev.setPool
  split
  · exact s.ownWrite_beside _ _
  · rfl

theorem Dev.hdmResume_beside : s.hdmResume.beside = s.beside := by
  refine (foldl_beside _ (fun d r => ?_) _ _).trans rfl
  split
  · exact d.hdmWrite_beside _ _
  · exact d.hdmRead_beside _ _

theorem Dev.undoMove_beside : s.undoMove.beside = s.beside := by
  unfold Dev.undoMove
  split
  · rfl
  · exact (Dev.hdmResume_beside _).trans ((Dev.setPool_beside _ _ true).trans (s.putLeaf_beside _ _))

/-! ### The transport (R387, R390, R394, R396, R397) -/

@[simp] theorem Dev.putGust_ev (port pbr : Nat) (bytes : List Byte) : (s.putGust port pbr bytes).ev = s.ev := by
  unfold Dev.putGust
  split <;> simp

@[simp] theorem Dev.putStopped_ev : s.putStopped.ev = s.ev :=
  foldl_keeps Dev.ev _ _ (fun d _ _ => d.putGust_ev _ _ _) _

@[simp] theorem Dev.control_ev (dst op eclass win seq aseq addr : Nat) : (s.control dst op eclass win seq aseq addr).ev = s.ev := by
  unfold Dev.control
  split
  · exact s.putGust_ev _ _ _
  · rfl

@[simp] theorem Dev.ask_ev (pkg win : Nat) : (s.ask pkg win).ev = s.ev := by
  unfold Dev.ask
  split
  · rfl
  · exact Dev.control_ev _ _ _ _ _ _ _ _

@[simp] theorem Dev.toPort_ev (g : TxGust) (port : Nat) : (s.toPort g port).ev = s.ev := by
  unfold Dev.toPort
  split <;> rfl

@[simp] theorem Dev.emit_ev (g : TxGust) (i : Nat) (resend : Bool) : (s.emit g i resend).ev = s.ev := by
  unfold Dev.emit
  extract_lets w h put used slots
  have hput : put.ev = s.ev := by simp [put]
  have hused : used.ev = put.ev := by
    simp only [used]
    split <;> rfl
  exact hused.trans hput

@[simp] theorem Dev.stampRead_ev (g : TxGust) : (s.stampRead g).ev = s.ev := by
  unfold Dev.stampRead
  split <;> rfl

@[simp] theorem Dev.trySend_ev (g : TxGust) : (s.trySend g).ev = s.ev := by
  unfold Dev.trySend
  extract_lets keep lv used
  have hkeep (d : Dev) : (keep d).ev = d.ev := rfl
  clear_value keep
  split
  · exact hkeep s
  split
  · exact (hkeep _).trans (s.ask_ev _ _)
  split
  · exact hkeep s
  extract_lets w
  split
  · exact hkeep s
  split
  · split
    · exact (hkeep _).trans (s.ask_ev _ _)
    · exact hkeep s
  split
  · exact s.emit_ev g _ false
  · exact (Dev.emit_ev _ _ _ false).trans (Dev.stampRead_ev _ _)

@[simp] theorem Dev.resend_ev (g : TxGust) : (s.resend g).ev = s.ev := by
  unfold Dev.resend
  extract_lets wait
  have hwait (d : Dev) : (wait d).ev = d.ev := rfl
  clear_value wait
  split
  · exact hwait s
  extract_lets w
  split
  · exact hwait s
  split
  · exact (Dev.count_ev _ _ _ _).trans (s.emit_ev g _ true)
  split
  · exact (hwait _).trans (s.ask_ev _ _)
  · exact hwait s

@[simp] theorem Dev.forward_ev (r : Relay) : (s.forward r).ev = s.ev := by
  unfold Dev.forward
  extract_lets hop port next last ctl fab cls g put fab' slotted
  have hput : put.ev = s.ev := by simp [put]
  split
  · rfl
  split
  · rfl
  split
  · exact Dev.ask_ev _ _ _
  split
  · exact hput
  refine (Dev.control_ev _ _ _ _ _ _ _ _).trans (Eq.trans ?_ hput)
  simp only [slotted]
  split <;> rfl

@[simp] theorem Dev.sendOwn_ev (g : TxGust) : (s.sendOwn g).ev = s.ev := by
  unfold Dev.sendOwn
  extract_lets n t
  have ht : t.ev = s.ev := by
    simp only [t]
    split <;> simp
  split <;> exact ht

@[simp] theorem Dev.noteDead_ev : s.noteDead.ev = s.ev := by
  refine foldl_keeps Dev.ev _ _ (fun d x _ => ?_) s
  extract_lets up was dead
  split
  · rfl
  · split
    · exact Dev.detect_ev _ _ _ _ _
    · rfl

@[simp] theorem Dev.noteDeaf_ev : s.noteDeaf.ev = s.ev := by
  unfold Dev.noteDeaf
  split
  · rfl
  · split <;> rfl

@[simp] theorem Dev.calmReached_ev : s.calmReached.ev = s.ev := by
  unfold Dev.calmReached
  split
  · rfl
  · exact foldl_keeps Dev.ev _ _ (fun d c _ => d.complete_ev _ _ _ _ _ _) _

@[simp] theorem Dev.pump_ev : s.pump.ev = s.ev := by
  have hrelays (l : List Relay) (d : Dev) : (l.foldl Dev.forward d).ev = d.ev := foldl_keeps Dev.ev _ l (fun d r _ => d.forward_ev r) d
  have hown (l : List TxGust) (d : Dev) : (l.foldl Dev.sendOwn d).ev = d.ev := foldl_keeps Dev.ev _ l (fun d g _ => d.sendOwn_ev g) d
  have hshow (d : Dev) : d.fabShow.ev = d.ev := by simp [Dev.fabShow]
  simp [Dev.pump, hrelays, hown, hshow]

@[simp] theorem Dev.portSettle_ev (p : Nat) : (s.portSettle p).ev = s.ev := by
  unfold Dev.portSettle
  extract_lets was up shown mine fab held
  have hshown : shown.ev = s.ev := rfl
  have hheld : held.ev = shown.ev := by
    simp only [held]
    split <;> rfl
  split
  · rfl
  split
  · exact Dev.pump_ev _
  · refine (Dev.pump_ev _).trans (Eq.trans ?_ hheld)
    exact foldl_keeps Dev.ev _ _ (fun d g _ => d.resend_ev g) _

/-! ### Activation and the end of a commit (R7, R23, R280) -/

theorem ev_ite {p : Prop} [Decidable p] {a b : Dev} (h : a.ev = b.ev) : (if p then a else b).ev = b.ev := by
  split
  · exact h
  · rfl

theorem Dev.unparkRows_ev (l : List Nat) : (s.unparkRows l).ev = s.ev := by
  refine foldl_keeps Dev.ev _ l (fun d c _ => ?_) s
  rfl

theorem Dev.activate_ev (off : Nat) (mask v : W64) : (s.activate off mask v).ev = s.ev := by
  unfold Dev.activate
  extract_lets old new put jobs plan hbm mems tlbs undone pager all ques lines rows n pmcs samples inc
  have hplan : plan.ev = put.ev := ev_ite rfl
  have hhbm : hbm.ev = plan.ev := ev_ite rfl
  have htlbs : tlbs.ev = hbm.ev := ev_ite rfl
  have hundone : undone.ev = tlbs.ev := ev_ite (Dev.ev_of_beside tlbs.undoMove_beside)
  have hpager : pager.ev = tlbs.ev := ev_ite hundone
  have hlines : lines.ev = pager.ev := ev_ite rfl
  have hrows : rows.ev = lines.ev := ev_ite (lines.unparkRows_ev _)
  have hsamples : samples.ev = rows.ev := ev_ite rfl
  have hinc : inc.ev = samples.ev := ev_ite rfl
  have hall : samples.ev = s.ev := by rw [hsamples, hrows, hlines, hpager, htlbs, hhbm, hplan]; rfl
  split
  · exact hall
  · refine (ev_ite ?_).trans (hinc.trans hall)
    exact foldl_keeps Dev.ev _ _ (fun d p _ => Dev.portSettle_ev (d.judgePort p) p) inc

theorem Dev.activateAll_ev (vals bits : Sparse W64) : (s.activateAll vals bits).ev = s.ev :=
  foldl_keeps Dev.ev _ _ (fun d e _ => d.activate_ev e.1 e.2 _) s

theorem Dev.commitDone_ev (n : Nat) : (s.commitDone n).ev = s.ev := by
  unfold Dev.commitDone Dev.commitSignal
  split
  · exact Dev.msix_ev _ _
  · rfl

theorem Dev.commitNext_ev : s.commitNext.ev = s.ev := by
  unfold Dev.commitNext Dev.commitStart
  split
  · split
    · exact (Dev.count_ev _ _ _ _).trans (Dev.commitDone_ev _ _)
    · rfl
  · rfl

/-- What waited for the close, made active, leaves the event counters as they were. -/
theorem Dev.applyWaiting_ev : s.applyWaiting.ev = s.ev := by
  unfold Dev.applyWaiting
  extract_lets vals bits regs active
  have hactive : active.ev = s.ev := Dev.activateAll_ev _ vals bits
  split
  · split
    · exact (Dev.commitNext_ev _).trans ((Dev.commitDone_ev _ _).trans hactive)
    · exact hactive
  · exact hactive

end Sys2Proof.Machine
end

section
/-! SUPPORT. What opening and closing a step change and leave alone, operation by operation (R166, R171, R176, R183, R209, R210, R224, R320, R328,
R352, R443). -/

namespace Sys2Proof.Machine

variable (s : Dev)

/-! ### Series of registers -/

/-- A field apart from every register of a series of which the first `n` are set. -/
theorem Dev.foldl_setFld_other (f p : Fld) (v : Dev → Nat → Nat) (n : Nat) (h : p.off < f.off ∨ f.off + 8 * n ≤ p.off) :
    ((List.range n).foldl (fun s i => s.setFld (f.nth i) (v s i)) s).fld p = s.fld p := by
  refine foldl_keeps (fun d => d.fld p) _ _ (fun d i hi => d.fld_setFld_other _ p _ (.inl ?_)) s
  rw [List.mem_range] at hi
  simp only [Fld.nth]
  omega

/-- A field of a series of which the first `n` are cleared. -/
theorem Dev.foldl_setFld_zero (f : Fld) (n i : Nat) (hf : f.lo + f.width ≤ 64) (hi : i < n) :
    ((List.range n).foldl (fun s i => s.setFld (f.nth i) 0) s).fld (f.nth i) = 0 := by
  induction n with
  | zero => omega
  | succ n ih =>
    rw [List.range_succ, List.foldl_append, List.foldl_cons, List.foldl_nil]
    by_cases h : i = n
    · exact h ▸ (Dev.fld_setFld_same _ (f.nth i) 0 hf).trans (Nat.zero_mod _)
    · rw [Dev.fld_setFld_other _ _ _ _ (.inl (by simp only [Fld.nth]; omega)), ih (by omega)]

/-! ### What a step's course turns on -/

/-- The job, the event counters, the dispatchers and the update units. -/
def Dev.course (s : Dev) := (s.job, s.ev, s.disp, s.upds)

theorem Dev.course_eq_iff {a b : Dev} : a.course = b.course ↔ a.job = b.job ∧ a.ev = b.ev ∧ a.disp = b.disp ∧ a.upds = b.upds := by
  simp [Dev.course]

@[simp] theorem Dev.setFld_course (f : Fld) (v : Nat) : (s.setFld f v).course = s.course := rfl
@[simp] theorem Dev.setBit_course (f : Fld) (b : Bool) : (s.setBit f b).course = s.course := rfl

theorem memoryKeeps_course : MemoryKeeps Dev.course where
  rest a b h := by rw [h]; rfl
  drain _ _ _ _ := rfl

/-! ### Memory: slices, ledger, records -/

section
variable {α : Type} {g : Dev → α} (h : MemoryKeeps g)
include h

theorem MemoryKeeps.clearSlice (o : Nat) : g (s.clearSlice o) = g s := by
  unfold Dev.clearSlice
  split
  · rfl
  · exact h.vWrite s _ _ _ _ _

theorem MemoryKeeps.clearLedger : g s.clearLedger = g s := by
  unfold Dev.clearLedger
  split
  · exact h.zeroRange s _ _
  · rfl

theorem MemoryKeeps.readRecs (addr n : Nat) : g (s.readRecs addr n).1 = g s := by
  unfold Dev.readRecs
  refine List.foldlRecOn (motive := fun acc : Dev × List (Option (List Byte)) => g acc.1 = g s) _ _ rfl fun acc hacc i _ => ?_
  have hr := (h.vRead acc.1 (baseTlb acc.1.pkg.lead) acc.1.sysSrc 2 2 (addr + 32 * i) 32).trans hacc
  generalize acc.1.vRead (baseTlb acc.1.pkg.lead) acc.1.sysSrc 2 2 (addr + 32 * i) 32 = x at hr
  obtain ⟨d, x⟩ := x
  cases x <;> exact hr

/-- A job-level fault is told in SYS_JOB_STATUS.jf_cause, by a message and in a counter. -/
theorem MemoryKeeps.tellHold (hg : ∀ (d : Dev) v, g (d.setFld sysJobStatusJfCause v) = g d) (k : Nat) : g (s.tellHold k) = g s :=
  (h.count _ _ _ _).trans ((h.detect _ _ _ _ _).trans (hg s k))

end

/-! ### Registers that report (R229, R443) -/

/-- A register in which the collectives or the norm report: COL_GROUP_STAT to COL_STATUS, UPD_NORM_AUX. -/
abbrev reports (o : Nat) : Prop := (colGroupStatMembers.off ≤ o ∧ o < (colStatusSat.nth 4).off) ∨ o = updNormAuxRef.off

/-- `g` reads nothing that an access to memory changes and none of the registers that report. -/
structure ReportKeeps {α : Type} (g : Dev → α) : Prop extends MemoryKeeps g where
  reg : ∀ (s : Dev) (f : Fld) (v : Nat), reports f.off → g (s.setFld f v) = g s

section
variable {α : Type} {g : Dev → α} (h : ReportKeeps g)
include h

theorem ReportKeeps.bit (f : Fld) (b : Bool) (hf : reports f.off) : g (s.setBit f b) = g s := h.reg s f _ hf

theorem ReportKeeps.colShow : g s.colShow = g s := by
  have hgroup : reports colGroupStatMembers.off := .inl (by decide)
  unfold Dev.colShow
  extract_lets gid l mine status members seq calm
  have hstatus : g status = g s := by
    refine foldl_keeps g _ _ (fun d i hi => h.reg d _ _ (.inl ?_)) s
    rw [List.mem_range] at hi
    simp only [colStatusInflight, colStatusSat, colGroupStatMembers, Fld.nth]
    omega
  have hmembers : g members = g status := (h.reg _ colGroupStatRank _ hgroup).trans (h.reg status colGroupStatMembers _ hgroup)
  have hseq : g seq = g members := (h.bit _ colGroupStatDefined _ hgroup).trans (h.reg members colGroupStatSeq _ hgroup)
  have hcalm : g calm = g seq := (h.bit _ colGroupStatCalm _ hgroup).trans (h.bit seq colGroupStatMapped _ hgroup)
  exact (h.reg _ colGroupStatTerms _ hgroup).trans ((h.bit calm colGroupStatRecovering _ hgroup).trans
    (hcalm.trans (hseq.trans (hmembers.trans hstatus))))

theorem ReportKeeps.normShow : g s.normShow = g s :=
  (h.bit _ updNormAuxNormSat _ (.inr rfl)).trans (h.reg s updNormAuxInexact _ (.inr rfl))

theorem ReportKeeps.setNormRef : g s.setNormRef = g s := by
  have hr := h.readRecs s (s.fld sysPlanBaseBase * 65536) s.planN
  unfold Dev.setNormRef
  generalize s.readRecs (s.fld sysPlanBaseBase * 65536) s.planN = x at hr
  obtain ⟨d, es⟩ := x
  refine (h.reg _ updNormAuxRef _ (.inr rfl)).trans ?_
  split
  · exact hr
  · rfl

/-- Forming the clip factor changes UPD_NORM_STAT and the sequence numbers of the norm group beside what it reports (R210). -/
theorem ReportKeeps.formClip (hstat : ∀ (d : Dev) f v, f.off = updNormStatClip.off → g (d.setFld f v) = g d)
    (hcol : ∀ (d : Dev) c, g { d with col := c } = g d) (lo hi : Nat) : g (s.formClip lo hi) = g s := by
  have hshow := h.normShow s
  unfold Dev.formClip
  extract_lets shown p gid seqs col told
  split
  · exact (hstat _ updNormStatClip _ rfl).trans hshow
  · exact (hstat _ updNormStatClip _ rfl).trans ((hstat _ updNormStatNorm _ rfl).trans ((h.colShow _).trans ((hcol _ _).trans hshow)))

end

theorem ReportKeeps.course : ReportKeeps Dev.course where
  toMemoryKeeps := memoryKeeps_course
  reg _ _ _ _ := rfl

theorem ReportKeeps.fld {f : Fld} (hf : f.quiet) (hr : ¬ reports f.off) : ReportKeeps fun s : Dev => s.fld f where
  toMemoryKeeps := (QueueKeeps.fld hf).toMemoryKeeps
  reg s p v hp := s.fld_setFld_other p f v (.inl fun he => hr (he ▸ hp))

/-- Fields beside UPD_NORM_STAT and what the registers report stand when the clip factor is formed. -/
theorem Dev.formClip_fld {f : Fld} (hf : f.quiet) (hr : ¬ reports f.off) (hs : f.off ≠ updNormStatClip.off) (lo hi : Nat) :
    (s.formClip lo hi).fld f = s.fld f :=
  (ReportKeeps.fld hf hr).formClip s (fun d p v hp => d.fld_setFld_other p f v (.inl (hp ▸ hs))) (fun _ _ => rfl) lo hi

theorem Dev.formClip_ev (lo hi : Nat) : (s.formClip lo hi).ev = s.ev :=
  (Dev.course_eq_iff.mp (ReportKeeps.course.formClip s (fun _ _ _ _ => rfl) (fun _ _ => rfl) lo hi)).2.1

/-- Without the norm the clip factor is 1 (R210). -/
theorem Dev.formClip_clip (lo hi : Nat) (hn : s.on updCtlNormEn = false) : (s.formClip lo hi).fld updNormStatClip = 0x3F800000 := by
  have hshow : s.normShow.on updCtlNormEn = false := by
    rw [Dev.on, (ReportKeeps.fld (f := updCtlNormEn) (by decide) (by decide)).normShow s]
    exact hn
  rw [Dev.formClip, if_pos (by rw [hshow]; rfl), Dev.fld_setFld_same _ _ _ (by decide)]
  rfl

/-! ### Arrivals of the close (R352) -/

theorem Dev.closeArrive_keeps {α : Type} {g : Dev → α} (hg : ∀ (d : Dev) e, g { d with ev := e } = g d) (n : Nat) :
    g (s.closeArrive n) = g s := foldl_keeps g _ _ (fun d _ _ => hg d _) s

@[simp] theorem Dev.closeArrive_job (n : Nat) : (s.closeArrive n).job = s.job := s.closeArrive_keeps (g := Dev.job) (fun _ _ => rfl) n
@[simp] theorem Dev.closeArrive_upds (n : Nat) : (s.closeArrive n).upds = s.upds := s.closeArrive_keeps (g := Dev.upds) (fun _ _ => rfl) n
@[simp] theorem Dev.closeArrive_fld (n : Nat) (f : Fld) : (s.closeArrive n).fld f = s.fld f :=
  s.closeArrive_keeps (g := fun d => d.fld f) (fun _ _ => rfl) n

/-- Arrivals at counter `n` of the first `k` base-die domains. -/
theorem Dev.evGet_foldl_arrive (n m i k : Nat) (hn : n < 256) (hm : m < 256) :
    ((List.range k).foldl (fun d j => d.arrive (32 + j) n) s).evGet (32 + i) m =
      if i < k ∧ m = n then s.evGet (32 + i) m + 1 else s.evGet (32 + i) m := by
  induction k with
  | zero => simp
  | succ k ih =>
    rw [List.range_succ, List.foldl_append, List.foldl_cons, List.foldl_nil, Dev.arrive, Dev.evGet_evSet _ _ _ _ _ _ hn hm]
    by_cases h : i = k ∧ m = n
    · obtain ⟨rfl, rfl⟩ := h
      simp [ih]
    · rw [if_neg (by omega), ih]
      exact if_congr (by omega) rfl rfl

/-- One arrival at the counter of each base-die domain. -/
theorem Dev.evGet_closeArrive (n m i : Nat) (hn : n < 256) (hm : m < 256) (hi : i < 4) :
    (s.closeArrive n).evGet (32 + i) m = if m = n then s.evGet (32 + i) m + 1 else s.evGet (32 + i) m := by
  rw [Dev.closeArrive, Dev.evGet_foldl_arrive s n m i 4 hn hm]
  simp [hi]

theorem Dev.evGet_of_ev {a b : Dev} (h : a.ev = b.ev) (dom n : Nat) : a.evGet dom n = b.evGet dom n := by rw [Dev.evGet, Dev.evGet, h]

/-! ### The job's hold and the skip decision (R183, R328) -/

/-- `g` reads nothing that an access to memory changes, nothing of the job, and neither SYS_STEP_STATUS nor SYS_JOB_STATUS. -/
structure DecisionKeeps {α : Type} (g : Dev → α) : Prop extends MemoryKeeps g where
  job : ∀ (s : Dev) (j : Job), g { s with job := j } = g s
  reg : ∀ (s : Dev) (f : Fld) (v : Nat), f.off = sysStepStatusSkipRun.off ∨ f.off = sysJobStatusJfCause.off → g (s.setFld f v) = g s

section
variable {α : Type} {g : Dev → α} (h : DecisionKeeps g)
include h

theorem DecisionKeeps.raiseHold (k : Nat) : g (s.raiseHold k) = g s := by
  unfold Dev.raiseHold
  split
  · rfl
  · exact (h.tellHold _ (fun d v => h.reg d _ v (.inr rfl)) k).trans (h.job s _)

theorem DecisionKeeps.decideSkip (f : Bool) : g (s.decideSkip f) = g s := by
  unfold Dev.decideSkip
  extract_lets run shown counted lim
  have hshown : g shown = g s := (h.reg _ sysStepStatusLastSkip _ (.inl rfl)).trans
    ((h.reg _ sysStepStatusSkipCount _ (.inl rfl)).trans (h.reg s sysStepStatusSkipRun _ (.inl rfl)))
  have hcounted : g counted = g s := (h.count _ _ _ _).trans ((h.clearLedger shown).trans hshown)
  split
  · rfl
  · split
    · exact (h.raiseHold counted 2).trans hcounted
    · exact hcounted

end

theorem DecisionKeeps.ev : DecisionKeeps Dev.ev where
  toMemoryKeeps := QueueKeeps.ev.toMemoryKeeps
  job _ _ := rfl
  reg _ _ _ _ := rfl

theorem DecisionKeeps.fld {f : Fld} (hf : f.quiet) (hs : f.off ≠ sysStepStatusSkipRun.off) (hj : f.off ≠ sysJobStatusJfCause.off) :
    DecisionKeeps fun s : Dev => s.fld f where
  toMemoryKeeps := (QueueKeeps.fld hf).toMemoryKeeps
  job _ _ := rfl
  reg s p v hp := s.fld_setFld_other p f v (.inl fun he => hp.elim (fun h => hs (he.trans h)) fun h => hj (he.trans h))

theorem Dev.raiseHold_job (k : Nat) : (s.raiseHold k).job = { s.job with hold := s.job.hold.or (some k) } := by
  unfold Dev.raiseHold
  cases hh : s.job.hold with
  | some j =>
    show s.job = _
    rw [Option.some_or, ← hh]
  | none => exact QueueKeeps.job.tellHold { s with job := { s.job with hold := some k } } (fun _ _ => rfl) k

theorem Dev.decideSkip_job (f : Bool) : ∃ hold, (s.decideSkip f).job = { s.job with hold } := by
  unfold Dev.decideSkip
  extract_lets run shown counted lim
  have hcounted : counted.job = s.job := (QueueKeeps.job.count _ _ _ _).trans (QueueKeeps.job.clearLedger shown)
  split
  · exact ⟨_, rfl⟩
  · split
    · exact ⟨_, (counted.raiseHold_job 2).trans (by rw [hcounted])⟩
    · exact ⟨_, hcounted⟩

theorem Fld.quiet_skipRun : sysStepStatusSkipRun.quiet := by decide

theorem Dev.raiseHold_skipRun (k : Nat) : (s.raiseHold k).fld sysStepStatusSkipRun = s.fld sysStepStatusSkipRun := by
  unfold Dev.raiseHold
  split
  · rfl
  · exact (QueueKeeps.fld Fld.quiet_skipRun).tellHold _ (fun d v => d.fld_setFld_other _ _ v (by decide)) k

/-- A skipped step counts in the run of skips, up to 255 (R183). -/
theorem Dev.decideSkip_skipRun (f : Bool) : (s.decideSkip f).fld sysStepStatusSkipRun =
    if f then Nat.min (s.fld sysStepStatusSkipRun + 1) 255 else s.fld sysStepStatusSkipRun := by
  unfold Dev.decideSkip
  extract_lets run shown counted lim
  have hrun : run < 2 ^ sysStepStatusSkipRun.width := Nat.lt_of_le_of_lt (Nat.min_le_right _ _) (by decide)
  have hshown : shown.fld sysStepStatusSkipRun = run := by
    refine (Dev.fld_setFld_other _ _ _ _ (by decide)).trans ((Dev.fld_setFld_other _ _ _ _ (by decide)).trans ?_)
    rw [Dev.fld_setFld_same _ _ _ (by decide), Nat.mod_eq_of_lt hrun]
  have hcounted : counted.fld sysStepStatusSkipRun = run :=
    ((QueueKeeps.fld Fld.quiet_skipRun).count _ _ _ _).trans (((QueueKeeps.fld Fld.quiet_skipRun).clearLedger shown).trans hshown)
  cases f with
  | false => rfl
  | true =>
    simp only [Bool.not_true, Bool.false_eq_true, if_false, if_true]
    split
    · exact (counted.raiseHold_skipRun 2).trans hcounted
    · exact hcounted

end Sys2Proof.Machine
end

section
/-! SUPPORT. A step opens, overruns and is decided (R166, R183, R209, R210, R327, R332, R352). -/

namespace Sys2Proof.Machine

variable (s : Dev)

/-! ### Opening (R166, R332) -/

/-- The saturation counts of the step stand at zero (R443, R561). -/
def Dev.satCleared (s : Dev) : Dev :=
  (List.range 4).foldl (fun d i => d.setFld (colStatusSat.nth i) 0) ((s.setFld memAccSatAccFg 0).setFld memAccSatAccBrz 0)

/-- The step is marked open. -/
def Dev.markOpen (s : Dev) : Dev := { s with job := { s.job with opened := some s.leadNow, overrun := false } }

theorem Dev.markOpen_job : s.markOpen.job = { s.job with opened := some s.leadNow, overrun := false } := rfl
theorem Dev.markOpen_fld (f : Fld) : s.markOpen.fld f = s.fld f := rfl
theorem Dev.markOpen_disp : s.markOpen.disp = s.disp := rfl
theorem Dev.markOpen_ev : s.markOpen.ev = s.ev := rfl
theorem Dev.markOpen_phys : s.markOpen.phys = s.phys := rfl

/-- The step opens (R166). -/
def Dev.stepOpened (s : Dev) : Dev := s.satCleared.markOpen

theorem Dev.satCleared_keeps {α : Type} {g : Dev → α} (hg : ∀ (d : Dev) f v, g (d.setFld f v) = g d) : g s.satCleared = g s :=
  (foldl_keeps g _ _ (fun d _ _ => hg d _ _) _).trans ((hg _ _ _).trans (hg _ _ _))

theorem Dev.satCleared_sat (i : Nat) (hi : i < 4) : s.satCleared.fld (colStatusSat.nth i) = 0 :=
  Dev.foldl_setFld_zero _ colStatusSat 4 i (by decide) hi

theorem Dev.satCleared_fld_other {f : Fld} (h : f.off < colStatusSat.off ∨ colStatusSat.off + 8 * 4 ≤ f.off) :
    s.satCleared.fld f = ((s.setFld memAccSatAccFg 0).setFld memAccSatAccBrz 0).fld f :=
  Dev.foldl_setFld_other _ colStatusSat f (fun _ _ => 0) 4 h

theorem Dev.satCleared_accFg : s.satCleared.fld memAccSatAccFg = 0 := by
  rw [Dev.satCleared_fld_other _ (by decide), Dev.fld_setFld_other _ _ _ _ (by decide)]
  exact Dev.fld_setFld_same _ _ _ (by decide)

theorem Dev.satCleared_accBrz : s.satCleared.fld memAccSatAccBrz = 0 := by
  rw [Dev.satCleared_fld_other _ (by decide)]
  exact Dev.fld_setFld_same _ _ _ (by decide)

theorem Dev.stepOpened_fld (f : Fld) : s.stepOpened.fld f = s.satCleared.fld f := s.satCleared.markOpen_fld f

theorem Dev.stepOpened_state : s.stepOpened.fld sysJobStatusState = s.fld sysJobStatusState := by
  rw [Dev.stepOpened_fld, Dev.satCleared_fld_other _ (by decide), Dev.fld_setFld_other _ _ _ _ (by decide), Dev.fld_setFld_other _ _ _ _ (by decide)]

theorem Dev.stepOpened_job : s.stepOpened.job = { s.job with opened := some s.leadNow, overrun := false } := by
  have hjob : s.satCleared.job = s.job := s.satCleared_keeps (g := Dev.job) fun _ _ _ => rfl
  have hnow : s.satCleared.leadNow = s.leadNow := s.satCleared_keeps (g := Dev.leadNow) fun _ _ _ => rfl
  rw [← hjob, ← hnow, Dev.stepOpened, Dev.markOpen_job]

theorem Dev.stepOpened_disp : s.stepOpened.disp = s.disp :=
  (s.satCleared.markOpen_disp).trans (s.satCleared_keeps (g := Dev.disp) fun _ _ _ => rfl)
theorem Dev.stepOpened_ev : s.stepOpened.ev = s.ev :=
  (s.satCleared.markOpen_ev).trans (s.satCleared_keeps (g := Dev.ev) fun _ _ _ => rfl)
theorem Dev.stepOpened_phys : s.stepOpened.phys = s.phys :=
  (s.satCleared.markOpen_phys).trans (s.satCleared_keeps (g := Dev.phys) fun _ _ _ => rfl)

/-- An admitted package becomes RUNNING at time zero `t0` (R332). -/
def Dev.joined (s : Dev) (t0 : Nat) : Dev :=
  ((({ s with job := { s.job with joining := none } } : Dev).clearSlice (s.fld sysStepStatusOrdinal)).setNormRef.armFg t0).setFld sysJobStatusState 3

/-- No step can open now. -/
def Dev.openBarred (s : Dev) : Bool :=
  !s.running || s.job.opened.isSome || s.job.close.isSome || (s.job.hold.isSome && s.job.hold != some 1) || s.flt.retrying

theorem stepOpenEffect_of_none (h : s.job.joining = none) : stepOpenEffect s = if s.openBarred then s else s.stepOpened := by
  rw [stepOpenEffect, h]
  rfl

theorem stepOpenEffect_of_joining (t0 : Nat) (h : s.job.joining = some t0) (hst : s.fld sysJobStatusState = 2)
    (hs : s.sliceMoving (s.fld sysStepStatusOrdinal) = false) (hp : s.planMoving = false) :
    stepOpenEffect s = if (s.joined t0).openBarred then s.joined t0 else (s.joined t0).stepOpened := by
  rw [stepOpenEffect, h]
  simp only [hst, hs, hp, Bool.not_false, and_self, if_true]
  rfl

theorem Dev.armFg_job (t0 : Nat) : (s.armFg t0).job = s.job := rfl

theorem Dev.joined_job (t0 : Nat) : (s.joined t0).job = { s.job with joining := none } := by
  rw [Dev.joined, Dev.setFld_job, Dev.armFg_job, (Dev.course_eq_iff.mp (ReportKeeps.course.setNormRef _)).1]
  exact (Dev.course_eq_iff.mp (memoryKeeps_course.clearSlice _ _)).1

theorem Dev.armFg_armed (t0 : Nat) : (s.armFg t0).disp.fg.armed = true ∧ (s.armFg t0).disp.fg.t0 = t0 := ⟨rfl, rfl⟩

theorem Dev.joined_armed (t0 : Nat) : (s.joined t0).disp.fg.armed = true ∧ (s.joined t0).disp.fg.t0 = t0 := by
  rw [Dev.joined, Dev.setFld_disp]
  exact Dev.armFg_armed _ t0

theorem Dev.joined_state (t0 : Nat) : (s.joined t0).fld sysJobStatusState = 3 := Dev.fld_setFld_same _ _ _ (by decide)

/-- Whether the step opens at once or not, an admitted package runs. -/
theorem stepOpenEffect_joins (t0 : Nat) (h : s.job.joining = some t0) (hst : s.fld sysJobStatusState = 2)
    (hs : s.sliceMoving (s.fld sysStepStatusOrdinal) = false) (hp : s.planMoving = false) :
    (stepOpenEffect s).fld sysJobStatusState = 3 ∧ (stepOpenEffect s).job.joining = none ∧ (stepOpenEffect s).disp = (s.joined t0).disp := by
  have hjob := congrArg Job.joining (s.joined_job t0)
  rw [stepOpenEffect_of_joining s t0 h hst hs hp]
  split
  · exact ⟨s.joined_state t0, hjob, rfl⟩
  · exact ⟨((s.joined t0).stepOpened_state).trans (s.joined_state t0), by rw [Dev.stepOpened_job]; exact hjob, (s.joined t0).stepOpened_disp⟩

/-! ### Overrun (R327) -/

theorem stepOverrunEffect_of_late (t0 : Nat) (ho : s.job.opened = some t0) (hm : s.fld sysSupvCtlStepToMs ≠ 0) (hr : s.job.overrun = false)
    (hl : t0 + 1000000 * s.fld sysSupvCtlStepToMs < s.leadNow) :
    stepOverrunEffect s =
      ({ s with job := { s.job with overrun := true } } : Dev).detect s.sysSrc 0x19 0 (s.fld sysStepStatusOrdinal) := by
  simp only [stepOverrunEffect, ho]
  rw [if_neg (by simp [hm, hr]; omega)]

/-! ### Deciding (R183, R210, R327, R352) -/

theorem Dev.on_of_fld {a b : Dev} {f : Fld} (h : a.fld f = b.fld f) : a.on f = b.on f := by rw [Dev.on, Dev.on, h]

/-- The close has decided: round and outcome are noted. -/
def Dev.markDecided (s : Dev) (c : Close) (err : Bool) : Dev :=
  { s with job := { s.job with decided := some (s.fld timTtStatusRound, c.f), close := some { c with decided := true, err } } }

theorem Dev.markDecided_job (c : Close) (err : Bool) : (s.markDecided c err).job =
    { s.job with decided := some (s.fld timTtStatusRound, c.f), close := some { c with decided := true, err } } := rfl
theorem Dev.markDecided_fld (c : Close) (err : Bool) (f : Fld) : (s.markDecided c err).fld f = s.fld f := rfl

/-- A record that could not be read holds the job with cause 5 (R178). -/
def Dev.holdUnread (s : Dev) (err : Bool) : Dev := if err then s.raiseHold 5 else s

/-- The decision before its arrivals: what is noted, the skip, the hold. -/
def Dev.judged (s : Dev) (c : Close) (err : Bool) : Dev := ((s.markDecided c err).decideSkip c.f).holdUnread err

/-- The decision: what is noted, the skip, the hold, the arrivals at counters 254, 252 and 255. -/
def Dev.decision (s : Dev) (c : Close) (err : Bool) : Dev := (((s.judged c err).closeArrive 254).closeArrive 252).closeArrive 255

theorem DecisionKeeps.judged {α : Type} {g : Dev → α} (h : DecisionKeeps g) (c : Close) (err : Bool) : g (s.judged c err) = g s := by
  have hskip : g ((s.markDecided c err).decideSkip c.f) = g s := (h.decideSkip _ c.f).trans (h.job s _)
  unfold Dev.judged Dev.holdUnread
  split
  · exact (h.raiseHold _ 5).trans hskip
  · exact hskip

theorem Dev.judged_skipRun (c : Close) (err : Bool) : (s.judged c err).fld sysStepStatusSkipRun =
    if c.f then Nat.min (s.fld sysStepStatusSkipRun + 1) 255 else s.fld sysStepStatusSkipRun := by
  have hskip := (s.markDecided c err).decideSkip_skipRun c.f
  rw [Dev.markDecided_fld] at hskip
  unfold Dev.judged Dev.holdUnread
  split
  · exact (Dev.raiseHold_skipRun _ 5).trans hskip
  · exact hskip

/-- Whatever holds the job, the decision is noted; a record that could not be read holds it. -/
theorem Dev.judged_job (c : Close) (err : Bool) : ∃ hold, (s.judged c err).job = { (s.markDecided c err).job with hold } ∧
    (err = true → hold.isSome = true) := by
  obtain ⟨hold, hskip⟩ := (s.markDecided c err).decideSkip_job c.f
  unfold Dev.judged Dev.holdUnread
  cases err with
  | false => exact ⟨hold, hskip, fun h => absurd h (by decide)⟩
  | true =>
    refine ⟨hold.or (some 5), ?_, fun _ => by cases hold <;> rfl⟩
    rw [if_pos rfl, Dev.raiseHold_job, hskip]

theorem Dev.decision_job (c : Close) (err : Bool) : (s.decision c err).job = (s.judged c err).job := by
  simp [Dev.decision]

theorem Dev.decision_fld (c : Close) (err : Bool) (f : Fld) : (s.decision c err).fld f = (s.judged c err).fld f := by
  simp [Dev.decision]

/-- One arrival at counters 252, 254 and 255 of each base-die domain, none at 253 (R352). -/
theorem Dev.evGet_decision (c : Close) (err : Bool) (m i : Nat) (hm : m < 256) (hi : i < 4) : (s.decision c err).evGet (32 + i) m =
    if m = 252 ∨ m = 254 ∨ m = 255 then s.evGet (32 + i) m + 1 else s.evGet (32 + i) m := by
  have hev : (s.judged c err).evGet (32 + i) m = s.evGet (32 + i) m := Dev.evGet_of_ev (DecisionKeeps.ev.judged s c err) _ _
  rw [Dev.decision, Dev.evGet_closeArrive _ _ _ _ (by decide) hm hi, Dev.evGet_closeArrive _ _ _ _ (by decide) hm hi,
    Dev.evGet_closeArrive _ _ _ _ (by decide) hm hi, hev]
  by_cases h2 : m = 252
  · simp [h2]
  by_cases h4 : m = 254
  · simp [h4]
  · simp [h2, h4]

theorem Dev.decision_arrivals (c : Close) (err : Bool) (i : Nat) (hi : i < 4) :
    (s.decision c err).evGet (32 + i) 252 = s.evGet (32 + i) 252 + 1 ∧ (s.decision c err).evGet (32 + i) 254 = s.evGet (32 + i) 254 + 1 ∧
      (s.decision c err).evGet (32 + i) 255 = s.evGet (32 + i) 255 + 1 ∧ (s.decision c err).evGet (32 + i) 253 = s.evGet (32 + i) 253 :=
  ⟨(s.evGet_decision c err 252 i (by decide) hi).trans (if_pos (by decide)),
    (s.evGet_decision c err 254 i (by decide) hi).trans (if_pos (by decide)),
    (s.evGet_decision c err 255 i (by decide) hi).trans (if_pos (by decide)),
    (s.evGet_decision c err 253 i (by decide) hi).trans (if_neg (by decide))⟩

theorem Dev.decideWaits_of_off (f : Bool) (hs : s.on sysStatBaseEn = false) (hp : s.on sysStepCtlPlanEn = false)
    (hl : f = true → s.ledgerMoving = false) : s.decideWaits f = false := by
  cases f with
  | false => simp [Dev.decideWaits, hs, hp]
  | true => simp [Dev.decideWaits, hs, hp, hl rfl]

/-- The first half of the close without statistics and plan: what waited takes effect, the clip factor is formed, the close decides. -/
theorem closeDecide_of_off (rest : List Byte) (err : Bool) (lo hi : Nat) (c : Close) (hc : s.job.close = some c) (hd : c.decided = false)
    (hr : s.running = true) (ht : s.flt.retrying = false) (hs : s.applyWaiting.on sysStatBaseEn = false)
    (hp : s.applyWaiting.on sysStepCtlPlanEn = false) (hl : c.f = true → s.applyWaiting.ledgerMoving = false) :
    closeDecide rest err lo hi s = (s.applyWaiting.formClip lo hi).decision c err := by
  have hw := s.applyWaiting.decideWaits_of_off c.f hs hp hl
  have hplan : ((((s.applyWaiting.formClip lo hi).judged c err).closeArrive 254).closeArrive 252).on sysStepCtlPlanEn = false := by
    refine Eq.trans (Dev.on_of_fld ?_) hp
    rw [Dev.closeArrive_fld, Dev.closeArrive_fld]
    refine ((DecisionKeeps.fld (f := sysStepCtlPlanEn) (by decide) (by decide) (by decide)).judged _ c err).trans ?_
    exact Dev.formClip_fld _ (by decide) (by decide) (by decide) lo hi
  unfold closeDecide
  rw [hc]
  dsimp only
  rw [if_neg (by simp [hd, hr, ht]), if_neg (by simp [hw])]
  simp only [hs, hp, Bool.false_eq_true, if_false, List.any_nil, Bool.or_false]
  have hoff (d e : Dev) (h : d.on sysStepCtlPlanEn = false) : (if (d.on sysStepCtlPlanEn && !err) = true then e else d) = d := by simp [h]
  exact congrArg (Dev.closeArrive · 255) (hoff _ _ hplan)

end Sys2Proof.Machine
end

section
/-! SUPPORT. The end of a close without a vote, and an admission (R183, R208, R224, R327, R331, R332, R336, R352). -/

namespace Sys2Proof.Machine

variable (s : Dev)

/-! ### The step is applied (R183, R224) -/

theorem Dev.exportEnd_of_none (d tag : Nat) (h : (s.upd d).tag = none) : s.exportEnd d tag = s := by simp [Dev.exportEnd, h]

/-- UPD_DIGEST shows the package digest. -/
def Dev.digestShown (s : Dev) : Dev := (List.range 4).foldl (fun d l => d.setFld (updDigestLane.nth l) (wordAt s.pkgDigest l).toNat) s

/-- With no step-end record owed the step is applied without one. -/
theorem Dev.applied_of_untagged (h : ∀ i, i < 4 → (s.upd i).tag = none) : s.applied =
    ((s.digestShown.setFld sysStepCountStep (s.step.toNat + 1)).setFld sysStepStatusSkipRun 0).setBit sysStepStatusLastSkip false := by
  have hr : List.range 4 = [0, 1, 2, 3] := rfl
  have hend : (List.range 4).foldl (fun d i => d.exportEnd i (s.step.toNat + 1)) s = s := by
    simp [hr, Dev.exportEnd_of_none, h]
  unfold Dev.applied
  dsimp only
  rw [hend]
  rfl

theorem Dev.step_eq_fld : s.step = BitVec.ofNat 64 (s.fld sysStepCountStep) := by
  apply BitVec.eq_of_toNat_eq
  simp only [Dev.step, Dev.fld, fld64, bits, sysStepCountStep, BitVec.toNat_ofNat, Nat.pow_zero, Nat.div_one, Nat.mod_mod]
  exact (Nat.mod_eq_of_lt (s.reg 0x48).isLt).symm

/-- The step before the round of a close ends: the counter as it was after a skip, else applied. -/
def Dev.counted (s : Dev) (f : Bool) : Dev := if f then s else s.applied

section
variable (h : ∀ i, i < 4 → (s.upd i).tag = none)
include h

theorem Dev.applied_course : s.applied.course = s.course := by
  rw [s.applied_of_untagged h, Dev.setBit_course, Dev.setFld_course, Dev.setFld_course]
  exact foldl_keeps Dev.course _ _ (fun d l _ => d.setFld_course _ _) s

/-- Fields apart from UPD_DIGEST, SYS_STEP_COUNT and the skip fields. -/
theorem Dev.applied_fld_other {f : Fld} (hd : f.off < updDigestLane.off ∨ updDigestLane.off + 8 * 4 ≤ f.off)
    (hc : f.off ≠ sysStepCountStep.off) (hs : f.off ≠ sysStepStatusSkipRun.off ∨ 16 ≤ f.lo) : s.applied.fld f = s.fld f := by
  have hrun : f.off ≠ sysStepStatusSkipRun.off ∨ f.lo + f.width ≤ sysStepStatusSkipRun.lo ∨
      sysStepStatusSkipRun.lo + sysStepStatusSkipRun.width ≤ f.lo := hs.imp_right .inr
  have hlast : f.off ≠ sysStepStatusLastSkip.off ∨ f.lo + f.width ≤ sysStepStatusLastSkip.lo ∨
      sysStepStatusLastSkip.lo + sysStepStatusLastSkip.width ≤ f.lo := hs.imp_right fun h => .inr (Nat.le_trans (by decide) h)
  rw [s.applied_of_untagged h, Dev.setBit, Dev.fld_setFld_other _ _ _ _ hlast, Dev.fld_setFld_other _ _ _ _ hrun,
    Dev.fld_setFld_other _ _ _ _ (.inl hc)]
  exact Dev.foldl_setFld_other _ updDigestLane f _ 4 hd

theorem Dev.applied_step : s.applied.step = s.step + 1 := by
  rw [Dev.step_eq_fld s.applied, s.applied_of_untagged h, Dev.setBit, Dev.fld_setFld_other _ _ _ _ (by decide),
    Dev.fld_setFld_other _ _ _ _ (by decide), Dev.fld_setFld_same _ _ _ (by decide)]
  apply BitVec.eq_of_toNat_eq
  simp [sysStepCountStep, BitVec.toNat_add]

theorem Dev.applied_skip : s.applied.fld sysStepStatusSkipRun = 0 ∧ s.applied.fld sysStepStatusLastSkip = 0 := by
  rw [s.applied_of_untagged h]
  refine ⟨?_, Dev.fld_setFld_same _ _ _ (by decide)⟩
  rw [Dev.setBit, Dev.fld_setFld_other _ _ _ _ (by decide)]
  exact Dev.fld_setFld_same _ _ _ (by decide)

theorem Dev.counted_course (f : Bool) : (s.counted f).course = s.course := by
  cases f
  · exact s.applied_course h
  · rfl

theorem Dev.counted_step (f : Bool) : (s.counted f).step = if f then s.step else s.step + 1 := by
  cases f
  · exact s.applied_step h
  · rfl

theorem Dev.counted_fld_other (c : Bool) {f : Fld} (hd : f.off < updDigestLane.off ∨ updDigestLane.off + 8 * 4 ≤ f.off)
    (hc : f.off ≠ sysStepCountStep.off) (hs : f.off ≠ sysStepStatusSkipRun.off ∨ 16 ≤ f.lo) : (s.counted c).fld f = s.fld f := by
  cases c
  · exact s.applied_fld_other h hd hc hs
  · rfl

end

/-! ### The end of the close (R327, R331, R352) -/

theorem Dev.freshUnits_keeps {α : Type} {g : Dev → α} (hg : ∀ (d : Dev) u, g { d with upds := u } = g d) : g s.freshUnits = g s :=
  foldl_keeps g _ _ (fun d _ _ => hg d _) s

/-- A unit's norm sum and digest at the start of a step. -/
def Upd.restarted (u : Upd) : Upd := { u with sum := 0, inexact := 0, nsat := false, dig := [0, 0, 0, 0] }

theorem Dev.freshUnits_eq : s.freshUnits = (List.range 4).foldl (fun d i => d.setUpd i (d.upd i).restarted) s := rfl

/-- Each of the first `n` units starts afresh. -/
theorem Dev.upd_foldl_restarted (n i : Nat) (hi : i < n) :
    ∃ u : Upd, ((List.range n).foldl (fun d i => d.setUpd i (d.upd i).restarted) s).upd i = u.restarted := by
  induction n with
  | zero => omega
  | succ n ih =>
    rw [List.range_succ, List.foldl_append, List.foldl_cons, List.foldl_nil, Dev.upd_setUpd]
    by_cases h : i = n
    · rw [if_pos h]
      exact ⟨_, rfl⟩
    · rw [if_neg h]
      exact ih (by omega)

theorem Dev.freshUnits_upd (i : Nat) (hi : i < 4) : (s.freshUnits.upd i).sum = 0 ∧ (s.freshUnits.upd i).dig = [0, 0, 0, 0] := by
  obtain ⟨u, hu⟩ := s.upd_foldl_restarted 4 i hi
  rw [Dev.freshUnits_eq, hu]
  exact ⟨rfl, rfl⟩

/-- The units start afresh, ordinal and round advance, counter 253 gets its arrival. -/
def Dev.advanced (s : Dev) (o r : Nat) : Dev :=
  ((((s.freshUnits.count sysBlk 0 1).clearSlice (o + 1)).setFld sysStepStatusOrdinal (o + 1)).closeArrive 253).setFld timTtStatusRound (r + 1)

/-- The job behind a close: no step open, nothing retried, whom the vote expelled barred until a later close. -/
def Dev.closed (s : Dev) (told : List Nat) : Dev :=
  { s with job := { s.job with close := none, opened := none, overrun := false, retries := 0,
                               barred := s.job.leaving.filter fun p => !told.contains p },
           flt := { s.flt with retry := false, noticed := false } }

/-- The step counted, with the norm reference of the next one (R209). -/
def Dev.normed (s : Dev) (f : Bool) : Dev := (s.counted f).setNormRef

/-- Ordinal and round have advanced behind it. -/
def Dev.ending (s : Dev) (f : Bool) : Dev := (s.normed f).advanced (s.fld sysStepStatusOrdinal) (s.fld timTtStatusRound)

/-- The end of a close without a vote. -/
def Dev.stepEnded (s : Dev) (f : Bool) : Dev := ((s.ending f).closed (s.normed f).job.leaving).applyLeaving

theorem Dev.stopAtClose_of_none (h : s.job.cmds = []) : s.stopAtClose = s := by simp [Dev.stopAtClose, h]

theorem Dev.endCmds_of_none (h : s.job.cmds = []) (p : RunCmd → Bool) (status : Nat) (result : W64) : s.endCmds p status result = s := by
  simp [Dev.endCmds, h]

theorem Dev.advanced_job (o r : Nat) : (s.advanced o r).job = s.job := by
  rw [Dev.advanced, Dev.setFld_job, Dev.closeArrive_job, Dev.setFld_job]
  exact (QueueKeeps.job.clearSlice _ _).trans ((QueueKeeps.job.count _ _ _ _).trans (s.freshUnits_keeps (g := Dev.job) fun _ _ => rfl))

theorem Dev.advanced_upd (o r i : Nat) (hi : i < 4) : ((s.advanced o r).upd i).sum = 0 ∧ ((s.advanced o r).upd i).dig = [0, 0, 0, 0] := by
  have hupds : (s.advanced o r).upds = s.freshUnits.upds := by
    rw [Dev.advanced, Dev.setFld_upds, Dev.closeArrive_upds, Dev.setFld_upds]
    have hkeep := (memoryKeeps_course.clearSlice (s.freshUnits.count sysBlk 0 1) (o + 1)).trans (memoryKeeps_course.count _ _ _ _)
    obtain ⟨-, -, -, h⟩ := Dev.course_eq_iff.mp hkeep
    exact h
  rw [Dev.upd, hupds]
  exact s.freshUnits_upd i hi

/-- One arrival at counter 253 of each base-die domain (R352). -/
theorem Dev.evGet_advanced (o r m i : Nat) (hm : m < 256) (hi : i < 4) :
    (s.advanced o r).evGet (32 + i) m = if m = 253 then s.evGet (32 + i) m + 1 else s.evGet (32 + i) m := by
  let d : Dev := ((s.freshUnits.count sysBlk 0 1).clearSlice (o + 1)).setFld sysStepStatusOrdinal (o + 1)
  have hev : d.ev = s.ev := by
    rw [Dev.setFld_ev]
    exact (QueueKeeps.ev.clearSlice _ _).trans ((QueueKeeps.ev.count _ _ _ _).trans (s.freshUnits_keeps (g := Dev.ev) fun _ _ => rfl))
  have hround : (s.advanced o r).ev = (d.closeArrive 253).ev := by rw [Dev.advanced, Dev.setFld_ev]
  rw [Dev.evGet_of_ev hround, Dev.evGet_closeArrive d 253 m i (by decide) hm hi, Dev.evGet_of_ev hev]

theorem Dev.advanced_round (o r : Nat) : (s.advanced o r).fld timTtStatusRound = (r + 1) % 2 ^ 32 := Dev.fld_setFld_same _ _ _ (by decide)

theorem Dev.advanced_ordinal (o r : Nat) : (s.advanced o r).fld sysStepStatusOrdinal = (o + 1) % 2 ^ 32 := by
  rw [Dev.advanced, Dev.fld_setFld_other _ _ _ _ (by decide), Dev.closeArrive_fld]
  exact Dev.fld_setFld_same _ _ _ (by decide)

theorem Dev.advanced_fld_other (o r : Nat) {f : Fld} (hq : f.quiet) (ht : f.off ≠ timTtStatusRound.off)
    (ho : f.off ≠ sysStepStatusOrdinal.off ∨ f.lo + f.width ≤ 32) : (s.advanced o r).fld f = s.fld f := by
  rw [Dev.advanced, Dev.fld_setFld_other _ _ _ _ (.inl ht), Dev.closeArrive_fld, Dev.fld_setFld_other _ _ _ _ (ho.imp_right .inl)]
  exact ((QueueKeeps.fld hq).clearSlice _ _).trans (((QueueKeeps.fld hq).count _ _ _ _).trans
    (s.freshUnits_keeps (g := fun d => d.fld f) fun _ _ => rfl))

theorem Dev.closed_fld (l : List Nat) (f : Fld) : (s.closed l).fld f = s.fld f := rfl
theorem Dev.closed_upds (l : List Nat) : (s.closed l).upds = s.upds := rfl
theorem Dev.closed_ev (l : List Nat) : (s.closed l).ev = s.ev := rfl

/-- Expulsions in effect, what the COL_ registers report apart. -/
def Dev.expels (s : Dev) : Dev := { s with job := { s.job with expelled := s.job.leaving.foldl setAdd s.job.expelled, leaving := [] } }

theorem Dev.expels_fld (f : Fld) : s.expels.fld f = s.fld f := rfl

theorem Dev.expels_ev : s.expels.ev = s.ev := rfl
theorem Dev.expels_upds : s.expels.upds = s.upds := rfl

theorem Dev.applyLeaving_course : s.applyLeaving.course = s.expels.course := ReportKeeps.course.colShow s.expels

theorem Dev.applyLeaving_fld {f : Fld} (hq : f.quiet) (hr : ¬ reports f.off) : s.applyLeaving.fld f = s.fld f :=
  ((ReportKeeps.fld hq hr).colShow s.expels).trans (s.expels_fld f)

theorem Dev.stepEnded_course (f : Bool) : (s.stepEnded f).course = ((s.ending f).closed (s.normed f).job.leaving).expels.course :=
  Dev.applyLeaving_course _

theorem Dev.stepEnded_ev (f : Bool) : (s.stepEnded f).ev = (s.ending f).ev := by
  obtain ⟨-, hev, -⟩ := Dev.course_eq_iff.mp (s.stepEnded_course f)
  rw [hev, Dev.expels_ev, Dev.closed_ev]

theorem Dev.stepEnded_upd (f : Bool) (i : Nat) (hi : i < 4) : ((s.stepEnded f).upd i).sum = 0 ∧ ((s.stepEnded f).upd i).dig = [0, 0, 0, 0] := by
  obtain ⟨-, -, -, hupds⟩ := Dev.course_eq_iff.mp (s.stepEnded_course f)
  rw [Dev.expels_upds, Dev.closed_upds] at hupds
  rw [Dev.upd, hupds]
  exact Dev.advanced_upd _ _ _ i hi

theorem Dev.stepEnded_fld (f : Bool) {p : Fld} (hq : p.quiet) (hr : ¬ reports p.off) : (s.stepEnded f).fld p = (s.ending f).fld p := by
  rw [Dev.stepEnded, Dev.applyLeaving_fld _ hq hr, Dev.closed_fld]

/-- A field apart from UPD_DIGEST, the norm reference and what a close advances. -/
theorem Dev.stepEnded_fld_other (f : Bool) {p : Fld} (hq : p.quiet) (hr : ¬ reports p.off) (ht : p.off ≠ timTtStatusRound.off)
    (ho : p.off ≠ sysStepStatusOrdinal.off ∨ p.lo + p.width ≤ 32) : (s.stepEnded f).fld p = (s.counted f).fld p :=
  (s.stepEnded_fld f hq hr).trans ((Dev.advanced_fld_other _ _ _ hq ht ho).trans ((ReportKeeps.fld hq hr).setNormRef _))

theorem Dev.stepEnded_round (f : Bool) : (s.stepEnded f).fld timTtStatusRound = (s.fld timTtStatusRound + 1) % 2 ^ 32 := by
  rw [s.stepEnded_fld f (by decide) (by decide)]
  exact Dev.advanced_round _ _ _

theorem Dev.stepEnded_ordinal (f : Bool) : (s.stepEnded f).fld sysStepStatusOrdinal = (s.fld sysStepStatusOrdinal + 1) % 2 ^ 32 := by
  rw [s.stepEnded_fld f (by decide) (by decide)]
  exact Dev.advanced_ordinal _ _ _

section
variable (h : ∀ i, i < 4 → (s.upd i).tag = none) (f : Bool)
include h

theorem Dev.normed_course : (s.normed f).course = s.course := (ReportKeeps.course.setNormRef _).trans (s.counted_course h f)

theorem Dev.normed_fld_other {p : Fld} (hq : p.quiet) (hr : ¬ reports p.off) (hd : p.off < updDigestLane.off ∨ updDigestLane.off + 8 * 4 ≤ p.off)
    (hc : p.off ≠ sysStepCountStep.off) (hs : p.off ≠ sysStepStatusSkipRun.off ∨ 16 ≤ p.lo) : (s.normed f).fld p = s.fld p :=
  ((ReportKeeps.fld hq hr).setNormRef _).trans (s.counted_fld_other h f hd hc hs)

/-- The job behind a close without a vote. -/
theorem Dev.stepEnded_job : (s.stepEnded f).job =
    { s.job with close := none, opened := none, overrun := false, retries := 0, barred := s.job.leaving.filter fun p => !s.job.leaving.contains p,
                 expelled := s.job.leaving.foldl setAdd s.job.expelled, leaving := [] } := by
  have hjob : (s.ending f).job = s.job := (Dev.advanced_job _ _ _).trans (Dev.course_eq_iff.mp (s.normed_course h f)).1
  have hleaving : (s.normed f).job = s.job := (Dev.course_eq_iff.mp (s.normed_course h f)).1
  rw [Dev.stepEnded, (Dev.course_eq_iff.mp (Dev.applyLeaving_course _)).1, Dev.expels, Dev.closed]
  simp only [hjob, hleaving]

theorem Dev.stepEnded_state (hr : s.running = true) : (s.stepEnded f).fld sysJobStatusState = 3 := by
  rw [s.stepEnded_fld_other f (by decide) (by decide) (by decide) (by decide),
    s.counted_fld_other h f (by decide) (by decide) (by decide)]
  simpa [Dev.running] using hr

theorem Dev.stepEnded_step : (s.stepEnded f).step = if f then s.step else s.step + 1 := by
  rw [Dev.step_eq_fld (s.stepEnded f), s.stepEnded_fld_other f (by decide) (by decide) (by decide) (by decide),
    ← Dev.step_eq_fld]
  exact s.counted_step h f

theorem Dev.stepEnded_skip : (s.stepEnded false).fld sysStepStatusSkipRun = 0 ∧ (s.stepEnded false).fld sysStepStatusLastSkip = 0 := by
  rw [s.stepEnded_fld_other false (p := sysStepStatusSkipRun) (by decide) (by decide) (by decide) (by decide),
    s.stepEnded_fld_other false (p := sysStepStatusLastSkip) (by decide) (by decide) (by decide) (by decide)]
  exact s.applied_skip h

/-- One arrival at counter 253 of each base-die domain, none at another counter. -/
theorem Dev.evGet_stepEnded (m i : Nat) (hm : m < 256) (hi : i < 4) : (s.stepEnded f).evGet (32 + i) m =
    if m = 253 then s.evGet (32 + i) m + 1 else s.evGet (32 + i) m := by
  have hev : (s.normed f).ev = s.ev := (Dev.course_eq_iff.mp (s.normed_course h f)).2.1
  rw [Dev.evGet_of_ev (s.stepEnded_ev f), Dev.ending, Dev.evGet_advanced _ _ _ m i hm hi, Dev.evGet_of_ev hev]

theorem Dev.stepEnded_arrivals (i : Nat) (hi : i < 4) : (s.stepEnded f).evGet (32 + i) 253 = s.evGet (32 + i) 253 + 1 ∧
    (s.stepEnded f).evGet (32 + i) 254 = s.evGet (32 + i) 254 :=
  ⟨(s.evGet_stepEnded h f 253 i (by decide) hi).trans (if_pos rfl), (s.evGet_stepEnded h f 254 i (by decide) hi).trans (if_neg (by decide))⟩

end

/-- With no pass, repair, hold or command left and the vote not in use, the second half of the close ends the step. -/
theorem closeFinish_of_settled (votes : List Ballot) (c : Close) (hc : s.job.close = some c) (hd : c.decided = true) (hredo : c.redo = none)
    (hr : s.running = true) (htorn : ∀ i, i < 4 → (s.upd i).torn = none) (hleft : s.passesLeft (s.fld timTtStatusRound) = false)
    (hdg : s.on updCtlDgEn = false) (hstat : s.on sysStatBaseEn = false) (htag : ∀ i, i < 4 → (s.upd i).tag = none)
    (hhold : s.job.hold = none) (hcmds : s.job.cmds = []) (hplan : s.planMoving = false) :
    closeFinish votes s = s.stepEnded c.f := by
  have htorn : (List.range 4).any (fun d => (s.upd d).torn.isSome) = false := by
    rw [List.any_eq_false]
    intro i hi
    simp [htorn i (List.mem_range.mp hi)]
  have hend : s.stepEndWaits = false := by
    rw [Dev.stepEndWaits, List.any_eq_false]
    intro i hi
    simp [htag i (List.mem_range.mp hi)]
  have hslice (o : Nat) : s.sliceMoving o = false := by simp [Dev.sliceMoving, hstat]
  have hwdg : (s.normed c.f).on updCtlDgEn = false := by
    refine Eq.trans (Dev.on_of_fld ?_) hdg
    exact s.normed_fld_other htag c.f (by decide) (by decide) (by decide) (by decide) (by decide)
  have hjob := s.stepEnded_job htag c.f
  unfold closeFinish
  rw [hc]
  dsimp -zeta only
  extract_lets r o counted own normed told due owed voted adv fresh cleared arrived moved flt job ended held
  rw [if_neg (by simp [hd, hr, htorn]), if_neg (by simp [hleft, r]), if_neg (by simp [hredo]), if_neg (by simp [hplan, hend, hslice])]
  have hvoted : voted = s.normed c.f := by
    have hdue : due = false := by
      simp only [due]
      rw [show normed = s.normed c.f from rfl, hwdg, Bool.false_and, Bool.false_and]
    simp only [voted, hdue]
    rw [show normed = s.normed c.f from rfl, hwdg]
    simp
  have hended : ended = s.stepEnded c.f := by
    have hmoved : moved = (s.normed c.f).advanced o r := by
      simp only [moved, arrived, cleared, fresh, adv, hvoted, hredo, Option.getD_none, Option.isSome_none, if_true, Bool.false_eq_true, if_false]
      rfl
    have hclosed : ended = (moved.closed told).applyLeaving := rfl
    rw [hclosed, hmoved, Dev.stepEnded, Dev.ending]
    rfl
  have hheld : held = s.stepEnded c.f := by
    have hnone : (s.stepEnded c.f).job.hold = none := by
      rw [hjob]
      exact hhold
    simp only [held, hended, hnone]
  have hno : (s.stepEnded c.f).job.cmds = [] := by
    rw [hjob]
    exact hcmds
  have hstate : (s.stepEnded c.f).jobState ≠ 5 := by
    rw [Dev.jobState, s.stepEnded_state htag c.f hr]
    decide
  rw [hheld, Dev.stopAtClose_of_none _ hno, Dev.endCmds_of_none _ hno, Dev.stopSettle_of_none _ hno hstate]

end Sys2Proof.Machine
end

section
/-! SUPPORT. An admission, and O49 (R166, R327, R331, R332, R336, R427, R428). -/

namespace Sys2Proof.Machine

variable (s : Dev)

/-! ### What copying a shard leaves alone (R332) -/

section
variable {α : Type} {g : Dev → α} (h : MemoryKeeps g)
include h

theorem MemoryKeeps.uRead (d va n : Nat) : g (s.uRead d va n).1 = g s := by
  have hr := h.vRead s (baseTlb d) (updSrc d) 0 2 va n
  unfold Dev.uRead
  split
  · rfl
  · generalize s.vRead (baseTlb d) (updSrc d) 0 2 va n = x at hr
    obtain ⟨e, x⟩ := x
    cases x with
    | data bs lost =>
      dsimp only
      split <;> exact hr
    | wait a => exact hr
    | fail => exact hr

theorem MemoryKeeps.descOf (d desc : Nat) : g (s.descOf d desc).1 = g s := by
  have hr := h.uRead s d (s.updTable d + 0x10000 + 128 * desc) 128
  unfold Dev.descOf
  generalize s.uRead d (s.updTable d + 0x10000 + 128 * desc) 128 = x at hr
  obtain ⟨e, x⟩ := x
  cases x <;> exact hr

theorem MemoryKeeps.uWrite (d : Nat) (l : List (Nat × List Byte)) : ∀ s : Dev, g (s.uWrite d l).1 = g s := by
  induction l with
  | nil => exact fun _ => rfl
  | cons p l ih =>
    intro s
    have hw := h.vWrite s (baseTlb d) (updSrc d) 0 p.1 p.2
    unfold Dev.uWrite
    split
    · exact ih s
    · generalize s.vWrite (baseTlb d) (updSrc d) 0 p.1 p.2 = x at hw
      obtain ⟨e, x⟩ := x
      cases x with
      | done => exact (ih e).trans hw
      | wait a => exact hw
      | fail => exact hw

theorem MemoryKeeps.copyShard (l : List (Nat × Nat × List (List Byte))) : ∀ s : Dev, g (s.copyShard l).1 = g s := by
  induction l with
  | nil => exact fun _ => rfl
  | cons p l ih =>
    intro s
    obtain ⟨d, desc, arrs⟩ := p
    have hd := h.descOf s d desc
    unfold Dev.copyShard
    split
    · rfl
    · generalize s.descOf d desc = x at hd
      obtain ⟨e, x⟩ := x
      cases x with
      | none => exact hd
      | some q =>
        have hw := (h.uWrite d (copyPieces q (e.updTable d) desc arrs) e).trans hd
        dsimp only
        generalize e.uWrite d (copyPieces q (e.updTable d) desc arrs) = y at hw
        obtain ⟨u, y⟩ := y
        cases y with
        | wait => exact hw
        | done =>
          dsimp only
          split
          · exact (ih u).trans hw
          · exact hw
        | bad =>
          dsimp only
          split
          · exact (ih u).trans hw
          · exact hw

theorem MemoryKeeps.residAreas : g s.residAreas.1 = g s := by
  unfold Dev.residAreas
  refine List.foldlRecOn (motive := fun acc : Dev × List (Nat × Nat) => g acc.1 = g s) _ _ rfl fun acc hacc e _ => ?_
  have hr := (h.vRead acc.1 (baseTlb (eDisp e - 32)) (colSrc (eDisp e - 32)) 0 2 (bits (eW0 e) 0 52) 64).trans hacc
  dsimp only
  generalize acc.1.vRead (baseTlb (eDisp e - 32)) (colSrc (eDisp e - 32)) 0 2 (bits (eW0 e) 0 52) 64 = x at hr
  obtain ⟨d, x⟩ := x
  cases x with
  | data bs lost =>
    dsimp only
    split <;> exact hr
  | wait a => exact hr
  | fail => exact hr

theorem MemoryKeeps.zeroAreas (l : List (Nat × Nat)) : g (l.foldl (fun t x => t.zeroRange x.1 x.2) s) = g s :=
  foldl_keeps g _ l (fun d x _ => h.zeroRange d x.1 x.2) s

end

theorem job_of_copyShard {s d : Dev} {l : List (Nat × Nat × List (List Byte))} {o : Option Bool} (h : s.copyShard l = (d, o)) : d.job = s.job := by
  have hjob := QueueKeeps.job.copyShard l s
  rw [h] at hjob
  exact hjob

/-! ### The command that waits for the admission -/

theorem Dev.endCmd_job (c : RunCmd) (status : Nat) (result : W64) :
    (s.endCmd c status result).job = { s.job with cmds := s.job.cmds.erase c } :=
  QueueKeeps.job.complete { s with job := { s.job with cmds := s.job.cmds.erase c } } c.q c.cid c.quiet status result 1

theorem QueueKeeps.endCmd {α : Type} {g : Dev → α} (h : QueueKeeps g) (hj : ∀ (d : Dev) j, g { d with job := j } = g d) (c : RunCmd) (status : Nat)
    (result : W64) : g (s.endCmd c status result) = g s := (h.complete _ _ _ _ _ _ _).trans (hj s _)

/-- The one command under way ends. -/
theorem Dev.endCmds_single (p : RunCmd → Bool) (q : RunCmd) (hc : s.job.cmds = [q]) (hp : p q = true) (status : Nat) (result : W64) :
    s.endCmds p status result = s.endCmd q status result := by
  simp [Dev.endCmds, hc, hp]

theorem ReportKeeps.job : ReportKeeps fun s : Dev => s.job where
  toMemoryKeeps := QueueKeeps.job.toMemoryKeeps
  reg _ _ _ _ := rfl

theorem ReportKeeps.col : ReportKeeps fun s : Dev => s.col where
  toMemoryKeeps := QueueKeeps.col.toMemoryKeeps
  reg _ _ _ _ := rfl

/-! ### The admission (R332, R336) -/

/-- The command is a REPLICA_ADMIT. -/
def RunCmd.isAdmit (c : RunCmd) : Bool := match c.what with | .admits _ => true | _ => false

/-- A unit is taken back: it is expelled no longer. -/
def Dev.takenBack (s : Dev) (unit : List Nat) : Dev :=
  { s with job := { s.job with expelled := s.job.expelled.filter fun p => !unit.contains p } }

/-- A newcomer whose shard is copied is to run at the next open, its residual buffers zero from step `a.step + 1`. -/
def Dev.joins (s : Dev) (a : Admission) : Dev :=
  { s with job := { s.job with expelled := s.job.expelled.filter fun p => !a.unit.contains p, joining := some a.t0 },
           col := { s.col with zeroAt := a.step.toNat + 1 } }

/-- The residual buffers are zero and the step counter is taken. -/
def Dev.stepTaken (s : Dev) (a : Admission) : Dev :=
  (s.residAreas.2.foldl (fun t x => t.zeroRange x.1 x.2) s.residAreas.1).setFld sysStepCountStep a.step.toNat

/-- No copy waits for a page. -/
def Dev.copyDone (s : Dev) : Dev := { s with job := { s.job with copying := false } }

theorem Dev.joins_job (a : Admission) : (s.joins a).job =
    { s.job with expelled := s.job.expelled.filter fun p => !a.unit.contains p, joining := some a.t0 } := rfl
theorem Dev.joins_zeroAt (a : Admission) : (s.joins a).col.zeroAt = a.step.toNat + 1 := rfl
theorem Dev.takenBack_expelled (unit : List Nat) : (s.takenBack unit).job.expelled = s.job.expelled.filter fun p => !unit.contains p := rfl
theorem Dev.copyDone_job : s.copyDone.job = { s.job with copying := false } := rfl

theorem QueueKeeps.stepTaken {α : Type} {g : Dev → α} (h : QueueKeeps g) (a : Admission) (hs : ∀ (d : Dev) v, g (d.setFld sysStepCountStep v) = g d) :
    g (s.stepTaken a) = g s := (hs _ _).trans ((h.zeroAreas _ _).trans (h.residAreas s))

theorem Dev.stepTaken_job (a : Admission) : (s.stepTaken a).job = s.job := QueueKeeps.job.stepTaken s a fun _ _ => rfl

theorem Dev.stepTaken_step (a : Admission) : (s.stepTaken a).fld sysStepCountStep = a.step.toNat :=
  (Dev.fld_setFld_same _ sysStepCountStep _ (by decide)).trans (Nat.mod_eq_of_lt a.step.isLt)

/-- The admission is complete: the command of the newcomer ends with its step. -/
def Dev.admitted (s : Dev) (a : Admission) (q : RunCmd) : Dev :=
  (((s.joins a).stepTaken a).copyDone.endCmd q 0 a.step).colShow.count sysBlk 4 1

/-- What the completion, the registers that report and the counters leave alone an admission that is complete leaves as the newcomer has it. -/
theorem Dev.admitted_keeps {α : Type} {g : Dev → α} (h : QueueKeeps g) (hr : ReportKeeps g) (hj : ∀ (d : Dev) j, g { d with job := j } = g d)
    (a : Admission) (q : RunCmd) : g (s.admitted a q) = g ((s.joins a).stepTaken a) :=
  (h.count _ _ _ _).trans ((hr.colShow _).trans ((h.endCmd _ hj q 0 a.step).trans (hj _ _)))

theorem Dev.admitted_job (a : Admission) (q : RunCmd) : (s.admitted a q).job =
    { (s.joins a).job with copying := false, cmds := (s.joins a).job.cmds.erase q } := by
  rw [Dev.admitted, QueueKeeps.job.count, ReportKeeps.job.colShow, Dev.endCmd_job, Dev.copyDone_job, Dev.stepTaken_job]

theorem Dev.admitted_step (a : Admission) (q : RunCmd) : (s.admitted a q).step = a.step := by
  have hfld : (s.admitted a q).fld sysStepCountStep = a.step.toNat :=
    (s.admitted_keeps (QueueKeeps.fld (f := sysStepCountStep) (by decide))
      (ReportKeeps.fld (by decide) (by decide)) (fun _ _ => rfl) a q).trans (Dev.stepTaken_step _ a)
  rw [Dev.step_eq_fld, hfld]
  simp

theorem Dev.admitted_zeroAt (a : Admission) (q : RunCmd) : (s.admitted a q).col.zeroAt = a.step.toNat + 1 := by
  rw [s.admitted_keeps QueueKeeps.col ReportKeeps.col (fun _ _ => rfl) a q, QueueKeeps.col.stepTaken _ a fun _ _ => rfl]
  exact s.joins_zeroAt a

theorem Dev.takenBack_shown (unit : List Nat) : (((s.takenBack unit).colShow.count sysBlk 4 1).job).expelled =
    s.job.expelled.filter fun p => !unit.contains p := by
  rw [QueueKeeps.job.count, ReportKeeps.job.colShow, Dev.takenBack_expelled]

section
variable (a : Admission) (hc : s.job.close = none) (ho : s.job.opened = none) (hl : a.unit.any s.job.leaving.contains = false)
  (hb : a.unit.any s.job.barred.contains = false)
include hc ho hl hb

theorem admissionEffect_of_member (hn : s.job.cmds.any RunCmd.isAdmit = false) (hr : s.running = true) :
    admissionEffect a s = (s.takenBack a.unit).colShow.count sysBlk 4 1 := by
  unfold admissionEffect
  extract_lets admits ends
  rw [if_neg (by simp only [hc, ho, hl, hb]; decide), if_neg (by rw [show admits = RunCmd.isAdmit from rfl, hn]; decide), if_pos hr]
  rfl

theorem admissionEffect_of_newcomer (q : RunCmd) (t0 : Nat) (d : Dev) (hq : s.job.cmds = [q]) (hw : q.what = .admits t0)
    (hst : s.fld sysJobStatusState = 2) (hown : a.unit.contains s.ownPkg = true) (hsrc : s.admitSource a.unit = some a.src)
    (hall : s.allDescs (fun n desc => a.copies.any fun k => k.1 == n && k.2.1 == desc) = true) (hcopy : s.copyShard a.copies = (d, some true))
    (hcalm : ((d.joins a).residAreas.2.any fun z => d.moving z.1 z.2) = false) : admissionEffect a s = d.admitted a q := by
  have hadmit : RunCmd.isAdmit q = true := by rw [RunCmd.isAdmit, hw]
  have hdq : d.job.cmds = [q] := by rw [job_of_copyShard hcopy, hq]
  have hcmds : ((d.joins a).stepTaken a).copyDone.job.cmds = [q] := by
    rw [Dev.copyDone_job, Dev.stepTaken_job]
    exact hdq
  unfold admissionEffect
  extract_lets admits ends
  rw [if_neg (by simp only [hc, ho, hl, hb]; decide), if_pos (by rw [show admits = RunCmd.isAdmit from rfl, hq]; simp [hadmit]),
    if_neg (by simp [hst, List.contains_iff_mem.mp hown, hsrc, hall]), hcopy]
  refine (if_neg (by rw [Bool.not_eq_true]; exact hcalm)).trans ?_
  have hends (e : Dev) : ends e 0 a.step = (e.copyDone.endCmds RunCmd.isAdmit 0 a.step).colShow := rfl
  rw [Dev.admitted, ← Dev.endCmds_single _ _ q hcmds hadmit 0 a.step, ← hends]
  rfl

end

/-! ### What the silicon gives -/

theorem Dev.wired_evGet (t : Dev) (dom n : Nat) : (s.wired t).evGet dom n = t.evGet dom n := rfl

theorem Dev.wired_step (t : Dev) : (s.wired t).step = t.step := by
  rw [Dev.step_eq_fld, Dev.wired_fld _ _ _ (by decide +kernel), ← Dev.step_eq_fld]

theorem colStatusSat_covered : ∀ i, i < 4 → bitMask (colStatusSat.nth i).lo (colStatusSat.nth i).width &&& fieldBits (colStatusSat.nth i).off =
    bitMask (colStatusSat.nth i).lo (colStatusSat.nth i).width := by decide +kernel

end Sys2Proof.Machine

open Sys2Proof Sys2Proof.Machine

/-- Settles O49: what each command's effect comes to under the conditions of its clause (`stepOpenEffect_joins`, `closeDecide_of_off`,
`closeFinish_of_settled`, `admissionEffect_of_newcomer`), then field by field. -/
theorem stepOpensAndCloses : Obligations.StepOpensAndCloses := by
  unfold Obligations.StepOpensAndCloses
  intro s t0 c rest err lo hi votes a d q x ev
  refine ⟨?opens, ?joins, ?overruns, ?decides, ?finishes, ?admits⟩
  case opens =>
    intro hjoin hrun hopen hclose hhold hretry
    have hbar : x.openBarred = false := by rcases hhold with h | h <;> simp [Dev.openBarred, hrun, hopen, hclose, h, hretry]
    have heff : stepOpenEffect x = x.stepOpened := by rw [stepOpenEffect_of_none x hjoin, hbar, if_neg (by decide)]
    have hjob := x.stepOpened_job
    have hfg : x.stepOpened.fld memAccSatAccFg = 0 := (x.stepOpened_fld _).trans x.satCleared_accFg
    have hbrz : x.stepOpened.fld memAccSatAccBrz = 0 := (x.stepOpened_fld _).trans x.satCleared_accBrz
    have hcol (i : Nat) (hi : i < 4) : x.stepOpened.fld (colStatusSat.nth i) = 0 := (x.stepOpened_fld _).trans (x.satCleared_sat i hi)
    have hdisp := x.stepOpened_disp
    have hev := x.stepOpened_ev
    have hphys := x.stepOpened_phys
    refine ⟨_, State.run_eq heff, ?_⟩
    rw [Dev.wired_job, hjob]
    exact ⟨rfl, rfl, (Dev.wired_fld _ _ _ (by decide +kernel)).trans hfg, (Dev.wired_fld _ _ _ (by decide +kernel)).trans hbrz,
      fun i hi => (Dev.wired_fld _ _ _ (colStatusSat_covered i hi)).trans (hcol i hi), (Dev.wired_disp _ _).trans hdisp, (Dev.wired_ev _ _).trans hev,
      (Dev.wired_phys _ _).trans hphys⟩
  case joins =>
    intro hjoin hstate hslice hplan
    obtain ⟨hst, hj, hdisp⟩ := stepOpenEffect_joins x t0 hjoin hstate hslice hplan
    obtain ⟨harmed, ht0⟩ := x.joined_armed t0
    rw [← hdisp] at harmed ht0
    refine ⟨_, State.run_eq rfl, ?_⟩
    rw [Dev.wired_job, Dev.wired_disp]
    exact ⟨(Dev.wired_fld _ _ _ (by decide +kernel)).trans hst, hj, harmed, ht0⟩
  case overruns => exact fun hopen hms hover hlate => State.run_eq (stepOverrunEffect_of_late x t0 hopen hms hover hlate)
  case decides =>
    intro hclose hdec hrun hretry y hstat hplan hledger
    have heff : closeDecide rest err lo hi x = (y.formClip lo hi).decision c err :=
      closeDecide_of_off x rest err lo hi c hclose hdec hrun hretry hstat hplan hledger
    obtain ⟨hold, hjob, hheld⟩ := (y.formClip lo hi).judged_job c err
    rw [← Dev.decision_job, Dev.markDecided_job, Dev.formClip_fld _ (by decide) (by decide) (by decide)] at hjob
    have hclip (hn : y.on updCtlNormEn = false) : ((y.formClip lo hi).decision c err).fld updNormStatClip = 0x3F800000 :=
      (Dev.decision_fld _ c err _).trans (((DecisionKeeps.fld (by decide) (by decide) (by decide)).judged _ c err).trans (y.formClip_clip lo hi hn))
    have hskip := ((y.formClip lo hi).decision_fld c err _).trans ((y.formClip lo hi).judged_skipRun c err)
    rw [Dev.formClip_fld _ (by decide) (by decide) (by decide)] at hskip
    have harrive := (y.formClip lo hi).decision_arrivals c err
    simp only [Dev.evGet_of_ev ((y.formClip_ev lo hi).trans x.applyWaiting_ev)] at harrive
    refine ⟨_, State.run_eq (f := stepCloseEffect (.decide rest err lo hi)) heff, ?_⟩
    rw [Dev.wired_job, hjob]
    refine ⟨rfl, rfl, fun hn => (Dev.wired_fld _ _ _ (by decide +kernel)).trans (hclip hn), fun i hi' => ?_,
      (Dev.wired_fld _ _ _ (by decide +kernel)).trans hskip, hheld⟩
    simp only [ev]
    rw [Dev.wired_evGet, Dev.wired_evGet, Dev.wired_evGet, Dev.wired_evGet]
    exact harrive i hi'
  case finishes =>
    intro hclose hdec hredo hrun htorn hleft hdg _ hstat _ htag hhold hcmds hplan
    have heff := closeFinish_of_settled x votes c hclose hdec hredo hrun htorn hleft hdg hstat htag hhold hcmds hplan
    have hjob := x.stepEnded_job htag c.f
    have hstep := x.stepEnded_step htag c.f
    have hordinal := x.stepEnded_ordinal c.f
    have hround := x.stepEnded_round c.f
    have hskip (hf : c.f = false) : (x.stepEnded c.f).fld sysStepStatusSkipRun = 0 ∧ (x.stepEnded c.f).fld sysStepStatusLastSkip = 0 := by
      rw [hf]
      exact x.stepEnded_skip htag
    have harrive := x.stepEnded_arrivals htag c.f
    have hupd := x.stepEnded_upd c.f
    have hstate := x.stepEnded_state htag c.f hrun
    refine ⟨_, State.run_eq (f := stepCloseEffect (.finish votes)) heff, ?_⟩
    rw [Dev.wired_job, hjob]
    refine ⟨rfl, rfl, (Dev.wired_step _ _).trans hstep, (Dev.wired_fld _ _ _ (by decide +kernel)).trans hordinal,
      (Dev.wired_fld _ _ _ (by decide +kernel)).trans hround, fun hf => ?_, fun i hi' => ?_, rfl, rfl,
      (Dev.wired_fld _ _ _ (by decide +kernel)).trans hstate⟩
    · obtain ⟨hrun0, hlast⟩ := hskip hf
      refine ⟨(Dev.wired_fld _ _ _ (by decide +kernel)).trans hrun0, ?_⟩
      rw [Dev.on, Dev.wired_fld _ _ _ (by decide +kernel), hlast]
      rfl
    · obtain ⟨hone, hstay⟩ := harrive i hi'
      simp only [ev]
      rw [Dev.wired_evGet, Dev.wired_evGet, Dev.wired_upd]
      exact ⟨hone, hstay, hupd i hi'⟩
  case admits =>
    intro hclose hopen hleaving hbarred
    refine ⟨fun hnone hrun => ?_, fun hcmds hwhat hstate hown hsrc hall hcopy hcalm => ?_⟩
    · have heff := admissionEffect_of_member x a hclose hopen hleaving hbarred hnone hrun
      have hback := x.takenBack_shown a.unit
      refine ⟨_, State.run_eq heff, ?_⟩
      rw [Dev.wired_job, hback]
    · have heff := admissionEffect_of_newcomer x a hclose hopen hleaving hbarred q t0 d hcmds hwhat hstate hown hsrc hall hcopy hcalm
      have hjob := d.admitted_job a q
      rw [Dev.joins_job, job_of_copyShard hcopy, hcmds, List.erase_cons_head] at hjob
      have hstep := d.admitted_step a q
      have hzero := d.admitted_zeroAt a q
      refine ⟨_, State.run_eq heff, ?_⟩
      rw [Dev.wired_job, hjob]
      rw [Dev.wired_col]
      exact ⟨(Dev.wired_step _ _).trans hstep, rfl, hzero, rfl⟩
end

section
/-! SUPPORT. The passes of an update unit, turn by turn, their pauses and tears, and O50 (R193, R197, R202, R207 to R214, R216, R224). -/

namespace Sys2Proof.Machine

variable (s : Dev) {d : Nat} {p : Pass}

/-! ### Turns -/

/-- The commands that give the passes of unit `d` their turns, `m` of them, each with the kind of its pass. -/
def passInstrs (d : Fin 4) (m : Nat) : List (Instr × Nat) :=
  [(.normPass d m, 0), (.updatePass d m, 1), (.lambPassA d m, 2), (.digestPass d m, 3)]

/-- Each of them takes the turns of its kind alone. -/
theorem runs_passInstr {d : Fin 4} {m : Nat} {y : Instr × Nat} (hy : y ∈ passInstrs d m) (u : State) :
    Runs y.1 u (Dev.passTurns d y.2 m u.dev) := by
  simp only [passInstrs, List.mem_cons, List.not_mem_nil, or_false] at hy
  rcases hy with rfl | rfl | rfl | rfl <;> exact State.run_eq rfl

/-- A pass stands on unit `d` and works: neither it nor the unit is paused. -/
def Dev.Works (d : Nat) (p : Pass) : Prop :=
  (s.upd d).run = some p ∧ p.paused = false ∧ s.pausedUnit ⟨.update, d⟩ = false

/-- A pass that works takes its turn; the turns asked for follow. -/
theorem Dev.passTurns_succ (hw : s.Works d p) (m : Nat) :
    Dev.passTurns d p.kind (m + 1) s = Dev.passTurns d p.kind m (s.passTurn d p) := by
  obtain ⟨hrun, hpause, hunit⟩ := hw
  simp [Dev.passTurns, hrun, hpause, hunit]

/-- A command of the pass's kind, asked for `m + 1` turns, is the pass's turn and `m` more. -/
theorem runs_passTurn {d : Fin 4} {m : Nat} {c : Instr} {u : State} {y : Dev} (hc : (c, p.kind) ∈ passInstrs d (m + 1))
    (hw : u.dev.Works d p) (ht : u.dev.passTurn d p = y) : Runs c u (Dev.passTurns d p.kind m y) := by
  rw [← ht, ← Dev.passTurns_succ u.dev hw]
  exact runs_passInstr hc u

/-! ### What a turn of a pass comes to -/

/-- A pass that has taken a turn has had its table checked. -/
theorem Dev.firstTurn_of_taken (hf : p.fresh = false) : s.firstTurn d p = (s, true) := by
  simp [Dev.firstTurn, hf]

/-- The mark of a first turn is off already. -/
theorem Pass.taken_eq (hf : p.fresh = false) : { p with fresh := false } = p := by
  rw [← hf]

/-- The words of a descriptor's 128 bytes (R194). -/
def unitDescWords (bs : List Byte) : List W64 := (List.range 16).map fun i => BitVec.ofNat 64 (leAt bs (8 * i) 8)

/-- A block done, the device `y` and its pass `r`: the next block is due, or the descriptor ends (R193). -/
def Dev.afterBlk (d : Nat) (q : List W64) (y : Dev) (r : Pass) : Dev :=
  if uBlocks q ≤ r.blk then (y.endDesc d q r).getD s else y.setPass d r

/-- A turn within a begun descriptor whose words and set can be read is that of its next block. -/
theorem Dev.passTurn_of_begun {d1 d2 y : Dev} {bs set : List Byte} {r : Pass} (hf : p.fresh = false) (hb : p.begun = true)
    (hl : p.desc ≤ p.last) (hread : s.uRead d (s.updTable d + 0x10000 + 128 * p.desc) 128 = (d1, .ok bs))
    (hq : qualifies p.kind (unitDescWords bs) = true) (hset : d1.setOf d p (uHp (unitDescWords bs)) = (d2, .ok set))
    (hblk : d2.blkTurn d (unitDescWords bs) set p = (y, .on r)) : s.passTurn d p = s.afterBlk d (unitDescWords bs) y r := by
  rw [unitDescWords] at hq hset hblk ⊢
  simp only [Dev.passTurn, s.firstTurn_of_taken hf, Pass.taken_eq hf, Bool.not_true, Bool.false_eq_true, if_false, if_neg (Nat.not_lt.mpr hl),
    hread, hq, hset, if_pos hb, hblk, Dev.afterBlk]

/-- A pass past its last descriptor ends. -/
theorem Dev.passTurn_of_past (hf : p.fresh = false) (hl : p.last < p.desc) (hm : s.recMoving d p = false) :
    s.passTurn d p = s.endPass d p true := by
  simp [Dev.passTurn, s.firstTurn_of_taken hf, Pass.taken_eq hf, hl, hm]

/-- An entry's pass that finds its unit table unsound ends as illegal (R196). -/
theorem Dev.passTurn_of_unsound (hf : p.fresh = true) (hk : p.kind ≠ 1) (hw : p.work.isSome = true) (ht : s.tableOk d = false) :
    s.passTurn d p = s.passIllegal d p 4096 := by
  have hfirst : s.firstTurn d p = (s, false) := by
    simp [Dev.firstTurn, hf, hk, ht, hw]
  simp [Dev.passTurn, hfirst]

/-! ### The blocks of each kind -/

/-- The parameters of the block that a pass is at (R193). -/
def Pass.blkLen (p : Pass) (q : List W64) : Nat := Nat.min 1024 (uCount q - 1024 * p.blk)

variable {q : List W64} {set : List Byte} {g c f bs : List Byte} {old : UBlk} {d3 d4 d5 d6 : Dev}

/-! The turn of a block is that of the pass's kind (R197). -/
theorem Dev.blkTurn_of_norm (hk : p.kind = 0) : s.blkTurn d q set p = s.normBlk d q p := by simp only [Dev.blkTurn, hk]
theorem Dev.blkTurn_of_update (hk : p.kind = 1) : s.blkTurn d q set p = s.updateBlk d q (hypOf q set p.n.toNat p.lp) p := by
  simp only [Dev.blkTurn, hk]
theorem Dev.blkTurn_of_lamb (hk : p.kind = 2) : s.blkTurn d q set p = s.lambBlk d q (hypOf q set p.n.toNat p.lp) p := by simp only [Dev.blkTurn, hk]
theorem Dev.blkTurn_of_digest (hk : p.kind = 3) : s.blkTurn d q set p = s.digestBlk d q p := by simp only [Dev.blkTurn, hk]

/-- Some byte of a read range is of a lost word. -/
def Dev.loses (d va k : Nat) : Bool := match (s.vRead (baseTlb d) (updSrc d) 0 2 va k).2 with
  | .data _ e => e.lost
  | _ => false

/-- The code that group `i` of a block counts with: 0xFF where its elements or its code are lost (R208). -/
def Dev.normCode (d : Nat) (q : List W64) (p : Pass) (c : List Byte) (i : Nat) : Nat :=
  if s.loses d (uAddr q 4 + 2048 * p.blk + 64 * i) (2 * Nat.min 32 (p.blkLen q - 32 * i)) || s.loses d (uAddr q 5 + 32 * p.blk + i) 1 then 0xFF
  else (c.getD i 0).toNat

/-- A block of the norm pass adds its groups of 32 (R208). -/
theorem Dev.blkTurn_norm {e1 e2 : Ecc} (hk : p.kind = 0)
    (hg : s.vRead (baseTlb d) (updSrc d) 0 2 (uAddr q 4 + 2048 * p.blk) (2 * p.blkLen q) = (d3, .data g e1))
    (hc : d3.vRead (baseTlb d) (updSrc d) 0 2 (uAddr q 5 + 32 * p.blk) (ceilDiv (p.blkLen q) 32) = (d4, .data c e2)) :
    s.blkTurn d q set p = (((List.range (ceilDiv (p.blkLen q) 32)).foldl (fun y i => y.normGroup d p.brz (s.normCode d q p c i)
      ((List.range (Nat.min 32 (p.blkLen q - 32 * i))).map fun j => (bi16Int (leAt g (64 * i + 2 * j) 2)).1)) d4).normShow,
      .on { p with blk := p.blk + 1 }) := by
  simp only [Pass.blkLen] at hg hc
  rw [s.blkTurn_of_norm hk]
  simp only [Dev.normBlk, hg, hc]
  rfl

/-- The updated parameters of a block whose arrays are read, and whose clip factor and seed `s` holds (R200 to R206). -/
def Dev.blkPars (q : List W64) (set : List Byte) (p : Pass) (g c f : List Byte) (old : UBlk) : List (Bool × Par) :=
  newPars q (hypOf q set p.n.toNat p.lp) (some (s.fld updNormStatClip)) s.job.seed p.n p.blk (p.blkLen q) g c f old

/-- The pass behind a block of contents `b`, whose digest joins (R224). -/
def Pass.joined (p : Pass) (y : Dev) (q : List W64) (b : UBlk) : Pass :=
  { p with blk := p.blk + 1, dig := xorLanes p.dig (blockDigest y.job.seed q p.blk b) }

/-- A block is exported where its descriptor exports, a working copy of code 0xFF is noted, and the block counts (R45, R211, R218). -/
def Dev.blkStored (d : Nat) (q : List W64) (p : Pass) (ty : Nat) (old new : UBlk) : Dev :=
  let out : Dev := if s.exports d q then s.exportBlock d (p.n.toNat + 1) (blockRecord q ty p.blk ((p.n.toNat + 1) % 2 ^ 32) old new) else s
  (if uWc q && (workingCopy (uWcFmt q) new.mas).2.contains 0xFF then out.nonFinite p.brz else out).count (dieBlk d) 17 1

/-- A block that keeps its old bits counts as held and sends its message (R207). -/
def Dev.blkHeld (d : Nat) (p : Pass) : Dev :=
  (((s.satFld (updStatusHeld.nth d) 1).detect (updSrc d) 0x15 0 (p.desc + p.blk * 2 ^ 12)).count (dieBlk d) 17 1).count (dieBlk d) 18 1

section
variable (hg : s.readGrad d q p.blk (p.blkLen q) = (d3, some (g, c, f), false)) (hr : d3.readBlk d q p.blk (p.blkLen q) = (d4, some old, false))
include hg hr

/-- An update block whose values are all finite is stored with its tag, and done as `blkStored` says (R211). -/
theorem Dev.blkTurn_update_of_stored {ty : Nat} {w : Bool} (hk : p.kind = 1) (hring : (s.exports d q && s.ringMoving d) = false)
    (hheld : heldBlk q (d4.blkPars q set p g c f old) = false)
    (hw : d4.uWrite d (blockWrites q p.blk (storedBlk q old (d4.blkPars q set p g c f old)) (storedBlk q old (d4.blkPars q set p g c f old)).mas
      (some (p.n.toNat + 1))) = (d5, .done))
    (hty : (if d5.exports d q then d5.recordType d p.desc p.blk (p.n.toNat + 1) else (d5, some 0, false)) = (d6, some ty, w)) :
    let new := storedBlk q old (d4.blkPars q set p g c f old)
    let done := d6.blkStored d q p ty old new
    s.blkTurn d q set p = (done, .on (p.joined done q new)) := by
  simp only [Pass.blkLen, Dev.blkPars] at hg hr hheld hw
  rw [s.blkTurn_of_update hk]
  simp only [Dev.updateBlk, hring, hg, hr, hheld, hw, Bool.not_false, Bool.true_and, Bool.false_eq_true, if_false, hty]
  rfl

/-- An update block that would get a value that is not finite has its tag written alone and counts as held (R207). -/
theorem Dev.blkTurn_update_of_held (hk : p.kind = 1) (hring : (s.exports d q && s.ringMoving d) = false)
    (hheld : heldBlk q (d4.blkPars q set p g c f old) = true)
    (hw : d4.uWrite d [(uAddr q 13 + 8 * p.blk, natLe 8 (p.n.toNat + 1))] = (d5, .done)) :
    s.blkTurn d q set p = (d5.blkHeld d p, .on (p.joined (d5.blkHeld d p) q old)) := by
  simp only [Pass.blkLen, Dev.blkPars] at hg hr hheld
  rw [s.blkTurn_of_update hk]
  simp only [Dev.updateBlk, hring, hg, hr, hheld, hw, Bool.not_true, Bool.false_and, Bool.false_eq_true, if_false, if_true]
  rfl

/-- A block of LAMB pass A joins its two sums (R202). -/
theorem Dev.blkTurn_lamb (hk : p.kind = 2) :
    let pars := d4.blkPars q set p g c f old
    let tree (v : Nat → Nat) : Nat := (treeOf fAdd 10 ((List.range 1024).map v)).headD 0
    let sq (get : Nat → Par → Nat) (i : Nat) : Nat := match pars[i]? with
      | some (false, z) => fMul (get i z) (get i z)
      | _ => 0
    s.blkTurn d q set p = (d4, .on { p with
      blk := p.blk + 1, sw := BitVec.ofNat 32 (fAdd p.sw.toNat (tree (sq fun i _ => (old.par q i).w))),
      sr := BitVec.ofNat 32 (fAdd p.sr.toNat (tree (sq fun _ z => z.r))) }) := by
  simp only [Pass.blkLen] at hg hr
  rw [s.blkTurn_of_lamb hk]
  simp only [Dev.lambBlk, hg, hr]
  rfl

end

/-- A block of a digest pass joins its digest (R216). -/
theorem Dev.blkTurn_digest (hk : p.kind = 3) (hr : s.readBlk d q p.blk (p.blkLen q) = (d3, some old, false)) :
    s.blkTurn d q set p = (d3, .on (p.joined d3 q old)) := by
  simp only [Pass.blkLen] at hr
  rw [s.blkTurn_of_digest hk]
  simp only [Dev.digestBlk, hr]
  rfl

/-! ### Pauses, resumptions and tears -/

/-- A STOP pauses an update pass that no work of the breeze runs (R213). -/
theorem updatePauseEffect_of_stop (hrun : (s.upd d).run = some p) (hp : p.paused = false) (hk : p.kind = 1) (hw : p.work = none)
    (hs : s.stopping false = true) : updatePauseEffect d s = (s.pausePass d).stopSettle := by
  have hbrz : p.brz = false := by rw [Pass.brz, hw]
  simp [updatePauseEffect, hrun, hp, hk, hbrz, hs]

/-- A paused pass goes on from a record that is of its step, valid and paused, which is then no longer paused (R213). -/
theorem updateResumeEffect_of_record {d1 d2 : Dev} (hrun : (s.upd d).run = some p) (hp : p.paused = true) (hh : s.passHeld d p = false)
    (hread : s.uRead d (s.updTable d + 0x4000) 16 = (d1, .ok bs)) (hn : leAt bs 0 8 = p.n.toNat) (hkind : leAt bs 0xA 1 = 1)
    (hflags : leAt bs 0xB 1 % 4 = 3) (hwrite : d1.uWrite d [(s.updTable d + 0x400B, natLe 1 1)] = (d2, .done)) :
    updateResumeEffect d s = ((d2.setPass d { p with
      desc := leAt bs 8 2, blk := leAt bs 0xC 4, begun := leAt bs 8 2 == p.desc && p.begun, paused := false,
      rec_ := some (leAt bs 8 2) }).updShow d).noteBreeze := by
  simp [updateResumeEffect, hrun, hp, hh, hread, hn, hkind, hflags, hwrite]

/-- A pass with a valid record that is not paused is torn (R214). -/
theorem tornShardEffect_of_record {t : Nat} (hrun : (s.upd d).run = some p) (hp : p.paused = false) (hrec : p.rec_ = some t)
    (hk : p.kind = 1 ∨ p.kind = 3) : tornShardEffect d s = s.tear d p := by
  simp [tornShardEffect, hrun, hp, hrec, hk]

end Sys2Proof.Machine

open Sys2Proof Sys2Proof.Machine

/-- Settles O50: the turn of a begun descriptor is that of its block (`Dev.passTurn_of_begun`), and the block of each kind is what its
`Dev.blkTurn_` lemma says. -/
theorem updatePasses : Obligations.UpdatePasses := by
  unfold Obligations.UpdatePasses
  intro s d m p d1 d2 d3 d4 d5 d6 ty t w bs set g c f old e1 e2 x u q n next more runs reads
  have goes {k : Instr} {y : Dev} {r : Pass} (hreads : reads) (hk : (k, p.kind) ∈ passInstrs d (m + 1))
      (hblk : d2.blkTurn d (unitDescWords bs) set p = (y, .on r)) : Runs k s (more (next y r)) := by
    obtain ⟨hruns, hbegun, hfresh, hlast, hread, hqual, hset⟩ := hreads
    exact runs_passTurn hk hruns (x.passTurn_of_begun hfresh hbegun hlast hread hqual hset hblk)
  refine ⟨?norm, ?updateLamb, ?digest, ?ends, ?idles, ?pauses, ?resumes, ?tears⟩
  case norm =>
    exact fun hreads hk hg hc => goes hreads (by simp [passInstrs, hk]) (d2.blkTurn_norm hk hg hc)
  case updateLamb =>
    intro hreads hg hr
    refine ⟨fun hk hring => ⟨fun hheld hw hty => ?_, fun hheld hw => ?_⟩, fun hk => ?_⟩
    · exact goes hreads (by simp [passInstrs, hk]) (d2.blkTurn_update_of_stored hg hr hk hring hheld hw hty)
    · exact goes hreads (by simp [passInstrs, hk]) (d2.blkTurn_update_of_held hg hr hk hring hheld hw)
    · exact goes hreads (by simp [passInstrs, hk]) (d2.blkTurn_lamb hg hr hk)
  case digest =>
    exact fun hreads hk hr => goes hreads (by simp [passInstrs, hk]) (d2.blkTurn_digest hk hr)
  case ends =>
    intro y hy hruns hk
    have hmem : (y.1, p.kind) ∈ passInstrs d (m + 1) := by rw [hk]; exact hy
    exact ⟨fun hfresh hlast hmove => runs_passTurn hmem hruns (x.passTurn_of_past hfresh hlast hmove),
      fun hfresh hkind hwork htable => runs_passTurn hmem hruns (x.passTurn_of_unsound hfresh hkind hwork htable)⟩
  case idles =>
    intro y hy
    simp only [List.mem_cons, List.not_mem_nil, or_false] at hy
    rcases hy with rfl | rfl | rfl | rfl <;> exact State.run_eq rfl
  case pauses => exact fun hrun hp hk hw hs => State.run_eq (updatePauseEffect_of_stop x hrun hp hk hw hs)
  case resumes =>
    exact fun hrun hp hh hread hn hkind hflags hwrite =>
      State.run_eq (updateResumeEffect_of_record x hrun hp hh hread hn hkind hflags hwrite)
  case tears =>
    intro hrun hp hrec hk run dig
    have hnamed : p.rec_.getD p.desc = t := by rw [hrec, Option.getD_some]
    refine State.run_eq ((tornShardEffect_of_record x hrun hp hrec hk).trans ?_)
    simp only [Dev.tear, hnamed]
    rfl
end

section
/-! SUPPORT. Repairs and restores of shards, records that leave, and O52 (R215, R216, R218, R221, R300, R325, R328, R333, R392). -/

namespace Sys2Proof.Machine

variable (s : Dev) {d desc : Nat} {q : List W64} {d1 d2 d3 : Dev}

/-! ### SHARD_REPAIR (R215, R333) -/

/-- The tags that a copy brings. -/
def copyTags (q : List W64) (arrs : List (List Byte)) : List Nat := nums 8 (uBlocks q) (padTo (8 * uBlocks q) (arrs.getD 6 []))

/-- The descriptor digest that a copy brings. -/
def copyDigest (arrs : List (List Byte)) : List W64 := (List.range 4).map fun l => BitVec.ofNat 64 (leAt (arrs.getD 7 []) (8 * l) 8)

/-- The repair is over: the PEER_RESTORE that waited for it completes with the bytes of the copy. -/
def Dev.repairDone (d desc : Nat) (q : List W64) (arrs : List (List Byte)) : Dev :=
  s.restoreDone d desc 0 ((copyPieces q (s.updTable d) desc arrs).foldl (fun n z => n + z.2.length) 0)

section
variable {src : Nat} {arrs : List (List Byte)} (hwant : s.restoreWanted d desc src = true) (hfound : s.descOf d desc = (d1, some q))
  (htags : (copyTags q arrs).all (· == (copyTags q arrs).headD 0) = true)
  (hcopy : d1.uWrite d (copyPieces q (d1.updTable d) desc arrs) = (d2, .done))
  (hkeys : d2.restoreKeys d q ((copyTags q arrs).headD 0) = (d3, .done))
include hwant hfound htags hcopy hkeys

/-- A copy of a torn descriptor, of the step's tag, joins its digest, and the pass goes on with the next descriptor. -/
theorem shardRepairEffect_of_torn (htorn : (d1.upd d).torn = some desc) (htag : (copyTags q arrs).headD 0 = d1.step.toNat + 1) :
    shardRepairEffect d desc src arrs s =
      ((d3.setUpd d { d3.upd d with dig := xorLanes (d3.upd d).dig (copyDigest arrs) }).mended d (desc + 1) (copyDigest arrs)).repairDone
        d desc q arrs := by
  have hequal : (copyTags q arrs).any (· != (copyTags q arrs).headD 0) = false := by simpa using htags
  have hnamed : ((d1.upd d).torn == some desc) = true := by simpa using htorn
  have hstep : ((copyTags q arrs).headD 0 != d1.step.toNat + 1) = false := by simpa using htag
  rw [copyTags] at hequal hstep hkeys
  simp only [shardRepairEffect, hwant, hfound, hequal, hnamed, hstep, hcopy, hkeys]
  rfl

/-- A copy of another descriptor is noted for START. -/
theorem shardRepairEffect_of_untorn (htorn : (d1.upd d).torn ≠ some desc) :
    shardRepairEffect d desc src arrs s = (d3.noteRestored d desc ((copyTags q arrs).headD 0)).repairDone d desc q arrs := by
  have hequal : (copyTags q arrs).any (· != (copyTags q arrs).headD 0) = false := by simpa using htags
  have hother : ((d1.upd d).torn == some desc) = false := by simpa using htorn
  rw [copyTags] at hequal hkeys
  simp only [shardRepairEffect, hwant, hfound, hequal, hother, hcopy, hkeys]
  rfl

end

/-! ### SHARD_RESTORE (R216, R328, R333) -/

/-- A unit takes a restore of descriptor `desc`: it is the torn one, or none is torn and no pass runs. -/
def Dev.restoreFree (d desc : Nat) : Prop :=
  (s.upd d).torn = some desc ∨ ((s.upd d).torn = none ∧ ∀ z, (s.upd d).run = some z → z.paused = true)

theorem Dev.not_elsewhere_of_restoreFree (hfree : s.restoreFree d desc) :
    ¬(!((s.upd d).torn == some desc) && ((s.upd d).torn.isSome || (match (s.upd d).run with
      | some p => !p.paused
      | none => false))) = true := by
  rcases hfree with htorn | ⟨htorn, hpaused⟩
  · simp [htorn]
  · cases hrun : (s.upd d).run with
    | none => simp [htorn]
    | some z => simp [htorn, hpaused z hrun]

/-- Whether an image can serve descriptor `q`, read from `d1`: a torn one asks for the exported arrays and the accumulator. -/
def Dev.imageServes (d desc : Nat) (q : List W64) (d1 : Dev) : Dev × UWrite :=
  if (s.upd d).torn = some desc then (if imageCovers q (uExp q) then d1.gradReadable d q else (d1, .bad)) else (d1, .done)

theorem Dev.imageServes_eq : s.imageServes d desc q d1 =
    if !((s.upd d).torn == some desc) then (d1, .done) else if imageCovers q (uExp q) then d1.gradReadable d q else (d1, .bad) := by
  by_cases htorn : (s.upd d).torn = some desc <;> simp [Dev.imageServes, htorn]

/-- The digest that an image names. -/
def imageDigest (img : List Byte) : List W64 := (List.range 4).map fun l => BitVec.ofNat 64 (leAt img (0x20 + 8 * l) 8)

/-- An image is in place, its tags before it `old`: a digest pass over its descriptor stands on the unit, before the pass that it met (R216). -/
def Dev.imagePlaced (d desc : Nat) (q : List W64) (img old : List Byte) : Dev :=
  (s.setUpd d { s.upd d with
    run := some { updatePass desc desc s.step with kind := 3, fresh := false }, kept := (s.upd d).run.toList ++ (s.upd d).kept,
    restore := some ⟨desc, leAt img 0x10 8, imageDigest img, old, (imagePieces q img).foldl (fun n z => n + z.2.length) 0⟩ }).setFld
    (updStatusState.nth d) 1

section
variable {img : List Byte} {e : Dev} (himg : (s.upd d).image = some (desc, img)) (hnone : (s.upd d).restore = none)
  (hfree : s.restoreFree d desc) (hfound : s.descOf d desc = (d1, some q))
include himg hnone hfree hfound

/-- An image that cannot serve a torn descriptor holds the job, and its restore is refused. -/
theorem shardRestoreEffect_of_bad (n : Nat) (hserves : s.imageServes d desc q d1 = (e, .bad)) :
    shardRestoreEffect d desc n s = (e.holdJob 3).restoreDone d desc 0x020E 0 := by
  rw [Dev.imageServes_eq] at hserves
  simp only [shardRestoreEffect, himg, Option.filter_some, beq_self_eq_true, if_true, hnone, Option.isSome_none, Bool.false_eq_true, if_false]
  refine (if_neg (s.not_elsewhere_of_restoreFree hfree)).trans ?_
  simp only [hfound, hserves]

/-- An image that serves, covers the rule, fits the count and, for a torn descriptor, is of the step is written with its tag, and its digest
pass takes its turns. -/
theorem shardRestoreEffect_of_served {old : List Byte} (n : Nat) (hserves : s.imageServes d desc q d1 = (e, .done))
    (hstep : (s.upd d).torn = some desc → leAt img 0x10 8 = e.step.toNat) (hcover : imageCovers q (leAt img 4 1) = true)
    (hcount : leAt img 8 8 = uCount q) (hold : e.uRead d (uAddr q 13) (8 * uBlocks q) = (d2, .ok old))
    (hwrite : d2.uWrite d (imagePieces q img ++ [(uAddr q 13, (List.range (uBlocks q)).flatMap fun _ => natLe 8 (leAt img 0x10 8))]) =
      (d3, .done)) : shardRestoreEffect d desc n s = Dev.passTurns d 3 n (d3.imagePlaced d desc q img old) := by
  have hform : (!imageCovers q (leAt img 4 1) || leAt img 8 8 != uCount q ||
      ((s.upd d).torn == some desc && leAt img 0x10 8 != e.step.toNat)) = false := by
    by_cases htorn : (s.upd d).torn = some desc
    · simp [hcover, hcount, hstep htorn]
    · simp [hcover, hcount, htorn]
  rw [Dev.imageServes_eq] at hserves
  simp only [shardRestoreEffect, himg, Option.filter_some, beq_self_eq_true, if_true, hnone, Option.isSome_none, Bool.false_eq_true, if_false]
  refine (if_neg (s.not_elsewhere_of_restoreFree hfree)).trans ?_
  simp only [hfound, hserves, hform, hold, hwrite]
  rfl

end

/-! ### The end of a restore's digest pass (R216, R221, R333) -/

section
variable {p : Pass} {r : Restore} (hk : p.kind = 3) (hr : (s.upd d).restore = some r)
include hk hr

/-- With another digest than the image names the tags take their old values, and the restore is refused. -/
theorem Dev.endDesc_of_other_digest (hd : p.dig ≠ r.want)
    (hw : s.uWrite d [(uAddr q 13, r.old), (s.updTable d + 0x400B, natLe 1 0)] = (d1, .done)) :
    s.endDesc d q p = some (((d1.unkeep d).updShow d).restoreDone d r.desc 0x020A 0) := by
  simp [Dev.endDesc, hk, Dev.digestEnd, hr, hd, hw]

/-- With the digest that the image names it is written, and the pass that met the torn descriptor passes over it again. -/
theorem Dev.endDesc_of_same_digest (hd : p.dig = r.want)
    (hw : s.uWrite d [(s.updTable d + 0x90000 + 32 * r.desc, digestBytes r.want), (s.updTable d + 0x400B, natLe 1 0)] = (d1, .done))
    (hkeys : (d1.unkeep d).restoreKeys d q r.tag = (d2, .done)) (htorn : (d2.upd d).torn = some r.desc)
    (hrun : (d2.upd d).run.isSome = true) :
    s.endDesc d q p = some ((d2.mended d r.desc [0, 0, 0, 0]).restoreDone d r.desc 0 r.n) := by
  simp [Dev.endDesc, hk, Dev.digestEnd, hr, hd, hw, hkeys, htorn, hrun]

end

/-! ### Records that leave (R218, R300, R325, R392) -/

section
variable {pkg addr size prod c : Nat} (hsink : (s.upd d).sink = .ring pkg addr size prod c)
include hsink

theorem sinkPollEffect_of_ring (cons : Nat) :
    sinkPollEffect d cons s = s.setUpd d { s.upd d with sink := .ring pkg addr size prod cons } := by
  simp [sinkPollEffect, hsink]

/-- With the gusts of a record acknowledged, the producer count leaves and a new sink takes over. -/
theorem exportForwardEffect_of_flight (hbusy : s.exportBusy d = false) (hflight : 0 < (s.upd d).flight) :
    exportForwardEffect d s =
      ((s.setUpd d { s.upd d with
        fwd := (s.upd d).fwd + (s.upd d).flight, flight := 0,
        sink := (s.upd d).sinkNew.getD (.ring pkg addr size (prod + (s.upd d).flight) c), sinkNew := none }).pushBytes pkg addr (2 + d)
          (natLe 8 (prod + (s.upd d).flight))).pump := by
  simp only [exportForwardEffect, hsink, hbusy, hflight, Bool.false_eq_true, if_false, if_true]

variable {bs : List Byte} (hbusy : s.exportBusy d = false) (hflight : (s.upd d).flight = 0) (hnext : s.nextRecord d = (d1, some bs))
include hbusy hflight hnext

/-- A record for which the sink ring has room leaves. -/
theorem exportForwardEffect_of_room (hroom : prod - c + bs.length ≤ size - 64) :
    exportForwardEffect d s =
      ((ringPieces (size - 64) prod bs).foldl (fun y p => y.pushBytes pkg (addr + 64 + p.1) (2 + d) p.2)
        (d1.setUpd d { d1.upd d with flight := bs.length })).pump := by
  simp only [exportForwardEffect, hsink, hbusy, hflight, hnext, Nat.lt_irrefl, Bool.false_eq_true, if_false, if_neg (Nat.not_lt.mpr hroom)]

/-- One for which it has none waits. -/
theorem exportForwardEffect_of_full (hfull : size - 64 < prod - c + bs.length) : exportForwardEffect d s = d1 := by
  simp only [exportForwardEffect, hsink, hbusy, hflight, hnext, Nat.lt_irrefl, Bool.false_eq_true, if_false, if_pos hfull]

end

section
variable {k : Nat} {bs : List Byte} (hsink : (s.upd d).sink = .queue k) (hnext : s.nextRecord d = (d1, some bs))
include hsink hnext

/-- A record for whose slots the host queue has room is appended. -/
theorem exportQueueEffect_of_room (hlive : (d1.qctx k).live = true) (hroom : ceilDiv bs.length 64 ≤ (d1.qctx k).room) :
    exportQueueEffect d s =
      (let y := d1.qAppend k ((List.range (ceilDiv bs.length 64)).map fun i => padTo 64 ((bs.drop (64 * i)).take 64))
       y.setUpd d { y.upd d with fwd := (y.upd d).fwd + bs.length }) := by
  simp [exportQueueEffect, hsink, hnext, hlive, hroom]

/-- One for which it has none waits. -/
theorem exportQueueEffect_of_full (hfull : (d1.qctx k).room < ceilDiv bs.length 64) : exportQueueEffect d s = d1 := by
  simp [exportQueueEffect, hsink, hnext, hfull]

end

end Sys2Proof.Machine

open Sys2Proof Sys2Proof.Machine

/-- Settles O52: a copy's or an image's effect under the conditions of its clause, torn descriptor or not, and what becomes of the next
record. -/
theorem shardsAndExports : Obligations.ShardsAndExports := by
  unfold Obligations.ShardsAndExports
  intro s d desc src arrs img bs old d1 d2 d3 e q m cons p r x u found ends tags tag
  refine ⟨?repair, ?restore, ?digest, ?ring, ?queue⟩
  case repair =>
    intro hwant hfound htags hcopy hkeys dig
    exact ⟨fun htorn htag => State.run_eq (shardRepairEffect_of_torn x hwant hfound htags hcopy hkeys htorn htag),
      fun htorn => State.run_eq (shardRepairEffect_of_untorn x hwant hfound htags hcopy hkeys htorn)⟩
  case restore =>
    intro himg hnone hfree hfound tag serves
    exact ⟨fun hserves => State.run_eq (shardRestoreEffect_of_bad x himg hnone hfree hfound m hserves),
      fun hserves hstep hcover hcount hold hwrite =>
        State.run_eq (shardRestoreEffect_of_served x himg hnone hfree hfound m hserves hstep hcover hcount hold hwrite)⟩
  case digest =>
    exact fun hk hr => ⟨fun hd hw => x.endDesc_of_other_digest hk hr hd hw,
      fun hd hw hkeys htorn hrun => x.endDesc_of_same_digest hk hr hd hw hkeys htorn hrun⟩
  case ring =>
    exact fun pkg addr size prod c hsink => ⟨State.run_eq (sinkPollEffect_of_ring x hsink cons.toNat),
      fun hbusy hflight => State.run_eq (exportForwardEffect_of_flight x hsink hbusy hflight),
      fun hbusy hflight hnext => ⟨fun hroom => State.run_eq (exportForwardEffect_of_room x hsink hbusy hflight hnext hroom),
        fun hfull => State.run_eq (exportForwardEffect_of_full x hsink hbusy hflight hnext hfull)⟩⟩
  case queue =>
    exact fun k hsink hnext => ⟨fun hlive hroom => State.run_eq (exportQueueEffect_of_room x hsink hnext hlive hroom),
      fun hfull => State.run_eq (exportQueueEffect_of_full x hsink hnext hfull)⟩
end

section
/-! SUPPORT. Releases, completions, yields, budget waits and one-off entries, command by command, and O51 (R197, R321, R346 to R368). -/

namespace Sys2Proof.Machine

variable (s : Dev) {r : Rel} {y : Cand}

/-! ### Releases (R347, R353, R354, R357, R367) -/

theorem Dev.noteBreeze_core (j : Nat) : s.noteBreeze.core j = s.core j := rfl

/-- A segment whose code and arguments can be read leaves its core issuing at its entry, its arguments in the scalar registers (R354). -/
theorem Dev.startSegment_core {c : Nat} {w : Work} {d : Dev}
    (hload : (((s.csWrite (c / 16) (cellsAt (s.ctxSlot c + 0xC) [0])).onCore c fun k => { k with slots := [] }).clearLocal w.dom
      (bits w.w1.toNat 32 8) (bits w.w1.toNat 40 4)).loadSegment c w = (d, true)) :
    (s.startSegment c w).core c = { d.core c with
      pc := bits w.w0.toNat 40 20, run := .issuing, work := some w, grant := d.pmc.grant, since := 0, accs := false } := by
  simp only [Dev.startSegment, hload, Dev.count_core, Dev.core_onCore, if_true]

/-- A chain that its channel held keeps its place there until the channel is free again (R144). -/
def Dev.park (h : Nat) : Dev :=
  { s with disp := { s.disp with parked := Sparse.set (always Chan.idle) s.disp.parked h (s.chan h) } }

/-- A released chain starts at its first descriptor, on its core where a cluster's dispatcher has released it (R347). -/
def Dev.startEntryChain (h : Nat) (y : Cand) (core : Option Nat) : Dev :=
  s.startChain h (bits (eW0 y.e) 0 52) y.brz core .entry (some y.workOf)

/-- The core for which a dispatcher releases a chain; those of the base dies have none. -/
def Dev.chainCore (y : Cand) : Option Nat := if eDisp y.e < 32 then some (s.physCore (eDisp y.e) y.workOf.lcore) else none

/-- An update pass of kind 1 or 2 of a round whose close decided F = 1 completes without running (R357). -/
def Dev.skips (y : Cand) (p : Pass) : Prop := (p.kind = 1 ∨ p.kind = 2) ∧ y.brz = false ∧ s.skippedRound y.round = true

/-- A map switch to a slot that holds no map fails (R367). -/
theorem mapSwitch_waits_self (h : s.col.live ≠ []) : s.liveColls.any s.liveColls.contains = true := by
  obtain ⟨c, l, hl⟩ := List.exists_cons_of_ne_nil h
  simp [Dev.liveColls, hl]

section
variable (cause : Nat) (hcand : s.cand r = some y) (hnow : s.eligibleNow y = true)
include hcand hnow

/-- An eligible candidate of the kind stands as released, and its work starts. -/
theorem Dev.release_of_eligible {k : Nat} (hk : eKind y.e = k) (f : Cand → Work → Dev → Dev) :
    s.release r k cause f = (f y y.workOf (s.released r y cause)).noteBreeze := by
  simp [Dev.release, hcand, hk, hnow]

theorem segmentReleaseEffect_of_eligible (hk : eKind y.e = 0) :
    segmentReleaseEffect r cause s =
      ((s.released r y cause).startSegment ((s.released r y cause).physCore (eDisp y.e) y.workOf.lcore) y.workOf).noteBreeze :=
  s.release_of_eligible cause hcand hnow hk _

/-- A chain starts on a free channel. -/
theorem chainReleaseEffect_of_idle {h : Nat} (hk : eKind y.e = 1) (hneed : (s.released r y cause).need y.e = .chan h)
    (hidle : ((s.released r y cause).chan h).st = .idle) :
    chainReleaseEffect r cause s =
      ((s.released r y cause).startEntryChain h y ((s.released r y cause).chainCore y)).noteBreeze := by
  refine (s.release_of_eligible cause hcand hnow hk _).trans ?_
  simp only [hneed, hidle, bne_self_eq_false, Bool.false_eq_true, if_false]
  rfl

/-- On a channel that a chain of the breeze holds it starts before that one. -/
theorem chainReleaseEffect_of_held {h : Nat} (hk : eKind y.e = 1) (hneed : (s.released r y cause).need y.e = .chan h)
    (hheld : ((s.released r y cause).chan h).st ≠ .idle) :
    chainReleaseEffect r cause s =
      (((s.released r y cause).park h).startEntryChain h y ((s.released r y cause).chainCore y)).noteBreeze := by
  have hbusy : (((s.released r y cause).chan h).st != .idle) = true := by simpa using hheld
  refine (s.release_of_eligible cause hcand hnow hk _).trans ?_
  simp only [hneed, hbusy, if_true]
  rfl

theorem updateReleaseEffect_of_skipped (hk : eKind y.e = 3)
    (hskip : (s.released r y cause).skips y (passOf y.workOf (s.released r y cause).step)) :
    updateReleaseEffect r cause s = ((s.released r y cause).endWork (some y.workOf) true).noteBreeze := by
  obtain ⟨hkind, hbrz, hround⟩ := hskip
  refine (s.release_of_eligible cause hcand hnow hk _).trans ?_
  rw [if_pos ⟨hkind, by simp [hbrz], hround⟩]

/-- A pass of a round that is not skipped stands on its unit, before the one that it meets there (R363). -/
theorem updateReleaseEffect_of_run (hk : eKind y.e = 3)
    (hrun : ¬(s.released r y cause).skips y (passOf y.workOf (s.released r y cause).step)) :
    updateReleaseEffect r cause s =
      (((s.released r y cause).putPass (eDisp y.e - 32) (passOf y.workOf (s.released r y cause).step)).setFld
        (updStatusState.nth (eDisp y.e - 32)) 1).noteBreeze := by
  refine (s.release_of_eligible cause hcand hnow hk _).trans ?_
  rw [if_neg fun ⟨hkind, hbrz, hround⟩ => hrun ⟨hkind, by simpa using hbrz, hround⟩]

section
variable (hk : eKind y.e = 4) (hmap : s.disp.mapSw = none)
include hk hmap

/-- A map switch waits for the collectives that run, where its slot holds a map; to an empty slot it fails. -/
theorem mapSwitchEffect_of_eligible :
    mapSwitchEffect r cause s =
      (let z := s.released r y cause
       let slot := bits y.workOf.w0.toNat 0 2
       if !bit (z.fld colMapLoaded) slot then z.endWork (some y.workOf) false
       else ({ z with disp := { z.disp with mapSw := some (slot, y.workOf, z.liveColls) } } : Dev).switchSettle).noteBreeze := by
  rw [mapSwitchEffect, hmap, Option.isSome_none, if_neg Bool.false_ne_true]
  exact s.release_of_eligible cause hcand hnow hk _

theorem mapSwitchEffect_of_empty (hslot : bit ((s.released r y cause).fld colMapLoaded) (bits y.workOf.w0.toNat 0 2) = false) :
    mapSwitchEffect r cause s = ((s.released r y cause).endWork (some y.workOf) false).noteBreeze := by
  simp [mapSwitchEffect_of_eligible s cause hcand hnow hk hmap, hslot]

/-- Without a collective that runs the switch takes its slot at once. -/
theorem mapSwitchEffect_of_calm (hslot : bit ((s.released r y cause).fld colMapLoaded) (bits y.workOf.w0.toNat 0 2) = true)
    (hlive : (s.released r y cause).col.live = []) :
    mapSwitchEffect r cause s =
      ((({ s.released r y cause with disp := { (s.released r y cause).disp with mapSw := none } } : Dev).setFld colMapSlot
        (bits y.workOf.w0.toNat 0 2)).endWork (some y.workOf) true).noteBreeze := by
  have hnone : (s.released r y cause).liveColls = [] := by rw [Dev.liveColls, hlive, List.map_nil]
  simp [mapSwitchEffect_of_eligible s cause hcand hnow hk hmap, hslot, Dev.switchSettle, hnone]

/-- With some it waits for them. -/
theorem mapSwitchEffect_of_live (hslot : bit ((s.released r y cause).fld colMapLoaded) (bits y.workOf.w0.toNat 0 2) = true)
    (hlive : (s.released r y cause).col.live ≠ []) :
    mapSwitchEffect r cause s =
      ({ s.released r y cause with disp := { (s.released r y cause).disp with
        mapSw := some (bits y.workOf.w0.toNat 0 2, y.workOf, (s.released r y cause).liveColls) } } : Dev).noteBreeze := by
  rw [mapSwitchEffect_of_eligible s cause hcand hnow hk hmap]
  simp only [hslot, Bool.not_true, Bool.false_eq_true, if_false, Dev.switchSettle]
  rw [if_pos]
  exact mapSwitch_waits_self _ hlive

end

/-- A signal is complete with its release. -/
theorem signalReleaseEffect_of_eligible (hk : eKind y.e = 5) :
    signalReleaseEffect r cause s = completionEffect r ((s.released r y cause).endWork (some y.workOf) true).noteBreeze := by
  simp [signalReleaseEffect, hcand, hk, hnow, s.release_of_eligible cause hcand hnow hk]

end

/-! ### Completions (R355, R368) -/

/-- What follows a completion: moved segments start, and what waited for work to end goes on. -/
def Dev.workLeft : Dev := s.startMoved.noteBreeze.stopSettle

/-- An ended piece of work stands no longer, and a core that its stopped segment held is free. -/
def Dev.without (i : Inst) : Dev :=
  ({ s with disp := { s.disp with insts := s.disp.insts.filter fun j => !(j == i) } } : Dev).freeCore i.work

/-- Completed work makes its arrivals and returns its charges. -/
def Dev.arrived (i : Inst) : Dev := ((s.without i).entryArrivals i.bytes).returnCharges i.work

/-- The dispatcher keeps the completion time of an entry. -/
def Dev.timed (w : Work) : Dev :=
  { s with disp := { s.disp with
    doneAt := Sparse.set (always 0) s.disp.doneAt (if w.brz then 65536 + w.entry else w.entry) (s.now (s.domDie w.disp)) } }

/-- Failed work sends its message, unless its stream had stopped (R321). -/
def Dev.failedMsg (i : Inst) (arg : Nat) : Dev := if i.hush then s.without i else (s.without i).detect (dispSrc i.work.disp) 0x17 2 arg

section
variable {i : Inst} (hi : s.instOf r = some i)
include hi

/-- Completed work of a timetable counts its entry, if that stands at its round. -/
theorem completionEffect_of_done (hend : i.ended = some true) (hone : i.work.one = none) :
    completionEffect r s =
      (((s.arrived i).timed i.work).setTable i.work.brz { (s.arrived i).table i.work.brz with
        done := if (s.arrived i).doneOf i.work.brz i.work.entry = i.work.round then
          Sparse.set (always 0) ((s.arrived i).table i.work.brz).done i.work.entry (i.work.round + 1)
        else ((s.arrived i).table i.work.brz).done }).workLeft := by
  simp only [completionEffect, hi, hend, hone, if_true]
  rfl

/-- A completed one-off entry completes with its start. -/
theorem completionEffect_of_one (q : Nat) (cid : BitVec 16) (hend : i.ended = some true) (hone : i.work.one = some (q, cid)) :
    completionEffect r s = ((s.arrived i).complete q cid i.quiet 0 (BitVec.ofNat 64 i.start)).workLeft := by
  simp only [completionEffect, hi, hend, hone, if_true]
  rfl

/-- Failed work of a timetable is noted. -/
theorem completionEffect_of_failed (hend : i.ended = some false) (hone : i.work.one = none) :
    completionEffect r s =
      (let d := s.failedMsg i i.work.arg
       { d with disp := { d.disp with failed := d.disp.failed ++ [(i.work.brz, i.work.entry)] } } : Dev).workLeft := by
  simp only [completionEffect, hi, hend, hone, Option.isSome_none, Bool.false_eq_true, if_false]
  rfl

/-- A failed one-off entry completes as failed. -/
theorem completionEffect_of_failed_one (q : Nat) (cid : BitVec 16) (hend : i.ended = some false) (hone : i.work.one = some (q, cid)) :
    completionEffect r s =
      ((s.failedMsg i (i.work.entry % 65536 + 65536 * b2n i.work.brz)).complete q cid i.quiet 0x0503 (BitVec.ofNat 64 i.start)).workLeft := by
  simp only [completionEffect, hi, hend, hone, Option.isSome_some, Bool.false_eq_true, if_false, if_true]
  rfl

end

/-! ### Yields (R362, R363) -/

section
variable (lag ns : Nat)

theorem breezeYieldEffect_of_core (c : Fin 512) (hheld : s.heldByBreeze (.core c) = true) (hwant : s.wanted (· == .core c.val) = true) :
    breezeYieldEffect (.core c) lag ns s = ((preemptEffect c lag s).countYield ns).startMoved := by
  simp only [breezeYieldEffect, hheld, hwant, Bool.or_true, Bool.and_true, if_true]

theorem breezeYieldEffect_of_dma (h : Fin 576) (hheld : s.heldByBreeze (.chan h) = true) (hwant : s.wanted (· == .chan h.val) = true) :
    breezeYieldEffect (.dma h) lag ns s = (s.onChan h fun q => { q with pause := true, lent := true }).countYield ns := by
  simp only [breezeYieldEffect, hheld, hwant, Bool.and_true, if_true]

theorem breezeYieldEffect_of_update (d : Fin 4) (hheld : s.heldByBreeze (.update d) = true) (hwant : s.wanted (· == .update d.val) = true)
    (hpause : (s.pausePass d).heldByBreeze (.update d) = false) :
    breezeYieldEffect (.update d) lag ns s = (s.pausePass d).countYield ns := by
  simp only [breezeYieldEffect, hheld, hwant, hpause, Bool.not_false, Bool.and_true, if_true]

end

/-! ### Budget waits and one-off entries (R365, R368) -/

/-- A candidate that its charge alone has held back for more than 1 ms sends its one message. -/
theorem budgetWaitEffect_of_late {h : Held} {since : Nat} (hcand : s.cand r = some y) (hheld : s.heldOf y = some h) (htold : h.told = false)
    (hsince : h.since = some since) (hfit : s.chargeFits y = false) (hlate : since + 1000000 < s.real) :
    budgetWaitEffect r s =
      ({ s with disp := { s.disp with waits := s.disp.waits.map fun g => if g = h then { h with told := true } else g } } : Dev).detect
        (dispSrc (eDisp y.e)) 0x18 0 (y.work 0).arg := by
  have hearly : decide (s.real ≤ since + 1000000) = false := by simpa using hlate
  simp only [budgetWaitEffect, hcand, hheld, htold, hsince, hfit, hearly, Bool.or_self, Bool.false_eq_true, if_false]

section
variable {e : SubEntry} (hfetch : s.fetched 1 1 e = true) (hfree : (s.disp.ones.any fun o => o.q == e.q) = false)
include hfetch hfree

theorem workEntryEffect_of_accepted (hst : s.oneStatus (oneBytes e.body) = 0) :
    workEntryEffect e s = { s with disp := { s.disp with
      ones := s.disp.ones ++ [⟨s.disp.oneNext, oneBytes e.body, e.q, e.cid, e.quiet⟩], oneNext := s.disp.oneNext + 1 } } := by
  simp [workEntryEffect, hfetch, hfree, hst]

theorem workEntryEffect_of_refused (hst : s.oneStatus (oneBytes e.body) ≠ 0) :
    workEntryEffect e s = s.complete e.q e.cid e.quiet (s.oneStatus (oneBytes e.body)) 0 := by
  cases h : s.oneStatus (oneBytes e.body) with
  | zero => exact absurd h hst
  | succ n => simp [workEntryEffect, hfetch, hfree, h]

end

end Sys2Proof.Machine

open Sys2Proof Sys2Proof.Machine

/-- Settles O51: a released candidate's work starts as its kind says (`Dev.release_of_eligible`), ended work leaves what its
`completionEffect_of_` lemma says, and a unit of breeze work is yielded. -/
theorem releasesStartWork : Obligations.ReleasesStartWork := by
  unfold Obligations.ReleasesStartWork
  intro s r cause y i e u lag ns h since x w z ready bytes
  refine ⟨?segment, ?chain, ?pass, ?map, ?signal, ?ends, ?coreYield, ?dmaYield, ?passYield, ?budget, ?accepted, ?refused⟩
  case segment =>
    rintro ⟨hcand, hnow⟩ hk
    refine ⟨_, State.run_eq (segmentReleaseEffect_of_eligible x cause hcand hnow hk), ?_⟩
    intro d c z1 hcore hload
    rw [Dev.wired_core, Dev.noteBreeze_core]
    change (z.startSegment (z.physCore (eDisp y.e) w.lcore) w).core c = _
    rw [hcore]
    exact z.startSegment_core hload
  case chain =>
    exact fun ⟨hcand, hnow⟩ hk h hneed => ⟨fun hidle => State.run_eq (chainReleaseEffect_of_idle x cause hcand hnow hk hneed hidle),
      fun hheld => State.run_eq (chainReleaseEffect_of_held x cause hcand hnow hk hneed hheld)⟩
  case pass =>
    exact fun ⟨hcand, hnow⟩ hk => ⟨fun hskip => State.run_eq (updateReleaseEffect_of_skipped x cause hcand hnow hk hskip),
      fun hrun => State.run_eq (updateReleaseEffect_of_run x cause hcand hnow hk hrun)⟩
  case map =>
    exact fun ⟨hcand, hnow⟩ hk hmap => ⟨fun hslot => State.run_eq (mapSwitchEffect_of_empty x cause hcand hnow hk hmap hslot),
      fun hslot hlive => State.run_eq (mapSwitchEffect_of_calm x cause hcand hnow hk hmap hslot hlive),
      fun hslot hlive => State.run_eq (mapSwitchEffect_of_live x cause hcand hnow hk hmap hslot hlive)⟩
  case signal => exact fun ⟨hcand, hnow⟩ hk => State.run_eq (signalReleaseEffect_of_eligible x cause hcand hnow hk)
  case ends =>
    intro hi
    refine ⟨fun hend hone => ⟨fun hround => State.run_eq ?_, fun hround => State.run_eq ?_⟩,
      fun q cid hend hone => State.run_eq (completionEffect_of_one x hi q cid hend hone),
      fun hend hone => State.run_eq (completionEffect_of_failed x hi hend hone),
      fun q cid hend hone => State.run_eq (completionEffect_of_failed_one x hi q cid hend hone)⟩
    · have hstands : (x.arrived i).doneOf i.work.brz i.work.entry = i.work.round := hround
      rw [completionEffect_of_done x hi hend hone, if_pos hstands]
      rfl
    · have hpast : (x.arrived i).doneOf i.work.brz i.work.entry ≠ i.work.round := hround
      rw [completionEffect_of_done x hi hend hone, if_neg hpast]
      rfl
  case coreYield =>
    rintro c rfl hheld hwant
    exact State.run_eq (breezeYieldEffect_of_core x lag ns c hheld hwant)
  case dmaYield =>
    rintro c rfl hheld hwant
    exact State.run_eq (breezeYieldEffect_of_dma x lag ns c hheld hwant)
  case passYield =>
    rintro d rfl hheld hwant hpause
    exact State.run_eq (breezeYieldEffect_of_update x lag ns d hheld hwant hpause)
  case budget =>
    exact fun hcand hheld htold hsince hfit hlate => State.run_eq (budgetWaitEffect_of_late x hcand hheld htold hsince hfit hlate)
  case accepted => exact fun hfetch hfree hst => State.run_eq (workEntryEffect_of_accepted x hfetch hfree hst)
  case refused => exact fun hfetch hfree hst => State.run_eq (workEntryEffect_of_refused x hfetch hfree hst)
end

section
/-! SUPPORT. Where an HBM address lies: the two HBM windows, the units that rotate over their stacks, and O20 (R234, R235, R236). -/

namespace Sys2Proof.Machine

variable (s : Dev)

/-! ### The HBM windows (R234) -/

theorem Dev.window_eq_home {pa k o : Nat} (h : s.window pa = some (.home k, o)) :
    pa = k * 2 ^ 38 + o ∧ o < 2 ^ 38 ∧ o < 4 * (62 - s.ilv) * gib := by
  unfold Dev.window at h
  split at h
  · dsimp only at h
    split at h
    next hlt =>
      simp only [Option.some.injEq, Prod.mk.injEq, Window.home.injEq] at h
      obtain ⟨rfl, rfl⟩ := h
      exact ⟨by omega, by omega, hlt⟩
    next => cases h
  · repeat' split at h
    all_goals simp at h

theorem Dev.window_eq_inter {pa o : Nat} (h : s.window pa = some (.inter, o)) : pa = 2 ^ 40 + o := by
  unfold Dev.window at h
  split at h
  · dsimp only at h
    split at h <;> simp at h
  next hlo =>
    split at h
    · dsimp only at h
      split at h
      · simp only [Option.some.injEq, Prod.mk.injEq, true_and] at h
        omega
      · cases h
    · repeat' split at h
      all_goals simp at h

/-! ### The stack-local address (R235, R236) -/

/-- A byte's place on its stack: the unit's number there, then the byte's place in its 4 KiB unit. -/
theorem unitAddr_eq_or (o n : Nat) : o / 2 ^ n * 2 ^ 12 + o % 2 ^ 12 = ((o >>> n) <<< 12) ||| (o % 2 ^ 12) := by
  rw [← Nat.shiftLeft_add_eq_or_of_lt (Nat.mod_lt o (by decide)), Nat.shiftLeft_eq, Nat.shiftRight_eq_div_pow]

theorem Dev.stackAddr_of_home {pa k o : Nat} (h : s.window pa = some (.home k, o)) :
    s.stackAddr pa = some (4 * k + o / 2 ^ 12 % 2 ^ 2, o / 2 ^ 14 * 2 ^ 12 + o % 2 ^ 12) := by
  rw [Dev.stackAddr, h]
  rfl

theorem Dev.stackAddr_of_inter {pa o : Nat} (h : s.window pa = some (.inter, o)) :
    s.stackAddr pa = some (o / 2 ^ 12 % 2 ^ 4, (62 - s.ilv) * gib + (o / 2 ^ 16 * 2 ^ 12 + o % 2 ^ 12)) := by
  rw [Dev.stackAddr, h]
  rfl

/-- Only an address of an HBM window lies on a stack. -/
theorem Dev.window_of_stackAddr {pa : Nat} {x : Nat × Nat} (h : s.stackAddr pa = some x) :
    (∃ k o, s.window pa = some (.home k, o)) ∨ ∃ o, s.window pa = some (.inter, o) := by
  unfold Dev.stackAddr at h
  split at h
  next k o hw => exact .inl ⟨k, o, hw⟩
  next o hw => exact .inr ⟨o, hw⟩
  next => cases h

/-- The home windows fill a stack below the interleaved one's share of it. -/
theorem Dev.stackAddr_home_ne_inter {pa pb k o p : Nat} (ha : s.window pa = some (.home k, o)) (hb : s.window pb = some (.inter, p)) :
    s.stackAddr pa ≠ s.stackAddr pb := by
  obtain ⟨-, -, hlt⟩ := s.window_eq_home ha
  rw [s.stackAddr_of_home ha, s.stackAddr_of_inter hb]
  simp only [gib] at hlt ⊢
  intro h
  simp only [Option.some.injEq, Prod.mk.injEq] at h
  omega

/-- Two HBM addresses that name the same byte of the same stack are one. -/
theorem Dev.stackAddr_injective {pa pb : Nat} {x : Nat × Nat} (ha : s.stackAddr pa = some x) (hb : s.stackAddr pb = some x) : pa = pb := by
  have heq : s.stackAddr pa = s.stackAddr pb := ha.trans hb.symm
  rcases s.window_of_stackAddr ha with ⟨k, o, hwa⟩ | ⟨o, hwa⟩ <;> rcases s.window_of_stackAddr hb with ⟨j, p, hwb⟩ | ⟨p, hwb⟩
  · obtain ⟨hpa, -, -⟩ := s.window_eq_home hwa
    obtain ⟨hpb, -, -⟩ := s.window_eq_home hwb
    rw [s.stackAddr_of_home hwa, s.stackAddr_of_home hwb] at heq
    simp only [Option.some.injEq, Prod.mk.injEq] at heq
    omega
  · exact absurd heq (s.stackAddr_home_ne_inter hwa hwb)
  · exact absurd heq.symm (s.stackAddr_home_ne_inter hwb hwa)
  · have hpa := s.window_eq_inter hwa
    have hpb := s.window_eq_inter hwb
    rw [s.stackAddr_of_inter hwa, s.stackAddr_of_inter hwb] at heq
    simp only [Option.some.injEq, Prod.mk.injEq] at heq
    omega

end Sys2Proof.Machine

open Sys2Proof Sys2Proof.Machine

/-- Settles O20: the two windows' addresses are those of their units (`unitAddr_eq_or`), and the place on a stack gives the address back. -/
theorem addressMap : Obligations.AddressMap := by
  unfold Obligations.AddressMap
  refine fun d pa => ⟨fun k o h => ?_, fun o h => ?_, fun pb x => d.stackAddr_injective⟩
  · rw [d.stackAddr_of_home h, unitAddr_eq_or, Nat.shiftRight_eq_div_pow o 12]
    rfl
  · rw [d.stackAddr_of_inter h, unitAddr_eq_or, Nat.shiftRight_eq_div_pow o 12]
    rfl
end

section
/-! SUPPORT. A host access to a line of the HDM window whose page a TLB holds, in undamaged memory, and O21 (R240, R251, R252, R262). -/

namespace Sys2Proof.Machine

/-! ### Undamaged stores are written as they are (R243) -/

section
variable {st : Store} (h : st.chk = [])
include h

theorem Store.bad_of_clean (k a n : Nat) : st.bad k a n = [] := by simp [Store.bad, h]

theorem Store.read_of_clean (k a n : Nat) : st.read k a n = (List.range n).map fun i => st.byte (a + i) := by
  rw [Store.read, Store.bad_of_clean h, Store.correct, Store.raw_eq]

theorem Store.write_of_clean (k a : Nat) (bs : List Byte) :
    st.write k a bs = { st with bytes := Sparse.setAll (always 0) st.bytes (cellsAt a bs) } := by
  simp only [Store.write, Store.bad_of_clean h, Store.correct, chkAfter]

theorem Store.chk_write_of_clean (k a : Nat) (bs : List Byte) : (st.write k a bs).chk = [] := by rw [Store.write_of_clean h, h]

theorem Store.byte_write_inside (k a i : Nat) (bs : List Byte) (b : Byte) (hb : bs[i]? = some b) : (st.write k a bs).byte (a + i) = b := by
  rw [Store.write_of_clean h]
  refine Sparse.get_setAll_of_mem _ _ _ _ ⟨(a + i, b), (mem_cellsAt bs a _).mpr ⟨Nat.le_add_right a i, ?_⟩, rfl⟩ (fun y hy hya => ?_) _
  · rw [Nat.add_sub_cancel_left]
    exact hb
  · obtain ⟨-, hy⟩ := (mem_cellsAt bs a y).mp hy
    rw [hya, Nat.add_sub_cancel_left, hb] at hy
    exact (Option.some.inj hy).symm

theorem Store.byte_write_outside (k a j : Nat) (bs : List Byte) (hj : j < a ∨ a + bs.length ≤ j) : (st.write k a bs).byte j = st.byte j := by
  rw [Store.write_of_clean h]
  refine Sparse.get_setAll_of_not_mem _ _ _ (fun y hy hya => ?_) _
  obtain ⟨hlo, hy⟩ := (mem_cellsAt bs a y).mp hy
  obtain ⟨hlt, -⟩ := List.getElem?_eq_some_iff.mp hy
  omega

theorem Store.read_write_same (k k' a : Nat) (bs : List Byte) : (st.write k a bs).read k' a bs.length = bs := by
  rw [Store.read_of_clean (Store.chk_write_of_clean h k a bs)]
  refine List.ext_getElem (by simp) fun i _ hi => ?_
  rw [List.getElem_map, List.getElem_range]
  exact Store.byte_write_inside h k a i bs _ (List.getElem?_eq_getElem hi)

theorem Store.read_write_apart (k k' a b n : Nat) (bs : List Byte) (hapart : b + n ≤ a ∨ a + bs.length ≤ b) :
    (st.write k a bs).read k' b n = st.read k' b n := by
  rw [Store.read_of_clean (Store.chk_write_of_clean h k a bs), Store.read_of_clean h]
  refine List.map_congr_left fun i hi => Store.byte_write_outside h k a _ bs ?_
  rw [List.mem_range] at hi
  omega

end

/-! ### What an access leaves beside the bytes it writes -/

variable (s : Dev)

/-- The device with bytes written to its memory and nothing else done. -/
def Dev.putBytes (s : Dev) (pa : Nat) (bs : List Byte) : Dev := { s with phys := s.phys.write (cwLen pa) pa bs }

/-- All but counters, transfers on the ring, what has left the block, and which lines the host holds. -/
def Dev.trafficless (s : Dev) : Dev :=
  { s with pmc := Pmc.cold, ring := RingUnit.cold, out := [], hostOut := [], mem := { s.mem with snoop := [] } }

theorem Dev.trafficless_of_ringless {a b : Dev} (h : a.ringless = b.ringless) : a.trafficless = b.trafficless :=
  congrArg (fun d : Dev => { d with out := [], hostOut := [], mem := { d.mem with snoop := [] } }) h

theorem Dev.count_ringless (b e k : Nat) : (s.count b e k).ringless = s.ringless := Dev.ringless_of_uncounted (s.count_uncounted b e k)

@[simp] theorem Dev.carry_ringless (t : Nat) (src : Src) (wr : Bool) (pa n : Nat) : (s.carry t src wr pa n).ringless = s.ringless := by
  unfold Dev.carry
  extract_lets d core counted
  have hcounted : counted.ringless = s.ringless := by
    simp only [counted]
    split
    · exact s.count_ringless _ _ _
    · rfl
  refine (foldl_keeps Dev.ringless _ _ (fun d p _ => ?_) counted).trans hcounted
  split <;> rfl

@[simp] theorem Dev.countBytes_ringless (e ec pa n : Nat) : (s.countBytes e ec pa n).ringless = s.ringless := by
  refine foldl_keeps Dev.ringless _ _ (fun d p _ => ?_) s
  split
  · exact d.count_ringless _ _ _
  · exact d.count_ringless _ _ _
  · rfl

theorem Dev.sendHost_of_up (h : s.que.down = none) (o : Output) : s.sendHost o = { s with out := s.out ++ [o] } := by
  simp [Dev.sendHost, Dev.sendHostFor, h, Dev.send]

theorem Dev.sendHost_trafficless (o : Output) : (s.sendHost o).trafficless = s.trafficless := by
  unfold Dev.sendHost Dev.sendHostFor
  split <;> rfl

theorem Dev.cxlAsk_trafficless (pa : Nat) (f : Option (Nat × Nat) → Nat → Output) : (s.cxlAsk pa f).trafficless = s.trafficless := by
  unfold Dev.cxlAsk
  split
  · dsimp only
    split
    · exact s.sendHost_trafficless _
    · split <;> rfl
  · rfl

theorem Dev.sendHost_out_ringless (o : Output) : (s.ringless.sendHost o).out = (s.sendHost o).out := by
  have hq : s.ringless.que = s.que := rfl
  unfold Dev.sendHost Dev.sendHostFor
  rw [hq]
  split <;> rfl

/-- What is asked of a CXL window goes by the registers and the host port. -/
theorem Dev.cxlAsk_out_of_ringless {a b : Dev} (h : a.ringless = b.ringless) (pa : Nat) (f : Option (Nat × Nat) → Nat → Output) :
    (a.cxlAsk pa f).out = (b.cxlAsk pa f).out := by
  have hout (d : Dev) : (d.ringless.cxlAsk pa f).out = (d.cxlAsk pa f).out := by
    have hw : d.ringless.window pa = d.window pa := rfl
    have hon (g : Fld) : d.ringless.on g = d.on g := rfl
    have hfld (g : Fld) : d.ringless.fld g = d.fld g := rfl
    have hport (n : Nat) : d.ringless.cxlPort n = d.cxlPort n := rfl
    unfold Dev.cxlAsk
    simp only [hw, hon, hfld, hport]
    split
    · split
      · exact d.sendHost_out_ringless _
      · split <;> rfl
    · rfl
  rw [← hout a, ← hout b, h]

theorem Dev.snoopBack_trafficless (pa n : Nat) : (s.snoopBack pa n).trafficless = s.trafficless :=
  (foldl_keeps Dev.trafficless _ _ (fun d _ _ => d.sendHost_trafficless _) _).trans rfl

section
variable {s} (hclean : s.phys.chk = [])
include hclean

/-- A write that merges with no damaged word only takes back the host's copies first. -/
theorem Dev.preWrite_trafficless (cls pa n : Nat) : (s.preWrite cls pa n).trafficless = s.trafficless := by
  have hpart : s.partials pa n = [] := by rw [Dev.partials, Store.bad_of_clean hclean, List.filter_nil]
  rw [Dev.preWrite, hpart]
  exact s.snoopBack_trafficless pa n

theorem Dev.ownWrite_trafficless (pa : Nat) (bs : List Byte) :
    (s.ownWrite pa bs).trafficless = ({ s with phys := s.phys.write 128 pa bs } : Dev).trafficless :=
  congrArg (fun d : Dev => { d with phys := s.phys.write 128 pa bs }) (Dev.preWrite_trafficless hclean 2 pa bs.length)

theorem Dev.physWriteC_trafficless (cls pa : Nat) (bs : List Byte) :
    (s.physWriteC cls pa bs).trafficless = (s.putBytes pa bs).trafficless := by
  have hpre := Dev.preWrite_trafficless hclean cls pa bs.length
  have hcounted := Dev.trafficless_of_ringless ((s.preWrite cls pa bs.length).countBytes_ringless 4 16 pa bs.length)
  exact congrArg (fun d : Dev => { d with phys := s.phys.write (cwLen pa) pa bs })
    ((Dev.cxlAsk_trafficless _ pa _).trans (hcounted.trans hpre))

end

/-! ### The leaf that a held translation marks (R251) -/

/-- What a translation by a held entry goes by, and whether memory is damaged. -/
def Dev.translation (s : Dev) := (s.regs, s.mem.tlbs, s.mem.splits, s.mem.cxlErr, s.phys.chk)

theorem Dev.translation_of_trafficless {a b : Dev} (h : a.trafficless = b.trafficless) : a.translation = b.translation :=
  (congrArg Dev.translation h :)

theorem Dev.leafWord_of_trafficless {a b : Dev} (h : a.trafficless = b.trafficless) (x : Nat) : a.leafWord x = b.leafWord x :=
  (congrArg (fun d : Dev => d.leafWord x) h :)

theorem Dev.phys_of_trafficless {a b : Dev} (h : a.trafficless = b.trafficless) : a.phys = b.phys :=
  (congrArg Dev.phys h :)

theorem Dev.splits_of_trafficless {a b : Dev} (h : a.trafficless = b.trafficless) : a.mem.splits = b.mem.splits :=
  (congrArg (fun d : Dev => d.mem.splits) h :)

theorem Dev.putBytes_of_trafficless {a b : Dev} (h : a.trafficless = b.trafficless) (pa : Nat) (bs : List Byte) :
    (a.putBytes pa bs).trafficless = (b.putBytes pa bs).trafficless :=
  (congrArg (fun d : Dev => d.putBytes pa bs) h :)

section
variable {s} (hclean : s.phys.chk = [])
include hclean

theorem Dev.putLeaf_translation (a : Nat) (w : W64) : (s.putLeaf a w).translation = s.translation := by
  unfold Dev.putLeaf
  split
  · rfl
  · refine (Dev.translation_of_trafficless (Dev.ownWrite_trafficless hclean a _)).trans ?_
    simp only [Dev.translation, Store.chk_write_of_clean hclean, hclean]

theorem Dev.leafWord_putLeaf (a : Nat) (w : W64) : (s.putLeaf a w).leafWord a = w := by
  unfold Dev.putLeaf
  split
  next h => rw [Dev.leafWord, if_pos h, Sparse.get_set_same]
  next h =>
    rw [Dev.leafWord_of_trafficless (Dev.ownWrite_trafficless hclean a _), Dev.leafWord, if_neg h, Dev.physRead]
    have hread := Store.read_write_same hclean 128 (cwLen a) a (natLe 8 w.toNat)
    rw [natLe_length] at hread
    rw [hread, leNat_natLe, Nat.mod_eq_of_lt (by exact w.isLt), BitVec.ofNat_toNat, BitVec.setWidth_eq]

theorem Dev.putLeaf_byte {a j : Nat} (w : W64) (hj : j < a ∨ a + 8 ≤ j) : (s.putLeaf a w).phys.byte j = s.phys.byte j := by
  unfold Dev.putLeaf
  split
  · rfl
  · rw [Dev.phys_of_trafficless (Dev.ownWrite_trafficless hclean a _)]
    exact Store.byte_write_outside hclean 128 a j _ (by rwa [natLe_length])

end

section
variable {s} (hclean : s.phys.chk = [])
include hclean

theorem Dev.putBytes_translation (pa : Nat) (bs : List Byte) : (s.putBytes pa bs).translation = s.translation := by
  simp only [Dev.translation, Dev.putBytes, Store.chk_write_of_clean hclean, hclean]

theorem Dev.leafWord_putBytes {pa a : Nat} {bs : List Byte} (hapart : a + 8 ≤ pa ∨ pa + bs.length ≤ a) :
    (s.putBytes pa bs).leafWord a = s.leafWord a := by
  unfold Dev.leafWord
  split
  · rfl
  · rw [Dev.physRead, Dev.physRead, Dev.putBytes, Store.read_write_apart hclean _ _ _ _ _ _ hapart]

end

/-- The leaf of held entry `e` still maps its page, which is not being moved. -/
def Dev.maps (s : Dev) (e : TlbEnt) : Prop :=
  fld64 (s.leafWord e.leaf) 0 1 = 1 ∧ fld64 (s.leafWord e.leaf) 6 1 = 0 ∧ fld64 (s.leafWord e.leaf) 16 36 * 65536 = e.frame ∧
  !s.isSplit e.leaf (s.leafWord e.leaf)

theorem Dev.touchLeaf_of_maps {e : TlbEnt} (h : s.maps e) (wr : Bool) :
    s.touchLeaf e wr = s.markLeaf e.leaf (s.leafWord e.leaf) wr := if_pos h

theorem Dev.touchLeaf_of_not_maps {e : TlbEnt} (h : ¬ s.maps e) (wr : Bool) : s.touchLeaf e wr = s := if_neg h

/-- A translation leaves the leaf alone or writes its word. -/
theorem Dev.touchLeaf_eq_or (e : TlbEnt) (wr : Bool) : s.touchLeaf e wr = s ∨ ∃ w, s.touchLeaf e wr = s.putLeaf e.leaf w := by
  by_cases h : s.maps e
  · rw [s.touchLeaf_of_maps h]
    unfold Dev.markLeaf
    extract_lets w
    split
    · exact .inl rfl
    · exact .inr ⟨w, rfl⟩
  · exact .inl (s.touchLeaf_of_not_maps h wr)

/-- The leaf of `e`, where it maps the page, has its a bit set. -/
def Dev.Settled (s : Dev) (e : TlbEnt) : Prop := s.maps e → s.leafWord e.leaf ||| 0x10 = s.leafWord e.leaf

/-- A read through `e` then writes nothing. -/
theorem Dev.touchLeaf_of_settled {e : TlbEnt} (h : s.Settled e) : s.touchLeaf e false = s := by
  by_cases hm : s.maps e
  · rw [s.touchLeaf_of_maps hm]
    exact if_pos (h hm)
  · exact s.touchLeaf_of_not_maps hm false

theorem Dev.settled_congr {a b : Dev} {e : TlbEnt} (hw : a.leafWord e.leaf = b.leafWord e.leaf) (hsplits : a.mem.splits = b.mem.splits)
    (h : b.Settled e) : a.Settled e := by
  simpa only [Dev.Settled, Dev.maps, Dev.isSplit, hw, hsplits] using h

section
variable {s} (hclean : s.phys.chk = [])
include hclean

/-- A write through `e` sets a with d. -/
theorem Dev.settled_touchLeaf (e : TlbEnt) : (s.touchLeaf e true).Settled e := by
  have hbits (w : W64) : w ||| 0x30 ||| 0x10 = w ||| 0x30 := BitVec.or_assoc w 0x30 0x10
  by_cases h : s.maps e
  · rw [s.touchLeaf_of_maps h]
    unfold Dev.markLeaf
    simp only [if_true]
    split
    next hset => exact fun _ => by rw [← hset, hbits]
    next => exact fun _ => by rw [Dev.leafWord_putLeaf hclean, hbits]
  · rw [s.touchLeaf_of_not_maps h]
    exact fun hm => absurd hm h

theorem Dev.touchLeaf_translation (e : TlbEnt) (wr : Bool) : (s.touchLeaf e wr).translation = s.translation := by
  rcases s.touchLeaf_eq_or e wr with h | ⟨w, h⟩ <;> rw [h]
  exact Dev.putLeaf_translation hclean e.leaf w

theorem Dev.touchLeaf_byte {e : TlbEnt} (wr : Bool) {j : Nat} (hj : j < e.leaf ∨ e.leaf + 8 ≤ j) :
    (s.touchLeaf e wr).phys.byte j = s.phys.byte j := by
  rcases s.touchLeaf_eq_or e wr with h | ⟨w, h⟩ <;> rw [h]
  exact Dev.putLeaf_byte hclean w hj

end

/-! ### A line of the HDM window (R262) -/

theorem Dev.que_of_beside {a b : Dev} (h : a.beside = b.beside) : a.que = b.que := by
  simp only [Dev.beside, Prod.mk.injEq] at h
  obtain ⟨-, -, -, -, -, -, hque, -⟩ := h
  exact hque

/-- The host reaches line `off` of the HDM window, at `va` in the page of entry `e`, which the TLB of base die 0 holds, and at `pa` of memory,
of which no codeword is damaged. -/
structure Dev.HdmLine (s : Dev) (off va : Nat) (e : TlbEnt) (pa : Nat) : Prop where
  memEn  : s.on hifStatusMemEn = true
  rootEn : s.on memPtRootEn = true
  line   : s.hdmVa off = some va
  held   : (s.tlb 32).find? (fun x => decide (x.va ≤ va) && decide (va < x.va + x.size)) = some e
  place  : e.frame + (va - e.va) = pa
  clean  : s.phys.chk = []
  sound  : s.mem.cxlErr = []

section
variable {s} {off va pa : Nat} {e : TlbEnt}

theorem Dev.HdmLine.of_translation {t : Dev} (h : s.HdmLine off va e pa) (ht : t.translation = s.translation) : t.HdmLine off va e pa := by
  simp only [Dev.translation, Prod.mk.injEq] at ht
  obtain ⟨hregs, htlbs, -, herr, hchk⟩ := ht
  have hfld (f : Fld) : t.fld f = s.fld f := by rw [Dev.fld, Dev.fld, Dev.reg_of_regs hregs]
  exact {
    memEn := (Dev.on_of_fld (hfld _)).trans h.memEn
    rootEn := (Dev.on_of_fld (hfld _)).trans h.rootEn
    line := by rw [Dev.hdmVa, hfld, hfld]; exact h.line
    held := by rw [Dev.tlb, htlbs]; exact h.held
    place := h.place
    clean := hchk.trans h.clean
    sound := herr.trans h.sound }

theorem Dev.HdmLine.wired (old : Dev) (h : s.HdmLine off va e pa) : (old.wired s).HdmLine off va e pa where
  memEn := (old.wired_on s _ (by decide +kernel)).trans h.memEn
  rootEn := (old.wired_on s _ (by decide +kernel)).trans h.rootEn
  line := by
    rw [Dev.hdmVa, old.wired_fld s _ (by decide +kernel), old.wired_fld s _ (by decide +kernel)]
    exact h.line
  held := h.held
  place := h.place
  clean := h.clean
  sound := h.sound

theorem Dev.HdmLine.xlate (h : s.HdmLine off va e pa) {wr : Bool} (hw : wr = true → e.w = true ∧ e.d = true) (src : Src) (cls : Nat) :
    s.xlate (baseTlb 0) src cls va wr = (s.touchLeaf e wr, .ok pa) := by
  have hheld : (s.tlb (baseTlb 0)).find? (fun x => decide (x.va ≤ va) && decide (va < x.va + x.size)) = some e := h.held
  cases wr with
  | false => simp [Dev.xlate, h.rootEn, hheld, h.place]
  | true =>
    obtain ⟨hwr, hd⟩ := hw rfl
    simp [Dev.xlate, h.rootEn, hheld, hwr, hd, h.place]

theorem padTo_of_length {n : Nat} {bs : List Byte} (h : bs.length = n) : padTo n bs = bs := by simp [padTo, ← h]

/-- A host write marks the leaf and writes the line. -/
theorem Dev.HdmLine.hdmWrite (h : s.HdmLine off va e pa) {data : List Byte} (hlen : data.length = 64) (hw : e.w = true) (hd : e.d = true) :
    (s.hdmWrite off data).trafficless = ((s.touchLeaf e true).putBytes pa data).trafficless := by
  have hxs := Dev.touchLeaf_translation h.clean e true
  generalize hxe : s.touchLeaf e true = x at hxs ⊢
  have hx : x.HdmLine off va e pa := h.of_translation hxs
  let y : Dev := { x with mem := { x.mem with snoop := setDel x.mem.snoop (pa / 64 * 64) } }
  have heq : s.hdmWrite off data = (y.carry (baseTlb 0) (pkgSrc 0 4) true pa 64).physWriteC 0 pa data := by
    simp only [Dev.hdmWrite, h.memEn, h.line, h.xlate (fun _ => ⟨hw, hd⟩), hxe, padTo_of_length hlen]
    rfl
  have hcarry : (y.carry (baseTlb 0) (pkgSrc 0 4) true pa 64).trafficless = x.trafficless :=
    (Dev.trafficless_of_ringless (y.carry_ringless _ _ _ _ _)).trans rfl
  have hchk : (y.carry (baseTlb 0) (pkgSrc 0 4) true pa 64).phys.chk = [] := by rw [Dev.phys_of_trafficless hcarry, hx.clean]
  rw [heq, Dev.physWriteC_trafficless hchk]
  exact Dev.putBytes_of_trafficless hcarry pa data

theorem Dev.HdmLine.of_hdmWrite (h : s.HdmLine off va e pa) {data : List Byte} (hlen : data.length = 64) (hw : e.w = true) (hd : e.d = true) :
    (s.hdmWrite off data).HdmLine off va e pa := by
  have hx := Dev.touchLeaf_translation h.clean e true
  refine h.of_translation ((Dev.translation_of_trafficless (h.hdmWrite hlen hw hd)).trans ?_)
  exact (Dev.putBytes_translation (h.of_translation hx).clean pa data).trans hx

/-- A line apart from the leaf leaves it as it was marked. -/
theorem Dev.HdmLine.settled_hdmWrite (h : s.HdmLine off va e pa) {data : List Byte} (hlen : data.length = 64) (hw : e.w = true) (hd : e.d = true)
    (hapart : e.leaf + 8 ≤ pa ∨ pa + 64 ≤ e.leaf) : (s.hdmWrite off data).Settled e := by
  have hwrite := h.hdmWrite hlen hw hd
  have hchk := (h.of_translation (Dev.touchLeaf_translation h.clean e true)).clean
  have hput : ((s.touchLeaf e true).putBytes pa data).Settled e :=
    Dev.settled_congr (Dev.leafWord_putBytes hchk (by rwa [hlen])) rfl (Dev.settled_touchLeaf h.clean e)
  exact Dev.settled_congr (Dev.leafWord_of_trafficless hwrite _) (Dev.splits_of_trafficless hwrite) hput

/-- A host read of a settled line answers what memory holds, behind a request to the target of a CXL window. -/
theorem Dev.HdmLine.hdmRead (h : s.HdmLine off va e pa) (hset : s.Settled e) (hdown : s.que.down = none) (own : Bool) :
    (s.hdmRead off own).out = (s.cxlAsk pa fun via tgt => .cxlRead via tgt 64).out ++ [.memData (s.physRead pa 64) false] ∧
    (s.hdmRead off own).phys = s.phys := by
  have hbad : s.physBad pa 64 = [] := by simp [Dev.physBad, Store.bad_of_clean h.clean, h.sound]
  generalize hy : (s.countBytes 0 15 pa 64).carry (baseTlb 0) (pkgSrc 0 4) false pa 64 = y
  have hringless : y.ringless = s.ringless := by rw [← hy, Dev.carry_ringless, Dev.countBytes_ringless]
  have hout := Dev.cxlAsk_out_of_ringless hringless pa fun via tgt => .cxlRead via tgt 64
  have htraffic := (y.cxlAsk_trafficless pa fun via tgt => .cxlRead via tgt 64).trans (Dev.trafficless_of_ringless hringless)
  generalize hz : (y.cxlAsk pa fun via tgt => .cxlRead via tgt 64) = z at hout htraffic
  have hphys := Dev.phys_of_trafficless htraffic
  have hq : z.que.down = none := (congrArg (fun d : Dev => d.que.down) htraffic :).trans hdown
  have hread : (s.hdmRead off own).out = (z.sendHost (.memData (z.physRead pa 64) false)).out ∧
      (s.hdmRead off own).phys = (z.sendHost (.memData (z.physRead pa 64) false)).phys := by
    simp only [Dev.hdmRead, h.memEn, h.line, h.xlate (wr := false) (by simp), s.touchLeaf_of_settled hset, hbad, Dev.noteAll, List.foldl_nil, hy, hz]
    cases own <;> exact ⟨rfl, rfl⟩
  obtain ⟨hreadOut, hreadPhys⟩ := hread
  rw [hreadOut, hreadPhys, Dev.sendHost_of_up z hq, ← hout, Dev.physRead, Dev.physRead, hphys]
  exact ⟨rfl, rfl⟩

end

end Sys2Proof.Machine

open Sys2Proof Sys2Proof.Machine

/-- Settles O21: the write leaves the leaf marked and the line written (`Dev.HdmLine.hdmWrite`), so that the read writes nothing and answers the line
(`Dev.HdmLine.hdmRead`). -/
theorem hdmReadReturnsWhatWasWritten : Obligations.HdmReadReturnsWhatWasWritten := by
  unfold Obligations.HdmReadReturnsWhatWasWritten
  intro s off data own va e hlen hmem hroot hva hheld hw hd hapart hclean hsound hdown
  generalize hpa : e.frame + (va - e.va) = pa at hapart ⊢
  have hline : s.dev.HdmLine off.toNat va e pa := ⟨hmem, hroot, hva, hheld, hpa, hclean, hsound⟩
  have hchk := (hline.of_translation (Dev.touchLeaf_translation hclean e true)).clean
  let t := { s with dev := s.dev.wired (s.dev.hdmWrite off.toNat data) }
  have hbeside : t.dev.beside = s.dev.beside := s.dev.wired_beside _ (s.dev.hdmWrite_beside _ _)
  have hdown' : t.dev.que.down = none := by rw [Dev.que_of_beside hbeside, hdown]
  obtain ⟨hout, hkept⟩ := ((hline.of_hdmWrite hlen hw hd).wired s.dev).hdmRead (hline.settled_hdmWrite hlen hw hd hapart :) hdown' own
  have hphys : t.dev.phys = ((s.dev.touchLeaf e true).putBytes pa data).phys := (Dev.phys_of_trafficless (hline.hdmWrite hlen hw hd) :)
  have hdata : t.dev.physRead pa 64 = data := by
    rw [← hlen, Dev.physRead, hphys]
    exact Store.read_write_same hchk (cwLen pa) (cwLen pa) pa data
  refine ⟨t, rfl, _, rfl, ?_, (t.dev.wired_beside _ (t.dev.hdmRead_beside _ _)).trans hbeside, fun a haline haleaf => ?_⟩
  · rw [hdata] at hout
    exact hout
  · have hbyte : (t.dev.wired (t.dev.hdmRead off.toNat own)).phys.byte a = ((s.dev.touchLeaf e true).putBytes pa data).phys.byte a := by
      rw [Dev.wired_phys, hkept, hphys]
    exact hbyte.trans ((Store.byte_write_outside hchk (cwLen pa) pa a data (by rwa [hlen])).trans (Dev.touchLeaf_byte hclean true haleaf))
end

section
/-! SUPPORT. The host port's link, its timeout and CXL.cache, and O19 (R262, R272, R293, R484). -/

namespace Sys2Proof.Machine

variable (s : Dev)

/-! ### The link (R272) -/

theorem linkForm_iff (width : Fin 32) (rate : Fin 4) : linkForm width rate = true ↔ width.val ∈ [4, 8, 16] ∧ rate.val ∈ [0, 1, 2] := by
  have hrate : rate.val ≤ 2 ↔ rate.val ∈ [0, 1, 2] := by
    simp only [List.mem_cons, List.not_mem_nil, or_false]
    omega
  simp [linkForm, hrate, or_assoc]

/-- The device once the link has trained: the form shown, what was held sent, in its order. -/
def Dev.linkedUp (s : Dev) (width rate : Nat) (mem : Bool) : Dev :=
  let d := ((s.setFld hifStatusWidth width).setFld hifStatusRate rate).setBit hifStatusMemEn mem
  { d with hostOut := [], out := d.out ++ s.hostOut.map Prod.snd, que := { d.que with down := none } }

theorem hostLinkUpEffect_of_other {width rate : Nat} (h : linkForm width rate = false) (mem : Bool) : hostLinkUpEffect width rate mem s = s := by
  rw [hostLinkUpEffect, h]
  rfl

theorem hostLinkUpEffect_of_form {width rate : Nat} (h : linkForm width rate = true) (mem : Bool) :
    hostLinkUpEffect width rate mem s = (s.linkedUp width rate mem).detect (pkgSrc 0 4) 0x35 0 1 := by
  rw [hostLinkUpEffect, h]
  rfl

/-! ### Held accesses that time out (R484) -/

/-- 1 s after the port went down the held accesses are dropped, and the queue of each is in error. -/
theorem hostPortTimeoutEffect_of_late {t : Nat} (hdown : s.que.down = some t) (ht : t + 1000000000 ≤ s.now 0) :
    hostPortTimeoutEffect s = s.hostOut.foldl (fun d e => match e.1 with
      | some q => d.qError q 3
      | none => d) { s with hostOut := [] } := by
  rw [hostPortTimeoutEffect, hdown]
  exact if_neg (Nat.not_lt.mpr ht)

/-! ### CXL.cache (R293, R484) -/

theorem cxlCacheEffect_eq (en : Bool) :
    cxlCacheEffect en s = { s.setBit hifStatusCacheEn en with
      que := { s.que with lines := [], stale := if en then s.heldLines else [] } } := rfl

end Sys2Proof.Machine

open Sys2Proof Sys2Proof.Machine

/-- Settles O19: each command's effect under the conditions of its clause. -/
theorem hostPortCommands : Obligations.HostPortCommands := by
  unfold Obligations.HostPortCommands
  intro s width rate mem en t
  refine ⟨?other, ?form, linkForm_iff width rate, ?late, ?cache⟩
  case other => exact fun h => State.run_eq (hostLinkUpEffect_of_other s.dev h mem)
  case form => exact fun h => State.run_eq (hostLinkUpEffect_of_form s.dev h mem)
  case late => exact fun hdown ht => State.run_eq (hostPortTimeoutEffect_of_late s.dev hdown ht)
  case cache =>
    refine ⟨_, State.run_eq (cxlCacheEffect_eq s.dev en), ?_, rfl, rfl, rfl⟩
    exact (s.dev.wired_on _ _ (by decide +kernel)).trans (s.dev.on_setBit_same hifStatusCacheEn en rfl (by decide))
end

section
/-! SUPPORT. TLB invalidation, scrub, table walks, HDM accesses and CXL-attached memory, and O22 (R244, R245, R250 to R253, R261, R262, R265). -/

namespace Sys2Proof.Machine

variable (s : Dev)

/-! ### Invalidation (R253, R265) -/

theorem Dev.tlb_setTlb (t k : Nat) (l : List TlbEnt) : (s.setTlb t l).tlb k = if k = t then l else s.tlb k := by
  simp [Dev.tlb, Dev.setTlb, Sparse.get_set]

/-- Every TLB of a list, each filtered by `p`. -/
def Dev.keepTlbs (s : Dev) (p : TlbEnt → Bool) (l : List Nat) : Dev := l.foldl (fun d t => d.setTlb t ((d.tlb t).filter p)) s

theorem Dev.keepTlbs_eq (p : TlbEnt → Bool) (l : List Nat) :
    ∀ s : Dev, s.keepTlbs p l = { s with mem := { s.mem with tlbs := (s.keepTlbs p l).mem.tlbs } } := by
  induction l with
  | nil => exact fun _ => rfl
  | cons t l ih => exact fun s => (ih (s.setTlb t ((s.tlb t).filter p))).trans rfl

theorem Dev.mem_tlb_keepTlbs (p : TlbEnt → Bool) (k : Nat) (e : TlbEnt) (l : List Nat) :
    ∀ s : Dev, e ∈ (s.keepTlbs p l).tlb k ↔ e ∈ s.tlb k ∧ (k ∈ l → p e = true) := by
  induction l with
  | nil => simp [Dev.keepTlbs]
  | cons t l ih =>
    intro s
    refine (ih _).trans ?_
    rw [Dev.tlb_setTlb]
    by_cases hk : k = t
    · subst hk
      simp only [if_true, List.mem_filter, List.mem_cons, true_or, true_implies]
      tauto
    · simp [hk]

/-- The page of an entry lies outside `[lo, hi)`. -/
def TlbEnt.outside (lo hi : Nat) (e : TlbEnt) : Bool := !(decide (e.va < hi) && decide (lo < e.va + e.size))

theorem Dev.dropTlb_eq_keepTlbs (lo hi : Nat) : s.dropTlb lo hi = s.keepTlbs (TlbEnt.outside lo hi) (List.range 36) := rfl

/-- One more invalidation is to complete. -/
def Dev.oweInv (s : Dev) : Dev := { s with mem := { s.mem with invs := s.mem.invs + 1 } }

theorem Dev.oweInv_tlb (k : Nat) : s.oweInv.tlb k = s.tlb k := rfl

/-- The device after an invalidation of `[lo, hi)`, its completion still to come. -/
def Dev.invalidated (s : Dev) (lo hi : Nat) : Dev := (s.keepTlbs (TlbEnt.outside lo hi) (List.range 36)).oweInv

theorem Dev.invalidated_eq (lo hi : Nat) : s.invalidated lo hi = { s with mem := (s.invalidated lo hi).mem } := by
  unfold Dev.invalidated
  rw [Dev.keepTlbs_eq]
  rfl

theorem Dev.invalidated_invs (lo hi : Nat) : (s.invalidated lo hi).mem.invs = s.mem.invs + 1 := by
  unfold Dev.invalidated
  rw [Dev.keepTlbs_eq]
  rfl

/-- A TLB keeps the entries whose page the range does not overlap. -/
theorem Dev.mem_tlb_invalidated (lo hi : Nat) {k : Nat} (hk : k < 36) (e : TlbEnt) :
    e ∈ (s.invalidated lo hi).tlb k ↔ e ∈ s.tlb k ∧ ¬(e.va < hi ∧ lo < e.va + e.size) := by
  rw [Dev.invalidated, Dev.oweInv_tlb, Dev.mem_tlb_keepTlbs]
  simp only [List.mem_range, hk, true_implies, TlbEnt.outside, Bool.not_eq_true', Bool.and_eq_false_iff, decide_eq_false_iff_not, not_and_or]

theorem Dev.wired_of_mem {t : Dev} (h : t = { s with mem := t.mem }) :
    s.wired t = { s with mem := (s.wired t).mem, regs := (s.wired t).regs, sec := (s.wired t).sec } := by
  rw [h]
  rfl

/-- The range that a word written to MEM_TLB_INV names. -/
def invBounds (w : W64) : Nat × Nat :=
  let z := invSize (fld64 w 0 2)
  let lo := fld64 w 16 36 * 65536 / z * z
  if fld64 w 0 2 = 3 then (0, 2 ^ 52) else (lo, lo + z)

/-- A field where the mask has no bit is zero in a word that the mask covers. -/
theorem fld64_of_uncovered {w m : W64} {lo n : Nat} (h : w &&& ~~~m = 0) (hz : bitMask lo n &&& m = 0) : fld64 w lo n = 0 := by
  have hzero : w.extractLsb' lo n = 0 := by
    apply BitVec.eq_of_getLsbD_eq
    intro i hi
    have hbit := congrArg (fun x => x.getLsbD (lo + i)) hz
    simp only [BitVec.getLsbD_and, bitMask_get] at hbit
    rw [← and_eq_self_of_and_not h, BitVec.getLsbD_extractLsb', BitVec.getLsbD_and]
    by_cases hlt : lo + i < 64
    · have hm : m.getLsbD (lo + i) = false := by simpa [hi, hlt] using hbit
      simp [hm]
    · simp [BitVec.getLsbD_of_ge w (lo + i) (Nat.le_of_not_lt hlt)]
  rw [fld64_eq, hzero]
  rfl

theorem tlbInvalidateEffect_of_covered {w : W64} (h : w &&& ~~~fieldBits 0x3010 = 0) :
    tlbInvalidateEffect w s = s.invalidated (invBounds w).1 (invBounds w).2 := by
  have hlow : fld64 w 2 14 = 0 := fld64_of_uncovered h (by decide +kernel)
  have hhigh : fld64 w 52 12 = 0 := fld64_of_uncovered h (by decide +kernel)
  unfold tlbInvalidateEffect invBounds Dev.invalidated
  simp only [hlow, hhigh, bne_self_eq_false, Bool.or_self, Bool.false_eq_true, if_false, Dev.dropTlb_eq_keepTlbs]
  split <;> rfl

theorem tlbDoneEffect_of_pending (h : s.mem.invs ≠ 0) :
    tlbDoneEffect s = ({ s with mem := { s.mem with invs := s.mem.invs - 1 } } : Dev).addFld memTlbDoneDone 1 := if_neg h

/-! ### Scrub (R244, R245) -/

section
variable {s} {pa cw : Nat} (hcw : cw = pa / 128 * 128) (hon : s.fld memHealthCtlScrubH ≠ 0) (hhbm : s.inHbm cw = true)
include hcw hon hhbm

theorem scrubEffect_of_corrected {p x : Nat} {l : List (Nat × Ecc)} (hbad : s.phys.bad 128 cw 128 = (cw, .corrected p x) :: l) :
    scrubEffect pa s =
      ({ s.snoopBack cw 128 with phys := s.phys.write 128 cw (s.physRead cw 128) } : Dev).noteWord 0 cw (.corrected p x) := by
  simp [scrubEffect, ← hcw, hon, hhbm, hbad]

theorem scrubEffect_of_uncorr {l : List (Nat × Ecc)} (hbad : s.phys.bad 128 cw 128 = (cw, .uncorr) :: l) :
    scrubEffect pa s = if s.mem.scrubLog.contains cw then s
      else ({ s with mem := { s.mem with scrubLog := setAdd s.mem.scrubLog cw } } : Dev).noteWord 2 cw .uncorr := by
  simp [scrubEffect, ← hcw, hon, hhbm, hbad]

end

/-! ### Table walks (R250, R252) -/

/-- The entry put into a TLB is in it. -/
theorem Dev.mem_tlb_tlbFill (t : Nat) (e : TlbEnt) : e ∈ (s.tlbFill t e).tlb t := by
  unfold Dev.tlbFill Dev.fresh
  extract_lets l
  split <;> simp [Dev.tlb_setTlb]

/-- A walk reads no counter. -/
theorem Dev.walkFrom_of_uncounted (p : Pmc) (va : Nat) (wr : Bool) (l : List Level) :
    ∀ tab, ({ s with pmc := p } : Dev).walkFrom va wr l tab = s.walkFrom va wr l tab := by
  have hhbm (a : Nat) : ({ s with pmc := p } : Dev).inHbm a = s.inHbm a := rfl
  have hbad (a n : Nat) : ({ s with pmc := p } : Dev).physBad a n = s.physBad a n := rfl
  have hread (a n : Nat) : ({ s with pmc := p } : Dev).physRead a n = s.physRead a n := rfl
  have hsplit (a : Nat) (e : W64) : ({ s with pmc := p } : Dev).isSplit a e = s.isSplit a e := rfl
  have hentry (a i : Nat) (e : W64) : ({ s with pmc := p } : Dev).splitEntry a i e = s.splitEntry a i e := rfl
  have hwindow (a : Nat) : ({ s with pmc := p } : Dev).window a = s.window a := rfl
  have hframe (a : Nat) : ({ s with pmc := p } : Dev).frameBacked a = s.frameBacked a := rfl
  have hleaf (a size : Nat) (e : W64) : ({ s with pmc := p } : Dev).leafAnswer a size e wr = s.leafAnswer a size e wr := by
    simp only [Dev.leafAnswer, Dev.pageBacked, hwindow, hframe]
    rfl
  induction l with
  | nil => exact fun _ => rfl
  | cons lv l ih => exact fun tab => by simp only [Dev.walkFrom, ih, hhbm, hbad, hread, hsplit, hentry, hleaf]

theorem Dev.walk_count (b e k va : Nat) (wr : Bool) : (s.count b e k).walk va wr = s.walk va wr := by
  rw [Dev.eq_of_uncounted (s.count_uncounted b e k), Dev.walk, Dev.walk, Dev.walkFrom_of_uncounted]
  rfl

/-- A walk that finds a leaf fills the TLB with its page. -/
theorem Dev.walkFill_of_leaf {t va a frame size : Nat} {x : W64} {wr : Bool} (h : s.walk va wr = .leaf a frame size x) (src : Src) (cls : Nat) :
    ∃ d : Dev, (s.walkFill t src cls va wr).1 =
      d.tlbFill t ⟨va / size * size, size, frame, fld64 x 2 1 == 1, wr || fld64 x 5 1 == 1, a⟩ := by
  unfold Dev.walkFill
  extract_lets counted w noted
  have hw : w = .leaf a frame size x := by
    refine Eq.trans ?_ h
    simp only [w, counted]
    split <;> exact s.walk_count _ _ _ _ _
  clear_value w
  subst hw
  exact ⟨_, rfl⟩

/-! ### HDM accesses (R245, R262) -/

section
variable {s} {d : Dev} {off v p : Nat} (hm : s.on hifStatusMemEn = true) (hv : s.hdmVa off = some v)
include hm hv

theorem Dev.hdmRead_of_ok (hx : s.xlate (baseTlb 0) (pkgSrc 0 4) 0 v false = (d, .ok p)) (own : Bool) :
    s.hdmRead off own =
      (let b := ((d.noteAll 0 (d.physBad p 64)).countBytes 0 15 p 64).carry (baseTlb 0) (pkgSrc 0 4) false p 64
       let b := b.cxlAsk p fun via tgt => .cxlRead via tgt 64
       let b := b.sendHost (.memData (b.physRead p 64) (worst (d.physBad p 64)).lost)
       if own then { b with mem := { b.mem with snoop := setAdd b.mem.snoop (p / 64 * 64) } } else b) := by
  simp only [Dev.hdmRead, hm, hv, hx]
  rfl

theorem Dev.hdmWrite_of_ok (hx : s.xlate (baseTlb 0) (pkgSrc 0 4) 0 v true = (d, .ok p)) (data : List Byte) :
    s.hdmWrite off data =
      ((({ d with mem := { d.mem with snoop := setDel d.mem.snoop (p / 64 * 64) } } : Dev).carry (baseTlb 0) (pkgSrc 0 4) true p
        64).physWriteC 0 p (padTo 64 data)) := by
  simp only [Dev.hdmWrite, hm, hv, hx]
  rfl

end

/-! ### CXL-attached memory (R261) -/

theorem cxlCompletionEffect_of_window {pa n o : Nat} (h : s.window pa = some (.cxl n, o)) (data : List Byte) (ok : Bool) :
    cxlCompletionEffect pa data ok s =
      (let ls := linesOf pa data.length
       if ok then { s with phys := s.phys.write 64 pa data, mem := { s.mem with cxlErr := s.mem.cxlErr.filter (!ls.contains ·) } }
       else { s with mem := { s.mem with cxlErr := ls.foldl setAdd s.mem.cxlErr } }) := by
  rw [cxlCompletionEffect, h]

end Sys2Proof.Machine

open Sys2Proof Sys2Proof.Machine

/-- Settles O22: each command's effect under the conditions of its clause; what the TLBs hold after an invalidation is `Dev.mem_tlb_invalidated`,
after a walk `Dev.mem_tlb_tlbFill`. -/
theorem memoryCommands : Obligations.MemoryCommands := by
  unfold Obligations.MemoryCommands
  intro s d w pa T va wr own ok off data
  refine ⟨?invalidate, ?done, ?corrected, ?uncorr, ?walk, ?hdm, ?cxl⟩
  case invalidate =>
    intro hw
    have heff := tlbInvalidateEffect_of_covered s.dev hw
    have hinvs := s.dev.invalidated_invs (invBounds w).1 (invBounds w).2
    have heq := s.dev.invalidated_eq (invBounds w).1 (invBounds w).2
    have htlb {k : Nat} := s.dev.mem_tlb_invalidated (invBounds w).1 (invBounds w).2 (k := k)
    generalize s.dev.invalidated (invBounds w).1 (invBounds w).2 = y at heff hinvs heq htlb
    refine ⟨_, State.run_eq heff, hinvs, fun k hk e => (htlb hk e).trans (and_congr_right fun _ => ?_), s.dev.wired_of_mem heq⟩
    unfold invBounds
    dsimp only
    split <;> rfl
  case done => exact fun h => State.run_eq (tlbDoneEffect_of_pending s.dev h)
  case corrected => exact fun cw p x l hcw hon hhbm hbad => State.run_eq (scrubEffect_of_corrected hcw hon hhbm hbad)
  case uncorr =>
    intro cw l hcw hon hhbm hbad
    have heff := scrubEffect_of_uncorr hcw hon hhbm hbad
    exact ⟨fun hnew => State.run_eq (heff.trans (if_neg (by simpa using hnew))),
      fun hold => State.run_eq (heff.trans (if_pos (by simpa using hold)))⟩
  case walk =>
    intro a frame size x h
    obtain ⟨y, hy⟩ := s.dev.walkFill_of_leaf (t := T) h (tlbSrc T) 0
    have hin := y.mem_tlb_tlbFill T ⟨va.toNat / size * size, size, frame, fld64 x 2 1 == 1, wr || fld64 x 5 1 == 1, a⟩
    rw [← hy] at hin
    exact ⟨_, rfl, hin, s.dev.wired_beside _ (s.dev.walkFill_beside _ _ _ _ _)⟩
  case hdm =>
    exact fun v p hm hv => ⟨fun hx => State.run_eq (s := s) (f := fun d => d.hdmRead off.toNat own) (Dev.hdmRead_of_ok hm hv hx own),
      fun hx => State.run_eq (s := s) (f := fun d => d.hdmWrite off.toNat data) (Dev.hdmWrite_of_ok hm hv hx data)⟩
  case cxl => exact fun n o h => State.run_eq (cxlCompletionEffect_of_window s.dev h data ok)
end

section
/-! SUPPORT. The pager's drains, page moves and sweeps, and O23 (R247, R248, R255, R256, R257). -/

namespace Sys2Proof.Machine

variable (s : Dev)

/-! ### Drains (R247, R248, R313) -/

/-- Pseudo-channel `pc` of `stack` retires: fenced, no longer draining; the FENCE that waited for it completes. -/
def Dev.retired (s : Dev) (stack pc : Nat) : Dev :=
  let b := s.setFld (memPcFencedFenced.nth stack) (s.fld (memPcFencedFenced.nth stack) + 2 ^ pc)
  let b := b.setFld (memPcDrainDrain.nth stack) (b.fld (memPcDrainDrain.nth stack) - 2 ^ pc)
  let mine (c : RunCmd) : Bool := c.what == .drain stack pc
  (b.job.cmds.filter mine).foldl (fun y c => y.complete c.q c.cid c.quiet 0 0)
    (({ b with job := { b.job with cmds := b.job.cmds.filter fun c => !mine c } } : Dev).drainGoes stack pc)

/-- A drain that may run and moves all its pages retires its pseudo-channel. -/
theorem pcDrainEffect_of_moved {stack pc : Nat} {dsts : List Nat} {d : Dev} (hdrain : bit (s.fld (memPcDrainDrain.nth stack)) pc = true)
    (hon : s.on memPagerCtlEn = true) (hidle : s.mem.move = none) (hturn : s.drainBehind stack pc = false)
    (hmoved : (s.pagerReads.drainPool stack pc).drainMoves stack pc ((s.pagerReads.drainPool stack pc).pagesOn stack pc) dsts = (d, true)) :
    pcDrainEffect stack pc dsts s = d.retired stack pc := by
  simp only [pcDrainEffect, hdrain, hon, hidle, hturn, hmoved]
  rfl

/-- A page of the drain has no frame of its window in the pool. -/
theorem Dev.any_drainNeeds {stack pc v f : Nat} {w : Window} (hv : v ∈ s.pagesOn stack pc) (hf : s.frameAt v = some f)
    (hw : s.frameWindow f = some w) (hnone : ∀ g ∈ s.poolFrames, s.frameOn stack pc g = false → s.frameWindow g ≠ some w) :
    (s.drainNeeds stack pc).any (!((s.poolFrames.filter (!s.frameOn stack pc ·)).filterMap s.frameWindow).contains ·) = true := by
  have hneed : w ∈ s.drainNeeds stack pc := List.mem_filterMap.mpr ⟨v, hv, by rw [hf]; exact hw⟩
  have hmissing : w ∉ (s.poolFrames.filter (!s.frameOn stack pc ·)).filterMap s.frameWindow := fun hin => by
    obtain ⟨g, hg, hgw⟩ := List.mem_filterMap.mp hin
    obtain ⟨hpool, hoff⟩ := List.mem_filter.mp hg
    exact hnone g hpool (by simpa using hoff) hgw
  exact List.any_eq_true.mpr ⟨w, hneed, by simpa using hmissing⟩

/-- The first time a draining pseudo-channel has no frame for a page. -/
theorem drainStalledEffect_of_stalled {stack pc : Nat} (hdrain : bit (s.fld (memPcDrainDrain.nth stack)) pc = true)
    (hneed : (s.drainNeeds stack pc).any (!((s.poolFrames.filter (!s.frameOn stack pc ·)).filterMap s.frameWindow).contains ·) = true)
    (hnew : 64 * stack + pc ∉ s.mem.stalled) :
    drainStalledEffect stack pc s =
      ({ s with mem := { s.mem with stalled := setAdd s.mem.stalled (64 * stack + pc) } } : Dev).detect
        (pkgSrc s.pkg.lead 6) 0x07 2 (pc + 64 * stack) := by
  have hcontains : s.mem.stalled.contains (64 * stack + pc) = false := by simpa using hnew
  simp only [drainStalledEffect, hdrain, hneed, hcontains]
  rfl

/-! ### Page moves (R255) -/

/-- The pager's first half of a move: the free frames of the channels that drain leave the pool, then the page's leaf is marked. -/
theorem pageMoveEffect_of_begin {v dst org : Nat} {y m : Dev} {z l : Leaf} (hidle : s.mem.move = none) (hon : s.on memPagerCtlEn = true)
    (hfree : s.poolFree dst = true) (hy : s.undoMove.pagerReads = y)
    (hleaf : y.leaves.find? (fun x => decide (x.va ≤ v) && decide (v < x.va + x.size)) = some z)
    (horg : (if y.drainOk z v dst then some 0 else y.spillOk z v dst) = some org)
    (hsmall : ((if y.drainOk z v dst then y.drainsOf (z.frameOf v) else []).foldl (fun y t => (y.drainPool t.1 t.2).drainGoes t.1 t.2) y).smallLeaf v =
      (m, some l))
    (hstill : fld64 l.ent 6 1 = 0) : pageMoveEffect v dst false s = m.moveBegin l dst org := by
  have hmv : ¬fld64 l.ent 6 1 = 1 := by omega
  simp only [pageMoveEffect, hidle, hon, hfree, hy, hleaf, horg, hsmall, hmv]
  rfl

theorem pageMoveEffect_of_finish {m : Move} (h : s.mem.move = some m) (v dst : Nat) :
    pageMoveEffect v dst true s = (s.moveEnd m (s.onDraining m.src)).hdmResume := by
  rw [pageMoveEffect, if_pos rfl, h]

/-! ### Sweeps (R256) -/

theorem pagerSweepEffect_of_enabled (hon : s.on memPagerCtlEn = true) (hspill : s.on memPagerCtlSpillEn = true) (hidle : s.mem.move = none)
    (moves : List (Nat × Nat)) :
    pagerSweepEffect moves s =
      (let b := moves.foldl Dev.sweepMove s.undoMove.pagerReads
       b.leaves.foldl (fun x l => if l.pinned || !l.accessed then x else x.putLeaf l.addr (putBits l.ent 4 1 0)) b) := by
  simp only [pagerSweepEffect, hon, hspill, hidle]
  rfl

end Sys2Proof.Machine

open Sys2Proof Sys2Proof.Machine

/-- Settles O23: each command's effect under the conditions of its clause; a page without a frame in the pool is what stalls a drain
(`Dev.any_drainNeeds`). -/
theorem pagerCommands : Obligations.PagerCommands := by
  unfold Obligations.PagerCommands
  intro s d stack pc dsts va dst moves
  refine ⟨?drain, ?stall, ?start, ?finish, ?sweep⟩
  case drain =>
    exact fun hdrain hon hidle hturn hmoved => State.run_eq (pcDrainEffect_of_moved s.dev hdrain hon hidle hturn hmoved)
  case stall =>
    rintro hdrain hnew ⟨v, hv, f, w, hf, hw, hnone⟩
    exact State.run_eq (drainStalledEffect_of_stalled s.dev hdrain (s.dev.any_drainNeeds hv hf hw hnone) hnew)
  case start =>
    intro l m z org hidle hon v to_ y hfree hleaf horg w hsmall hstill
    exact State.run_eq (pageMoveEffect_of_begin s.dev hidle hon hfree rfl hleaf horg hsmall hstill)
  case finish => exact fun m h => State.run_eq (pageMoveEffect_of_finish s.dev h _ _)
  case sweep => exact fun hon hspill hidle => State.run_eq (pagerSweepEffect_of_enabled s.dev hon hspill hidle moves)
end

section
/-! SUPPORT. What every step keeps, and O4 and O7 (R278, R493). -/

namespace Sys2Proof.Machine

variable (s : Dev)

/-- Whatever a step asks of the registers, those of the device as it follows hold no reserved bit (R278). -/
theorem Dev.wired_reservedZero (t : Dev) : ReservedZero (s.wired t) := by
  intro o
  rw [Dev.wired_reg, BitVec.and_assoc, BitVec.and_not_self]
  exact BitVec.and_zero

/-- The fuses keep the number of owner slots (R493). -/
theorem Sec.fuses_slots_length (a b : Sec) : (a.fuses b).slots.length = a.slots.length := by simp [Sec.fuses]

theorem Dev.wired_eightSlots (t : Dev) (h : EightSlots s) : EightSlots (s.wired t) := (Sec.fuses_slots_length s.sec t.sec).trans h

end Sys2Proof.Machine

open Sys2Proof Sys2Proof.Machine

/-- Settles O4: every command is an effect on the device alone (`exec_run`). -/
theorem everyCommandAnswers : Obligations.EveryCommandAnswers := by
  unfold Obligations.EveryCommandAnswers
  intro c s
  obtain ⟨f, hf⟩ := exec_run c
  exact ⟨{ s with dev := s.dev.wired (f s.dev) }, hf s, rfl⟩

/-- Settles O7: every step is an effect followed by what the silicon gives (`step_run`), which stores no reserved bit and keeps the owner
slots. -/
theorem everyStepKeepsInv : Obligations.EveryStepKeepsInv := by
  unfold Obligations.EveryStepKeepsInv
  rintro s t ⟨-, slots⟩ hstep
  obtain ⟨f, hf⟩ := step_run s
  cases hf.symm.trans hstep
  exact ⟨s.dev.wired_reservedZero _, s.dev.wired_eightSlots _ slots⟩
end

section
/-! SUPPORT. A register write that breaks a rule, and O12 (R278, R288, R498). -/

namespace Sys2Proof.Machine

variable (s : Dev)

/-! ### What HIF_VIOL shows (R278) -/

theorem Dev.violation_lastOff (off : Nat) (wr : Bool) : (s.violation off wr).fld hifViolLastOff = off % 2 ^ 16 := by
  unfold Dev.violation Dev.setBit
  rw [Dev.fld_setFld_other _ _ _ _ (by decide), Dev.fld_setFld_same _ _ _ (by decide)]
  rfl

theorem Dev.violation_lastWr (off : Nat) (wr : Bool) : (s.violation off wr).on hifViolLastWr = wr :=
  Dev.on_setBit_same _ hifViolLastWr wr rfl (by decide)

/-! ### A write that is not served, and one that breaks a rule -/

section
variable {s} {off size : Nat} {session : Option Nat} (data : W64) (host : List Byte)

theorem regWriteEffect_of_unserved (hs : s.hostServes session = false) : regWriteEffect off size data session host s = s := by
  rw [regWriteEffect, hs]
  rfl

/-- An illegal size, or an offset not aligned to it (R278). -/
theorem regWriteEffect_of_form (hs : s.hostServes session = true) (h : ¬(size = 4 ∨ size = 8) ∨ off % size ≠ 0) :
    regWriteEffect off size data session host s = s.violation off true := by
  unfold regWriteEffect
  rw [hs]
  exact if_pos (h.imp_left fun hsize => by simp [hsize])

variable (hs : s.hostServes session = true) (hsize : size = 4 ∨ size = 8) (halign : off % size = 0)
include hs hsize halign

/-- Words 0 to 3 of the context of a queue that is not disabled (R288). -/
theorem regWriteEffect_of_enabledQueue (hlo : 0x2040 ≤ off / 8 * 8) (hhi : off / 8 * 8 < 0x2060) (hstate : (s.qctx s.selQueue).state ≠ 0) :
    regWriteEffect off size data session host s = s.violation off true := by
  have hword : (s.qctx s.selQueue).state ≠ 0#2 := hstate
  simp [regWriteEffect, hs, hsize, halign, hlo, hhi, hword]

/-- Words 4 to 7 of a queue context (R288). -/
theorem regWriteEffect_of_counts (hlo : 0x2060 ≤ off / 8 * 8) (hhi : off / 8 * 8 < 0x2080) :
    regWriteEffect off size data session host s = s.violation off true := by
  have hctx : ¬off / 8 * 8 < 0x2060 := by omega
  simp [regWriteEffect, hs, hsize, halign, hctx, hlo, hhi]

/-- No register stands there, or one without a writable field (R7, R278). -/
theorem regWriteEffect_of_unwritable (hctx : ¬(0x2040 ≤ off / 8 * 8 ∧ off / 8 * 8 < 0x2060))
    (hreg : regAt (off / 8 * 8) = none ∨ ∃ r, regAt (off / 8 * 8) = some r ∧ r.writable = false) :
    regWriteEffect off size data session host s = s.violation off true := by
  by_cases hcounts : 0x2060 ≤ off / 8 * 8 ∧ off / 8 * 8 < 0x2080
  · exact regWriteEffect_of_counts data host hs hsize halign hcounts.1 hcounts.2
  · rcases hreg with hnone | ⟨r, hr, hw⟩
    · simp [regWriteEffect, hs, hsize, halign, hctx, hcounts, hnone]
    · rw [s.regWriteEffect_of_regAt off size data session host r hs hsize halign hr (by omega), Dev.writeReg, hw]
      rfl

end

end Sys2Proof.Machine

open Sys2Proof Sys2Proof.Machine

/-- Settles O12: a write that is not served changes nothing (`regWriteEffect_of_unserved`), one that breaks a rule is a violation by the first
rule that it breaks, and HIF_VIOL shows it. -/
theorem registerWriteViolations : Obligations.RegisterWriteViolations := by
  unfold Obligations.RegisterWriteViolations
  intro s off size data session host
  refine ⟨?unserved, ?breaks, s.dev.violation_count _ _, ?lastOff, s.dev.violation_lastWr _ _⟩
  case unserved => exact fun hs => State.run_eq (regWriteEffect_of_unserved data host hs)
  case lastOff => exact (s.dev.violation_lastOff _ _).trans (Nat.mod_eq_of_lt off.isLt)
  case breaks =>
    intro hs hbad
    refine State.run_eq (f := regWriteEffect off.toNat size data session host) ?_
    by_cases hform : ¬(size = 4 ∨ size = 8) ∨ off.toNat % size ≠ 0
    · exact regWriteEffect_of_form data host hs hform
    · obtain ⟨hsize, halign⟩ := not_or.mp hform
      rw [not_not] at hsize halign
      rcases hbad with hbad | hbad | ⟨hlo, hhi⟩ | ⟨hlo, hhi, hstate⟩ | ⟨hctx, hreg⟩
      · exact absurd hsize hbad
      · exact absurd halign hbad
      · exact regWriteEffect_of_counts data host hs hsize halign hlo hhi
      · exact regWriteEffect_of_enabledQueue data host hs hsize halign hlo hhi hstate
      · exact regWriteEffect_of_unwritable data host hs hsize halign hctx hreg
end

section
/-! SUPPORT. What setting a queue context, an error of a queue and its signal change (R284, R288, R290, R302). -/

namespace Sys2Proof.Machine

variable (s : Dev)

/-! ### A queue context is set -/

@[simp] theorem Dev.wired_qctx (t : Dev) (q : Nat) : (s.wired t).qctx q = t.qctx q := rfl

/-- QTB_STATUS alone follows the contexts (R284). -/
theorem Dev.qErrShow_eq : s.qErrShow = { s with regs := s.qErrShow.regs } := by unfold Dev.qErrShow; split <;> rfl

theorem Dev.setQ_eq (q : Nat) (c : QCtx) : s.setQ q c =
    { s with regs := (s.setQ q c).regs, que := { s.que with ctx := Sparse.set (always QCtx.cold) s.que.ctx q c } } := by
  unfold Dev.setQ
  extract_lets was que put
  split
  · exact put.qErrShow_eq
  · rfl

@[simp] theorem Dev.setQ_que (q : Nat) (c : QCtx) :
    (s.setQ q c).que = { s.que with ctx := Sparse.set (always QCtx.cold) s.que.ctx q c } := by rw [Dev.setQ_eq]

theorem Dev.qctx_setQ (q p : Nat) (c : QCtx) : (s.setQ q c).qctx p = if p = q then c else s.qctx p := by
  rw [Dev.qctx, Dev.setQ_que]
  exact Sparse.get_set _ _ _ _ _

@[simp] theorem Dev.qctx_setQ_same (q : Nat) (c : QCtx) : (s.setQ q c).qctx q = c := by rw [Dev.qctx_setQ, if_pos rfl]

theorem Dev.qctx_setQ_other {q p : Nat} (hp : p ≠ q) (c : QCtx) : (s.setQ q c).qctx p = s.qctx p := by rw [Dev.qctx_setQ, if_neg hp]

/-- The busy bit stands apart from what QTB_STATUS shows of the contexts. -/
@[simp] theorem Dev.qErrShow_busy : s.qErrShow.on qtbStatusBusy = s.on qtbStatusBusy := by
  have apart (d : Dev) (b : Bool) (n : Nat) : ((d.setBit qtbStatusErrAny b).setFld qtbStatusErrQ n).on qtbStatusBusy = d.on qtbStatusBusy := by
    rw [Dev.on, Dev.fld_setFld_other _ _ _ _ (by decide), ← Dev.on, Dev.on_setBit_other _ _ _ _ (by decide)]
  unfold Dev.qErrShow
  split <;> exact apart _ _ _

@[simp] theorem Dev.setQ_busy (q : Nat) (c : QCtx) : (s.setQ q c).on qtbStatusBusy = s.on qtbStatusBusy := by
  unfold Dev.setQ
  extract_lets was que put
  split
  · exact put.qErrShow_busy
  · rfl

/-! ### Messages and signals -/

/-- A vector is sent, held with the port down, or becomes pending (R302, R484). -/
theorem Dev.msix_eq (v : Nat) : s.msix v =
    { s with que := { s.que with msixPnd := (s.msix v).que.msixPnd }, out := (s.msix v).out, hostOut := (s.msix v).hostOut } := by
  unfold Dev.msix Dev.sendHost Dev.sendHostFor
  split
  · rfl
  · split <;> rfl

theorem Dev.qErrSignal_eq : s.qErrSignal =
    { s with que := { s.que with msixPnd := s.qErrSignal.que.msixPnd }, out := s.qErrSignal.out, hostOut := s.qErrSignal.hostOut } := by
  unfold Dev.qErrSignal
  split
  · exact s.msix_eq _
  · rfl

@[simp] theorem Dev.qctx_qErrSignal (p : Nat) : s.qErrSignal.qctx p = s.qctx p := by rw [Dev.qErrSignal_eq]; rfl

@[simp] theorem Dev.qErrSignal_busy : s.qErrSignal.on qtbStatusBusy = s.on qtbStatusBusy := by rw [Dev.qErrSignal_eq]; rfl

/-! ### An error of a queue (R290) -/

theorem Dev.qctx_qError_other {q p : Nat} (hp : p ≠ q) (code : Nat) : (s.qError q code).qctx p = s.qctx p := by
  unfold Dev.qError
  extract_lets c
  split
  · rfl
  · split
    · exact s.qctx_setQ_other hp _
    · exact (Dev.qctx_qErrSignal _ p).trans (s.qctx_setQ_other hp _)

/-- An enabled queue keeps its counts; the error stands in its context, at once or while what runs of it completes. -/
theorem Dev.qctx_qError_of_enabled {q : Nat} (h : (s.qctx q).state = 1) (code : Nat) :
    ((s.qError q code).qctx q).host = (s.qctx q).host ∧ ((s.qError q code).qctx q).err = BitVec.ofNat 8 code := by
  unfold Dev.qError
  extract_lets c
  rw [if_neg (not_not.mpr h)]
  split
  · rw [Dev.qctx_setQ_same]
    exact ⟨rfl, rfl⟩
  · rw [Dev.qctx_qErrSignal, Dev.qctx_setQ_same]
    exact ⟨rfl, rfl⟩

end Sys2Proof.Machine
end

section
/-! SUPPORT. A doorbell line, slot by slot, and O17 (R287, R290, R293, R294, R305). -/

namespace Sys2Proof.Machine

variable (s : Dev)

/-! ### A slot reaches its queue -/

theorem Dev.qctx_takeSlot_other {q p : Nat} (hp : p ≠ q) (v : W64) : (s.takeSlot q v).qctx p = s.qctx p := by
  unfold Dev.takeSlot
  extract_lets c
  repeat' split
  · rfl
  · exact s.qctx_qError_other hp 2
  · exact s.qctx_qError_other hp 1
  · exact s.qctx_setQ_other hp _
  · exact s.qctx_qError_other hp 1
  · exact s.qctx_setQ_other hp _

theorem Dev.takeSlot_of_dead {q : Nat} (h : (s.qctx q).live = false) (v : W64) : s.takeSlot q v = s := by
  rw [Dev.takeSlot, h]
  rfl

section
variable {q : Nat} {v : W64} (hlive : (s.qctx q).live = true)
include hlive

theorem Dev.takeSlot_of_back (h : v.toNat < (s.qctx q).host.toNat) : s.takeSlot q v = s.qError q 2 := by
  rw [Dev.takeSlot, hlive]
  exact if_pos h

/-- A count that does not fall and stays within the ring, or not beyond the device's count (R287, R290). -/
theorem Dev.takeSlot_of_within (h : (s.qctx q).host.toNat ≤ v.toNat)
    (hring : if (s.qctx q).isSub then v.toNat ≤ (s.qctx q).dev.toNat + (s.qctx q).size else v.toNat ≤ (s.qctx q).dev.toNat) :
    s.takeSlot q v = s.setQ q { s.qctx q with host := v } := by
  have hback : ¬v.toNat < (s.qctx q).host.toNat := Nat.not_lt.mpr h
  cases hsub : (s.qctx q).isSub with
  | true =>
    have hover : ¬(s.qctx q).dev.toNat + (s.qctx q).size < v.toNat := by simpa [hsub] using hring
    simp [Dev.takeSlot, hlive, hback, hsub, hover]
  | false =>
    have hover : ¬(s.qctx q).dev.toNat < v.toNat := by simpa [hsub] using hring
    simp [Dev.takeSlot, hlive, hback, hsub, hover]

end

/-! ### The slots of a line -/

/-- Slots of other queues leave a queue's context alone. -/
theorem Dev.qctx_takeSlots_other (key : Nat → Nat) (val : Nat → W64) (l : List Nat) {p : Nat} (hp : ∀ i ∈ l, p ≠ key i) (d : Dev) :
    (l.foldl (fun d i => d.takeSlot (key i) (val i)) d).qctx p = d.qctx p :=
  foldl_keeps (fun d : Dev => d.qctx p) _ l (fun d i hi => d.qctx_takeSlot_other (hp i hi) (val i)) d

theorem Dev.qctx_takeLine_other (line : Nat) (data : List Byte) {p : Nat} (hp : p / 8 ≠ line) :
    (s.takeLine line data).qctx p = s.qctx p := by
  refine Dev.qctx_takeSlots_other _ _ _ (fun i hi => ?_) s
  have : i < 8 := List.mem_range.mp hi
  omega

/-- Of a line, a queue's context takes its own slot alone. -/
theorem Dev.qctx_takeLine_own (line : Nat) (data : List Byte) {i : Nat} (hi : i < 8) :
    ∃ d : Dev, d.qctx (8 * line + i) = s.qctx (8 * line + i) ∧
      (s.takeLine line data).qctx (8 * line + i) = (d.takeSlot (8 * line + i) (BitVec.ofNat 64 (leAt data (8 * i) 8))).qctx (8 * line + i) := by
  have hmem : i ∈ List.range 8 := List.mem_range.mpr hi
  have hnodup := List.nodup_range (n := 8)
  obtain ⟨before, after, hsplit⟩ := List.append_of_mem hmem
  rw [hsplit, List.nodup_middle, List.nodup_cons, List.mem_append, not_or] at hnodup
  obtain ⟨⟨hbefore, hafter⟩, -⟩ := hnodup
  have apart {l : List Nat} (hl : i ∉ l) : ∀ j ∈ l, 8 * line + i ≠ 8 * line + j := fun j hj h => hl (by rwa [Nat.add_left_cancel h])
  rw [Dev.takeLine, hsplit, List.foldl_append, List.foldl_cons]
  exact ⟨_, Dev.qctx_takeSlots_other _ _ _ (apart hbefore) s, Dev.qctx_takeSlots_other _ _ _ (apart hafter) _⟩

/-- The device when the line's copy is taken, before its slots. -/
def Dev.lineRead (s : Dev) (line : Nat) : Dev :=
  { s with que := { s.que with
      stale := setDel s.que.stale line,
      lines := if s.caching && s.lineHeld line then setAdd s.que.lines line else s.que.lines } }

theorem doorbellLineEffect_of_unpaused (h : s.pausedUnit ⟨.hostPort, 0⟩ = false) (line : Nat) (data : List Byte) :
    doorbellLineEffect line data s = (s.lineRead line).takeLine line data := by
  rw [doorbellLineEffect, h]
  rfl

end Sys2Proof.Machine

open Sys2Proof Sys2Proof.Machine

/-- Settles O17: of a line a queue takes its own slot alone (`Dev.qctx_takeLine_own`), and a slot does what the queue's counts allow. -/
theorem doorbellLineReachesItsQueue : Obligations.DoorbellLineReachesItsQueue := by
  unfold Obligations.DoorbellLineReachesItsQueue
  intro s line data i _ hunpaused q v c
  refine ⟨_, State.run_eq (doorbellLineEffect_of_unpaused s.dev hunpaused line data), ?_⟩
  simp only [Dev.wired_qctx]
  obtain ⟨d, hd, htaken⟩ := (s.dev.lineRead line).qctx_takeLine_own line data i.isLt
  have hc : d.qctx q = c := hd
  have hown : ((s.dev.lineRead line).takeLine line data).qctx q = (d.takeSlot q v).qctx q := htaken
  rw [hown, ← hc]
  refine ⟨fun hlive hge hring => ?within, fun hdead => ?dead, fun hlive hlt => ?back, fun p hp => ?others⟩
  case within => rw [d.takeSlot_of_within hlive hge hring, Dev.qctx_setQ_same]
  case dead => rw [d.takeSlot_of_dead hdead]
  case back =>
    have henabled : (d.qctx q).state = 1 := by
      simp only [QCtx.live, Bool.and_eq_true, beq_iff_eq] at hlive
      exact hlive.1
    rw [d.takeSlot_of_back hlive hlt]
    exact d.qctx_qError_of_enabled henabled 2
  case others => exact (s.dev.lineRead line).qctx_takeLine_other line data hp
end

section
/-! SUPPORT. Enable, disable and reset of a queue of which nothing runs, and O16 (R288, R289, R304). -/

namespace Sys2Proof.Machine

variable (s : Dev)

/-! ### An operation that is refused, and an enable (R289) -/

theorem queueEnableEffect_of_refused (h : s.on qtbStatusBusy = true ∨ s.enableOk s.selQueue = false) (slot : W64) :
    queueEnableEffect slot s = s.setBit qtbStatusRefused true := by
  unfold queueEnableEffect
  exact if_pos (by simpa using h)

/-- The queue is enabled, its doorbell line cached where lines are, its slot read. -/
theorem queueEnableEffect_of_ok (hbusy : s.on qtbStatusBusy = false) (hok : s.enableOk s.selQueue = true) (slot : W64) :
    queueEnableEffect slot s =
      (let d := s.setQ s.selQueue { s.qctx s.selQueue with state := 1 }
       if d.caching then { d with que := { d.que with lines := setAdd d.que.lines (s.selQueue / 8) } } else d).takeSlot s.selQueue slot := by
  unfold queueEnableEffect
  exact if_neg (by simp [hbusy, hok])

theorem queueDisableEffect_of_refused (h : s.on qtbStatusBusy = true ∨ s.cqNamed s.selQueue = true) :
    queueDisableEffect s = s.setBit qtbStatusRefused true := by
  unfold queueDisableEffect
  exact if_pos (by simpa using h)

theorem queueResetEffect_of_refused (h : s.on qtbStatusBusy = true ∨ s.cqNamed s.selQueue = true) :
    queueResetEffect s = s.setBit qtbStatusRefused true := by
  unfold queueResetEffect
  exact if_pos (by simpa using h)

/-! ### An operation begins and ends -/

/-- Operation `k` on queue `q` is under way, and QTB_STATUS shows it. -/
def Dev.opBegun (s : Dev) (q k : Nat) : Dev := { s with que := { s.que with op := some (q, k) } }.setBit qtbStatusBusy true

/-- No operation is under way any more. -/
def Dev.opEnded (s : Dev) : Dev := { s with que := { s.que with op := none } }.setBit qtbStatusBusy false

/-- What a disable that has ended leaves: a queue that was stopping for an error enters the error state, one in it stays there, any other one
is disabled (R289, R290). -/
def Dev.disabled (s : Dev) (q : Nat) : Dev :=
  let c := s.qctx q
  if c.state = 2 ∨ c.err ≠ 0 then if c.state = 1 ∧ c.err ≠ 0 then (s.setQ q { c with state := 2 }).qErrSignal else s
  else s.setQ q { c with state := 0 }

/-- What a reset that has ended leaves (R289, R304). -/
def Dev.queueCleared (s : Dev) (q : Nat) : Dev :=
  { s with que := { s.que with held := s.que.held.filter fun m => m.sq != q && m.cq != q } }.setQ q (s.qctx q).afterReset

theorem Dev.qSettle_of_busy {q : Nat} (h : s.qBusy q = true) : s.qSettle q = s := by
  unfold Dev.qSettle
  exact if_pos (by simp [h])

section
variable {q : Nat} (hbusy : s.qBusy q = false) (howes : s.owes q = false)
include hbusy howes

/-- On a queue of which nothing runs and that owes nothing an operation ends at once. -/
theorem Dev.qSettle_opBegun (k : Nat) :
    (s.opBegun q k).qSettle q = if k = 3 then (s.opBegun q k).opEnded.queueCleared q else (s.opBegun q k).opEnded.disabled q := by
  have hidle : ¬((s.opBegun q k).qBusy q || (s.opBegun q k).owes q) = true := fun h => by
    have hrest : (s.qBusy q || s.owes q) = true := h
    simp [hbusy, howes] at hrest
  unfold Dev.qSettle
  rw [if_neg hidle]
  exact if_pos rfl

end

@[simp] theorem Dev.opEnded_busy : s.opEnded.on qtbStatusBusy = false := Dev.on_setBit_same _ qtbStatusBusy false rfl (by decide)

/-! ### Disable -/

theorem queueDisableEffect_of_free (hop : s.on qtbStatusBusy = false) (hcq : s.cqNamed s.selQueue = false) :
    queueDisableEffect s = (s.opBegun s.selQueue 2).qSettle s.selQueue := by
  unfold queueDisableEffect
  exact if_neg (by simp [hop, hcq])

/-- What neither a context nor an error signal changes, a disable leaves alone. -/
theorem Dev.disabled_keeps {α : Type} (g : Dev → α) (q : Nat) (hset : ∀ d c, g (d.setQ q c) = g d) (hsignal : ∀ d : Dev, g d.qErrSignal = g d) :
    g (s.disabled q) = g s := by
  unfold Dev.disabled
  extract_lets c
  split
  · split
    · exact (hsignal _).trans (hset s _)
    · rfl
  · exact hset s _

theorem Dev.qctx_disabled_of_clean {q : Nat} (hstate : (s.qctx q).state ≠ 2) (herr : (s.qctx q).err = 0) :
    (s.disabled q).qctx q = { s.qctx q with state := 0 } := by
  unfold Dev.disabled
  extract_lets c
  rw [if_neg (not_or.mpr ⟨hstate, not_not.mpr herr⟩), Dev.qctx_setQ_same]

theorem Dev.disabled_of_error {q : Nat} (hstate : (s.qctx q).state = 2) : s.disabled q = s := by
  unfold Dev.disabled
  extract_lets c
  have hnot : ¬(c.state = 1 ∧ c.err ≠ 0) := fun h => absurd (hstate.symm.trans h.1) (by decide)
  rw [if_pos (.inl hstate), if_neg hnot]

/-- The device without registers, queues and what has left or is to leave it: what a disable leaves alone. -/
def Dev.queueless (s : Dev) : Dev := { s with regs := Dev.cold.regs, que := QueueUnit.cold, out := [], hostOut := [] }

theorem Dev.eq_of_queueless {s t : Dev} (h : t.queueless = s.queueless) :
    t = { s with regs := t.regs, que := t.que, out := t.out, hostOut := t.hostOut } := by
  have hparts : ({ t.queueless with regs := t.regs, que := t.que, out := t.out, hostOut := t.hostOut } : Dev) =
    { s.queueless with regs := t.regs, que := t.que, out := t.out, hostOut := t.hostOut } := by rw [h]
  exact hparts

theorem Dev.disabled_queueless (q : Nat) : (s.disabled q).queueless = s.queueless :=
  s.disabled_keeps Dev.queueless q (fun d c => by rw [Dev.setQ_eq]; rfl) fun d => by rw [Dev.qErrSignal_eq]; rfl

theorem Dev.disabled_op (q : Nat) : (s.disabled q).que.op = s.que.op :=
  s.disabled_keeps (fun d => d.que.op) q (fun d c => by rw [Dev.setQ_que]) fun d => by rw [Dev.qErrSignal_eq]

theorem Dev.disabled_held (q : Nat) : (s.disabled q).que.held = s.que.held :=
  s.disabled_keeps (fun d => d.que.held) q (fun d c => by rw [Dev.setQ_que]) fun d => by rw [Dev.qErrSignal_eq]

theorem Dev.disabled_busy (q : Nat) : (s.disabled q).on qtbStatusBusy = s.on qtbStatusBusy :=
  s.disabled_keeps (fun d => d.on qtbStatusBusy) q (fun d c => d.setQ_busy q c) fun d => d.qErrSignal_busy

theorem Dev.qctx_disabled_other {q p : Nat} (hp : p ≠ q) : (s.disabled q).qctx p = s.qctx p :=
  s.disabled_keeps (fun d => d.qctx p) q (fun d c => d.qctx_setQ_other hp c) fun d => d.qctx_qErrSignal p

/-! ### Reset -/

/-- The one-off entries of queue `q` that wait are dropped; a DMA queue has none. -/
def Dev.onesDropped (s : Dev) (q : Nat) : Dev :=
  if (s.qctx q).kind = 2 then s else { s with disp := { s.disp with ones := s.disp.ones.filter fun o => o.q != q } }

theorem Dev.onesDropped_eq (q : Nat) : s.onesDropped q = { s with disp := (s.onesDropped q).disp } := by
  unfold Dev.onesDropped
  split <;> rfl

/-- Of a queue with nothing fetched, only one-off entries that wait are aborted. -/
theorem Dev.abortUnstarted_of_idle {q : Nat} (h : s.qBusy q = false) : s.abortUnstarted q = s.onesDropped q := by
  have hnone : ∀ e ∈ s.que.run, ¬e.q = q := by simpa [Dev.qBusy] using h
  have hmine : (s.que.run.filter fun e => e.q == q) = [] := List.filter_eq_nil_iff.mpr fun e he => by simpa using hnone e he
  unfold Dev.abortUnstarted Dev.onesDropped
  extract_lets mine fail chan que disp aborting
  have hrun : s.que.run.map fail = s.que.run :=
    (List.map_congr_left fun e he => if_neg fun hown => hnone e he hown.1).trans (List.map_id' _)
  rw [show mine = [] from hmine]
  split
  · rfl
  · show aborting = _
    simp only [aborting, hrun]
    rfl

/-- The held completions of queue `q` and for it are dropped (R304). -/
def Dev.heldDropped (s : Dev) (q : Nat) : Dev := { s with que := { s.que with held := s.que.held.filter fun m => m.sq != q && m.cq != q } }

/-- What the queue's signal and its incomplete chain had counted is forgotten. -/
def Dev.countsForgotten (s : Dev) (q : Nat) : Dev :=
  { s with que := { s.que with fresh := Sparse.set (always ⟨0, 0⟩) s.que.fresh q ⟨0, 0⟩, short := Sparse.set (always 0) s.que.short q 0 } }

/-- What a reset of a queue drops before the operation is under way, where nothing of the queue has been fetched. -/
def Dev.resetDrops (s : Dev) (q : Nat) : Dev := ((s.heldDropped q).onesDropped q).countsForgotten q

theorem Dev.resetDrops_eq (q : Nat) : s.resetDrops q =
    { s with disp := (s.resetDrops q).disp, que := ((s.heldDropped q).countsForgotten q).que } := by
  unfold Dev.resetDrops
  rw [Dev.onesDropped_eq]
  rfl

/-- A reset of a queue of which nothing runs and that owes nothing. -/
theorem queueResetEffect_of_idle (hop : s.on qtbStatusBusy = false) (hcq : s.cqNamed s.selQueue = false)
    (hbusy : s.qBusy s.selQueue = false) (howes : s.owes s.selQueue = false) :
    queueResetEffect s = ((s.resetDrops s.selQueue).opBegun s.selQueue 3).opEnded.queueCleared s.selQueue := by
  have hdropsBusy : (s.resetDrops s.selQueue).qBusy s.selQueue = false := by rw [Dev.resetDrops_eq]; exact hbusy
  have hdropsOwes : (s.resetDrops s.selQueue).owes s.selQueue = false := by rw [Dev.resetDrops_eq]; exact howes
  have hsettle := (s.resetDrops s.selQueue).qSettle_opBegun hdropsBusy hdropsOwes 3
  rw [if_pos rfl] at hsettle
  rw [← hsettle, Dev.resetDrops, ← Dev.abortUnstarted_of_idle (s.heldDropped s.selQueue) hbusy]
  unfold queueResetEffect
  exact if_neg (by simp [hop, hcq])

theorem Dev.queueCleared_eq (q : Nat) : s.queueCleared q =
    { s with
      regs := (s.queueCleared q).regs,
      que := { s.que with
        held := s.que.held.filter (fun m => m.sq != q && m.cq != q),
        ctx := Sparse.set (always QCtx.cold) s.que.ctx q (s.qctx q).afterReset } } := by
  unfold Dev.queueCleared
  rw [Dev.setQ_eq]

@[simp] theorem Dev.queueCleared_busy (q : Nat) : (s.queueCleared q).on qtbStatusBusy = s.on qtbStatusBusy := Dev.setQ_busy _ q _

theorem Dev.qctx_queueCleared (q p : Nat) : (s.queueCleared q).qctx p = if p = q then (s.qctx q).afterReset else s.qctx p :=
  Dev.qctx_setQ _ q p _

end Sys2Proof.Machine

open Sys2Proof Sys2Proof.Machine

/-- Settles O16: an operation on a queue of which nothing runs and that owes nothing begins and ends at once (`Dev.qSettle_opBegun`), and leaves
what a disable (`Dev.disabled`) or a reset (`Dev.queueCleared`) leaves. -/
theorem queueOperations : Obligations.QueueOperations := by
  unfold Obligations.QueueOperations
  intro s slot q
  have hbusyBit : bitMask qtbStatusBusy.lo qtbStatusBusy.width &&& fieldBits qtbStatusBusy.off = bitMask qtbStatusBusy.lo qtbStatusBusy.width := by
    decide +kernel
  refine ⟨?enable, ?enableRefused, ?refused, fun hop hcq hbusy howes => ⟨?disable, ?reset⟩, ?waits⟩
  case enable => exact fun hop hok => State.run_eq (queueEnableEffect_of_ok s.dev hop hok slot)
  case enableRefused => exact fun h => State.run_eq (queueEnableEffect_of_refused s.dev h slot)
  case refused => exact fun h => ⟨State.run_eq (queueDisableEffect_of_refused s.dev h), State.run_eq (queueResetEffect_of_refused s.dev h)⟩
  case disable =>
    have heff : queueDisableEffect s.dev = (s.dev.opBegun q 2).opEnded.disabled q :=
      (queueDisableEffect_of_free s.dev hop hcq).trans ((s.dev.qSettle_opBegun hbusy howes 2).trans (if_neg (by decide)))
    refine ⟨_, State.run_eq heff, ?_⟩
    simp only [Dev.wired_qctx, Dev.wired_que]
    refine ⟨?op, fun hstate herr => ?clean, fun hstate => ?error, ?busy, fun p hp => ?others, ?held, ?rest⟩
    case op => exact Dev.disabled_op _ q
    case clean => exact Dev.qctx_disabled_of_clean _ hstate herr
    case error =>
      have herror := Dev.disabled_of_error (s.dev.opBegun q 2).opEnded hstate
      rw [herror]
      rfl
    case busy => rw [Dev.wired_on _ _ _ hbusyBit, Dev.disabled_busy, Dev.opEnded_busy]
    case others => exact Dev.qctx_disabled_other _ hp
    case held => exact Dev.disabled_held _ q
    case rest =>
      have hrest := Dev.eq_of_queueless (s := s.dev) (Dev.disabled_queueless (s.dev.opBegun q 2).opEnded q)
      rw [hrest]
      rfl
  case reset =>
    refine ⟨_, State.run_eq (queueResetEffect_of_idle s.dev hop hcq hbusy howes), ?_⟩
    simp only [Dev.wired_qctx, Dev.wired_que, Dev.qctx_queueCleared]
    have hdrops := s.dev.resetDrops_eq q
    refine ⟨?ctx, ?op, ?busy, fun p hp => ?others, ?held, ?rest⟩
    case ctx => rw [if_pos rfl, hdrops]; rfl
    case op => rw [Dev.queueCleared_eq]; rfl
    case busy => rw [Dev.wired_on _ _ _ hbusyBit, Dev.queueCleared_busy, Dev.opEnded_busy]
    case others => rw [if_neg hp, hdrops]; rfl
    case held =>
      rw [Dev.queueCleared_eq, hdrops]
      exact List.filter_filter.trans (List.filter_congr fun m _ => Bool.and_self _)
    case rest =>
      rw [Dev.queueCleared_eq, hdrops]
      rfl
  case waits => exact fun hop hcq hbusy => State.run_eq ((queueDisableEffect_of_free s.dev hop hcq).trans (Dev.qSettle_of_busy _ hbusy))
end

section
/-! SUPPORT. Snoop, poll, fetch, held completions, MSI-X delay and mask, and O18 (R293, R295, R301 to R304). -/

namespace Sys2Proof.Machine

variable (s : Dev)

/-! ### Snoop and poll (R293) -/

theorem doorbellSnoopEffect_of_cached {line : Nat} (h : line ∈ s.que.lines) : doorbellSnoopEffect line s =
    { s with que := { s.que with lines := setDel s.que.lines line, stale := setAdd s.que.stale line } } :=
  if_pos (List.contains_iff_mem.mpr h)

theorem doorbellPollEffect_of_uncached (h : s.caching = false) :
    doorbellPollEffect s = { s with que := { s.que with stale := s.heldLines } } := by
  rw [doorbellPollEffect, h]
  rfl

/-! ### The fetch (R295, R301) -/

/-- What a ring in host memory gives with the port up. -/
theorem Dev.ringRead_of_host {q : Nat} (hloc : (s.qctx q).loc = false) (hdown : s.que.down = none) (data : List Byte) :
    s.ringRead q data false = (s, some data) := by
  rw [Dev.ringRead, hloc, hdown]
  rfl

theorem headerStatus_of_good {kind : Nat} {e : List Byte} (hop : opcodeDefined kind (leAt e 0 1) = true)
    (hflags : reservedFlags (leAt e 1 1) = false) (hzero : leAt e 4 4 = 0) : headerStatus kind e = none := by
  simp [headerStatus, hop, hflags, hzero]

/-- Where the front entry of queue `q` is to run, none completes for its header (R295). -/
theorem Dev.drainBad_of_running {q : Nat} (h : ∀ e ∈ s.que.run, e.q = q → e.fail = none) (n : Nat) : s.drainBad q n = s := by
  cases n with
  | zero => rfl
  | succ n =>
    unfold Dev.drainBad
    split
    next e he =>
      have hfail : e.fail = none := h e (List.mem_of_find?_eq_some he) (by simpa using List.find?_some he)
      rw [hfail]
    next => rfl

/-- The next entry of a queue joins those fetched. -/
def Dev.entryTaken (s : Dev) (q : Nat) (e : List Byte) : Dev :=
  { s with que := { s.que with
      run := s.que.run ++ [⟨q, (s.qctx q).dev.toNat + (s.que.run.filter (·.q == q)).length, e, false, none⟩] } }

theorem Dev.takeEntry_of_good {q : Nat} {data : List Byte} (hkind : (s.qctx q).kind ≠ 2)
    (hhead : headerStatus (s.qctx q).kind (padTo 64 data) = none) (hrun : ∀ e ∈ s.que.run, e.q = q → e.fail = none) :
    s.takeEntry q data = some (s.entryTaken q (padTo 64 data)) := by
  have htaken : ∀ e ∈ (s.entryTaken q (padTo 64 data)).que.run, e.q = q → e.fail = none := by
    intro e he hq
    rcases List.mem_append.mp he with hold | hnew
    · exact hrun e hold hq
    · rw [List.mem_singleton.mp hnew]
  have hbusy : (s.entryTaken q (padTo 64 data)).qBusy q = true := by simp [Dev.qBusy, Dev.entryTaken]
  unfold Dev.takeEntry
  extract_lets c x n que add e bad
  rw [if_neg hkind]
  rw [show bad = none from hhead]
  exact congrArg some ((congrArg (Dev.qSettle · q) (Dev.drainBad_of_running _ htaken _)).trans (Dev.qSettle_of_busy _ hbusy))

/-- Arbitration has given queue `q` of class `cls` its start: turn and round robin of resource `r` go on behind it (R301). -/
def Dev.startCounted (s : Dev) (r : Resource) (cls used q : Nat) : Dev :=
  { s with que := { s.que with
      rr := Sparse.set (always 0) s.que.rr (resourceNo r) (512 * cls + used + 1),
      served := Sparse.set (always 0) s.que.served (resourceNo r * 8 + cls) (q + 1) } }

theorem submissionFetchEffect_of_taken {r : Resource} {data bs : List Byte} {failed : Bool} {cls used q : Nat} {d y : Dev}
    (hheld : s.fetchHeld r = false)
    (harb : s.arbitrate r 9 (Sparse.get (always 0) s.que.rr (resourceNo r) / 512) (Sparse.get (always 0) s.que.rr (resourceNo r) % 512) =
      some (cls, used, q))
    (hring : s.ringRead q data failed = (d, some bs)) (htake : d.takeEntry q bs = some y) :
    submissionFetchEffect r data failed s = y.startCounted r cls used q := by
  unfold submissionFetchEffect
  extract_lets rr
  rw [hheld, harb]
  simp only [Bool.false_eq_true, if_false, hring, htake]
  rfl

/-! ### Completions and signals (R302, R304) -/

theorem completionPostEffect_of_held (howed : s.que.owed = []) {m : Cpl} {l : List Cpl} (hpick : s.pickHeld s.que.held = some (m, l)) :
    completionPostEffect s = ({ s with que := { s.que with held := l } } : Dev).putCpl m := by
  rw [completionPostEffect, s.payOwed_of_none howed, hpick]

theorem msixAggregationEffect_of_due {q : Nat} (hint : (s.qctx q).intEn = true) (hagg : (s.qctx q).aggUs ≠ 0) (hfresh : (s.freshOf q).n ≠ 0)
    (hdue : (s.freshOf q).since + 1000 * (s.qctx q).aggUs ≤ s.now 0) :
    msixAggregationEffect q s = (s.setFresh q ⟨0, 0⟩).qMessage q (s.qctx q).vec :=
  if_pos ⟨hint, hagg, hfresh, hdue⟩

/-! ### Pending vectors (R302) -/

@[simp] theorem Dev.sendHost_que (o : Output) : (s.sendHost o).que = s.que := by
  unfold Dev.sendHost Dev.sendHostFor
  split <;> rfl

/-- Vector `v` is masked, of itself or with the function. -/
abbrev Dev.msixMasked (s : Dev) (v : Nat) : Prop := s.que.fnMask = true ∨ v ∈ s.que.masked

/-- The pending bit of vector `v` is cleared. -/
def Dev.pendingCleared (s : Dev) (v : Nat) : Dev := { s with que := { s.que with msixPnd := setDel s.que.msixPnd v } }

theorem Dev.flushMsix_cons (v : Nat) (l : List Nat) : s.flushMsix (v :: l) =
    if s.msixMasked v then s.flushMsix l else ((s.pendingCleared v).msix v).flushMsix l := by
  rw [Dev.flushMsix]
  exact if_congr (by simp) rfl rfl

/-- A vector that is not masked is sent, which the queues do not show. -/
theorem Dev.msix_que_of_unmasked {v : Nat} (h : ¬s.msixMasked v) : ((s.pendingCleared v).msix v).que = (s.pendingCleared v).que := by
  have hsends : ¬((s.pendingCleared v).que.fnMask || (s.pendingCleared v).que.masked.contains v) = true := by
    simpa [Dev.pendingCleared] using h
  unfold Dev.msix
  rw [if_neg hsends, Dev.sendHost_que]

theorem mem_setDel (l : List Nat) (v x : Nat) : x ∈ setDel l v ↔ x ∈ l ∧ x ≠ v := by simp [setDel]

/-- Of the queues, sending pending vectors changes the pending bits alone. -/
theorem Dev.flushMsix_que (l : List Nat) : ∀ s : Dev, (s.flushMsix l).que = { s.que with msixPnd := (s.flushMsix l).que.msixPnd } := by
  induction l with
  | nil => exact fun _ => rfl
  | cons v l ih =>
    intro s
    rw [Dev.flushMsix_cons]
    split
    next => exact ih s
    next hopen =>
      have hsent := ih ((s.pendingCleared v).msix v)
      rwa [s.msix_que_of_unmasked hopen] at hsent

/-- Of the pending vectors, those of the list that are not masked are sent. -/
theorem Dev.mem_flushMsix_pending (x : Nat) (l : List Nat) :
    ∀ s : Dev, x ∈ (s.flushMsix l).que.msixPnd ↔ x ∈ s.que.msixPnd ∧ (s.msixMasked x ∨ x ∉ l) := by
  induction l with
  | nil => intro s; simp [Dev.flushMsix]
  | cons v l ih =>
    intro s
    rw [Dev.flushMsix_cons, List.mem_cons, not_or]
    split
    next hmasked =>
      rw [ih]
      by_cases hx : x = v
      · simp [hx, hmasked]
      · simp [hx]
    next hopen =>
      have hpending : x ∈ ((s.pendingCleared v).msix v).que.msixPnd ↔ x ∈ s.que.msixPnd ∧ x ≠ v := by
        rw [s.msix_que_of_unmasked hopen]
        exact mem_setDel _ v x
      have hmask : ((s.pendingCleared v).msix v).msixMasked x ↔ s.msixMasked x := by
        rw [Dev.msixMasked, s.msix_que_of_unmasked hopen]
        exact Iff.rfl
      rw [ih, hpending, hmask]
      by_cases hx : x = v
      · simp [hx, hopen]
      · simp [hx]

/-- After every pending vector of the device has been looked at, those left are masked. -/
theorem Dev.masked_of_mem_flushMsix {x : Nat} (h : x ∈ (s.flushMsix s.que.msixPnd).que.msixPnd) :
    (s.flushMsix s.que.msixPnd).que.fnMask = true ∨ x ∈ (s.flushMsix s.que.msixPnd).que.masked := by
  obtain ⟨hpending, hmasked | hnot⟩ := (s.mem_flushMsix_pending x _).mp h
  · rw [Dev.flushMsix_que]
    exact hmasked
  · exact absurd hpending hnot

/-- A write to the MSI-X table or the function mask, before what it unmasks is sent (R302). -/
def Dev.maskWritten (s : Dev) : MaskOp → Dev
  | .vector v m => { s with que := { s.que with masked := if m then setAdd s.que.masked v.val else setDel s.que.masked v.val } }
  | .entry v addr data => { s with que := { s.que with
      vecAddr := Sparse.set (always 0) s.que.vecAddr v.val addr, vecData := Sparse.set (always 0) s.que.vecData v.val data } }
  | .function m => { s with que := { s.que with fnMask := m } }

theorem msixMaskEffect_eq (op : MaskOp) : msixMaskEffect op s = (s.maskWritten op).flushMsix (s.maskWritten op).que.msixPnd := by
  cases op <;> rfl

theorem Dev.mem_masked_maskWritten (v : Fin 2048) (m : Bool) : v.val ∈ (s.maskWritten (.vector v m)).que.masked ↔ m = true := by
  cases m with
  | true => exact iff_of_true ((mem_setAdd _ _ _).mpr (.inl rfl)) rfl
  | false => exact iff_of_false (fun h => ((mem_setDel _ _ _).mp h).2 rfl) Bool.false_ne_true

end Sys2Proof.Machine

open Sys2Proof Sys2Proof.Machine

/-- Settles O18: each command's effect under the conditions of its clause; what a mask change leaves pending is masked
(`Dev.mem_flushMsix_pending`). -/
theorem queueCommands : Obligations.QueueCommands := by
  unfold Obligations.QueueCommands
  intro s line r data cls used q m l n op
  refine ⟨?snoop, ?poll, ?fetch, ?ring, ?post, ?delay, ?mask⟩
  case snoop => exact fun h => State.run_eq (doorbellSnoopEffect_of_cached s.dev h)
  case poll => exact fun h => State.run_eq (doorbellPollEffect_of_uncached s.dev h)
  case fetch =>
    intro hheld harb hloc hkind hdown hop hflags hzero hrun
    have htake := s.dev.takeEntry_of_good hkind (headerStatus_of_good hop hflags hzero) hrun
    exact State.run_eq (submissionFetchEffect_of_taken s.dev hheld harb (s.dev.ringRead_of_host hloc hdown data) htake)
  case ring =>
    intro d y bs failed hheld harb hring htake
    exact State.run_eq (submissionFetchEffect_of_taken s.dev hheld harb hring htake)
  case post => exact fun howed hpick => State.run_eq (completionPostEffect_of_held s.dev howed hpick)
  case delay => exact fun hint hagg hfresh hdue => State.run_eq (msixAggregationEffect_of_due s.dev hint hagg hfresh hdue)
  case mask =>
    refine ⟨_, State.run_eq (msixMaskEffect_eq s.dev op), ?_⟩
    simp only [Dev.wired_que]
    refine ⟨fun v hv => Dev.masked_of_mem_flushMsix _ hv, ?_⟩
    rw [Dev.flushMsix_que]
    refine ⟨?vector, ?function, ?entry⟩
    case vector => rintro v m rfl; exact s.dev.mem_masked_maskWritten v m
    case function => rintro m rfl; rfl
    case entry => rintro v a x rfl; exact ⟨Sparse.get_set_same _ _ _ _, Sparse.get_set_same _ _ _ _⟩
end
